-- ==== Sys2Proof/Word.lean ====
section
/-!
DEFINITION. Sys2Proof/Word.lean: the words of the block and their plainest arithmetic (spec/00_scope.md R4, R5, R6).
-/
namespace Sys2Proof

/-- One byte. -/
abbrev Byte := BitVec 8

/-- One 32-bit register (00_scope R6). -/
abbrev Word := BitVec 32

/-- One 64-bit quantity: two registers, low half first (00_scope R8). -/
abbrev DWord := BitVec 64

end Sys2Proof
end

