-- ==== Sys2Proof/Syntax.lean ====
section
/-!
DEFINITION. Sys2Proof/Syntax.lean: the commands of the block, one constructor per row of spec/opcode_table.json, and the
records that their operands use. Every command carries the device time `t` at which it reaches the block, in units of
2^-16 ns (00_scope R3, 01_architecture R28).
-/
namespace Sys2Proof

/-- A host command as firmware takes it from CQ0 or CQ1 (14_host_interface R449): the header of its slot, its 64-byte
descriptor, and the bytes that the device's own reads of host memory return while it is processed. -/
structure HostCmd where
  /-- Device time at which firmware takes the command. -/
  t : Nat
  /-- 0 CQ0, 1 CQ1. -/
  ring : Nat
  /-- Header byte 1. -/
  flags : Nat
  /-- Header bytes 2–3. -/
  tag : Nat
  /-- Header bytes 4–5. -/
  tmo : Nat
  /-- Header bytes 6–7, reserved. -/
  rsvd : Nat
  /-- The 64 bytes of the descriptor; bytes past the list's end are 0. -/
  desc : List Byte
  /-- What a read of host memory at ADDR returns. -/
  data : List Byte
  /-- What a read of host memory at TADDR returns. -/
  tbl : List Byte
  deriving DecidableEq, Repr

/-- The kinds of host-side reset of 14_host_interface R438. -/
inductive HostReset where
  | flr | hotReset | perst | linkLoss
  deriving DecidableEq, Repr

/-- What starts the data plane (18_power_modes R602, R605, R608). -/
inductive StartCause where
  /-- A MODE_SET accepted in start-up. -/
  | modeSet
  /-- A start-render trigger. -/
  | trigger
  /-- AUTO_START: reference lock, or START_TMO after FW_READY. -/
  | auto
  /-- The resume after a wake event. -/
  | wake
  deriving DecidableEq, Repr

/-- What the always-on domain finds as it starts (18_power_modes R591, 17_ledger_recorder R547): which feeds are within
range, and the two flash devices. -/
structure AonStart where
  feedA : Bool
  feedB : Bool
  /-- JEDEC manufacturer IDs of FA and FB. -/
  mfrA : Nat
  mfrB : Nat
  /-- log2 of the density in bits; 0 for an absent device. -/
  densityA : Nat
  densityB : Nat
  /-- Whether each device meets the list of R547. -/
  fitA : Bool
  fitB : Bool
  /-- REFCLK meets R655 within 5 ms of the feed's entering its range (21_electrical R656). -/
  refOk : Bool
  deriving DecidableEq, Repr

/-- What a mount finds that the model's typed ledger does not compute (17_ledger_recorder R556). -/
structure MountFound where
  torn : Nat
  marginal : Nat
  /-- Channel FA, or FB, is erased or holds no valid boot record (R550). -/
  blankA : Bool
  blankB : Bool
  deriving DecidableEq, Repr

/-- One regulator's answer to the 10 ms poll (18_power_modes R588): none when the transaction failed. -/
structure RegRead where
  ok : Bool
  vout : Nat
  iout : Nat
  temp : Int
  deriving DecidableEq, Repr

/-- How a mirrored flash operation ended on each channel (17_ledger_recorder R548, R550, R554, R558). -/
structure FlashResult where
  okA : Bool
  okB : Bool
  /-- The bytes read back equal on both channels in use. -/
  verified : Bool
  deriving DecidableEq, Repr

/-- Why a reference became invalid (13_time R412, R417). -/
inductive RefReason where
  | stopped | glitched | rate | announce | master | servo
  deriving DecidableEq, Repr

/-- A memory error that a data-plane engine's read finds (19_register_map R627), by what the word holds. `dbl` tells a double-bit error;
`inst` and `word` are the memory instance and word of R626. -/
inductive EccPlace where
  /-- A delay-line word of the Loom: input and line slot (05_loom_crosspoints R159). -/
  | loomLine (input slot : Nat)
  /-- A crosspoint state entry (R160). -/
  | loomXp (entry : Nat)
  /-- A Reed coefficient word: bank (0 A, 1 B), output and word of 8 bytes; a word of an output's alignment line, head history or input spectra
  (06_reed R204). -/
  | reedCoef (bank output word : Nat)
  | reedLine (output word : Nat)
  | reedHist (output word : Nat)
  | reedSpectrum (output word : Nat)
  /-- A route entry, and whether its stored copy is lost too (07_heddle R245); a source sample, a filter history (R246). -/
  | route (index : Nat) (copyLost : Bool)
  | source (code sample : Nat)
  | filterHist (code : Nat)
  /-- A filter-chain coefficient word and a history of a microphone or resampler channel (08_filter_chain R276). -/
  | fchCoef (word : Nat)
  | fchHist (code : Nat)
  /-- A checkpoint slot of the logical core: 2 × instance + slot (09_batten_cores R303). -/
  | slot (k : Nat)
  /-- Any other word. -/
  | other
  deriving DecidableEq, Repr

structure EccError where
  dbl : Bool
  inst : Nat
  word : Nat
  place : EccPlace
  deriving DecidableEq, Repr

/-- What a channel serving an HAQ ring finds at a capture-pick start (14_host_interface R460): the ring's number 0–15, its head
descriptor, the bytes that the read of host memory returned, and whether they arrived in time. -/
structure HaqRead where
  ring : Nat
  desc : List Byte
  data : List Byte
  arrived : Bool
  deriving DecidableEq, Repr

/-- A state frame (16_twin R518): objects as OBJ_QUERY entries, versions as set code, identifier and pick, output CRCs by block,
Batten CRCs and checkpoints by 16 × logical core + instance. -/
structure StateFrame where
  pick : Nat
  claim : Nat
  objects : List (List Byte)
  versions : List (Nat × Nat × Nat)
  outCrcs : List Nat
  batCrcs : List (Nat × Nat)
  ckpts : List (Nat × List Nat)
  deriving DecidableEq, Repr

/-- A heartbeat frame (16_twin R517). -/
structure Heartbeat where
  claim : Nat
  mode : Nat
  rate96 : Bool
  pickLen : Nat
  done : Nat
  ready : Bool
  /-- Render pick of a handover request. -/
  handover : Option Nat
  /-- The sender listens (R541). -/
  listens : Bool
  role : Nat
  asks : List Nat
  /-- Code 2 in the handover-request field: a reset request (18_power_modes R599). -/
  reset : Bool
  deriving DecidableEq, Repr

/-- A burst of a crossbar master (15_fabric R473): on-chip address, write or read, byte enables and data of a write, or the bytes that
host memory returns to a read, and how many bytes it spans. -/
structure Burst where
  master : Nat
  addr : Nat
  write : Bool
  len : Nat
  enables : List Bool
  data : List Byte
  deriving DecidableEq, Repr

/-- A burst that a reset cuts (R479): the beats that the target had accepted. -/
structure CutBurst where
  burst : Burst
  accepted : Nat
  deriving DecidableEq, Repr

/-- Blocks that firmware resets (18_power_modes R596). -/
inductive Block where
  /-- Control core k, a master of the crossbar; the management processor; the Bobbin engine; the Selvedge state engine. -/
  | controlCore (k : Nat)
  | manager
  | bobbin
  | selvedge
  | loom
  | reed
  | heddle
  | filterChain
  /-- The Batten cores that one cluster port serves. -/
  | battenCluster (k : Nat)
  | ports
  | media
  | shuttle
  /-- The target with the mailboxes and semaphores, and the crossbar itself. -/
  | mailboxes
  | crossbar
  deriving DecidableEq, Repr

/-- One subframe of an AES3 frame as its receiver sees it (11_audio_ports R352–R358). -/
structure Subframe where
  word : Nat
  v : Bool
  u : Bool
  c : Bool
  /-- A Z preamble, a parity error, a biphase violation, and whether a valid preamble was found. -/
  z : Bool
  parity : Bool
  violation : Bool
  pre : Bool
  /-- The device time at which it ended. -/
  at_ : Nat
  deriving DecidableEq, Repr

/-- One command of the block. -/
inductive Instr where

  /-- SYS_NOP (R456): Command that completes with OK and reports the render pick at its acceptance. -/
  | sysNop (c : HostCmd)
  /-- SYS_INFO (R456): Command that writes the 64-byte identity and state report to host memory. -/
  | sysInfo (c : HostCmd)
  /-- MODE_SET (R605): Command that requests a mode transition at a named render pick. -/
  | modeSet (c : HostCmd)
  /-- MODE_QUERY (R616): Command that completes with TRD_MODE and TRD_RESET in its result words. -/
  | modeQuery (c : HostCmd)
  /-- RATE_SET (R617): Command that sets the pending render rate and pick length, which apply at the next start on leaving Dormant. -/
  | rateSet (c : HostCmd)
  /-- CMD_ABORT (R456): Command that aborts a target command that has been read but not yet accepted. -/
  | cmdAbort (c : HostCmd)
  /-- COMMAND_RESERVED_OPCODE (R454): A command with a reserved opcode or a reserved header bit set completes with BAD_PARAM. -/
  | commandReservedOpcode (c : HostCmd) (opcode : Nat)
  /-- BUDGET_QUERY (R65): Command that writes the 128-byte budget report to host memory. -/
  | budgetQuery (c : HostCmd)
  /-- BUDGET_SET (R65): Command that sets the slack target and the crossfade allowance after admission. -/
  | budgetSet (c : HostCmd)
  /-- BUDGET_RESTORE (R61): Command that reinstates shedding steps 1 to 3 after admission. -/
  | budgetRestore (c : HostCmd)
  /-- OBJ_QUERY (R96): Command that writes the applied-state report of a range of objects to host memory. -/
  | objQuery (c : HostCmd)
  /-- OBJ_GLIDE (R90): Command that sets the glide limit of a range of objects at a named render pick. -/
  | objGlide (c : HostCmd)
  /-- OBJ_RESET (R95): Command that returns a range of objects to their reset state at a named render pick. -/
  | objReset (c : HostCmd)
  /-- OBJ_FLUSH (R95): Command that removes pending updates of a range of objects from the pending store. -/
  | objFlush (c : HostCmd)
  /-- LAYOUT_LOAD (R101): Command that reads a layout image, checks it and commits it as the inactive copy. -/
  | layoutLoad (c : HostCmd)
  /-- LAYOUT_SWAP (R133): Command that swaps the inactive layout in at a named render pick after admission. -/
  | layoutSwap (c : HostCmd)
  /-- LAYOUT_QUERY (R131): Command that writes the active layout image to host memory. -/
  | layoutQuery (c : HostCmd)
  /-- SOUND_SPEED_SET (R127): Command that sets the speed of sound at a named render pick. -/
  | soundSpeedSet (c : HostCmd)
  /-- GEOM_PROBE (R134): Command that writes the gains and delays a given object state would receive under the active layout. -/
  | geomProbe (c : HostCmd)
  /-- LOOM_CEIL_SET (R141): Command that sets the crosspoint ceiling of a range of inputs at a named pick after admission. -/
  | loomCeilSet (c : HostCmd)
  /-- LOOM_CEIL_QUERY (R164): Command that writes the ceilings in force to host memory. -/
  | loomCeilQuery (c : HostCmd)
  /-- LOOM_XP_DUMP (R165): Command that writes crosspoint state entries taken at the end of one render pick to host memory. -/
  | loomXpDump (c : HostCmd)
  /-- REED_OUT_CFG (R668): Command that applies output configuration records at a named render pick. -/
  | reedOutCfg (c : HostCmd)
  /-- REED_BANK_LOAD (R182): Command that reads, checks and commits a coefficient bank image as the inactive bank. -/
  | reedBankLoad (c : HostCmd)
  /-- REED_BANK_COPY (R183): Command that copies the active Reed bank into the inactive bank. -/
  | reedBankCopy (c : HostCmd)
  /-- REED_OUT_LOAD (R183): Command that replaces one output's entry in the committed inactive bank. -/
  | reedOutLoad (c : HostCmd)
  /-- REED_BANK_SWAP (R191): Command that swaps the Reed banks, abruptly or crossfaded, at a named render pick. -/
  | reedBankSwap (c : HostCmd)
  /-- REED_BANK_QUERY (R208): Command that writes the directory of the active bank to host memory. -/
  | reedBankQuery (c : HostCmd)
  /-- REED_MEAS_RUN (R197): Command that starts a measurement run. -/
  | reedMeasRun (c : HostCmd)
  /-- REED_MEAS_ABORT (R201): Command that aborts the measurement run and frees its workspace. -/
  | reedMeasAbort (c : HostCmd)
  /-- ROUTE_LOAD (R227): Command that reads, checks and commits a route-set image as the inactive copy. -/
  | routeLoad (c : HostCmd)
  /-- ROUTE_SWAP (R229): Command that swaps the inactive route set in at a named render pick after admission. -/
  | routeSwap (c : HostCmd)
  /-- ROUTE_QUERY (R249): Command that writes the active route set to host memory. -/
  | routeQuery (c : HostCmd)
  /-- INFILT_SET (R214): Command that sets the high-pass of a range of sources at a named render pick. -/
  | infiltSet (c : HostCmd)
  /-- ROUTE_ABORT (R251): Command that cancels a pending route swap and empties the inactive copy. -/
  | routeAbort (c : HostCmd)
  /-- FCH_PDM_SET (R283): Command that sets PDM lines, clock, skew compensation and output modes at a named pick. -/
  | fchPdmSet (c : HostCmd)
  /-- FCH_RS_SET (R260): Command that applies resampler records at a named render pick. -/
  | fchRsSet (c : HostCmd)
  /-- FCH_BANK_LOAD (R267): Command that reads, checks and commits a filter-chain bank as the inactive bank. -/
  | fchBankLoad (c : HostCmd)
  /-- FCH_BANK_SWAP (R269): Command that swaps the filter-chain banks at the next render-rate sample instant. -/
  | fchBankSwap (c : HostCmd)
  /-- FCH_BANK_QUERY (R282): Command that writes the active filter-chain bank image to host memory. -/
  | fchBankQuery (c : HostCmd)
  /-- FCH_SYNC_RESET (R270): Command that performs a synchronising reset of the filter chain. -/
  | fchSyncReset (c : HostCmd)
  /-- FCH_STIM_SET (R274): Command that configures the measurement stimulus. -/
  | fchStimSet (c : HostCmd)
  /-- BAT_LOAD (R306): Command that loads a program image and instance table onto a logical core or held spare. -/
  | batLoad (c : HostCmd)
  /-- BAT_START (R307): Command that starts or replaces a program at a named render pick after admission. -/
  | batStart (c : HostCmd)
  /-- BAT_STOP (R308): Command that stops a program at a named render pick. -/
  | batStop (c : HostCmd)
  /-- BAT_QUERY (R313): Command that writes a report per logical core to host memory. -/
  | batQuery (c : HostCmd)
  /-- BAT_CKPT_READ (R313): Command that writes the newest valid checkpoint of one instance to host memory. -/
  | batCkptRead (c : HostCmd)
  /-- AES_CFG (R371): Command that applies AES3 port records at a named render pick. -/
  | aesCfg (c : HostCmd)
  /-- TDM_CFG (R371): Command that applies TDM port records at a named render pick. -/
  | tdmCfg (c : HostCmd)
  /-- GROUP_SET (R370): Command that arms or disarms an alignment group's start and stop triggers. -/
  | groupSet (c : HostCmd)
  /-- AES_CS_SET (R360): Command that sets a transmitter's channel-status block from the next Z preamble. -/
  | aesCsSet (c : HostCmd)
  /-- AES_USER_SET (R360): Command that sets a transmitter's user buffer from the next Z preamble. -/
  | aesUserSet (c : HostCmd)
  /-- AES_USER_GET (R356): Command that writes a receiver's latest user blocks to host memory. -/
  | aesUserGet (c : HostCmd)
  /-- MAC_CFG (R376): Command that applies media port records at a named render pick, restarting ports that change. -/
  | macCfg (c : HostCmd)
  /-- GATE_LOAD (R380): Command that loads a port's gate list into the inactive copy. -/
  | gateLoad (c : HostCmd)
  /-- GATE_SWAP (R382): Command that puts the inactive gate list into use at its first cycle start at or after a named pick. -/
  | gateSwap (c : HostCmd)
  /-- STRM_SET (R393): Command that applies stream records at a named render pick after admission. -/
  | strmSet (c : HostCmd)
  /-- STRM_QUERY (R404): Command that writes the status entries of all streams to host memory. -/
  | strmQuery (c : HostCmd)
  /-- MG_CFG (R404): Command that applies the management MAC record. -/
  | mgCfg (c : HostCmd)
  /-- WAKE_SET (R400): Command that loads the 16 wake patterns of the management MAC. -/
  | wakeSet (c : HostCmd)
  /-- MCAST_SET (R404): Command that loads the multicast table of the management MAC. -/
  | mcastSet (c : HostCmd)
  /-- TIME_CFG (R433): Command that sets PTP profile, role, ports and reference priorities. -/
  | timeCfg (c : HostCmd)
  /-- TIME_QUERY (R432): Command that writes the time status report to host memory. -/
  | timeQuery (c : HostCmd)
  /-- TIME_SET (R407): Command that steps device time while the data plane is not running. -/
  | timeSet (c : HostCmd)
  /-- TRIG_ARM (R433): Command that arms or re-arms a time trigger. -/
  | trigArm (c : HostCmd)
  /-- TRIG_DISARM (R429): Command that disarms a time trigger unless it has already fired. -/
  | trigDisarm (c : HostCmd)
  /-- TIME_CORR_SET (R432): Command that sets the board timestamp corrections of one port. -/
  | timeCorrSet (c : HostCmd)
  /-- TWIN_CFG (R512): Command that enables twin operation and sets ranks, output mode and fill. -/
  | twinCfg (c : HostCmd)
  /-- TWIN_QUERY (R545): Command that writes the twin report to host memory. -/
  | twinQuery (c : HostCmd)
  /-- TWIN_ROLE_SWAP (R540): Command that hands the lead to the shadow at a named render pick. -/
  | twinRoleSwap (c : HostCmd)
  /-- CLAIM_QUERY (R545): Command that writes one entry per claim group to host memory. -/
  | claimQuery (c : HostCmd)
  /-- TWIN_RESYNC (R545): Command that marks every Batten instance for resync and restarts the drift count. -/
  | twinResync (c : HostCmd)
  /-- LDG_QUERY (R582): Command that writes the ledger report to host memory. -/
  | ldgQuery (c : HostCmd)
  /-- LDG_SET_SAVE (R565): Command that saves a named set of active items to the ledger, or deletes it. -/
  | ldgSetSave (c : HostCmd)
  /-- LDG_SET_RECALL (R564): Command that loads the items of a saved set into the inactive copies. -/
  | ldgSetRecall (c : HostCmd)
  /-- LDG_SET_LIST (R582): Command that writes the close-record payload of every set to host memory. -/
  | ldgSetList (c : HostCmd)
  /-- LDG_RECORD_WRITE (R554): Command that appends a host record to the configuration journal. -/
  | ldgRecordWrite (c : HostCmd)
  /-- LDG_RECORD_READ (R583): Command that writes the current payload of a host key to host memory. -/
  | ldgRecordRead (c : HostCmd)
  /-- LDG_ERASE (R579): Command that erases a ledger region under an authorisation token. -/
  | ldgErase (c : HostCmd)
  /-- LDG_COUNTERS (R582): Command that writes the lifetime counters payload to host memory. -/
  | ldgCounters (c : HostCmd)
  /-- EVR_READ (R583): Command that writes recorder records held in RAM to host memory. -/
  | evrRead (c : HostCmd)
  /-- EVR_CLEAR (R579): Command that archives and then clears the recorder under an authorisation token. -/
  | evrClear (c : HostCmd)
  /-- EVR_ARCHIVE (R582): Command that archives every closed record at once. -/
  | evrArchive (c : HostCmd)
  /-- EVR_ARCHIVE_READ (R583): Command that writes archived records to host memory. -/
  | evrArchiveRead (c : HostCmd)
  /-- BOB_QUERY (R509): Command that writes one status entry per Bobbin channel to host memory. -/
  | bobQuery (c : HostCmd)
  /-- TRACE_SET (R506): Command that enables or disables the Shuttle trace and selects kinds and levels. -/
  | traceSet (c : HostCmd)
  /-- XBR_CFG (R510): Command that sets park masters and stores the latch bitmap for the next core-domain start. -/
  | xbrCfg (c : HostCmd)
  /-- PWR_QUERY (R616): Command that writes the power report to host memory. -/
  | pwrQuery (c : HostCmd)
  /-- RAIL_CFG (R617): Command that loads the rail table, applying IMAX at once and the rest at the next core-domain start. -/
  | railCfg (c : HostCmd)
  /-- THERM_SET (R593): Command that sets the THOT threshold. -/
  | thermSet (c : HostCmd)
  /-- AVS_SET (R590): Command that selects the voltage loop or a fixed core set point. -/
  | avsSet (c : HostCmd)
  /-- FW_WRITE (R610): Command that writes firmware image data to the slot that is not running. -/
  | fwWrite (c : HostCmd)
  /-- FW_VERIFY (R612): Command that checks the written firmware image. -/
  | fwVerify (c : HostCmd)
  /-- FW_ACTIVATE (R613): Command that names the written slot as trial and restarts the control plane. -/
  | fwActivate (c : HostCmd)
  /-- OBJECT_UPDATE_RECORD (R74): A record taken from an object ring is checked and mapped to its render pick. -/
  | objectUpdateRecord (t : Nat) (q : Nat) (rec : List Byte)
  /-- OBJECT_UPDATE_RELEASE (R81): A checked update is released to the Loom in ring order and written into the inactive object target set. -/
  | objectUpdateRelease (t : Nat) (q : Nat)
  /-- REGISTER_WRITE (R7): A write to a register that has no row of its own. -/
  | registerWrite (t : Nat) (m : Nat) (off : Nat) (v : Word)
  /-- REGISTER_LOW_HALF_READ (R8): A read of the low half of a 64-bit quantity latches its high half for the master. -/
  | registerLowHalfRead (t : Nat) (m : Nat) (off : Nat)
  /-- REGISTER_LOW_HALF_WRITE (R9): A write to the low half of a writable 64-bit quantity is held for the master. -/
  | registerLowHalfWrite (t : Nat) (m : Nat) (off : Nat) (v : Word)
  /-- REGISTER_HIGH_HALF_WRITE (R9): A write to the high half applies both halves together, or is discarded if no low half is held. -/
  | registerHighHalfWrite (t : Nat) (m : Nat) (off : Nat) (v : Word)
  /-- RC_FIELD_READ (R10): A read of a read-clear field returns its value and resets it. -/
  | rcFieldRead (t : Nat) (m : Nat) (off : Nat)
  /-- MAC_MG_WAKE_WRITE (R10): A write of ones clears the wake pattern hit bits. -/
  | macMgWakeWrite (t : Nat) (m : Nat) (v : Word)
  /-- SYS_SLACK_LAST_READ (R63): A read of SYS_SLACK_LAST latches the used and finish registers of the same pick. -/
  | sysSlackLastRead (t : Nat) (m : Nat)
  /-- LOOM_XP_SEL_WRITE (R163): A write selects a crosspoint entry for a snapshot and clears VALID. -/
  | loomXpSelWrite (t : Nat) (m : Nat) (v : Word)
  /-- REED_OUT_SEL_WRITE (R207): A write selects an output for a snapshot and clears VALID. -/
  | reedOutSelWrite (t : Nat) (m : Nat) (v : Word)
  /-- HED_SRC_SEL_WRITE (R248): A write selects a source for a snapshot and clears VALID. -/
  | hedSrcSelWrite (t : Nat) (m : Nat) (v : Word)
  /-- HED_ROUTE_SEL_WRITE (R248): A write selects a route table position for a snapshot and clears VALID. -/
  | hedRouteSelWrite (t : Nat) (m : Nat) (v : Word)
  /-- FCH_RS_SEL_WRITE (R281): A write selects a resampler channel for a snapshot and clears VALID. -/
  | fchRsSelWrite (t : Nat) (m : Nat) (v : Word)
  /-- AES_CS_SEL_WRITE (R369): A write selects a channel-status block for a snapshot and clears VALID. -/
  | aesCsSelWrite (t : Nat) (m : Nat) (v : Word)
  /-- MAC_STRM_SEL_WRITE (R403): A write selects a stream for a snapshot and clears VALID. -/
  | macStrmSelWrite (t : Nat) (m : Nat) (v : Word)
  /-- TIME_CAP_LO_READ (R431): A read of TIME_CAP_LO returns the capture and clears its VALID and OVER bits. -/
  | timeCapLoRead (t : Nat) (m : Nat) (k : Nat)
  /-- MBX_DATA_WRITE (R466): The host posts a notice to a host-to-device mailbox, or the write is dropped if the mailbox is full. -/
  | mbxDataWrite (t : Nat) (k : Nat) (hi : Bool) (v : Word)
  /-- MBX_DATA_READ (R468): A read of a device-to-host mailbox latches and then removes its oldest notice. -/
  | mbxDataRead (t : Nat) (k : Nat) (hi : Bool)
  /-- HOST_NOTICE_SERVICE (R465): A receiver reads a host notice, checks its epoch and serves HOST_ALIVE or ECHO. -/
  | hostNoticeService (t : Nat) (k : Nat) (msg : List Byte)
  /-- HIF_RING_CFG_WRITE (R443): A write that enables or disables a ring, checking DEPTH and base. -/
  | hifRingCfgWrite (t : Nat) (m : Nat) (q : Nat) (v : Word)
  /-- DOORBELL_WRITE (R445): A write to a BAR4 doorbell sets a ring's tail or head, stamped with device time. -/
  | doorbellWrite (t : Nat) (off : Nat) (width : Nat) (v : Word)
  /-- BAR0_BAD_ACCESS (R436): A BAR0 access that is not one aligned 32-bit access completes as Unsupported Request. -/
  | bar0BadAccess (t : Nat) (off : Nat) (width : Nat)
  /-- BAR2_WRITE (R437): A BAR2 write is performed in Maintain and discarded in any other mode. -/
  | bar2Write (t : Nat) (off : Nat) (bytes : List Byte)
  /-- BOB_DB_WRITE (R499): A doorbell to a Bobbin channel starts it, re-reads a parked chain word, or sets PEND. -/
  | bobDbWrite (t : Nat) (m : Nat) (ch : Nat) (v : Word) (cfg : Option (Word × Word))
  /-- BOB_DESC_COMPLETE (R497): A Bobbin descriptor completes, and the channel follows its chain word or parks. -/
  | bobDescComplete (t : Nat) (ch : Nat) (data : List Byte) (poison : List Nat)
  /-- SEMAPHORE_READ (R482): A read of a lock acquires it if free or returns the owner. -/
  | semaphoreRead (t : Nat) (m : Nat) (k : Nat)
  /-- SEMAPHORE_WRITE (R482): A write releases a lock if written by its owner with its ID. -/
  | semaphoreWrite (t : Nat) (m : Nat) (k : Nat) (v : Word)
  /-- ONCHIP_MAILBOX_POST (R485): An on-chip master posts a notice to an on-chip mailbox, refused if full. -/
  | onchipMailboxPost (t : Nat) (m : Nat) (k : Nat) (v : DWord)
  /-- ONCHIP_MAILBOX_READ (R485): A receiver reads and removes the oldest notice of an on-chip mailbox. -/
  | onchipMailboxRead (t : Nat) (m : Nat) (k : Nat)
  /-- MEM_INJ_WRITE (R628): A write to MEM_INJ arms an ECC error injection. -/
  | memInjWrite (t : Nat) (m : Nat) (v : Word)
  /-- XBR_LATCH_WRITE (R620): A management-processor write of a latch register, locked after the first write. -/
  | xbrLatchWrite (t : Nat) (m : Nat) (k : Nat) (v : Word)
  /-- CROSSBAR_TRANSFER (R473): A master's burst is arbitrated and carried to its target. -/
  | crossbarTransfer (t : Nat) (bursts : List Burst)
  /-- AON_POWER_ON (R657): The always-on supply enters its range and the always-on domain leaves power-on reset. -/
  | aonPowerOn (t : Nat) (feeds : AonStart)
  /-- RESET_N_ASSERT (R596): RESET_N held low resets the whole device except kept state. -/
  | resetNAssert (t : Nat)
  /-- RESET_N_RELEASE (R597): RESET_N rises and the core domain is released or resequenced. -/
  | resetNRelease (t : Nat) (good : Nat)
  /-- VAON_FEED_LOSS (R591): An always-on feed below range for 10 µs is declared lost. -/
  | vaonFeedLoss (t : Nat) (b : Bool)
  /-- VAON_FEED_RESTORE (R591): An always-on feed back in range for 10 ms is restored. -/
  | vaonFeedRestore (t : Nat) (b : Bool)
  /-- PFAIL_FALL (R592): PFAIL_N low for 2 µs starts the power-fail flush. -/
  | pfailFall (t : Nat)
  /-- PFAIL_RISE (R576): PFAIL_N rises again; a running flush completes and operation continues. -/
  | pfailRise (t : Nat)
  /-- FLUSH_COMPLETE (R575): The power-fail flush ends and its event is posted. -/
  | flushComplete (t : Nat)
  /-- RAIL_ENABLE_DELAY (R585): After a rail's power-good has been high for its delay, the next rail is enabled. -/
  | railEnableDelay (t : Nat) (k : Nat)
  /-- RAIL_TIMEOUT (R586): A rail not good within its timeout causes a rail fault and power-down. -/
  | railTimeout (t : Nat) (k : Nat)
  /-- RAIL_RETRY (R586): One second after a rail fault, the sequence is retried. -/
  | railRetry (t : Nat)
  /-- PWR_GOOD_FALL (R587): A power-good falling while the core runs causes a core-domain reset and power-down. -/
  | pwrGoodFall (t : Nat) (k : Nat)
  /-- RAIL_RESTART (R587): The rail sequence restarts 100 ms after a power-good fall. -/
  | railRestart (t : Nat)
  /-- CORE_DOMAIN_RELEASE (R585): The core domain leaves reset once the last rail has been good for 1 ms. -/
  | coreDomainRelease (t : Nat) (straps : List Nat)
  /-- FW_READY_RISE (R613): The control plane finishes starting; the mode changes and held commands are accepted. -/
  | fwReadyRise (t : Nat)
  /-- CONTROL_PLANE_STOP (R605): Once accepted commands have completed, the control plane stops for Maintain. -/
  | controlPlaneStop (t : Nat)
  /-- TRIAL_CONFIRM (R569): After 60 s of FW_READY, the trial image is confirmed as active. -/
  | trialConfirm (t : Nat)
  /-- TRIAL_FAIL (R614): A trial image that loses FW_READY or stalls causes a restart into the active slot. -/
  | trialFail (t : Nat)
  /-- HOST_SIDE_RESET (R438): FLR, hot reset, PE_PERST_N assertion or link loss resets host-facing state. -/
  | hostSideReset (t : Nat) (kind : HostReset)
  /-- PCIE_LINK_RETURN (R438): The PCIe link returns after a loss and the event is posted. -/
  | pcieLinkReturn (t : Nat) (width : Nat) (speed : Nat)
  /-- D3HOT_ENTRY (R440): The function enters D3hot and stops every ring. -/
  | d3hotEntry (t : Nat)
  /-- D3HOT_EXIT (R440): A move from D3hot to D0 resets host-facing state. -/
  | d3hotExit (t : Nat)
  /-- DORMANT_ENTRY_COMPLETE (R607): At the end of lead-out the data plane stops, rails fall and the link goes to L2. -/
  | dormantEntryComplete (t : Nat)
  /-- WAKE_EVENT (R608): A wake event raises the rails, resumes the control plane and starts the data plane. -/
  | wakeEvent (t : Nat) (cause : Nat)
  /-- DATA_PLANE_START (R602): The data plane starts at a render pick after MODE_SET, a start-render trigger or automatic start. -/
  | dataPlaneStart (t : Nat) (why : StartCause) (haq : List HaqRead)
  /-- MODE_TRANSITION_END (R606): A mode transition ends and a held MODE_SET proceeds. -/
  | modeTransitionEnd (t : Nat)
  /-- TEMP_SAMPLE (R593): Every 1 ms the junction sensors are read and the thermal limits applied. -/
  | tempSample (t : Nat) (temps : List Int)
  /-- THERMAL_SHED (R593): Each second at or above 105 °C takes the next shedding step. -/
  | thermalShed (t : Nat)
  /-- THERMAL_HOLD_END (R594): After 10 s below 95 °C, the device leaves Dormant into the mode held at the trip. -/
  | thermalHoldEnd (t : Nat)
  /-- PMBUS_POLL (R588): Every 10 ms the regulators' voltage, current and temperature are read. -/
  | pmbusPoll (t : Nat) (reads : List RegRead)
  /-- REGULATOR_FAIL (R588): A regulator that fails three consecutive transactions is reported. -/
  | regulatorFail (t : Nat) (k : Nat)
  /-- OVERCURRENT_SHED (R595): Core current above IMAX in three reads takes a shedding step. -/
  | overcurrentShed (t : Nat)
  /-- PICK_START_MARK (R42): The pick-start mark starts a render pick and is the deadline of the one before. -/
  | pickStartMark (t : Nat) (haq : List HaqRead)
  /-- ENGINE_BLOCK_START (R40): An engine starts work on a block as soon as its producer marks it complete. -/
  | engineBlockStart (t : Nat) (e : Nat) (pdm : List (List Nat)) (errs : List EccError)
  /-- ZC_DEADLINE (R235): A zero-crossing change that found no crossing steps at its deadline. -/
  | zcDeadline (t : Nat) (idx : Nat)
  /-- ENGINE_FINISH (R26): An engine finishes a pick and posts its slack report. -/
  | engineFinish (t : Nat) (e : Nat) (steps : Nat)
  /-- AVS_WINDOW (R53): After each 16 picks, the voltage loop raises, lowers or keeps VDD_CORE. -/
  | avsWindow (t : Nat)
  /-- VCORE_HOLD_EXPIRY (R58): After 1 s without overrun, the voltage loop resumes from 0.80 V. -/
  | vcoreHoldExpiry (t : Nat)
  /-- SHEDDING_STEP (R59): A third overrun within 1 s takes the next shedding step. -/
  | sheddingStep (t : Nat)
  /-- BATTEN_INSTANCE_ENTRY (R289): A core enters an instance once the input pass or the previous checkpoint is complete. -/
  | battenInstanceEntry (t : Nat) (l : Nat) (errs : List EccError)
  /-- BATTEN_STEP (R316): A Batten core executes one instruction word in one step. -/
  | battenStep (t : Nat) (l : Nat) (errs : List EccError)
  /-- CHECKPOINT_DONE (R299): A checkpoint copy finishes and its slot tag is written. -/
  | checkpointDone (t : Nat) (l : Nat) (errs : List EccError)
  /-- BATTEN_SPARE_MOVE (R302): The management processor moves a faulted logical core to a spare. -/
  | battenSpareMove (t : Nat) (l : Nat) (errs : List EccError)
  /-- IMAGE_LOAD_COMMIT (R666): A parameter-set load commits its inactive copy and a waiting swap proceeds. -/
  | imageLoadCommit (t : Nat) (set : Nat)
  /-- MEAS_CAPTURE_END (R199): A measurement capture of L samples ends and deconvolution begins. -/
  | measCaptureEnd (t : Nat)
  /-- MEAS_RUN_COMPLETE (R199): Deconvolution ends and the last impulse response is written. -/
  | measRunComplete (t : Nat)
  /-- STIMULUS_END (R275): After SLEN samples the stimulus outputs return to exact zero. -/
  | stimulusEnd (t : Nat)
  /-- FCH_SETTLE_END (R272): Settling after a synchronising reset ends and the settle bits clear. -/
  | fchSettleEnd (t : Nat)
  /-- PDM_STUCK (R255): A microphone stream constant for 4,096 clocks is muted. -/
  | pdmStuck (t : Nat) (mic : Nat)
  /-- PDM_UNSTUCK (R255): A stuck stream that changes again restarts its output. -/
  | pdmUnstuck (t : Nat) (mic : Nat)
  /-- TRIGGER_FIRE (R424): An armed time trigger fires and performs its action. -/
  | triggerFire (t : Nat) (k : Nat)
  /-- GROUP_FIRST_REAL_FRAME (R365): At the first real frame every group member carries audio. -/
  | groupFirstRealFrame (t : Nat) (g : Nat)
  /-- TRIG_EDGE_CAPTURE (R426): A selected TRIG edge stores its device time in TIME_CAP. -/
  | trigEdgeCapture (t : Nat) (pin : Nat) (falling : Bool)
  /-- PPS_IN_EDGE (R416): A PPS_IN rising edge sets the phase of device time. -/
  | ppsInEdge (t : Nat)
  /-- REF_INVALID (R417): A reference found stopped, glitched or at changed rate is marked invalid. -/
  | refInvalid (t : Nat) (r : Nat) (reason : RefReason)
  /-- REF_VALID (R417): A reference free of faults for its qualifying time becomes valid. -/
  | refValid (t : Nat) (r : Nat) (offset : Int)
  /-- FREQ_CHECKPOINT (R419): Each whole second of lock, the mean frequency is checkpointed. -/
  | freqCheckpoint (t : Nat) (mean : Int)
  /-- PTP_MESSAGE_RX (R412): A PTP message is received, stamped and processed by the servo. -/
  | ptpMessageRx (t : Nat) (port : Nat) (stamp : Nat) (msg : List Byte)
  /-- PTP_ANNOUNCE_TIMEOUT (R412): The announce receipt timeout expires and the PTP reference becomes invalid. -/
  | ptpAnnounceTimeout (t : Nat)
  /-- PTP_PORT_RETURN (R409): After 10 s of link on PTP_PORT, the PTP port moves back. -/
  | ptpPortReturn (t : Nat)
  /-- PORT_INPUT_FRAME (R349): An input port frame completes and is delivered, discarded or slipped. -/
  | portInputFrame (t : Nat) (p : Nat) (slots : List Nat) (subs : List Subframe)
  /-- AES_RX_LOCK (R352): A receiver locks after 1,536 valid frames within 50 ppm. -/
  | aesRxLock (t : Nat) (p : Nat)
  /-- AES_RX_UNLOCK (R353): A receiver unlocks on missing preambles, violations or rate error. -/
  | aesRxUnlock (t : Nat) (p : Nat)
  /-- AES_NONAUDIO_UNMUTE (R357): After 8,192 clean frames a non-audio mute ends. -/
  | aesNonaudioUnmute (t : Nat) (p : Nat)
  /-- PORT_OUTPUT_FRAME (R350): An output port loads its frame's sample or underruns. -/
  | portOutputFrame (t : Nat) (p : Nat)
  /-- AES_TX_LEAD_END (R361): After 192 × ZB frames a transmitter leaves lead-in or lead-out. -/
  | aesTxLeadEnd (t : Nat) (q : Nat)
  /-- TDM_SLAVE_UNRELATED (R347): A slave direction found unrelated to its clock reads or sends zero. -/
  | tdmSlaveUnrelated (t : Nat) (p : Nat) (dir : Nat)
  /-- TDM_SLAVE_RESUME (R348): After 1 s clean, an unrelated slave direction resumes. -/
  | tdmSlaveResume (t : Nat) (p : Nat) (dir : Nat)
  /-- MEDIA_FRAME_RX (R372): A media MAC sorts, filters and passes a received frame to its consumer. -/
  | mediaFrameRx (t : Nat) (p : Nat) (f : List Byte)
  /-- RTP_PACKET_RX (R390): A stream packet is checked, placed in the buffer or discarded. -/
  | rtpPacketRx (t : Nat)
  /-- STREAM_CLAIM_EXPIRY (R534): A stream silent for 4 picks loses its claim eligibility. -/
  | streamClaimExpiry (t : Nat) (k : Nat)
  /-- MEDIA_LINK_DOWN (R379): Block lock lost for 1 ms takes the media link down. -/
  | mediaLinkDown (t : Nat) (p : Nat)
  /-- MEDIA_LINK_UP (R379): Block lock held for 10 ms brings the media link up. -/
  | mediaLinkUp (t : Nat) (p : Nat)
  /-- GATE_ENTRY_CHANGE (R380): A gate-list entry begins and the gates open or close. -/
  | gateEntryChange (t : Nat) (p : Nat)
  /-- MEDIA_FRAME_TX_START (R381): A frame starts transmission within an open window, or is discarded. -/
  | mediaFrameTxStart (t : Nat) (p : Nat)
  /-- STREAM_TX_LATE (R389): A stream packet not started within one pick is discarded. -/
  | streamTxLate (t : Nat) (p : Nat)
  /-- MG_FRAME_RX (R395): The management MAC receives a frame into MQ0 or drops it. -/
  | mgFrameRx (t : Nat) (frame : Option (List Byte)) (descs : List (List Byte))
  /-- MG_FRAME_SENT (R461): A frame from MQ1 is sent and its descriptor written back. -/
  | mgFrameSent (t : Nat) (desc : List Byte) (data : List Byte)
  /-- MG_TRAFFIC_WINDOW (R396): At the end of each 1 s window, low traffic may lower the link speed. -/
  | mgTrafficWindow (t : Nat)
  /-- MG_AUTONEG_DONE (R398): A management link renegotiation ends and a held raise may start. -/
  | mgAutonegDone (t : Nat) (speed : Nat) (link : Bool) (partner1000 : Bool)
  /-- MG_LPI_ENTER (R399): MQ1 empty for LPI_IDLE enters low-power idle. -/
  | mgLpiEnter (t : Nat)
  /-- SELVEDGE_SEGMENT_RX (R515): A twin-link segment is received and checked. -/
  | selvedgeSegmentRx (t : Nat) (seq : Nat) (ok : Bool)
  /-- HEARTBEAT_FRAME_RX (R517): A heartbeat frame from the partner is received. -/
  | heartbeatFrameRx (t : Nat) (hb : Heartbeat)
  /-- STATE_FRAME_RX (R522): A complete state frame is adopted and its versions and CRCs compared. -/
  | stateFrameRx (t : Nat) (seq : Nat) (frame : StateFrame)
  /-- STATE_FRAME_MISSED (R519): A state frame not arrived by its deadline is missed. -/
  | stateFrameMissed (t : Nat) (p : Nat)
  /-- SELVEDGE_LANE_DOWN (R516): A lane without block lock for 1 ms is down. -/
  | selvedgeLaneDown (t : Nat) (lane : Nat)
  /-- SELVEDGE_LANE_UP (R516): A lane with block lock for 10 ms is up. -/
  | selvedgeLaneUp (t : Nat) (lane : Nat)
  /-- HB_IN_EDGE (R529): An HB_IN edge is received on the pin path. -/
  | hbInEdge (t : Nat)
  /-- HEARTBEAT_DUE (R528): At each 50 µs due instant the unit sends a heartbeat if picks are completing. -/
  | heartbeatDue (t : Nat)
  /-- HEARTBEAT_MISSING (R529): A heartbeat not received by t + 5 µs is missing, and three make a path lost. -/
  | heartbeatMissing (t : Nat) (path : Nat)
  /-- TWIN_LISTEN_END (R541): After 2 ms of listening the unit takes its role. -/
  | twinListenEnd (t : Nat) (peerStrap : Bool)
  /-- CLAIM_PEER_CHANGE (R537): CLAIM_PEER changes level. -/
  | claimPeerChange (t : Nat) (high : Bool)
  /-- CLAIM_OWN_RISE (R537): After CLAIM_PEER has been low for 2 µs, a lead raises CLAIM_OWN. -/
  | claimOwnRise (t : Nat)
  /-- CLAIM_CONFLICT (R537): Both claim pins high for 1 µs demotes the lower-ranked unit. -/
  | claimConflict (t : Nat)
  /-- SHUTTLE_POST (R500): A post enters its level queue or spill ring, or back-pressures the poster. -/
  | shuttlePost (t : Nat) (slot : Nat) (level : Nat) (mp : Bool) (flow : Option Nat) (arg : Nat)
  /-- SHUTTLE_THREAD_END (R505): A thread ends work on an entry, releasing it in order and freeing its executor. -/
  | shuttleThreadEnd (t : Nat) (ex : Nat)
  /-- SHUTTLE_PREEMPT_POINT (R503): A preemption takes effect at the running thread's preemption point. -/
  | shuttlePreemptPoint (t : Nat) (ex : Nat)
  /-- BLOCK_RESET (R596): Firmware resets one block, cutting its bursts and releasing its locks and mailboxes. -/
  | blockReset (t : Nat) (b : Block) (cuts : List CutBurst)
  /-- CONTROL_CORE_GATE (R490): A control core idle for 1 ms is power-gated. -/
  | controlCoreGate (t : Nat) (k : Nat)
  /-- EVENT_POST (R570): A block posts an event to the recorder. -/
  | eventPost (t : Nat) (code : Nat) (source : Nat) (args : List Byte)
  /-- RECORD_CLOSE_TIMER (R571): A record without repeat for 1 s closes. -/
  | recordCloseTimer (t : Nat)
  /-- RECORDER_FIFO_DRAIN (R572): A staged record is written into recorder RAM, with a lost-events record when needed. -/
  | recorderFifoDrain (t : Nat)
  /-- ARCHIVE_BATCH (R574): 16 closed records, or 1 s after the oldest closed, are archived as a batch. -/
  | archiveBatch (t : Nat)
  /-- FLASH_OP_COMPLETE (R548): A mirrored program or erase completes on both channels and is verified. -/
  | flashOpComplete (t : Nat) (res : FlashResult)
  /-- LEDGER_MOUNT_COMPLETE (R556): The background mount ends and waiting ledger commands proceed. -/
  | ledgerMountComplete (t : Nat) (found : MountFound)
  /-- LEDGER_REBUILD_COMPLETE (R550): The rebuild of the second channel ends and the ledger is no longer degraded. -/
  | ledgerRebuildComplete (t : Nat)
  /-- LEDGER_SCRUB (R562): Every 30 days the ledger scrubs all regions and relocates weak sectors. -/
  | ledgerScrub (t : Nat)
  /-- COUNTERS_SAVE (R566): Every 10 minutes the lifetime counters are written as a record. -/
  | countersSave (t : Nat)
  /-- NONCE_EXPIRY (R578): 60 s after first read, a new nonce replaces the old. -/
  | nonceExpiry (t : Nat)
  /-- AUTH_HOLD_END (R578): One second after a refused token, the refusal hold ends. -/
  | authHoldEnd (t : Nat)
  /-- CPL_IRQ_TIMER (R464): The oldest unsignalled completion reaching CPL_US signals vector 1. -/
  | cplIrqTimer (t : Nat)
  /-- HOST_WDOG_EXPIRY (R469): No HOST_ALIVE within the watchdog period sets EXPIRED. -/
  | hostWdogExpiry (t : Nat)
  /-- SYNC_INTERVAL (R411): At each Sync and Announce interval of its profile, the PTP port sends its periodic messages: two-step Sync and Announce while master, and the end-to-end delay requests of the slave role. -/
  | syncInterval (t : Nat)
  /-- CONTROL_STALL (R36): The management processor finds the control plane stalled and posts the control-stall event. -/
  | controlStall (t : Nat)
  deriving DecidableEq, Repr

end Sys2Proof
end

