-- ==== Sys2Proof/Decode.lean ====
section
/-!
DEFINITION. Sys2Proof/Decode.lean: the commands that words spell. spec/opcode_table.json gives no row any bits: a command reaches
this block as a bus access, a ring slot, a frame, a pin or a moment of time, with the operands of Syntax.lean, and no word spells one.
-/
namespace Sys2Proof

/-- The command that a word of `nbits` bits spells by the opcode table: none, since the table gives no row bits. -/
def decodeTableWord (_nbits _w : Nat) : Option Instr := none

end Sys2Proof
end

