-- ==== Sys2Proof/Config.lean ====
section
/-!
DEFINITION. Sys2Proof/Config.lean: what the spec leaves open, as constants with no body: nothing can evaluate them, so a
statement about the model holds for every value of them. Each names its assumption-log entry.
-/
namespace Sys2Proof.Config

/-- Severity of an event code: R570 names the six severities, and no chapter says which event has which (log 15). -/
opaque eventSeverity : Nat → BitVec 3

/-- Code of the control-stall event, which R36 and R614 name without a code (log 16): low byte of a class-0x09 code. -/
opaque controlStallLow : BitVec 8

/-- The n-th random nonce of R578 (log 4). -/
opaque nonce : Nat → BitVec 64

/-- OTP contents (R577, R625, R629, R567; log 3): serial number, grade, HMAC key, spare rows used per memory instance,
lowest permitted security version, and which of the four keys are revoked. -/
opaque serial : BitVec 64
opaque grade : BitVec 1
opaque hmacKey : BitVec 256
opaque rowsUsed : Nat → BitVec 6
opaque minSecVer : BitVec 32
opaque keyRevoked : Nat → Bool

/-- Whether an ECDSA P-384 signature over the given bytes verifies under boot-ROM key `k` (R567; log 3): the keys are not
in the spec. -/
opaque signatureOk : Nat → List Byte → Bool

/-- ECC syndrome of the n-th memory error (R627, R629; log 17). -/
opaque syndrome : Nat → BitVec 8

/-- The n-th free value of a kind that the model draws with its counter (log 2). -/
opaque freeWord : Nat → BitVec 64

/-- Deviations that the spec allows, as functions of what the unit computes from, so that equal inputs give equal words
(05_loom_crosspoints R144): a law gain and a gain target within 4 LSB, a delay within 1 unit (04_loom_geometry R122, R123; log 28);
the last bit of a filtered sample whose rounding no rule gives (log 29). -/
opaque lawDev : List Int → BitVec 4
opaque gainDev : List Int → BitVec 4
opaque delayDev : List Int → BitVec 2
opaque roundBit : List Int → Bool

/-- Deviation of a Reed tail from the exact convolution, below −120 dB (06_reed R176; log 31), of the logarithmic sweep from its exact
value (08_filter_chain R274; log 31), each as a signed fraction of the bound. -/
opaque tailDev : List Int → BitVec 32
opaque sweepDev : List Int → BitVec 32

/-- Words of the filter chain's default coefficient bank, section after section (08_filter_chain R266, R268; log 10). -/
opaque defaultFch : Nat → BitVec 32

/-- The PTP clock identity, and the accuracy and variance it announces (13_time R409, R411): the spec gives none (log 44). -/
opaque clockIdentity : BitVec 64
opaque clockAccuracy : BitVec 8
opaque clockVariance : BitVec 16

/-- Where control firmware places a region of general memory, in units of 64 bytes, and its length in bytes, by code (19_register_map R630;
log 87). -/
opaque regionPlace : Nat → BitVec 18
opaque regionLength : Nat → BitVec 25

end Sys2Proof.Config
end

