-- ==== Sys2Proof/Machine/Map.lean ====
section
/-!
DEFINITION. Sys2Proof/Machine/Map.lean: finite maps from numbers to plain data, kept as sorted association lists, and the
small list operations that the rest of the model uses.
-/
namespace Sys2Proof.Machine

/-- A finite map: pairs of a key and its value, keys strictly rising. A key that is not listed has the value that its
reader names. -/
abbrev NMap (α : Type) := List (Nat × α)

/-- The value at `k`, `d` where `k` is not listed. -/
def nget {α : Type} (d : α) : NMap α → Nat → α
  | [], _ => d
  | (k', v) :: r, k => if k = k' then v else if k < k' then d else nget d r k

/-- The value at `k`, if listed. -/
def nfind {α : Type} : NMap α → Nat → Option α
  | [], _ => none
  | (k', v) :: r, k => if k = k' then some v else if k < k' then none else nfind r k

/-- The map with `v` at `k`. -/
def nset {α : Type} : NMap α → Nat → α → NMap α
  | [], k, v => [(k, v)]
  | (k', v') :: r, k, v =>
    if k = k' then (k, v) :: r else if k < k' then (k, v) :: (k', v') :: r else (k', v') :: nset r k v

/-- The map without `k`. -/
def ndel {α : Type} : NMap α → Nat → NMap α
  | [], _ => []
  | (k', v') :: r, k => if k = k' then r else if k < k' then (k', v') :: r else (k', v') :: ndel r k

/-- The map with the value at `k` changed by `f`, `d` being the value of an unlisted key. -/
def nmod {α : Type} (d : α) (m : NMap α) (k : Nat) (f : α → α) : NMap α := nset m k (f (nget d m k))

/-- Keys strictly rise. -/
def NMap.sorted {α : Type} : NMap α → Bool
  | [] => true
  | [_] => true
  | (a, _) :: (b, y) :: r => decide (a < b) && NMap.sorted ((b, y) :: r)

/-- Element `i` of a list, `d` past its end. -/
def lget {α : Type} (d : α) : List α → Nat → α
  | [], _ => d
  | a :: _, 0 => a
  | _ :: r, i + 1 => lget d r i

/-- The list with element `i` replaced; unchanged past its end. -/
def lset {α : Type} : List α → Nat → α → List α
  | [], _, _ => []
  | _ :: r, 0, v => v :: r
  | a :: r, i + 1, v => a :: lset r i v

/-- `f` folded over 0, 1, …, n − 1 in rising order. -/
def upto {σ : Type} (n : Nat) (f : Nat → σ → σ) (s : σ) : σ := (List.range n).foldl (fun acc i => f i acc) s

/-- The sum of `f i` for i below `n`. -/
def sumTo (n : Nat) (f : Nat → Nat) : Nat := (List.range n).foldl (fun acc i => acc + f i) 0

/-- The sum of `f i` for i below `n`, over the integers. -/
def sumToI (n : Nat) (f : Nat → Int) : Int := (List.range n).foldl (fun acc i => acc + f i) 0

/-- The numbers a, a + 1, …, b; none when b < a. -/
def fromTo (a b : Nat) : List Nat := (List.range (b + 1 - a)).map (a + ·)

/-- Whether `p` holds at every i below `n`. -/
def allTo (n : Nat) (p : Nat → Bool) : Bool := (List.range n).all p

/-- Whether `p` holds at some i below `n`. -/
def anyTo (n : Nat) (p : Nat → Bool) : Bool := (List.range n).any p

/-- Items merged into a list ordered by `key`, equal keys in order of arrival. -/
def insertBy {α : Type} (key : α → Nat) (a : α) : List α → List α
  | [] => [a]
  | b :: r => if key a < key b then a :: b :: r else b :: insertBy key a r

end Sys2Proof.Machine
end

