-- ==== Sys2Proof/Machine/Bits.lean ====
section
/-!
DEFINITION. Sys2Proof/Machine/Bits.lean: bit fields, little-endian bytes (00_scope R5), saturation, rounding, and the check
sums that the spec names (CRC-32C, CRC-16 and CRC-8).
-/
namespace Sys2Proof.Machine

/-- Bits [hi:lo] of a number. -/
def bitsOf (x hi lo : Nat) : Nat := (x >>> lo) % 2 ^ (hi + 1 - lo)

/-- Bit `i` of a number. -/
def bitOf (x i : Nat) : Bool := x.testBit i

/-- A field of `width` bits at bit `lo`. -/
def fld (lo width v : Nat) : Nat := (v % 2 ^ width) <<< lo

/-- A one-bit field. -/
def flag (lo : Nat) (b : Bool) : Nat := if b then 1 <<< lo else 0

/-- One or zero. -/
def b2n (b : Bool) : Nat := if b then 1 else 0

/-- Bits [hi:lo] of a register. -/
def wbits (w : Word) (hi lo : Nat) : Nat := bitsOf w.toNat hi lo

/-- A register with bits [hi:lo] replaced. -/
def wset (w : Word) (hi lo v : Nat) : Word :=
  let m := (2 ^ (hi + 1 - lo) - 1) <<< lo
  (w &&& ~~~(BitVec.ofNat 32 m)) ||| BitVec.ofNat 32 (fld lo (hi + 1 - lo) v)

/-- A number kept at or below `m`. -/
def satN (m x : Nat) : Nat := if m < x then m else x

/-- Numbers clamped to `lo … hi`. -/
def clampN (lo hi x : Nat) : Nat := if x < lo then lo else if hi < x then hi else x

/-- Integers clamped to `lo … hi`. -/
def clampI (lo hi x : Int) : Int := if x < lo then lo else if hi < x then hi else x

/-- The range of an n-bit two's complement number. -/
def satS (n : Nat) (x : Int) : Int := clampI (-(2 ^ (n - 1))) (2 ^ (n - 1) - 1) x

/-- The two's complement value of the low `n` bits of `x`. -/
def signed (n x : Nat) : Int :=
  let y := x % 2 ^ n
  if y < 2 ^ (n - 1) then (y : Int) else (y : Int) - 2 ^ n

/-- The low `n` bits of an integer. -/
def unsignedOf (n : Nat) (x : Int) : Nat := (x % (2 ^ n : Int)).toNat

/-- Division of integers rounded to nearest, halves away from zero. -/
def roundAway (a : Int) (d : Nat) : Int :=
  if d = 0 then 0 else if 0 ≤ a then (2 * a + d) / (2 * d) else -((2 * (-a) + d) / (2 * d))

/-- Division of integers rounded to nearest, halves upwards. -/
def roundUp (a : Int) (d : Nat) : Int := if d = 0 then 0 else (2 * a + d) / (2 * d)

/-- Division of integers rounded to nearest, halves to the even number. -/
def roundEven (a : Int) (d : Nat) : Int :=
  if d = 0 then 0 else
    let q := a / d
    let r := a - q * d
    if 2 * r < d then q else if (d : Int) < 2 * r then q + 1 else if q % 2 = 0 then q else q + 1

/-- The value of little-endian bytes. -/
def leNat : List Byte → Nat
  | [] => 0
  | b :: r => b.toNat + 256 * leNat r

/-- `n` little-endian bytes of a value. -/
def leBytes : Nat → Nat → List Byte
  | 0, _ => []
  | n + 1, v => BitVec.ofNat 8 v :: leBytes n (v / 256)

/-- `n` big-endian bytes of a value. -/
def beBytes (n v : Nat) : List Byte := (leBytes n v).reverse

/-- `n` zero bytes. -/
def zeros (n : Nat) : List Byte := List.replicate n 0

/-- The bytes padded with zeros, or cut, to exactly `n`. -/
def fit (n : Nat) (l : List Byte) : List Byte := l.take n ++ zeros (n - l.length)

/-- The unsigned little-endian field of `n` bytes at offset `o`; bytes past the end read 0. -/
def getLE (l : List Byte) (o n : Nat) : Nat := leNat ((l.drop o).take n)

/-- The signed little-endian field of `n` bytes at offset `o`. -/
def getLES (l : List Byte) (o n : Nat) : Int := signed (8 * n) (getLE l o n)

/-- The unsigned big-endian field of `n` bytes at offset `o`. -/
def getBE (l : List Byte) (o n : Nat) : Nat := leNat ((l.drop o).take n).reverse

/-- One byte of a list, as a number; 0 past the end. -/
def byteAt (l : List Byte) (o : Nat) : Nat := (lget 0 l o).toNat

/-- Whether bytes [o, o + n) are all zero. -/
def zeroRange (l : List Byte) (o n : Nat) : Bool := ((l.drop o).take n).all (fun b => b == 0)

/-- One step of a reflected (least significant bit first) CRC. -/
def crcBitR (poly : Nat) (c : Nat) : Nat := if c % 2 = 1 then (c / 2) ^^^ poly else c / 2

/-- One byte of a reflected CRC. -/
def crcByteR (poly : Nat) (c : Nat) (b : Byte) : Nat :=
  (List.range 8).foldl (fun acc _ => crcBitR poly acc) (c ^^^ b.toNat)

/-- CRC-32C: reflected polynomial 0x82F63B78, initial and final inversion. -/
def crc32c (l : List Byte) : Nat := (l.foldl (crcByteR 0x82F63B78) 0xFFFFFFFF) ^^^ 0xFFFFFFFF

/-- The Ethernet CRC-32 (reflected polynomial 0xEDB88320). -/
def crc32e (l : List Byte) : Nat := (l.foldl (crcByteR 0xEDB88320) 0xFFFFFFFF) ^^^ 0xFFFFFFFF

/-- One step of a most-significant-bit-first CRC of `w` bits. -/
def crcBitM (w poly c : Nat) : Nat :=
  if c.testBit (w - 1) then ((c * 2) % 2 ^ w) ^^^ poly else (c * 2) % 2 ^ w

/-- One byte of a most-significant-bit-first CRC of `w` bits. -/
def crcByteM (w poly c : Nat) (b : Byte) : Nat :=
  (List.range 8).foldl (fun acc _ => crcBitM w poly acc) (c ^^^ (b.toNat <<< (w - 8)))

/-- CRC-8 with polynomial 0x07, initial 0x00 (17_ledger_recorder R552). -/
def crc8 (l : List Byte) : Nat := l.foldl (crcByteM 8 0x07) 0

end Sys2Proof.Machine
end

