-- ==== Sys2Proof/Machine/RegTable.lean ====
section
/-!
DEFINITION. Sys2Proof/Machine/RegTable.lean: the software-visible registers, row by row as the register tables of spec/
give them (name, BAR0 offset, number of registers, stride, fields with access type and reset value). Where the Reset
column gives no number (From OTP, Sampled, Random, Per instance, Set by the reset), the row holds 0 and the value is
computed by the view of Sys2Proof/Machine/Views.lean.
-/
namespace Sys2Proof.Machine

/-- The access types of 00_scope R10. -/
inductive Access where
  | rw | ro | rc | w1c | wo | rws | wl
  deriving DecidableEq, Repr

/-- One field of a register. -/
structure FieldDef where
  hi : Nat
  lo : Nat
  access : Access
  reset : Nat
  deriving DecidableEq, Repr

/-- One row: an array of `count` registers at `base`, `stride` bytes apart. -/
structure RegDef where
  name : String
  base : Nat
  count : Nat
  stride : Nat
  fields : List FieldDef
  deriving DecidableEq, Repr

/-- The registers of block SYS. -/
def sysRegs : List RegDef := [
  ⟨"SYS_ID", 0x0, 1, 4, [⟨15, 0, .ro, 0xa024⟩, ⟨23, 16, .ro, 0x11⟩, ⟨27, 24, .ro, 0⟩]⟩,
  ⟨"SYS_SERIAL_LO", 0x4, 1, 4, [⟨31, 0, .ro, 0⟩]⟩,
  ⟨"SYS_SERIAL_HI", 0x8, 1, 4, [⟨31, 0, .ro, 0⟩]⟩,
  ⟨"SYS_STRAP", 0xc, 1, 4, [⟨1, 0, .ro, 0⟩, ⟨2, 2, .ro, 0⟩]⟩,
  ⟨"SYS_PICK_LO", 0x10, 1, 4, [⟨31, 0, .ro, 0⟩]⟩,
  ⟨"SYS_PICK_HI", 0x14, 1, 4, [⟨31, 0, .ro, 0⟩]⟩,
  ⟨"SYS_BUDGET_CFG", 0x100, 1, 4, [⟨6, 0, .ro, 0x14⟩, ⟨25, 16, .ro, 0x20⟩]⟩,
  ⟨"SYS_SLACK_LAST", 0x104, 1, 4, [⟨15, 0, .ro, 0⟩, ⟨18, 16, .ro, 0⟩]⟩,
  ⟨"SYS_SLACK_MIN", 0x108, 1, 4, [⟨15, 0, .rc, 0xffff⟩]⟩,
  ⟨"SYS_ADMIT", 0x10c, 1, 4, [⟨15, 0, .ro, 0⟩]⟩,
  ⟨"SYS_OVR", 0x110, 1, 4, [⟨15, 0, .rc, 0⟩, ⟨18, 16, .ro, 0⟩, ⟨26, 24, .ro, 0⟩]⟩,
  ⟨"SYS_RESV_E0-E7", 0x120, 8, 4, [⟨31, 0, .ro, 0⟩]⟩,
  ⟨"SYS_USED_E0-E7", 0x140, 8, 4, [⟨31, 0, .ro, 0⟩]⟩,
  ⟨"SYS_FIN_E0-E7", 0x160, 8, 4, [⟨15, 0, .ro, 0⟩]⟩,
  ⟨"SYS_SCRATCH_S0-S127", 0x800, 128, 4, [⟨31, 0, .rws, 0⟩]⟩]

/-- The registers of block TRD. -/
def trdRegs : List RegDef := [
  ⟨"TRD_MODE", 0x1000, 1, 4, [⟨2, 0, .ro, 0⟩, ⟨3, 3, .ro, 1⟩, ⟨6, 4, .ro, 0⟩, ⟨7, 7, .ro, 0⟩, ⟨8, 8, .ro, 0⟩, ⟨11, 9, .ro, 4⟩, ⟨14, 12, .ro, 0⟩, ⟨15, 15, .ro, 0⟩]⟩,
  ⟨"TRD_CFG", 0x1004, 1, 4, [⟨0, 0, .rws, 1⟩, ⟨7, 1, .rws, 0xa⟩, ⟨10, 8, .rws, 4⟩, ⟨11, 11, .rws, 0⟩]⟩,
  ⟨"TRD_VCORE", 0x1008, 1, 4, [⟨9, 0, .ro, 0x320⟩, ⟨19, 10, .ro, 0⟩, ⟨21, 20, .ro, 0⟩]⟩,
  ⟨"TRD_IMON", 0x100c, 1, 4, [⟨15, 0, .ro, 0⟩, ⟨31, 16, .rc, 0⟩]⟩,
  ⟨"TRD_TEMP_S0-S7", 0x1010, 8, 4, [⟨11, 0, .ro, 0⟩]⟩,
  ⟨"TRD_THERM", 0x1030, 1, 4, [⟨11, 0, .ro, 0⟩, ⟨14, 12, .ro, 0⟩, ⟨15, 15, .ro, 0⟩, ⟨16, 16, .ro, 0⟩, ⟨23, 17, .ro, 0x64⟩, ⟨31, 24, .ro, 0x3c⟩]⟩,
  ⟨"TRD_RAIL", 0x1034, 1, 4, [⟨7, 0, .ro, 0⟩, ⟨15, 8, .ro, 0⟩, ⟨18, 16, .ro, 0⟩, ⟨19, 19, .ro, 0⟩, ⟨21, 20, .ro, 0⟩]⟩,
  ⟨"TRD_VAON", 0x1038, 1, 4, [⟨0, 0, .ro, 0⟩, ⟨1, 1, .ro, 0⟩, ⟨2, 2, .ro, 0⟩, ⟨15, 8, .rc, 0⟩, ⟨23, 16, .rc, 0⟩, ⟨31, 24, .rc, 0⟩]⟩,
  ⟨"TRD_RESET", 0x103c, 1, 4, [⟨1, 0, .ro, 0⟩, ⟨15, 8, .rws, 0⟩]⟩,
  ⟨"TRD_PEND", 0x1040, 1, 4, [⟨0, 0, .ro, 0⟩, ⟨1, 1, .ro, 0⟩, ⟨2, 2, .ro, 0⟩, ⟨3, 3, .ro, 0⟩]⟩,
  ⟨"TRD_FW", 0x1044, 1, 4, [⟨0, 0, .ro, 0⟩, ⟨17, 1, .ro, 0⟩, ⟨18, 18, .ro, 0⟩, ⟨19, 19, .ro, 0⟩]⟩]

/-- The registers of block HIF. -/
def hifRegs : List RegDef := [
  ⟨"HIF_STAT", 0x2000, 1, 4, [⟨0, 0, .ro, 0⟩, ⟨1, 1, .ro, 0⟩, ⟨2, 2, .ro, 0⟩, ⟨6, 3, .ro, 0⟩, ⟨9, 7, .ro, 0⟩, ⟨10, 10, .ro, 0⟩]⟩,
  ⟨"HIF_EPOCH", 0x2004, 1, 4, [⟨7, 0, .rw, 0⟩, ⟨15, 8, .ro, 0⟩]⟩,
  ⟨"HIF_ERR", 0x2008, 1, 4, [⟨7, 0, .rc, 0⟩, ⟨15, 8, .rc, 0⟩, ⟨23, 16, .rc, 0⟩, ⟨31, 24, .rc, 0⟩]⟩,
  ⟨"HIF_FLR", 0x200c, 1, 4, [⟨15, 0, .rws, 0⟩, ⟨23, 16, .rws, 0⟩, ⟨31, 24, .rws, 0⟩]⟩,
  ⟨"HIF_IRQ_MOD", 0x2010, 1, 4, [⟨7, 0, .rw, 1⟩, ⟨23, 8, .rw, 0⟩]⟩,
  ⟨"HIF_EVQ_FILT", 0x2014, 1, 4, [⟨2, 0, .rw, 0⟩, ⟨28, 16, .rw, 0x1fff⟩]⟩,
  ⟨"HIF_EVQ_LOST", 0x2018, 1, 4, [⟨15, 0, .rc, 0⟩]⟩,
  ⟨"HIF_HOLD", 0x201c, 1, 4, [⟨6, 0, .ro, 0⟩, ⟨24, 16, .ro, 0⟩]⟩,
  ⟨"HIF_WDOG", 0x2020, 1, 4, [⟨15, 0, .rw, 0⟩, ⟨16, 16, .ro, 0⟩]⟩,
  ⟨"HIF_RING_BASE_LO_Q0-Q30", 0x2100, 31, 32, [⟨31, 0, .rw, 0⟩]⟩,
  ⟨"HIF_RING_BASE_HI_Q0-Q30", 0x2104, 31, 32, [⟨31, 0, .rw, 0⟩]⟩,
  ⟨"HIF_RING_AUX_LO_Q0-Q30", 0x2108, 31, 32, [⟨31, 0, .rw, 0⟩]⟩,
  ⟨"HIF_RING_AUX_HI_Q0-Q30", 0x210c, 31, 32, [⟨31, 0, .rw, 0⟩]⟩,
  ⟨"HIF_RING_CFG_Q0-Q30", 0x2110, 31, 32, [⟨12, 0, .rw, 0⟩, ⟨13, 13, .rw, 0⟩, ⟨18, 14, .rw, 0⟩]⟩,
  ⟨"HIF_RING_HEAD_Q0-Q30", 0x2114, 31, 32, [⟨11, 0, .ro, 0⟩]⟩,
  ⟨"HIF_RING_TAIL_Q0-Q30", 0x2118, 31, 32, [⟨11, 0, .ro, 0⟩]⟩,
  ⟨"HIF_RING_STAT_Q0-Q30", 0x211c, 31, 32, [⟨3, 0, .ro, 0⟩, ⟨4, 4, .ro, 1⟩, ⟨5, 5, .ro, 0⟩, ⟨31, 16, .rc, 0⟩]⟩]

/-- The registers of block MBX. -/
def mbxRegs : List RegDef := [
  ⟨"MBX_DATA_LO_M0-M7", 0x3000, 8, 8, [⟨31, 0, .wo, 0⟩]⟩,
  ⟨"MBX_DATA_HI_M0-M7", 0x3004, 8, 8, [⟨31, 0, .wo, 0⟩]⟩,
  ⟨"MBX_STAT", 0x3040, 1, 4, [⟨31, 0, .ro, 0⟩]⟩,
  ⟨"MBX_REJECT", 0x3044, 1, 4, [⟨3, 0, .rws, 0⟩, ⟨31, 16, .rws, 0⟩]⟩,
  ⟨"MBX_IRQ", 0x3048, 1, 4, [⟨3, 0, .rw, 0⟩]⟩,
  ⟨"MBX_OC_CNT_W0-W3", 0x3100, 4, 4, [⟨31, 0, .ro, 0⟩]⟩,
  ⟨"MBX_OC_REFUSE", 0x3110, 1, 4, [⟨15, 0, .rc, 0⟩, ⟨23, 16, .rc, 0⟩, ⟨31, 24, .rc, 0⟩]⟩,
  ⟨"MBX_OC_LOST", 0x3114, 1, 4, [⟨15, 0, .rc, 0⟩]⟩,
  ⟨"MBX_OC_EPOCH_W0-W3", 0x3120, 4, 4, [⟨31, 0, .ro, 0⟩]⟩]

/-- The registers of block SHT. -/
def shtRegs : List RegDef := [
  ⟨"SHT_STAT", 0x4000, 1, 4, [⟨8, 0, .ro, 0⟩, ⟨9, 9, .ro, 0⟩]⟩,
  ⟨"SHT_DISP", 0x4004, 1, 4, [⟨31, 0, .rc, 0⟩]⟩,
  ⟨"SHT_SPILL", 0x4008, 1, 4, [⟨15, 0, .rc, 0⟩, ⟨31, 16, .rc, 0⟩]⟩,
  ⟨"SHT_TRACE", 0x400c, 1, 4, [⟨0, 0, .ro, 0⟩, ⟨24, 16, .ro, 0⟩]⟩,
  ⟨"SHT_LVL_L0-L31", 0x4100, 32, 4, [⟨4, 0, .ro, 0⟩, ⟨20, 8, .ro, 0⟩]⟩,
  ⟨"SHT_FLOW_F0-F15", 0x4200, 16, 4, [⟨6, 0, .ro, 0⟩, ⟨7, 7, .ro, 0⟩, ⟨14, 8, .ro, 0⟩]⟩]

/-- The registers of block BOB. -/
def bobRegs : List RegDef := [
  ⟨"BOB_CFG_C0-C15", 0x5000, 16, 32, [⟨0, 0, .ro, 0⟩, ⟨2, 1, .ro, 0⟩, ⟨6, 3, .ro, 0⟩, ⟨31, 16, .ro, 0⟩]⟩,
  ⟨"BOB_HEAD_C0-C15", 0x5004, 16, 32, [⟨18, 0, .ro, 0⟩]⟩,
  ⟨"BOB_CUR_C0-C15", 0x5008, 16, 32, [⟨18, 0, .ro, 0⟩, ⟨24, 24, .ro, 0⟩, ⟨25, 25, .ro, 0⟩, ⟨26, 26, .ro, 0⟩, ⟨27, 27, .ro, 0⟩]⟩,
  ⟨"BOB_STATUS_C0-C15", 0x500c, 16, 32, [⟨7, 0, .ro, 0⟩, ⟨31, 16, .rc, 0⟩]⟩,
  ⟨"BOB_DONE_C0-C15", 0x5010, 16, 32, [⟨31, 0, .rc, 0⟩]⟩,
  ⟨"BOB_DBCNT_C0-C15", 0x5014, 16, 32, [⟨15, 0, .rc, 0⟩, ⟨31, 16, .rc, 0⟩]⟩,
  ⟨"BOB_DB_C0-C15", 0x5018, 16, 32, [⟨31, 0, .wo, 0⟩]⟩]

/-- The registers of block XBR. -/
def xbrRegs : List RegDef := [
  ⟨"XBR_STAT", 0x6000, 1, 4, [⟨15, 0, .ro, 0⟩]⟩,
  ⟨"XBR_BUSERR", 0x6004, 1, 4, [⟨15, 0, .rc, 0⟩, ⟨19, 16, .ro, 0⟩, ⟨23, 20, .ro, 0⟩]⟩,
  ⟨"XBR_BUSERR_ADDR", 0x6008, 1, 4, [⟨31, 0, .ro, 0⟩]⟩,
  ⟨"XBR_RESET_CNT", 0x600c, 1, 4, [⟨15, 0, .rc, 0⟩, ⟨31, 16, .rc, 0⟩]⟩,
  ⟨"XBR_SEM_STAT_LO", 0x6010, 1, 4, [⟨31, 0, .ro, 0⟩]⟩,
  ⟨"XBR_SEM_STAT_HI", 0x6014, 1, 4, [⟨31, 0, .ro, 0⟩]⟩,
  ⟨"XBR_SEM_ERR", 0x6018, 1, 4, [⟨15, 0, .rc, 0⟩]⟩,
  ⟨"XBR_PARK_LO", 0x6020, 1, 4, [⟨31, 0, .ro, 0x22224444⟩]⟩,
  ⟨"XBR_PARK_HI", 0x6024, 1, 4, [⟨31, 0, .ro, 0x348230⟩]⟩,
  ⟨"XBR_LATCH_M0-M15", 0x6040, 16, 4, [⟨13, 0, .wl, 0⟩]⟩]

/-- The registers of block LOOM. -/
def loomRegs : List RegDef := [
  ⟨"LOOM_STAT", 0x7000, 1, 4, [⟨0, 0, .ro, 0⟩, ⟨1, 1, .ro, 0⟩, ⟨3, 2, .ro, 1⟩]⟩,
  ⟨"LOOM_CEIL_SUM", 0x7004, 1, 4, [⟨19, 0, .ro, 0x80000⟩]⟩,
  ⟨"LOOM_XP_LIVE", 0x7008, 1, 4, [⟨19, 0, .ro, 0⟩]⟩,
  ⟨"LOOM_XP_PEAK", 0x700c, 1, 4, [⟨19, 0, .rc, 0⟩]⟩,
  ⟨"LOOM_XP_CNT", 0x7010, 1, 4, [⟨15, 0, .rc, 0⟩, ⟨31, 16, .rc, 0⟩]⟩,
  ⟨"LOOM_SAT", 0x7014, 1, 4, [⟨15, 0, .rc, 0⟩, ⟨31, 16, .rc, 0⟩]⟩,
  ⟨"LOOM_SAT_OUT", 0x7018, 1, 4, [⟨8, 0, .ro, 0⟩]⟩,
  ⟨"LOOM_ECC", 0x701c, 1, 4, [⟨15, 0, .rc, 0⟩, ⟨23, 16, .rc, 0⟩, ⟨31, 24, .rc, 0⟩]⟩,
  ⟨"LOOM_ECC_LOC", 0x7020, 1, 4, [⟨9, 0, .ro, 0⟩, ⟨22, 10, .ro, 0⟩, ⟨23, 23, .ro, 0⟩]⟩,
  ⟨"LOOM_POOL", 0x7024, 1, 4, [⟨13, 0, .ro, 0⟩]⟩,
  ⟨"LOOM_XP_SEL", 0x7028, 1, 4, [⟨18, 0, .rw, 0⟩, ⟨31, 31, .ro, 0⟩]⟩,
  ⟨"LOOM_XP_W0-W3", 0x702c, 4, 4, [⟨31, 0, .ro, 0⟩]⟩,
  ⟨"LOOM_OQACC_Q0-Q7", 0x7800, 8, 16, [⟨31, 0, .rc, 0⟩]⟩,
  ⟨"LOOM_OQLATE_Q0-Q7", 0x7804, 8, 16, [⟨15, 0, .rc, 0⟩, ⟨31, 16, .rc, 0⟩]⟩,
  ⟨"LOOM_OQREJ_Q0-Q7", 0x7808, 8, 16, [⟨15, 0, .rc, 0⟩, ⟨23, 16, .ro, 0⟩]⟩,
  ⟨"LOOM_OQGAP_Q0-Q7", 0x780c, 8, 16, [⟨15, 0, .rc, 0⟩]⟩,
  ⟨"LOOM_OBJ_COAL", 0x7880, 1, 4, [⟨31, 0, .rc, 0⟩]⟩,
  ⟨"LOOM_OBJ_LAG", 0x7884, 1, 4, [⟨15, 0, .ro, 0⟩, ⟨31, 16, .rc, 0⟩]⟩,
  ⟨"LOOM_OBJ_PEND", 0x7888, 1, 4, [⟨16, 0, .ro, 0⟩]⟩,
  ⟨"LOOM_LAYOUT_ID", 0x7900, 1, 4, [⟨31, 0, .ro, 0⟩]⟩,
  ⟨"LOOM_LAYOUT_STAT", 0x7904, 1, 4, [⟨9, 0, .ro, 0⟩, ⟨20, 10, .ro, 0⟩, ⟨21, 21, .ro, 0⟩, ⟨22, 22, .ro, 0⟩, ⟨23, 23, .ro, 0⟩]⟩,
  ⟨"LOOM_LAYOUT_PICK_LO", 0x7908, 1, 4, [⟨31, 0, .ro, 0⟩]⟩,
  ⟨"LOOM_LAYOUT_PICK_HI", 0x790c, 1, 4, [⟨31, 0, .ro, 0⟩]⟩,
  ⟨"LOOM_SOS", 0x7910, 1, 4, [⟨18, 0, .ro, 0x53ca0⟩]⟩,
  ⟨"LOOM_GEOM_CNT", 0x7914, 1, 4, [⟨15, 0, .rc, 0⟩, ⟨31, 16, .rc, 0⟩]⟩,
  ⟨"LOOM_GEOM_CNT2", 0x7918, 1, 4, [⟨15, 0, .rc, 0⟩, ⟨31, 16, .rc, 0⟩]⟩]

/-- The registers of block REED. -/
def reedRegs : List RegDef := [
  ⟨"REED_STAT", 0x8000, 1, 4, [⟨0, 0, .ro, 0⟩, ⟨1, 1, .ro, 0⟩, ⟨2, 2, .ro, 0⟩, ⟨3, 3, .ro, 0⟩, ⟨4, 4, .ro, 0⟩, ⟨5, 5, .ro, 0⟩, ⟨6, 6, .ro, 0⟩, ⟨7, 7, .ro, 0⟩, ⟨9, 8, .ro, 0⟩]⟩,
  ⟨"REED_OUT_COUNT", 0x8004, 1, 4, [⟨9, 0, .ro, 0⟩]⟩,
  ⟨"REED_BANK_ID_A", 0x8008, 1, 4, [⟨31, 0, .ro, 0⟩]⟩,
  ⟨"REED_BANK_ID_B", 0x800c, 1, 4, [⟨31, 0, .ro, 0⟩]⟩,
  ⟨"REED_SWAP_PICK_LO", 0x8010, 1, 4, [⟨31, 0, .ro, 0⟩]⟩,
  ⟨"REED_SWAP_PICK_HI", 0x8014, 1, 4, [⟨31, 0, .ro, 0⟩]⟩,
  ⟨"REED_LEAD", 0x8018, 1, 4, [⟨7, 0, .ro, 0x40⟩]⟩,
  ⟨"REED_SAT", 0x801c, 1, 4, [⟨15, 0, .rc, 0⟩, ⟨24, 16, .ro, 0⟩]⟩,
  ⟨"REED_LIM", 0x8020, 1, 4, [⟨15, 0, .rc, 0⟩, ⟨31, 16, .rc, 0⟩]⟩,
  ⟨"REED_ECC", 0x8024, 1, 4, [⟨15, 0, .rc, 0⟩, ⟨23, 16, .rc, 0⟩, ⟨31, 24, .rc, 0⟩]⟩,
  ⟨"REED_ECC_LOC", 0x8028, 1, 4, [⟨8, 0, .ro, 0⟩, ⟨22, 9, .ro, 0⟩, ⟨23, 23, .ro, 0⟩]⟩,
  ⟨"REED_MEAS", 0x802c, 1, 4, [⟨3, 0, .ro, 0⟩, ⟨14, 8, .ro, 0⟩]⟩,
  ⟨"REED_OUT_SEL", 0x8030, 1, 4, [⟨8, 0, .rw, 0⟩, ⟨31, 31, .ro, 0⟩]⟩,
  ⟨"REED_OUT_W0-W3", 0x8034, 4, 4, [⟨31, 0, .ro, 0⟩]⟩,
  ⟨"REED_OUT_GR", 0x8044, 1, 4, [⟨15, 0, .ro, 0⟩]⟩]

/-- The registers of block HED. -/
def hedRegs : List RegDef := [
  ⟨"HED_STAT", 0x9000, 1, 4, [⟨0, 0, .ro, 0⟩, ⟨1, 1, .ro, 0⟩, ⟨2, 2, .ro, 0⟩, ⟨3, 3, .ro, 0⟩]⟩,
  ⟨"HED_SET_ID", 0x9004, 1, 4, [⟨31, 0, .ro, 0⟩]⟩,
  ⟨"HED_SWAP_PICK_LO", 0x9008, 1, 4, [⟨31, 0, .ro, 0⟩]⟩,
  ⟨"HED_SWAP_PICK_HI", 0x900c, 1, 4, [⟨31, 0, .ro, 0⟩]⟩,
  ⟨"HED_ROUTES", 0x9010, 1, 4, [⟨12, 0, .ro, 0⟩, ⟨25, 13, .ro, 0⟩]⟩,
  ⟨"HED_CUT", 0x9014, 1, 4, [⟨8, 0, .ro, 0⟩]⟩,
  ⟨"HED_SRC_ACT", 0x9018, 1, 4, [⟨10, 0, .ro, 0⟩]⟩,
  ⟨"HED_ZC", 0x901c, 1, 4, [⟨15, 0, .rc, 0⟩, ⟨31, 16, .rc, 0⟩]⟩,
  ⟨"HED_SAT", 0x9020, 1, 4, [⟨15, 0, .rc, 0⟩, ⟨27, 16, .ro, 0⟩]⟩,
  ⟨"HED_ECC", 0x9024, 1, 4, [⟨15, 0, .rc, 0⟩, ⟨23, 16, .rc, 0⟩, ⟨31, 24, .rc, 0⟩]⟩,
  ⟨"HED_ECC_LOC", 0x9028, 1, 4, [⟨11, 0, .ro, 0⟩, ⟨12, 12, .ro, 0⟩]⟩,
  ⟨"HED_SRC_SEL", 0x902c, 1, 4, [⟨11, 0, .rw, 0⟩, ⟨31, 31, .ro, 0⟩]⟩,
  ⟨"HED_SRC_STAT", 0x9030, 1, 4, [⟨2, 0, .ro, 0⟩, ⟨3, 3, .ro, 0⟩, ⟨4, 4, .ro, 0⟩, ⟨5, 5, .ro, 0⟩, ⟨28, 16, .ro, 0⟩]⟩,
  ⟨"HED_ROUTE_SEL", 0x9034, 1, 4, [⟨11, 0, .rw, 0⟩, ⟨31, 31, .ro, 0⟩]⟩,
  ⟨"HED_ROUTE_W0-W3", 0x9038, 4, 4, [⟨31, 0, .ro, 0⟩]⟩]

/-- The registers of block FCH. -/
def fchRegs : List RegDef := [
  ⟨"FCH_STAT", 0xa000, 1, 4, [⟨0, 0, .ro, 0⟩, ⟨1, 1, .ro, 0⟩, ⟨2, 2, .ro, 0⟩, ⟨3, 3, .ro, 0⟩, ⟨4, 4, .ro, 0⟩, ⟨6, 5, .ro, 1⟩, ⟨7, 7, .ro, 0⟩, ⟨8, 8, .ro, 0⟩]⟩,
  ⟨"FCH_PDM_CFG", 0xa004, 1, 4, [⟨7, 0, .ro, 0⟩, ⟨8, 8, .ro, 0⟩, ⟨9, 9, .ro, 0⟩, ⟨22, 16, .ro, 0x26⟩]⟩,
  ⟨"FCH_OUT_MODE", 0xa008, 1, 4, [⟨31, 0, .ro, 0⟩]⟩,
  ⟨"FCH_BANK_ID_A", 0xa00c, 1, 4, [⟨31, 0, .ro, 0⟩]⟩,
  ⟨"FCH_BANK_ID_B", 0xa010, 1, 4, [⟨31, 0, .ro, 0⟩]⟩,
  ⟨"FCH_SETTLE", 0xa014, 1, 4, [⟨15, 0, .ro, 0⟩]⟩,
  ⟨"FCH_SETTLE_RS_LO", 0xa018, 1, 4, [⟨31, 0, .ro, 0⟩]⟩,
  ⟨"FCH_SETTLE_RS_HI", 0xa01c, 1, 4, [⟨31, 0, .ro, 0⟩]⟩,
  ⟨"FCH_SYNC_TIME_LO", 0xa020, 1, 4, [⟨31, 0, .ro, 0⟩]⟩,
  ⟨"FCH_SYNC_TIME_HI", 0xa024, 1, 4, [⟨31, 0, .ro, 0⟩]⟩,
  ⟨"FCH_SAT", 0xa028, 1, 4, [⟨15, 0, .rc, 0⟩, ⟨22, 16, .ro, 0⟩]⟩,
  ⟨"FCH_ECC", 0xa02c, 1, 4, [⟨15, 0, .rc, 0⟩, ⟨23, 16, .rc, 0⟩, ⟨31, 24, .rc, 0⟩]⟩,
  ⟨"FCH_GD", 0xa030, 1, 4, [⟨15, 0, .ro, 0x2656⟩]⟩,
  ⟨"FCH_STUCK", 0xa034, 1, 4, [⟨15, 0, .ro, 0⟩]⟩,
  ⟨"FCH_RS_SEL", 0xa038, 1, 4, [⟨5, 0, .rw, 0⟩, ⟨31, 31, .ro, 0⟩]⟩,
  ⟨"FCH_RS_W0-W3", 0xa03c, 4, 4, [⟨31, 0, .ro, 0⟩]⟩]

/-- The registers of block AES. -/
def aesRegs : List RegDef := [
  ⟨"AES_CTL_P0-P15", 0xb000, 16, 4, [⟨0, 0, .ro, 0⟩, ⟨1, 1, .ro, 0⟩, ⟨4, 2, .ro, 0⟩, ⟨8, 5, .ro, 2⟩, ⟨17, 9, .ro, 0⟩, ⟨20, 18, .ro, 0⟩, ⟨21, 21, .ro, 0⟩, ⟨22, 22, .ro, 1⟩]⟩,
  ⟨"AES_STAT_P0-P15", 0xb040, 16, 4, [⟨0, 0, .ro, 0⟩, ⟨1, 1, .ro, 0⟩, ⟨2, 2, .ro, 1⟩, ⟨3, 3, .ro, 0⟩, ⟨5, 4, .ro, 0⟩, ⟨6, 6, .ro, 0⟩, ⟨16, 8, .ro, 0⟩, ⟨31, 24, .ro, 0⟩]⟩,
  ⟨"AES_RXCNT_P0-P15", 0xb080, 16, 4, [⟨15, 0, .rc, 0⟩, ⟨23, 16, .rc, 0⟩, ⟨31, 24, .rc, 0⟩]⟩,
  ⟨"AES_SLIP_P0-P15", 0xb0c0, 16, 4, [⟨7, 0, .rc, 0⟩, ⟨15, 8, .rc, 0⟩, ⟨23, 16, .rc, 0⟩]⟩,
  ⟨"AES_CS_SEL", 0xb100, 1, 4, [⟨3, 0, .rw, 0⟩, ⟨4, 4, .rw, 0⟩, ⟨5, 5, .rw, 0⟩, ⟨31, 31, .ro, 0⟩]⟩,
  ⟨"AES_CS_W0-W5", 0xb104, 6, 4, [⟨31, 0, .ro, 0⟩]⟩]

/-- The registers of block TDM. -/
def tdmRegs : List RegDef := [
  ⟨"TDM_CTL_P0-P7", 0xc000, 8, 4, [⟨0, 0, .ro, 0⟩, ⟨1, 1, .ro, 0⟩, ⟨2, 2, .ro, 0⟩, ⟨3, 3, .ro, 0⟩, ⟨6, 4, .ro, 0⟩, ⟨7, 7, .ro, 0⟩, ⟨8, 8, .ro, 0⟩, ⟨9, 9, .ro, 0⟩, ⟨10, 10, .ro, 0⟩, ⟨14, 11, .ro, 0⟩, ⟨18, 15, .ro, 0⟩, ⟨21, 19, .ro, 0⟩, ⟨22, 22, .ro, 0⟩, ⟨23, 23, .ro, 0⟩]⟩,
  ⟨"TDM_OFS_P0-P7", 0xc020, 8, 4, [⟨8, 0, .ro, 0⟩, ⟨24, 16, .ro, 0⟩]⟩,
  ⟨"TDM_STAT_P0-P7", 0xc040, 8, 4, [⟨0, 0, .ro, 0⟩, ⟨1, 1, .ro, 0⟩, ⟨2, 2, .ro, 0⟩, ⟨3, 3, .ro, 0⟩, ⟨15, 8, .rc, 0⟩, ⟨23, 16, .rc, 0⟩, ⟨31, 24, .rc, 0⟩]⟩,
  ⟨"TDM_GRP_G0-G7", 0xc060, 8, 4, [⟨5, 0, .ro, 0⟩, ⟨6, 6, .ro, 0⟩, ⟨13, 8, .ro, 0⟩, ⟨14, 14, .ro, 0⟩, ⟨15, 15, .ro, 0⟩]⟩]

/-- The registers of block MAC. -/
def macRegs : List RegDef := [
  ⟨"MAC_CTL_P0-P3", 0xd000, 4, 4, [⟨0, 0, .ro, 0⟩, ⟨1, 1, .ro, 0⟩, ⟨3, 2, .ro, 0⟩, ⟨5, 4, .ro, 0⟩, ⟨6, 6, .ro, 0⟩]⟩,
  ⟨"MAC_STAT_P0-P3", 0xd010, 4, 4, [⟨0, 0, .ro, 0⟩, ⟨1, 1, .ro, 0⟩, ⟨8, 2, .ro, 0⟩, ⟨15, 9, .ro, 1⟩, ⟨23, 16, .ro, 1⟩]⟩,
  ⟨"MAC_RXCNT_P0-P3", 0xd020, 4, 4, [⟨31, 0, .rc, 0⟩]⟩,
  ⟨"MAC_RXERR_P0-P3", 0xd030, 4, 4, [⟨7, 0, .rc, 0⟩, ⟨15, 8, .rc, 0⟩, ⟨23, 16, .rc, 0⟩, ⟨31, 24, .rc, 0⟩]⟩,
  ⟨"MAC_FILT_P0-P3", 0xd040, 4, 4, [⟨31, 0, .rc, 0⟩]⟩,
  ⟨"MAC_TXCNT_P0-P3", 0xd050, 4, 4, [⟨31, 0, .rc, 0⟩]⟩,
  ⟨"MAC_TXERR_P0-P3", 0xd060, 4, 4, [⟨15, 0, .rc, 0⟩, ⟨31, 16, .rc, 0⟩]⟩,
  ⟨"MAC_ADDR_LO_P0-P3", 0xd070, 4, 8, [⟨31, 0, .ro, 0⟩]⟩,
  ⟨"MAC_ADDR_HI_P0-P3", 0xd074, 4, 8, [⟨31, 0, .ro, 0⟩]⟩,
  ⟨"MAC_STRM_CNT", 0xd100, 1, 4, [⟨8, 0, .ro, 0⟩, ⟨24, 16, .ro, 0⟩]⟩,
  ⟨"MAC_STRM_SEL", 0xd104, 1, 4, [⟨7, 0, .rw, 0⟩, ⟨8, 8, .rw, 0⟩, ⟨31, 31, .ro, 0⟩]⟩,
  ⟨"MAC_STRM_W0-W3", 0xd108, 4, 4, [⟨31, 0, .ro, 0⟩]⟩,
  ⟨"MAC_MG_CTL", 0xd200, 1, 4, [⟨0, 0, .ro, 0⟩, ⟨1, 1, .ro, 1⟩, ⟨2, 2, .ro, 1⟩, ⟨3, 3, .ro, 0⟩, ⟨4, 4, .ro, 0⟩, ⟨6, 5, .ro, 0⟩, ⟨12, 7, .ro, 5⟩, ⟨22, 13, .ro, 0xa⟩, ⟨30, 23, .ro, 0x20⟩]⟩,
  ⟨"MAC_MG_STAT", 0xd204, 1, 4, [⟨1, 0, .ro, 0⟩, ⟨2, 2, .ro, 0⟩, ⟨3, 3, .ro, 0⟩, ⟨4, 4, .ro, 0⟩, ⟨5, 5, .ro, 0⟩, ⟨6, 6, .ro, 0⟩]⟩,
  ⟨"MAC_MG_RXCNT", 0xd208, 1, 4, [⟨31, 0, .rc, 0⟩]⟩,
  ⟨"MAC_MG_TXCNT", 0xd20c, 1, 4, [⟨31, 0, .rc, 0⟩]⟩,
  ⟨"MAC_MG_ERR", 0xd210, 1, 4, [⟨7, 0, .rc, 0⟩, ⟨15, 8, .rc, 0⟩, ⟨23, 16, .rc, 0⟩, ⟨31, 24, .rc, 0⟩]⟩,
  ⟨"MAC_MG_WAKE", 0xd214, 1, 4, [⟨15, 0, .w1c, 0⟩, ⟨16, 16, .ro, 0⟩]⟩]

/-- The registers of block TIME. -/
def timeRegs : List RegDef := [
  ⟨"TIME_STAT", 0xe000, 1, 4, [⟨2, 0, .ro, 7⟩, ⟨3, 3, .ro, 0⟩, ⟨4, 4, .ro, 0⟩, ⟨5, 5, .ro, 0⟩, ⟨9, 6, .ro, 0⟩, ⟨13, 10, .ro, 0⟩, ⟨15, 14, .ro, 0⟩]⟩,
  ⟨"TIME_NOW_LO", 0xe004, 1, 4, [⟨31, 0, .ro, 0⟩]⟩,
  ⟨"TIME_NOW_HI", 0xe008, 1, 4, [⟨31, 0, .ro, 0⟩]⟩,
  ⟨"TIME_NOW_FRAC", 0xe00c, 1, 4, [⟨15, 0, .ro, 0⟩]⟩,
  ⟨"TIME_OFFSET", 0xe010, 1, 4, [⟨31, 0, .ro, 0⟩]⟩,
  ⟨"TIME_FREQ", 0xe014, 1, 4, [⟨31, 0, .ro, 0⟩]⟩,
  ⟨"TIME_HOLD_FREQ", 0xe018, 1, 4, [⟨31, 0, .ro, 0⟩]⟩,
  ⟨"TIME_REF_CNT", 0xe01c, 1, 4, [⟨7, 0, .rc, 0⟩, ⟨15, 8, .rc, 0⟩, ⟨23, 16, .rc, 0⟩, ⟨31, 24, .rc, 0⟩]⟩,
  ⟨"TIME_GM_LO", 0xe020, 1, 4, [⟨31, 0, .ro, 0⟩]⟩,
  ⟨"TIME_GM_HI", 0xe024, 1, 4, [⟨31, 0, .ro, 0⟩]⟩,
  ⟨"TIME_CORR_P0-P3", 0xe040, 4, 4, [⟨15, 0, .rws, 0⟩, ⟨31, 16, .rws, 0⟩]⟩,
  ⟨"TIME_CAP_LO_N0-N3", 0xe060, 4, 8, [⟨31, 0, .ro, 0⟩]⟩,
  ⟨"TIME_CAP_HI_N0-N3", 0xe064, 4, 8, [⟨31, 0, .ro, 0⟩]⟩,
  ⟨"TIME_TRIG_T0-T63", 0xe100, 64, 4, [⟨0, 0, .ro, 0⟩, ⟨1, 1, .ro, 0⟩, ⟨5, 2, .ro, 0⟩, ⟨13, 6, .ro, 0⟩, ⟨21, 14, .rc, 0⟩, ⟨29, 22, .rc, 0⟩]⟩]

/-- The registers of block BAT. -/
def batRegs : List RegDef := [
  ⟨"BAT_SPARE", 0xf000, 1, 4, [⟨1, 0, .ro, 2⟩, ⟨13, 8, .ro, 0x20⟩, ⟨21, 16, .ro, 0x21⟩]⟩,
  ⟨"BAT_FAULT", 0xf004, 1, 4, [⟨5, 0, .ro, 0⟩, ⟨7, 6, .ro, 0⟩, ⟨11, 8, .ro, 0⟩, ⟨23, 12, .ro, 0⟩]⟩,
  ⟨"BAT_FAULT_CNT", 0xf008, 1, 4, [⟨15, 0, .rc, 0⟩, ⟨23, 16, .rc, 0⟩]⟩,
  ⟨"BAT_ECC", 0xf00c, 1, 4, [⟨15, 0, .rc, 0⟩, ⟨23, 16, .rc, 0⟩]⟩,
  ⟨"BAT_STAT_C0-C33", 0xf100, 34, 4, [⟨1, 0, .ro, 0⟩, ⟨12, 8, .ro, 0⟩, ⟨17, 16, .ro, 0⟩]⟩,
  ⟨"BAT_MAP_L0-L31", 0xf200, 32, 4, [⟨5, 0, .ro, 0⟩, ⟨10, 8, .ro, 0⟩, ⟨20, 16, .ro, 0⟩]⟩,
  ⟨"BAT_PROG_L0-L31", 0xf280, 32, 4, [⟨31, 0, .ro, 0⟩]⟩,
  ⟨"BAT_RESV_L0-L31", 0xf300, 32, 4, [⟨23, 0, .ro, 0⟩]⟩,
  ⟨"BAT_USED_L0-L31", 0xf380, 32, 4, [⟨23, 0, .ro, 0⟩]⟩]

/-- The registers of block TWN. -/
def twnRegs : List RegDef := [
  ⟨"TWN_STAT", 0x10000, 1, 4, [⟨1, 0, .ro, 0⟩, ⟨2, 2, .ro, 0⟩, ⟨3, 3, .ro, 0⟩, ⟨4, 4, .ro, 0⟩, ⟨5, 5, .ro, 0⟩, ⟨6, 6, .ro, 0⟩, ⟨7, 7, .ro, 0⟩, ⟨9, 8, .ro, 0⟩, ⟨10, 10, .ro, 0⟩, ⟨11, 11, .ro, 0⟩, ⟨12, 12, .ro, 0⟩, ⟨13, 13, .ro, 0⟩]⟩,
  ⟨"TWN_CLAIM", 0x10004, 1, 4, [⟨31, 0, .ro, 0⟩]⟩,
  ⟨"TWN_PEER_CLAIM", 0x10008, 1, 4, [⟨31, 0, .ro, 0⟩]⟩,
  ⟨"TWN_HB_CNT", 0x1000c, 1, 4, [⟨15, 0, .rc, 0⟩, ⟨31, 16, .rc, 0⟩]⟩,
  ⟨"TWN_FRAME_CNT", 0x10010, 1, 4, [⟨15, 0, .rc, 0⟩, ⟨31, 16, .rc, 0⟩]⟩,
  ⟨"TWN_DRIFT_CNT", 0x10014, 1, 4, [⟨15, 0, .rc, 0⟩, ⟨23, 16, .rc, 0⟩]⟩,
  ⟨"TWN_DRIFT_BLK", 0x10018, 1, 4, [⟨7, 0, .ro, 0⟩]⟩,
  ⟨"TWN_TAKE_PICK_LO", 0x1001c, 1, 4, [⟨31, 0, .ro, 0⟩]⟩,
  ⟨"TWN_TAKE_PICK_HI", 0x10020, 1, 4, [⟨31, 0, .ro, 0⟩]⟩,
  ⟨"TWN_TAKE_CNT", 0x10024, 1, 4, [⟨15, 0, .rc, 0⟩, ⟨31, 16, .rc, 0⟩]⟩,
  ⟨"TWN_FRAME_LAT", 0x10028, 1, 4, [⟨15, 0, .ro, 0⟩]⟩,
  ⟨"TWN_CGRP_G0-G63", 0x10100, 64, 4, [⟨7, 0, .ro, 0⟩, ⟨8, 8, .ro, 0⟩, ⟨9, 9, .ro, 0⟩, ⟨31, 16, .rc, 0⟩]⟩]

/-- The registers of block LDG. -/
def ldgRegs : List RegDef := [
  ⟨"LDG_STAT", 0x11000, 1, 4, [⟨0, 0, .ro, 0⟩, ⟨1, 1, .ro, 0⟩, ⟨2, 2, .ro, 0⟩, ⟨3, 3, .ro, 0⟩, ⟨4, 4, .ro, 0⟩, ⟨5, 5, .ro, 0⟩, ⟨6, 6, .ro, 0⟩, ⟨7, 7, .ro, 0⟩]⟩,
  ⟨"LDG_CHAN_FA", 0x11004, 1, 4, [⟨7, 0, .ro, 0⟩, ⟨15, 8, .ro, 0⟩, ⟨17, 16, .ro, 0⟩]⟩,
  ⟨"LDG_CHAN_FB", 0x11008, 1, 4, [⟨7, 0, .ro, 0⟩, ⟨15, 8, .ro, 0⟩, ⟨17, 16, .ro, 0⟩]⟩,
  ⟨"LDG_MOUNT", 0x1100c, 1, 4, [⟨7, 0, .ro, 0⟩, ⟨15, 8, .ro, 0⟩, ⟨23, 16, .ro, 0⟩, ⟨31, 24, .ro, 0⟩]⟩,
  ⟨"LDG_ERR", 0x11010, 1, 4, [⟨7, 0, .rc, 0⟩, ⟨15, 8, .rc, 0⟩, ⟨23, 16, .rc, 0⟩, ⟨31, 24, .rc, 0⟩]⟩,
  ⟨"LDG_WEAR", 0x11014, 1, 4, [⟨16, 0, .ro, 0⟩, ⟨31, 17, .ro, 0x7fff⟩]⟩,
  ⟨"LDG_FREE", 0x11018, 1, 4, [⟨9, 0, .ro, 0⟩, ⟨19, 10, .ro, 0⟩, ⟨29, 20, .ro, 0⟩]⟩,
  ⟨"LDG_SCRUB", 0x1101c, 1, 4, [⟨15, 0, .ro, 0⟩, ⟨31, 16, .rc, 0⟩]⟩,
  ⟨"LDG_NONCE_LO", 0x11020, 1, 4, [⟨31, 0, .ro, 0⟩]⟩,
  ⟨"LDG_NONCE_HI", 0x11024, 1, 4, [⟨31, 0, .ro, 0⟩]⟩,
  ⟨"LDG_AUTH", 0x11028, 1, 4, [⟨7, 0, .rc, 0⟩, ⟨8, 8, .ro, 0⟩]⟩]

/-- The registers of block EVR. -/
def evrRegs : List RegDef := [
  ⟨"EVR_STAT", 0x12000, 1, 4, [⟨12, 0, .ro, 0⟩, ⟨17, 13, .ro, 0⟩]⟩,
  ⟨"EVR_SEQ_LO", 0x12004, 1, 4, [⟨31, 0, .ro, 0⟩]⟩,
  ⟨"EVR_SEQ_HI", 0x12008, 1, 4, [⟨31, 0, .ro, 0⟩]⟩,
  ⟨"EVR_ARCH_LO", 0x1200c, 1, 4, [⟨31, 0, .ro, 0⟩]⟩,
  ⟨"EVR_ARCH_HI", 0x12010, 1, 4, [⟨31, 0, .ro, 0⟩]⟩,
  ⟨"EVR_LOST", 0x12014, 1, 4, [⟨15, 0, .rc, 0⟩, ⟨31, 16, .rc, 0⟩]⟩]

/-- The registers of block MEM. -/
def memRegs : List RegDef := [
  ⟨"MEM_CORR_SUM", 0x13000, 1, 4, [⟨31, 0, .rc, 0⟩]⟩,
  ⟨"MEM_UNC_SUM", 0x13004, 1, 4, [⟨31, 0, .rc, 0⟩]⟩,
  ⟨"MEM_LOG_HEAD", 0x13008, 1, 4, [⟨7, 0, .ro, 0⟩, ⟨8, 8, .ro, 0⟩]⟩,
  ⟨"MEM_INJ", 0x1300c, 1, 4, [⟨7, 0, .rw, 0⟩, ⟨8, 8, .rw, 0⟩, ⟨9, 9, .rw, 0⟩]⟩,
  ⟨"MEM_INJ_ADDR", 0x13010, 1, 4, [⟨19, 0, .rw, 0⟩]⟩,
  ⟨"MEM_CNT_I0-I146", 0x13400, 147, 16, [⟨15, 0, .rc, 0⟩, ⟨31, 16, .rc, 0⟩]⟩,
  ⟨"MEM_LOC_I0-I146", 0x13404, 147, 16, [⟨19, 0, .ro, 0⟩, ⟨20, 20, .ro, 0⟩, ⟨28, 21, .ro, 0⟩]⟩,
  ⟨"MEM_REP_I0-I146", 0x13408, 147, 16, [⟨5, 0, .ro, 0⟩, ⟨13, 8, .ro, 0⟩]⟩,
  ⟨"MEM_SIZE_I0-I146", 0x1340c, 147, 16, [⟨20, 0, .ro, 0⟩]⟩,
  ⟨"MEM_LOG_TLO_E0-E255", 0x14000, 256, 16, [⟨31, 0, .ro, 0⟩]⟩,
  ⟨"MEM_LOG_THI_E0-E255", 0x14004, 256, 16, [⟨31, 0, .ro, 0⟩]⟩,
  ⟨"MEM_LOG_INFO_E0-E255", 0x14008, 256, 16, [⟨7, 0, .ro, 0⟩, ⟨8, 8, .ro, 0⟩, ⟨9, 9, .ro, 0⟩, ⟨23, 16, .ro, 0⟩]⟩,
  ⟨"MEM_LOG_ADDR_E0-E255", 0x1400c, 256, 16, [⟨19, 0, .ro, 0⟩]⟩]

/-- The rows of the block that holds a BAR0 offset (19_register_map R618); none past MEM. -/
def blockRegs (off : Nat) : List RegDef :=
  match off / 0x1000 with
  | 0 => sysRegs
  | 1 => trdRegs
  | 2 => hifRegs
  | 3 => mbxRegs
  | 4 => shtRegs
  | 5 => bobRegs
  | 6 => xbrRegs
  | 7 => loomRegs
  | 8 => reedRegs
  | 9 => hedRegs
  | 10 => fchRegs
  | 11 => aesRegs
  | 12 => tdmRegs
  | 13 => macRegs
  | 14 => timeRegs
  | 15 => batRegs
  | 16 => twnRegs
  | 17 => ldgRegs
  | 18 => evrRegs
  | 19 => memRegs
  | 20 => memRegs
  | _ => []

/-- Whether an offset is a register of a row. -/
def RegDef.has (r : RegDef) (off : Nat) : Bool :=
  decide (r.base ≤ off) && decide ((off - r.base) % r.stride = 0) && decide ((off - r.base) / r.stride < r.count)

/-- The row of the register at an offset; none at an unallocated address (00_scope R7). -/
def regDef? (off : Nat) : Option RegDef := (blockRegs off).find? (fun r => r.has off)

/-- The position of the register at an offset within its row. -/
def RegDef.indexOf (r : RegDef) (off : Nat) : Nat := (off - r.base) / r.stride

/-- The value of the Reset column. -/
def RegDef.resetWord (r : RegDef) : Word :=
  r.fields.foldl (fun w f => w ||| BitVec.ofNat 32 (f.reset <<< f.lo)) 0

/-- The bits of a field. -/
def FieldDef.mask (f : FieldDef) : Word := BitVec.ofNat 32 ((2 ^ (f.hi + 1 - f.lo) - 1) <<< f.lo)

/-- The bits of a register whose field has an access type of the list. -/
def RegDef.maskOf (r : RegDef) (as : List Access) : Word :=
  (r.fields.filter (fun f => as.contains f.access)).foldl (fun w f => w ||| f.mask) 0

/-- The bits that belong to some field; the others are reserved and read 0 (00_scope R7). -/
def RegDef.used (r : RegDef) : Word := r.fields.foldl (fun w f => w ||| f.mask) 0

end Sys2Proof.Machine
end

