-- ==== Sys2Proof/Machine/Types.lean ====
section
/-!
DEFINITION. Sys2Proof/Machine/Types.lean: the plain-data records that State is made of, chapter by chapter of spec/. Device
times are in units of 2^-16 ns, picks and samples are whole numbers (01_architecture R28–R30).
-/
namespace Sys2Proof.Machine

/-! ### Modes and transitions (18_power_modes) -/

/-- The six operating modes (R601). -/
inductive Mode where
  | dormant | measure | lead | shadow | pass | maintain
  deriving DecidableEq, Repr

/-- Mode codes (R601, 14_host_interface R456). -/
def Mode.code : Mode → Nat
  | .dormant => 0 | .measure => 1 | .lead => 2 | .shadow => 3 | .pass => 4 | .maintain => 5

/-- The mode of a code 0–5. -/
def Mode.ofCode : Nat → Option Mode
  | 0 => some .dormant | 1 => some .measure | 2 => some .lead | 3 => some .shadow | 4 => some .pass
  | 5 => some .maintain | _ => none

/-- An accepted command that has not completed (14_host_interface R452, R453): what its completion will carry. -/
structure Waiter where
  id : Nat
  ring : Nat
  gen : Nat
  tag : Nat
  opcode : Nat
  noirq : Bool
  deriving DecidableEq, Repr

/-- A MODE_SET (or a FW_ACTIVATE's mode) that waits or runs (R605, R606). -/
structure ModeReq where
  target : Mode
  /-- The named render pick; 0 the next one. -/
  pick : Nat
  /-- RESUME of a MODE_SET to Dormant; 0 selects TRD_CFG.RESUME. -/
  resume : Nat
  who : Option Waiter
  deriving DecidableEq, Repr

structure ModeS where
  mode : Mode
  /-- Start-up (R602). -/
  start : Bool
  /-- In Maintain: the mode whose data plane runs (TRD_MODE.UNDER). -/
  under : Mode
  /-- The mode held before Maintain. -/
  before : Mode
  /-- The transition in progress (R605), and the render pick at which it takes effect once that is fixed. -/
  trans : Option ModeReq
  transPick : Option Nat
  /-- The MODE_SET that waits (R606). -/
  held : Option ModeReq
  /-- RESUME of the MODE_SET that entered Dormant. -/
  resumeOv : Option Mode
  /-- TRD_MODE.WAKE. -/
  wake : Nat
  /-- In Dormant by thermal trip, and the mode held at the trip (R594). -/
  thermal : Bool
  tripMode : Mode
  /-- The trip came in start-up, or before the core domain was released: start-up goes on after the hold. -/
  tripStart : Bool
  /-- When a Batten core last faulted (17_ledger_recorder R569). -/
  lastFault : Option Nat
  /-- Core domain powered and out of reset. -/
  coreOn : Bool
  /-- Core domain in retention (Dormant, R607). -/
  retention : Bool
  /-- Control plane running; FW_READY; the management processor serving the rings (R454, R602). -/
  cpRun : Bool
  fwReady : Bool
  maint : Bool
  /-- Recovery boot (17_ledger_recorder R568), and the slot that runs: 0 A, 1 B. -/
  recovery : Bool
  slot : Nat
  /-- The running image is on trial (R569). -/
  trial : Bool
  /-- When FW_READY rose. -/
  readyAt : Option Nat
  /-- The mode FW_ACTIVATE or MODE_SET asked for on leaving Maintain. -/
  afterReady : Option ModeReq
  /-- Data plane running, and its render pick in progress (R602, 19_register_map R625). -/
  dpRun : Bool
  pick : Nat
  /-- A start of the data plane is due at this pick (R602, R608). -/
  startPick : Option Nat
  /-- Lead-out towards Dormant in progress (R607). -/
  leadOut : Bool
  deriving DecidableEq, Repr

/-! ### Power (18_power_modes) -/

/-- One row of the rail table (R616): DELAY in 0.1 ms, TIMEOUT and OFF_DELAY in ms. -/
structure RailRow where
  delay : Nat
  timeout : Nat
  offDelay : Nat
  deriving DecidableEq, Repr

/-- Where the rail sequencer stands (R585–R587). -/
inductive Sequencer where
  /-- Nothing to do: all rails off or all good. -/
  | idle
  /-- Rail `k` enabled since `since`, waiting for its good level and delay. -/
  | rising (k since : Nat)
  /-- All rails up; the last one good since `since`, the core domain not yet released. -/
  | settled (since : Nat)
  /-- Waiting since `since`, for `ms` milliseconds, for the retry or restart. -/
  | waiting (since ms : Nat)
  /-- Three attempts failed. -/
  | off
  deriving DecidableEq, Repr

/-- One regulator (R588). -/
structure Regulator where
  addr : Nat
  vout : Nat
  iout : Nat
  temp : Int
  fails : Nat
  deriving DecidableEq, Repr

/-- The voltage setting of R590. -/
inductive Avs where
  | loop
  | fixed (mv : Nat)
  deriving DecidableEq, Repr

/-- A sequence down (R586): the rails from `lo` up fall from `from_` on, in descending order; the levels of PWR_EN and PWR_GOOD before it. -/
structure RailFall where
  from_ : Nat
  lo : Nat
  en : Nat
  good : Nat
  deriving DecidableEq, Repr

structure PowerS where
  /-- Levels of PWR_EN[7:0] and PWR_GOOD[7:0] (R584). -/
  en : Nat
  good : Nat
  /-- The latest sequence down; `en` and `good` are the levels that stand once it is over. -/
  fall : Option RailFall
  /-- REFCLK met R655 in time at the always-on feed's rise (21_electrical R656). -/
  refOk : Bool
  /-- Rail table in force and the one that RAIL_CFG left for the next start (R617). -/
  rails : List RailRow
  nextRails : Option (List RailRow × List Nat)
  imax : Nat
  thot : Nat
  seq : Sequencer
  attempts : Nat
  faultRail : Nat
  fault : Bool
  regs : List Regulator
  /-- VDD_CORE set point in mV (R589), the AVS setting (R590), the hold of R58 since its last overrun. -/
  vset : Nat
  avs : Avs
  holdSince : Option Nat
  /-- The eight junction sensors, 0.25 °C (R593). -/
  temps : List Int
  hot : Bool
  shedTaken : Bool
  hotSince : Option Nat
  /-- Thermal steps taken since `hotSince`. -/
  hotSteps : Nat
  coolSince : Option Nat
  overCount : Nat
  overSince : Option Nat
  overSteps : Nat
  vaonA : Bool
  vaonB : Bool
  pfail : Bool
  faultN : Bool
  /-- PE_WAKE_N asserted (R441). -/
  wakeN : Bool
  /-- RESET_N held low. -/
  inReset : Bool
  resetCause : Nat
  straps : Nat
  /-- Firmware write sequence (R610–R613): open, next offset, verified, slot, image bytes so far. -/
  fwOpen : Bool
  fwNext : Nat
  fwVerified : Bool
  fwSlot : Nat
  fwData : List Byte
  deriving DecidableEq, Repr

/-! ### Budget (02_pick_budget) -/

/-- What one engine did in one pick (R26, R51, R56). -/
structure EngineUse where
  started : Bool
  finished : Bool
  used : Nat
  fin : Nat
  /-- Device time of its finish. -/
  at_ : Nat
  deriving DecidableEq, Repr

structure BudgetS where
  target : Nat
  xfade : Nat
  /-- Highest of the shedding steps 1–3 in force (R59), and whether step 4 is. -/
  shed : Nat
  shedRender : Bool
  /-- Deadlines of the overruns counted towards R59. -/
  counted : List Nat
  /-- A third overrun waits for SHEDDING_STEP: the pick whose overrun completed the count. -/
  due : Option Nat
  lastOverrun : Option Nat
  overruns : Nat
  cause : Nat
  /-- E0–E7 in the pick in progress, and in the last completed pick. -/
  cur : List EngineUse
  last : List EngineUse
  lastSlack : Nat
  lastEng : Nat
  /-- Latched by SYS_SLACK_LAST (R63). -/
  latched : List EngineUse
  latchedSlack : Nat
  latchedEng : Nat
  /-- AVS window: minimum slack and picks counted (R53). -/
  winMin : Nat
  winCount : Nat
  /-- Minimum since the last BUDGET_QUERY. -/
  qMin : Nat
  deriving DecidableEq, Repr

/-! ### Time base (13_time) -/

/-- One time trigger (R424, R431). -/
structure Trig where
  armed : Bool
  late : Bool
  /-- It has fired once with PERIOD 0 since it was last armed or disarmed (R422, R429). -/
  fired : Bool
  /-- T and PERIOD in ns. -/
  at_ : Nat
  action : Nat
  arg : Nat
  period : Nat
  deriving DecidableEq, Repr

/-- One edge capture (R426, R431). -/
structure Capture where
  ns : Nat
  valid : Bool
  missed : Bool
  /-- A capture that a trigger has requested and no edge has met: the pin's edge (true falling). -/
  wait : Option Bool
  deriving DecidableEq, Repr

/-- The last two-way exchange of the PTP slave (R411, R412): t1 to t4, in 2^-16 ns. -/
structure PtpExchange where
  t1 : Option Nat
  t2 : Option Nat
  t3 : Option Nat
  t4 : Option Nat
  syncSeq : Nat
  delaySeq : Nat
  deriving DecidableEq, Repr

structure TimeS where
  /-- Device time in 2^-16 ns. -/
  now : Nat
  /-- Render rate in force (true 96 kHz), pick length, and the pending pair of R32. -/
  rate96 : Bool
  pickLen : Nat
  pendRate : Option (Bool × Nat)
  /-- Device time has been set (17_ledger_recorder R562). -/
  everSet : Bool
  /-- Selected reference, lock, holdover, far (R431); valid references 0–3. -/
  sel : Option Nat
  lock : Bool
  hold : Bool
  far : Bool
  valid : List Bool
  /-- When each reference was last seen without a condition of R417: the start of its clean time. -/
  cleanSince : List (Option Nat)
  /-- The last two Sync messages (0) and PPS_IN edges (1), newest first: what the rows show of a reference's period (R415, R417). -/
  edges : NMap (List Nat)
  /-- When the device locked to its reference, and when its frequency was last changed (R419, R421). -/
  lockAt : Nat
  freqAt : Nat
  ptpState : Nat
  ptpPort : Nat
  gm : DWord
  prio : List Nat
  revert : Bool
  aes67 : Bool
  eth : Bool
  masterCap : Bool
  domain : Nat
  pri1 : Nat
  pri2 : Nat
  cfgPort : Nat
  backup : Nat
  backupEn : Bool
  portUpSince : Option Nat
  /-- Start of the announce receipt timeout. -/
  lastAnnounce : Option Nat
  servoSince : Option Nat
  /-- The master that the port follows: its port identity, its data set as announced, most significant member first (R411), and the
  correction field of its last two-step Sync. -/
  parent : Nat
  dataset : List Nat
  syncCorr : Int
  exch : PtpExchange
  /-- Frequency against REFCLK and the frozen one, in 1/1,024 ppb; filtered offset in ns (R431). -/
  freq : Int
  holdFreq : Int
  offset : Int
  /-- Checkpoints of R419: device time and mean frequency. -/
  marks : List (Nat × Int)
  trigs : NMap Trig
  caps : NMap Capture
  /-- PTP messages sent: sequence numbers and the last message of each kind (R411). -/
  seqSync : Nat
  seqAnn : Nat
  seqDelay : Nat
  sent : NMap (List Byte)
  /-- GPIO outputs: driven pins and levels (R425). -/
  gpioDrive : Nat
  gpioLevel : Nat
  deriving DecidableEq, Repr

/-! ### Host interface (14_host_interface) -/

structure Ring where
  en : Bool
  depth : Nat
  nch : Nat
  head : Nat
  tail : Nat
  gen : Nat
  phase : Bool
  cfgErr : Bool
  /-- Doorbell stamps of the visible entries, oldest first (R445). -/
  stamps : List Nat
  deriving DecidableEq, Repr

/-- A command in the Maintain hold queue (R454): read and not accepted, with its doorbell stamp. -/
structure Held where
  i : Instr
  stamp : Nat
  w : Waiter
  deriving DecidableEq, Repr

/-- A parameter set that is loaded into an inactive copy (01_architecture R18–R20). -/
inductive ParamSet where
  | layout | route | reed | fch
  | bat (lcore : Nat)
  deriving DecidableEq, Repr

/-- A load in progress (R666): the command has been read and not accepted (R439) until IMAGE_LOAD_COMMIT. -/
structure Load where
  set : ParamSet
  w : Waiter
  /-- The image bytes read from ADDR, and those of TADDR. -/
  img : List Byte
  tbl : List Byte
  /-- The output of REED_OUT_LOAD, or BAT_LOAD's flags. -/
  arg : Nat
  deriving DecidableEq, Repr

/-- PCIe completions of an inbound access: with data, Unsupported Request, Completer Abort, poisoned data (14_host_interface R436, R437;
15_fabric R478). -/
inductive CplKind where
  | done | unsupported | abort | poisoned
  deriving DecidableEq, Repr

structure HostS where
  rings : NMap Ring
  /-- Completions held by R448: 15 bytes of the entry with phase 0, and NOIRQ. -/
  heldCpl : List (List Byte × Bool)
  /-- Events not written to EVQ0 since the last 0x0904 entry, and the sequence of the first (R448). -/
  evLost : Nat
  evLostFirst : Nat
  /-- The Maintain hold queue (R454). -/
  holdQ : List Held
  /-- Accepted commands that have not completed. -/
  accepted : List Waiter
  /-- Loads in progress. -/
  loads : List Load
  nextId : Nat
  /-- Completions written but not signalled, and when the oldest was written (R464). -/
  unsig : Nat
  unsigSince : Nat
  /-- MSI-X table as dwords (R632), pending bits, and messages sent per vector. -/
  msix : NMap Word
  msixPend : NMap Bool
  msixSent : NMap Nat
  /-- Host mailboxes 0–7 (R465) and device notices that wait for room (R468). -/
  mbx : NMap (List DWord)
  mbxWait : List (Nat × DWord)
  /-- Start of the running watchdog period, and EXPIRED (R469). -/
  wdogFrom : Option Nat
  wdogExpired : Bool
  linkUp : Bool
  linkLost : Bool
  width : Nat
  speed : Nat
  d3hot : Bool
  l2 : Bool
  /-- PE_PERST_N is asserted (R438). -/
  perst : Bool
  /-- PME messages signalled (R441). -/
  pme : Nat
  /-- HIF_EPOCH.DEVICE. -/
  epoch : Nat
  /-- R8 latches and R9 held low halves: key master × 2^17 + offset. -/
  latches : NMap Word
  holds : NMap Word
  /-- Last value that a read returned, per master: the bus's answer, an output of the block. -/
  answer : NMap Word
  /-- How the last access from PCIe inbound completed, and errors reported through AER (R436, R437, R478): outputs of the block. -/
  cpl : CplKind
  aer : Nat
  /-- HAQ underrun episodes, per ring 0–15 (R460). -/
  haqUnder : NMap Bool
  /-- Host memory written by the device. -/
  mem : List Host.Cell
  deriving DecidableEq, Repr

/-! ### Recorder (17_ledger_recorder R570–R574) -/

structure EvRec where
  time : Nat
  code : Nat
  source : Nat
  rep : Nat
  sev : Nat
  closed : Bool
  staged : Bool
  archived : Bool
  /-- Bytes 16–31. -/
  args : List Byte
  /-- Last occurrence, for the close timer, and when it closed. -/
  lastT : Nat
  closedAt : Nat
  /-- The instant of posting: the 40 ns edge at which the post is taken (R570). -/
  edge : Nat
  /-- EVQ0 has had it (log 54). -/
  told : Bool
  deriving DecidableEq, Repr

structure EvrS where
  /-- Records in RAM, keyed by recorder sequence. -/
  ram : NMap EvRec
  nextSeq : Nat
  fifo : List EvRec
  /-- Posts discarded at a full FIFO, with the times of the first and the last. -/
  lost : Nat
  lostFirst : Nat
  lostLast : Nat
  /-- The 40 ns edge of the latest RAM write, as a count of periods. -/
  lastEdge : Option Nat
  deriving DecidableEq, Repr

/-! ### Ledger (17_ledger_recorder R547–R569) -/

/-- One record of a log sector: its fields, and whether each channel's copy is valid by R553. -/
structure FlashRec where
  typ : Nat
  key : Nat
  seq : Nat
  payload : List Byte
  okA : Bool
  okB : Bool
  /-- Both copies valid and different (R549). -/
  differ : Bool
  deriving DecidableEq, Repr

/-- One 64 KiB sector in use: number, erase count, opening second, end of its records, and the records. -/
structure Sector where
  id : Nat
  erases : Nat
  opened : Nat
  tail : Nat
  recs : List FlashRec
  deriving DecidableEq, Repr

/-- A log region: erased sectors (number, erase count), the open sector last in `used`, oldest first. -/
structure Region where
  free : List (Nat × Nat)
  used : List Sector
  deriving DecidableEq, Repr

/-- One firmware slot: the bytes written so far; erased bytes read 0xFF. -/
structure FwSlot where
  image : List Byte
  deriving DecidableEq, Repr

structure BootRecord where
  active : Nat
  trial : Nat
  attempted : Nat
  subVendor : Nat
  subId : Nat
  latch : List Nat
  deriving DecidableEq, Repr

/-- What happens once a ledger job has ended. -/
inductive AfterJob where
  | nothing
  /-- The command completes with OK and these result words. -/
  | complete (w : Waiter) (r0 r1 : Nat)
  /-- FW_ACTIVATE: the command completes and the control plane restarts (18_power_modes R613). -/
  | activate (w : Waiter) (req : ModeReq)
  /-- A batch of the archive: records of sequence below this are archived (R574). -/
  | archived (upto : Nat) (w : Option Waiter)
  /-- EVR_CLEAR: the recorder empties (R579). -/
  | cleared (w : Waiter) (nonce : Nat)
  /-- LDG_ERASE of a region (R579). -/
  | erased (region : Nat) (w : Waiter)
  /-- The last record of a named set (R563, R564): for each item, its code, what told its active copy when the save began, and the SEQ of the
  last part that holds some of it. -/
  | setSaved (w : Waiter) (items : List (Nat × List Nat × Nat))
  /-- FW_VERIFY, in its turn behind the writes before it (18_power_modes R612). -/
  | verify (w : Waiter)
  deriving DecidableEq, Repr

/-- One mirrored flash operation still to be done. -/
inductive FlashOp where
  /-- Header and payload of a record, not yet committed. -/
  | program (region : Nat) (r : FlashRec)
  /-- The commit byte of the record. -/
  | commit (region : Nat) (r : FlashRec)
  /-- The erase-begun entry, the erase, or the erase-done entry of a region's sector (R555). -/
  | eraseBegun (region sector : Nat)
  | erase (region sector : Nat)
  | eraseDone (region sector : Nat)
  /-- Firmware slot: a program of bytes at an offset (R610). Its sectors are those of regions 5 (slot A) and 6 (slot B). -/
  | fwProgram (slot off : Nat) (bytes : List Byte)
  deriving DecidableEq, Repr

structure LJob where
  ops : List FlashOp
  after : AfterJob
  /-- A write that R583 counts among the 64 waiting. -/
  write : Bool
  /-- The operation at the head has read back unequal once (R554). -/
  retried : Bool := false
  deriving DecidableEq, Repr

/-- A channel (LDG_CHAN_FA, LDG_CHAN_FB). -/
structure Channel where
  mfr : Nat
  density : Nat
  /-- 0 absent, 1 in use, 2 refused, 3 failed. -/
  state : Nat
  /-- Consecutive errors while the other channel succeeded (R550). -/
  errs : Nat
  deriving DecidableEq, Repr

/-- The lifetime counters (R566). -/
structure Counters where
  seconds : Nat
  cycles : Nat
  takeovers : Nat
  demotions : Nat
  refLoss : List Nat
  overruns : Nat
  coreFaults : Nat
  flushes : Nat
  hist : NMap Nat
  runS : NMap Nat
  limS : NMap Nat
  deriving DecidableEq, Repr

structure LdgS where
  fa : Channel
  fb : Channel
  mounted : Bool
  mounting : Bool
  /-- The mount follows a start of the always-on domain, not a RESET_N reset: it restores the lifetime counters (R566). -/
  cold : Bool
  rebuild : Bool
  scrub : Bool
  flush : Bool
  /-- Instant at which the flush began, and records left to archive by it. -/
  flushAt : Nat
  /-- The mount found a flush that was cut short (R576): a flush was running when the supply went. -/
  flushCut : Bool
  /-- Regions by code 0–4 (R551). -/
  regions : List Region
  spare : Nat
  /-- Erases begun and not done: region and sector (R555). -/
  openErase : List (Nat × Nat)
  slotA : FwSlot
  slotB : FwSlot
  seq : Nat
  jobs : List LJob
  /-- Commands that wait for the mount (R556). -/
  waiting : List (Instr × Waiter)
  mTorn : Nat
  mReerased : Nat
  mMarginal : Nat
  mReloc : Nat
  lastScrub : Option Nat
  lifeWarned : Bool
  /-- Erases of the last 24 h of powered time (R560): region, powered second, how many. -/
  erased : List (Nat × Nat × Nat)
  cnt : Counters
  /-- Milliseconds towards the next powered second; samples towards the next run second per output; engaged picks' samples. -/
  ms : Nat
  runAcc : NMap Nat
  limAcc : NMap Nat
  nonce : Nat
  nonceRead : Option Nat
  /-- Security version to which firmware has raised the OTP minimum (R569). -/
  otpRaised : Nat
  authHold : Option Nat
  deriving DecidableEq, Repr

/-! ### Objects (03_objects) -/

/-- Applied object state (R68). Gain in 1/256 dB, −32,768 being mute; law 0 facet, 1 wave, 2 pinned; glide in 1/64 sample. -/
structure ObjState where
  x : Int
  y : Int
  z : Int
  gain : Int
  spread : Nat
  law : Nat
  pin : Nat
  zones : Nat
  air : Bool
  glide : Nat
  deriving DecidableEq, Repr

/-- What OBJ_QUERY reports of the last update (R96). -/
structure ObjInfo where
  pick : Nat
  seq : Nat
  ring : Nat
  late : Bool
  lagged : Bool
  sample : Nat
  deriving DecidableEq, Repr

/-- A checked update record (R69, R74): the record's bytes, its sequence number in its ring's Shuttle flow (R81), its input sample, sample
position and render pick, whether it was in time by R76, and once released, its place in the order of release and the instant. -/
structure ObjUpdate where
  ring : Nat
  seq : Nat
  bytes : List Byte
  k : Nat
  pos : Nat
  q : Nat
  now : Bool
  inTime : Bool
  rel : Nat
  relAt : Nat
  deriving DecidableEq, Repr

structure ObjS where
  applied : NMap ObjState
  info : NMap ObjInfo
  /-- Expected SEQ per ring; unlisted before the first record (R73). -/
  expect : NMap Nat
  /-- Checked records that wait for release, per ring, in ring order (R81). -/
  checked : NMap (List ObjUpdate)
  /-- Released updates in the pending store (R79). -/
  store : List ObjUpdate
  /-- The updates that the pick in progress took in, in the order of R83, and the applied states before them: a release at the instant of
  the pick's start joins them (R77). -/
  taken : List ObjUpdate
  prior : NMap ObjState
  relCtr : Nat
  /-- Control lag L, the last nonzero L shown, the indication, the largest L of the episode, picks with L at 0 (R86). -/
  lag : Nat
  shown : Nat
  raised : Bool
  peak : Nat
  quiet : Nat
  /-- Render pick in progress when the control plane last restarted from Maintain (R91). -/
  freezeEnd : Nat
  deriving DecidableEq, Repr

/-! ### Loom (04_loom_geometry, 05_loom_crosspoints) -/

structure Vertex where
  x : Int
  y : Int
  z : Int
  nx : Int
  ny : Int
  nz : Int
  out : Nat
  zmem : Nat
  deriving DecidableEq, Repr

/-- A layout image, as loaded and as read (R97). -/
structure Layout where
  img : List Byte
  nearR : Nat
  centreR : Nat
  airK : Nat
  shelfFc : Nat
  shelfG : Nat
  waveS : Nat
  delayOfs : Nat
  id : Nat
  nz : Nat
  verts : List Vertex
  facets : List (Nat × Nat × Nat)
  rows : List (Nat × Nat)
  ents : List (Nat × Nat)
  deriving DecidableEq, Repr

/-- A crosspoint state entry (R135). -/
structure Xp where
  gcur : Nat
  gtgt : Nat
  dcur : Nat
  dtgt : Nat
  live : Bool
  defer : Bool
  deriving DecidableEq, Repr

/-- Filters of one render input (R117, R120, R125): the low-pass output, and the shelf's last input and output, scaled by 2^64. -/
structure InFilter where
  air : Int
  x1 : Int
  y1 : Int
  deriving DecidableEq, Repr

structure LoomS where
  active : Layout
  /-- The inactive copy: a committed image that waits (`loaded`), or the layout that was active before the last swap (R133). -/
  inactive : Option Layout
  loaded : Bool
  swapPick : Nat
  invalid : Bool
  /-- Speed of sound in mm/s. -/
  sos : Nat
  /-- Ceilings that differ from `ceilDef` (R137), and the new ceilings of inputs lowered in this pick (R141). -/
  ceil : NMap Nat
  ceilDef : Nat
  lower : NMap Nat
  xp : NMap Xp
  /-- Delay line per input, newest sample first, at most 8,192; and the line slot written next. -/
  lines : NMap (List Int)
  slot : Nat
  /-- Filtered samples of the current pick. -/
  cur : NMap (List Int)
  filt : NMap InFilter
  /-- Rendered law per input in the last pick: 0 facet, 1 wave, 2 pinned. -/
  law : NMap Nat
  /-- Episodes of R116, R124, R140, and R148. -/
  fallEp : NMap Bool
  satEp : NMap Bool
  defEp : NMap Bool
  poolEp : Bool
  /-- The layout swap of this pick was requested with RECUT. -/
  recut : Bool
  /-- Poisoned delay-line words: input and slot, and those found in this pick (R159); poisoned entries of this pick (R160). -/
  poisonLine : List (Nat × Nat)
  foundLine : List (Nat × Nat)
  poisonXp : List Nat
  /-- Output sums of the last pick, N words per output, and each output's last word. -/
  sums : NMap (List Int)
  lastSum : NMap Int
  /-- The snapshot awaited by LOOM_XP_SEL (R163), and dumps (R165): waiter, address, first input, count. -/
  sel : Bool
  dumps : List (Waiter × Nat × Nat × Nat)
  deriving DecidableEq, Repr

/-! ### Reed (06_reed) -/

/-- Settings of one output (R166, R167): TRIM in 1/256 dB, −32,768 being mute. -/
structure OutCfg where
  en : Bool
  limEn : Bool
  delay : Nat
  trim : Int
  thresh : Int
  attack : Nat
  release : Nat
  deriving DecidableEq, Repr

/-- One output's entry in a bank (R179, R180): the words of its coefficient block, signed Q1.31, in image order. -/
structure BankEntry where
  gen : Nat
  taps : Nat
  /-- OFFSET as the image that brought the entry gave it. -/
  ofs : Nat
  coef : List Int
  /-- Words of 8 bytes that a double-bit error has poisoned (R204). -/
  bad : List Nat
  deriving DecidableEq, Repr

/-- A coefficient bank (R178–R181); no entry is TAPS 0 and GEN 0. -/
structure ReedBank where
  id : Nat
  long : Bool
  dir : NMap BankEntry
  deriving DecidableEq, Repr

/-- A word of an output's input spectra that a double-bit error has struck (R204): block size of its class, block, bin, and the sample from
which it has been replaced. -/
structure LostBin where
  cls : Nat
  block : Nat
  bin : Nat
  till : Nat
  deriving DecidableEq, Repr

/-- Signal state of one output (R166–R176, R194): the alignment line and the filter history, newest sample first, the ages of the samples that
the head reads as 0 and the spectrum words that read as 0 (R204), the limiter gain (unsigned Q1.23), the trim in force at the end of the last
pick, and what this pick's changes need: the old delay of a crossfaded delay change, and whether the output is being disabled. -/
structure Chain where
  line : List Int
  hist : List Int
  headBad : List Nat
  lost : List LostBin
  g : Nat
  trim : Int
  oldDelay : Option Nat
  fading : Bool
  deriving DecidableEq, Repr

/-- A measurement run (R197–R201). Samples captured so far per channel, and the render picks at which capture and deconvolution
began. -/
structure MeasRun where
  w : Waiter
  addr : Nat
  chans : Nat
  len : Nat
  irLen : Nat
  reg : Nat
  trig : Nat
  srcs : List Nat
  start : Option Nat
  caps : NMap (List Int)
  decon : Option Nat
  deriving DecidableEq, Repr

structure ReedS where
  cfg : NMap OutCfg
  chain : NMap Chain
  bankA : ReedBank
  bankB : ReedBank
  /-- Active bank: 0 A, 1 B (R178). -/
  active : Nat
  /-- A committed bank waits in the inactive bank. -/
  loaded : Bool
  /-- Pick of the pending or the last swap (REED_SWAP_PICK). -/
  swapPick : Nat
  /-- The outputs that crossfade in this pick, from the bank that was active (R189), and whether a crossfade ran in the last one. -/
  xfade : List Nat
  xfadeRan : Bool
  meas : Option MeasRun
  /-- Some output clipped in the last pick (R196). -/
  clipEp : Bool
  /-- Render outputs of the current pick, N words each, and each output's last input and output word. -/
  outs : NMap (List Int)
  lastIn : NMap Int
  lastOut : NMap Int
  /-- The snapshot awaited by REED_OUT_SEL (R207). -/
  sel : Bool
  deriving DecidableEq, Repr

/-! ### Heddle (07_heddle) -/

/-- A route entry (R226): GAIN in 1/256 dB, −32,768 being mute; MODE 0 zero crossing, 1 ramp, 2 step; TIMEOUT in 0.1 ms. -/
structure RouteEnt where
  src : Nat
  dst : Nat
  gain : Int
  mode : Nat
  hard : Bool
  cut : Bool
  inv : Bool
  timeout : Nat
  deriving DecidableEq, Repr

/-- A route set: its valid entries by INDEX. -/
structure RouteSet where
  id : Nat
  ents : NMap RouteEnt
  deriving DecidableEq, Repr

/-- How a route's gain word moves in this pick (R231–R235). -/
inductive RouteMove where
  /-- At this word throughout. -/
  | hold (w : Nat)
  /-- From one word to another across the pick (R234). -/
  | ramp (a b : Nat)
  /-- Fading in, or out, by the path weight (R231). -/
  | fadeIn (w : Nat)
  | fadeOut (w : Nat)
  /-- Held at `a` until a zero crossing; `left` samples of the source remain to the deadline (R235). -/
  | zero (a b left : Nat)
  /-- Stepped at its deadline, which ZC_DEADLINE has still to count. -/
  | stepped (b : Nat)
  deriving DecidableEq, Repr

/-- A route in force, keyed by its source, destination and polarity (R231), its INDEX, its move, and the poisoning of its entry
(R245): the sample from which it contributes zero, whether the copy in general memory is unreadable too. -/
structure RouteRun where
  idx : Nat
  ent : RouteEnt
  move : RouteMove
  poison : Option Nat
  lost : Bool
  deriving DecidableEq, Repr

/-- Input filters of one source (R212): the DC blocker's last input and output, the high-pass's last two of each. -/
structure SrcFilter where
  dx : Int
  dy : Int
  x1 : Int
  x2 : Int
  y1 : Int
  y2 : Int
  deriving DecidableEq, Repr

structure HeddleS where
  active : RouteSet
  /-- The inactive copy: what a ROUTE_LOAD committed, or the former active set (R229); `loaded` tells the first (R247). -/
  inactive : Option RouteSet
  loaded : Bool
  swapPick : Nat
  invalid : Bool
  /-- High-pass selections 0–4 by source code (R214). -/
  hpf : NMap Nat
  filt : NMap SrcFilter
  /-- Routes in force in this pick. -/
  routes : List RouteRun
  /-- Samples that ports, streams, host audio and the filter chain deliver in the pick in progress, oldest first; those of the pick
  before, which this render pick reads; and this pick's filtered samples, by source code. -/
  cap : NMap (List Int)
  inp : NMap (List Int)
  src : NMap (List Int)
  /-- Last sample, after input filters, of each source that a route read in the pick before (R235). -/
  prev : NMap Int
  /-- Last sample of each captured source as an internal word; for a port, the last that it accepted (11_audio_ports R349). -/
  lastCap : NMap Int
  /-- Cut-through entries before the last swap, and the sample from which the present ones run (R243). -/
  cutWas : List RouteEnt
  cutFrom : Nat
  /-- Input-pass sums per destination (R217), and bus samples. -/
  acc : NMap (List Int)
  bus : NMap (List Int)
  /-- Destination samples of this pick, those that leave in the pick in progress, and each destination's last sample. -/
  out : NMap (List Int)
  play : NMap (List Int)
  lastOut : NMap Int
  /-- Output-pass sums into Batten inputs, which the next render pick reads (R222). -/
  batNext : NMap (List Int)
  /-- Those of the pick in progress. -/
  batOut : NMap (List Int)
  /-- Source codes whose samples are poisoned in this pick: code and sample (R246). -/
  poison : List (Nat × Nat)
  /-- Snapshots awaited by HED_SRC_SEL and HED_ROUTE_SEL (R248). -/
  selSrc : Bool
  selRoute : Bool
  deriving DecidableEq, Repr

/-! ### Filter chain (08_filter_chain) -/

/-- A coefficient bank (R266): its image, none for the default bank of R268; words that a double-bit error has poisoned. -/
structure FchBank where
  id : Nat
  t1 : Nat
  t2 : Nat
  ft : Nat
  img : Option (List Byte)
  poison : List Nat
  deriving DecidableEq, Repr

/-- A microphone's decimation chain (R255–R257): CIC integrators and combs, bits taken, FIR histories newest first, the render sample
before which its output reads zero while it settles (R272), the length of its run of equal bits, whether it is muted as stuck, and whether
the bits latched before the next instant count as never received (R271). -/
structure Mic where
  ints : List Int
  combs : List Int
  bits : Nat
  h1 : List Int
  h2 : List Int
  hf : List Int
  zeroTo : Nat
  bit : Bool
  run : Nat
  stuck : Bool
  skip : Bool
  deriving DecidableEq, Repr

/-- A resampler channel's record (R260), its input history newest first, the render sample from which inputs count (R271), and
the output index before which it reads zero while it settles (R272). -/
structure RsChan where
  l : Nat
  m : Nat
  dst : Nat
  hist : List Int
  since : Nat
  zeroTo : Nat
  deriving DecidableEq, Repr

/-- The stimulus (R274): type 0 none, 1 log sweep, 2 maximum-length sequence, 3 pink noise. -/
structure Stimulus where
  typ : Nat
  order : Nat
  level : Int
  f1 : Nat
  f2 : Nat
  slen : Nat
  seed : Nat
  deriving DecidableEq, Repr

structure FchS where
  /-- Banks A and B; none is an empty bank. -/
  bankA : Option FchBank
  bankB : Option FchBank
  active : Nat
  loaded : Bool
  /-- A bank swap that waits for its render sample (R269). -/
  swap : Option (Nat × Waiter)
  /-- Synchronising resets that wait for their render sample (R270). -/
  resets : List Nat
  lines : Nat
  clk6m : Bool
  skew : Bool
  modes : Nat
  mics : NMap Mic
  rs : NMap RsChan
  rsDisabled : Bool
  stim : Stimulus
  /-- The render pick with whose capture the stimulus starts, samples played, samples after which it ends, its LFSR and rows; whether it
  plays. -/
  stimAt : Option Nat
  stimN : Nat
  stimEnd : Nat
  lfsr : Nat
  rows : List Int
  stimOn : Bool
  syncTime : Nat
  /-- Resampler outputs by target code: index of the first, and the words, with their saturations (08_filter_chain R262). -/
  rsOut : NMap (Nat × List (Int × Bool))
  /-- Output samples produced for the capture pick in progress, and steps used on them (R265). -/
  made : Nat
  used : Nat
  /-- Some sample saturated in this pick (R257). -/
  satSeen : Bool
  /-- The snapshot awaited by FCH_RS_SEL (R281). -/
  sel : Bool
  deriving DecidableEq, Repr

/-! ### Ports (11_audio_ports) -/

/-- AES_CFG record (R370). -/
structure AesCfg where
  rxEn : Bool
  txEn : Bool
  autoCrc : Bool
  grpEn : Bool
  txRate : Nat
  zb : Nat
  ofs : Nat
  group : Nat
  deriving DecidableEq, Repr

/-- TDM_CFG record (R370). -/
structure TdmCfg where
  inEn : Bool
  outEn : Bool
  inSlave : Bool
  outSlave : Bool
  fsWidth : Bool
  fsDelay : Bool
  fsPol : Bool
  bclkEdge : Bool
  outRate : Nat
  inSrc : Nat
  outSrc : Nat
  group : Nat
  grpIn : Bool
  grpOut : Bool
  inOfs : Nat
  outOfs : Nat
  deriving DecidableEq, Repr

/-- One AES3 receiver (R352–R358): channel-status and user bits of the block being assembled (newest first), the blocks kept, the
frames since the last sign of non-audio, and the upper 16 audio bits of the last subframe. -/
structure AesRx where
  lock : Bool
  nonaudio : Bool
  muted : Bool
  clean : Nat
  /-- Frames into the block; none before a Z preamble. -/
  pos : Option Nat
  csA : List Bool
  csB : List Bool
  usA : List Bool
  usB : List Bool
  keptA : Option (List Byte)
  keptB : Option (List Byte)
  userA : List Byte
  userB : List Byte
  lastKept : Option (List Byte)
  /-- A block of subframe A has been kept since lock. -/
  since : Bool
  upper : Nat
  ofs : Nat
  ppm : Int
  /-- Frames in a row with valid preambles and a Z every 192, and frames since the last Z of that run (R352). -/
  good : Nat
  zPos : Option Nat
  /-- Frames in a row with biphase violations, and the instant of the last valid preamble (R353). -/
  viol : Nat
  lastPre : Nat
  /-- Instants at which the last frames of the run ended, newest first, 1,536 at most (R352). -/
  ends : List Nat
  /-- The next render sample to deliver. -/
  next : Nat
  deriving DecidableEq, Repr

/-- One TDM input (R346–R351). -/
structure TdmIn where
  run : Bool
  /-- First frame that delivers audio; the first real frame of its group, or the next frame. -/
  first : Nat
  next : Nat
  unrelated : Bool
  pending : Bool
  /-- The first frame that it no longer accepts. -/
  stopAt : Option Nat
  deriving DecidableEq, Repr

/-- One output direction (R350, R361–R363): state 0 idle, 1 lead-in, 2 running, 3 lead-out; frames sent in the state; the frame with
which it starts; a stop or a new start that waits; the group start it waits for. -/
structure OutDir where
  st : Nat
  sent : Nat
  startAt : Option Nat
  stopAt : Option Nat
  pending : Bool
  unrelated : Bool
  /-- First frame with audio of a group start. -/
  firstReal : Nat
  /-- The frame that it is sending, or sent last. -/
  frame : Nat
  deriving DecidableEq, Repr

/-- Channel status and user data of one transmitter, in force and from the next Z preamble (R359, R360). -/
structure AesTx where
  cs : List Byte
  csNext : Option (List Byte)
  user : List Byte
  userNext : Option (List Byte)
  /-- Frames into the block. -/
  pos : Nat
  deriving DecidableEq, Repr

/-- An alignment group (R364–R366). -/
structure Group where
  start : Option Nat
  stop : Option Nat
  running : Bool
  startFrame : Nat
  firstReal : Nat
  /-- The first real frame has passed. -/
  real : Bool
  /-- Frame that the last stop trigger selected. -/
  stopFrame : Option Nat
  deriving DecidableEq, Repr

/-- What the clock supervisor knows of a slave direction (R347, R348): the last frame edge; the place of the first one in the nominal
frame; the edge at which the present second of frames began, and frames since; whether the last edge met a condition of R347, and when
one was last met. -/
structure SlaveChk where
  last : Option Nat
  pos : Option Nat
  mark : Nat
  count : Nat
  bad : Bool
  badAt : Nat
  deriving DecidableEq, Repr

/-- The balls of an output during one frame (R346, R359): data bits in the order sent, for a transmitter time slots 4–31 of its two
subframes; the frame sync at each of the frame's bit clocks, for a transmitter its preamble Z; whether data change on the rising edge. -/
structure Wire where
  data : List Bool
  sync : List Bool
  rising : Bool
  deriving DecidableEq, Repr

structure PortS where
  aes : NMap AesCfg
  tdm : NMap TdmCfg
  rx : NMap AesRx
  tin : NMap TdmIn
  /-- Output directions: TDM 0–7, AES3 8–23. -/
  out : NMap OutDir
  tx : NMap AesTx
  groups : NMap Group
  /-- The words each output last put on its slots, and for a transmitter then C, UA, UB and Z. -/
  sent : NMap (List Int)
  wire : NMap Wire
  /-- Slave directions: inputs 2p, outputs 2p + 1. -/
  slave : NMap SlaveChk
  /-- Cut-through words that wait for an output frame: frame, destination code, word (07_heddle R242). -/
  cutNext : List (Nat × Nat × Int)
  /-- Output drivers that drive their balls (16_twin R538). -/
  driven : NMap Bool
  sel : Bool
  deriving DecidableEq, Repr

/-! ### Network (12_media_network) -/

/-- MAC_CFG record (R404); MAXF 0–2. -/
structure MacCfg where
  en : Bool
  speed25 : Bool
  promisc : Bool
  maxf : Nat
  fec : Nat
  addr : List Byte
  deriving DecidableEq, Repr

/-- A gate list (R380): entries of interval, stream gate, other gate. -/
structure GateList where
  cycle : Nat
  ents : List (Nat × Bool × Bool)
  deriving DecidableEq, Repr

/-- A stream record (R404). -/
structure StreamCfg where
  en : Bool
  tx : Bool
  claimExt : Bool
  vlan : Bool
  port : Nat
  nch : Nat
  ptime : Nat
  pt : Nat
  extId : Nat
  firstCh : Nat
  rate : Nat
  claimGrp : Nat
  ip : List Byte
  udpDst : Nat
  udpSrc : Nat
  ssrc : Nat
  linkOfs : Nat
  vlanTag : Nat
  dscp : Nat
  ttl : Nat
  pair : Nat
  deriving DecidableEq, Repr

/-- Status of a stream (R402), and what a receiver keeps: last sequence number, when its last packet came, whether its claim counts
(16_twin R533, R534), and the frame it has to start with; a transmitter: its next sequence number and packet. -/
structure StreamS where
  packets : Nat
  late : Nat
  lost : Nat
  malformed : Nat
  early : Nat
  claim : Nat
  seq : Option Nat
  lastAt : Nat
  eligible : Bool
  /-- First render sample (receive) or frame index (transmit) that counts. -/
  first : Nat
  /-- Samples that have not left in a packet yet, by channel (transmit), with the index of the first. -/
  held : NMap (List Int)
  heldFrom : Nat
  deriving DecidableEq, Repr

/-- A packet or frame that waits for a media transmitter (R381, R389): the stream, none for the other class; its length, RTP
timestamp, its bytes from the RTP header on, and the render pick at whose start it was queued. -/
structure TxFrame where
  stream : Option Nat
  len : Nat
  ts : Nat
  bytes : List Byte
  queued : Nat
  deriving DecidableEq, Repr

structure MacPort where
  cfg : MacCfg
  link : Bool
  gates : GateList
  nextGates : Option GateList
  /-- A GATE_SWAP that waits for its cycle start: the pick named, lateness and waiter (R382). -/
  swap : Option (Nat × Bool × Waiter)
  entry : Nat
  /-- Received frames dropped because the core-side FIFO was full (02_pick_budget R41); no register shows them. -/
  fifoDrops : Nat
  streamQ : List TxFrame
  otherQ : List TxFrame
  /-- End of the frame in transmission. -/
  busyTo : Nat
  /-- Bytes of the last frame sent. -/
  last : List Byte
  deriving DecidableEq, Repr

/-- A wake pattern (R400). -/
structure WakePattern where
  mask : List Byte
  check : Nat
  en : Bool
  deriving DecidableEq, Repr

/-- The management MAC (R395–R401). -/
structure MgS where
  ctl : Nat
  addr : List Byte
  lpiIdle : Nat
  wake : List WakePattern
  mcast : List (List Byte × Bool)
  speed : Nat
  link : Bool
  lowered : Bool
  negotiating : Bool
  pending : Bool
  lpi : Bool
  partner1000 : Bool
  /-- Speed to which a renegotiation in progress goes: true 1,000 Mb/s. -/
  toHigh : Bool
  /-- Bytes in the current 1 s window, windows below LOW_PCT in a row, and windows since the last raise. -/
  rxBytes : Nat
  txBytes : Nat
  low : Nat
  sinceRaise : Nat
  /-- When the current window began. -/
  windowAt : Nat
  /-- The held wake frame, and when MQ1 was last found empty. -/
  held : Option (List Byte)
  emptySince : Option Nat
  deriving DecidableEq, Repr

/-- A packet that waits for its receiver in the FIFO of its port (R377; 02_pick_budget R41): the frame's length, its stream, arrival and UDP
payload. -/
structure RtpIn where
  port : Nat
  len : Nat
  stream : Nat
  at_ : Nat
  pay : List Byte
  deriving DecidableEq, Repr

/-- A transmit stream that a record has ended or restarted while a packet was incomplete whose first sample lies before the pick (R394): its
settings, what it holds, and the first frame index that it no longer sends. -/
structure StreamTail where
  stream : Nat
  cfg : StreamCfg
  st : StreamS
  limit : Nat
  deriving DecidableEq, Repr

structure NetS where
  ports : NMap MacPort
  cfgs : NMap StreamCfg
  strm : NMap StreamS
  tails : List StreamTail
  /-- Packets accepted by a media MAC that wait for their receiver. -/
  rtpQ : List RtpIn
  /-- Received samples by (64 × buffer + channel of the stream) × 2^64 + render sample index, a pair sharing its lower stream's buffer;
  each network channel's last value (R390–R392). -/
  buf : NMap Int
  lastCh : NMap Int
  mg : MgS
  /-- Bytes of the last management frame sent. -/
  sentMg : List Byte
  sel : Bool
  deriving DecidableEq, Repr

/-! ### Batten cores (09_batten_cores, 10_batten_isa) -/

/-- An instance record (R296): channels by input and output, 0xFFFF for none. -/
structure BatInst where
  id : Nat
  ins : List Nat
  outs : List Nat
  deriving DecidableEq, Repr

/-- A program image and its instance table (R295, R296); words of 64 bits. -/
structure BatProg where
  id : Nat
  code : List Nat
  entry : Nat
  xc : List Nat
  yc : List Nat
  stateW : Nat
  steps8 : Nat
  steps16 : Nat
  steps32 : Nat
  nin : Nat
  nout : Nat
  insts : List BatInst
  deriving DecidableEq, Repr

/-- Registers of a core (R286, R329): D registers and MV as 64-bit words, accumulators as their two parts, X registers at 0–3 and Y
registers at 4–7 of each list. -/
structure BatRegs where
  d : List Nat
  a : List (Int × Int)
  ar : List Nat
  nr : List Int
  lr : List Nat
  lc : Nat
  ls : Nat
  le : Nat
  ldepth : Nat
  loops : List (Nat × Nat × Nat)
  calls : List Nat
  z : Bool
  n : Bool
  v : Bool
  sv : Bool
  av : Bool
  mf : Bool
  mv : Nat
  ix : Nat
  pc : Nat
  deriving DecidableEq, Repr

/-- A physical core (R284–R286): 0 spare, 1 mapped, 2 failed, 3 held; its fault's cause, its three memories and the program that it was
loaded with. -/
structure BatCore where
  st : Nat
  lcore : Nat
  cause : Nat
  /-- Instruction memory; `fill` is what a word reads as that `code` does not list (R319). -/
  code : NMap Nat
  fill : Nat
  x : NMap Nat
  y : NMap Nat
  prog : Option BatProg
  deriving DecidableEq, Repr

/-- A checkpoint slot (R299): the pick of its tag and its words. -/
structure Slot where
  tag : Nat
  words : List Nat
  valid : Bool
  deriving DecidableEq, Repr

/-- Where a logical core stands in a pick. -/
inductive BatPhase where
  /-- Its next instance is not entered yet. -/
  | waiting
  | running
  /-- The instance has executed WAITP and is being checkpointed. -/
  | checkpoint
  /-- Every instance has ended. -/
  | done
  /-- Its physical core has faulted and the move is not made (R301, R302). -/
  | faulted
  deriving DecidableEq, Repr

/-- A logical core (R284, R312): BAT_MAP.STATE, the spare held for a replacement, what runs, and the first pick that it runs. -/
structure LCore where
  phys : Nat
  st : Nat
  held : Option Nat
  start : Nat
  runFrom : Nat
  faults : Nat
  moves : Nat
  /-- Render pick of the latest fault (R304). -/
  faultAt : Nat
  used : Nat
  phase : BatPhase
  inst : Nat
  regs : BatRegs
  steps : Nat
  /-- Steps of this pick's instances so far. -/
  total : Nat
  /-- Checkpoint slots by 2 × instance + slot. -/
  slots : NMap Slot
  /-- Instances stopped at a deadline, to be restored before their next entry (R305). -/
  restore : List Nat
  /-- The core did not complete the pick: its outputs repeat. -/
  repeats : Bool
  /-- The instance runs the replay of 16_twin R525, whose outputs are discarded. -/
  replay : Bool
  deriving DecidableEq, Repr

structure BatS where
  cores : NMap BatCore
  lcs : NMap LCore
  /-- Outputs of the last render pick by channel, and each channel's last sample. -/
  outs : NMap (List Int)
  lastOut : NMap Int
  deriving DecidableEq, Repr

/-! ### Fabric (15_fabric) -/

/-- A Bobbin channel (R492–R499, R508): its configuration as firmware set it, its place in its chain in 32-byte units, the descriptor in
progress, and its counts since it was enabled. -/
structure BobCh where
  en : Bool
  trig : Nat
  src : Nat
  haq : Nat
  head : Nat
  cur : Nat
  run : Bool
  parked : Bool
  pend : Bool
  halt : Bool
  last : Nat
  desc : List Byte
  done : Nat
  bytes : Nat
  doorbells : Nat
  early : Nat
  deriving DecidableEq, Repr

/-- A post to the Shuttle (R500, R505): slot, flow with its sequence number in it, argument. -/
structure Thread where
  slot : Nat
  flow : Option (Nat × Nat)
  arg : Nat
  deriving DecidableEq, Repr

/-- A priority level (R500, R501): threads preempted at it, its hardware queue, its spill ring, posts that are not acknowledged, and
when such an episode began. -/
structure Level where
  susp : List Thread
  hwq : List Thread
  spill : List Thread
  waiting : List Thread
  bpFrom : Option Nat
  deriving DecidableEq, Repr

/-- An ordered flow (R505): next sequence number, oldest unreleased one, and finished ones that wait for earlier ones, each with the slot
and level of its thread; an object record (03_objects R81) has none. -/
structure Flow where
  next : Nat
  base : Nat
  /-- Entries dispatched, by sequence number, and not released. -/
  opened : List Nat
  done : List (Nat × Option (Nat × Nat))
  deriving DecidableEq, Repr

/-- An executor (R500, R503): the thread it runs with its level, and whether a preemption waits for its preemption point. -/
structure Executor where
  cur : Option (Thread × Nat)
  preempt : Bool
  deriving DecidableEq, Repr

structure FabS where
  /-- General memory and sample memory as bytes by offset; the ledger controller's window (log 6). -/
  gm : List Host.Cell
  sm : List Host.Cell
  /-- Owner of each held lock (R482). -/
  sems : NMap Nat
  /-- On-chip mailboxes: sender and notice, oldest first (R485); epochs of the masters (R487). -/
  oc : NMap (List (Nat × DWord))
  epochs : NMap Nat
  /-- Power-gated control cores, and when each last became idle (R490). -/
  gated : NMap Bool
  idleSince : NMap Nat
  /-- The wake latch of R491. -/
  wakeLatch : Option (Nat × Nat × DWord)
  /-- Arbitration (R474): last granted master by 2 × target + class, and high bursts granted while a low master waits, by 16 × target +
  master. -/
  granted : NMap Nat
  starve : NMap Nat
  bob : NMap BobCh
  /-- Thread slots in use: level, and true for the management processor (R500); slots that run. -/
  slots : NMap (Nat × Bool)
  running : List Nat
  levels : NMap Level
  flows : NMap Flow
  ex : NMap Executor
  /-- Trace selection (R506). -/
  traceEn : Bool
  kinds : Nat
  levelMask : Nat
  /-- Latch registers written since the core domain started (R620). -/
  latched : List Nat
  /-- Words with an ECC error that an injection or a poisoned write left, by instance × 2^20 + word: true double (R497, R628). -/
  bad : NMap Bool
  deriving DecidableEq, Repr

/-! ### Twin (16_twin) -/

/-- One claim group (R534–R536): the stream playing and one that takes over at a pick, whether R536 filled in the last pick, and
selection changes since reset. -/
structure ClaimGrp where
  sel : Option Nat
  next : Option (Nat × Option Nat)
  filled : Bool
  switches : Nat
  deriving DecidableEq, Repr

structure TwinS where
  en : Bool
  dual : Bool
  rank : Nat
  peerRank : Nat
  fill : Nat
  /-- 0 off, 1 lead, 2 shadow, 3 listening. -/
  role : Nat
  claim : Nat
  peerClaim : Nat
  /-- Highest epoch known (R532). -/
  epoch : Nat
  listenFrom : Nat
  /-- What the partner's latest heartbeat said: it listens, its ready flag, and the pick of its handover request. -/
  peerListens : Bool
  peerReady : Bool
  incompat : Bool
  diverged : Bool
  drift : Bool
  /-- Matching picks in a row within an episode, mismatching picks of the episode and since reset. -/
  quiet : Nat
  episode : Nat
  driftTotal : Nat
  /-- State frames in a row that arrived, up to 16. -/
  frames : Nat
  linkHb : Bool
  pinHb : Bool
  linkMiss : Nat
  pinMiss : Nat
  /-- Due instant (a count of 50 µs) of the last heartbeat received or judged missing on each path. -/
  linkDue : Nat
  pinDue : Nat
  lanes : List Bool
  /-- Levels of CLAIM_OWN, CLAIM_PEER and HB_OUT; when CLAIM_PEER last changed, and since when both claims are high. -/
  own : Bool
  peerPin : Bool
  peerPinAt : Nat
  bothAt : Nat
  hbOut : Bool
  /-- The last due instant's heartbeat was sent. -/
  beating : Bool
  /-- Frame sequence numbers that lost a segment (R515). -/
  broken : List Nat
  framePick : Nat
  /-- Object sections adopted, by render pick (R521), and lead checkpoints held by instance: pick and words (R525). -/
  adopt : NMap (List (List Byte))
  ckpts : NMap (Nat × List Nat)
  /-- Instances marked for resync, by 16 × logical core + instance. -/
  resync : List Nat
  /-- Instances whose checkpoints the partner asked for, latest last (R517, R518). -/
  asked : List Nat
  /-- Output and Batten CRCs of recent picks, with which frames are compared. -/
  outCrc : NMap (List Nat)
  batCrc : NMap (List (Nat × Nat))
  versions : NMap (List (Nat × Nat × Nat))
  /-- The last state frame sent. -/
  sent : Option StateFrame
  swap : Option (Nat × Option Waiter)
  /-- The last heartbeat frame sent (R517). -/
  hbSent : Option Heartbeat
  takePick : Nat
  /-- Reset requests received in a row, when the partner's paths were lost, and when the last heartbeat was sent (18_power_modes R599). -/
  resetAsk : Nat
  lostAt : Option Nat
  beatAt : Nat
  groups : NMap ClaimGrp
  deriving DecidableEq, Repr

/-! ### Changes that name a render pick (01_architecture R19–R23) -/

/-- What takes effect at the first sample of a render pick. -/
inductive Change where
  /-- BUDGET_SET (02_pick_budget R65). -/
  | budget (target xfade : Option Nat)
  /-- BUDGET_RESTORE (R61). -/
  | restore
  /-- A shedding step (R59). -/
  | shed (n : Nat)
  /-- LAYOUT_SWAP (04_loom_geometry R133), SOUND_SPEED_SET (R127), LOOM_CEIL_SET (05_loom_crosspoints R141). -/
  | layoutSwap (recut : Bool)
  | speed (mmps : Nat)
  | ceil (first count ceil : Nat)
  /-- OBJ_GLIDE and OBJ_RESET (03_objects R90, R95): a reset acts on updates released before `rel`. -/
  | objGlide (first count glide : Nat)
  | objReset (first count rel : Nat)
  /-- REED_OUT_CFG's records from an output on, and a bank swap, crossfaded or abrupt, the latter perhaps by shedding (06_reed R189,
  R190, R208). -/
  | reedCfg (first : Nat) (recs : List Byte)
  | bankSwap (xfade abrupt : Bool)
  /-- ROUTE_SWAP and INFILT_SET (07_heddle R229, R214). -/
  | routeSwap
  | infilt (first count hpf : Nat)
  /-- FCH_PDM_SET and FCH_RS_SET (08_filter_chain R283). -/
  | pdm (lines opt modes : Nat)
  | resample (recs : List Byte)
  /-- AES_CFG and TDM_CFG (11_audio_ports R371); MAC_CFG and STRM_SET (12_media_network R376, R393). -/
  | aesCfg (recs : List Byte)
  | tdmCfg (recs : List Byte)
  | macCfg (recs : List Byte)
  | streams (recs : List Byte)
  /-- BAT_START and BAT_STOP of a logical core (09_batten_cores R307, R308). -/
  | batStart (l : Nat)
  | batStop (l : Nat)
  /-- The data-plane side of a mode transition (18_power_modes R605). -/
  | mode (req : ModeReq)
  deriving DecidableEq, Repr

/-- A change that waits for its pick, in order of acceptance. -/
structure Sched where
  pick : Nat
  who : Option Waiter
  chg : Change
  /-- The pick that was named had started when the command was accepted: the completion carries LATE. -/
  late : Bool
  deriving DecidableEq, Repr

end Sys2Proof.Machine
end

