-- ==== Sys2Proof/Machine/State.lean ====
section
/-!
DEFINITION. Sys2Proof/Machine/State.lean: the state of the block, the state right after reset, and the reasons a command
can stop. State is plain data; INVENTORY.md '## State' names the rule behind each field.
-/
namespace Sys2Proof.Machine

/-- Faults. None of the spec's commands stops the block (R36, R455): every error is a completion status, a bus error, a
count or an event, and so a next state. The one constructor is kept for the host's interface; nothing raises it. Safe: a
command that stopped would prove nothing. -/
inductive Fault where
  | unused
  deriving DecidableEq, Repr

/-- Refusals. `notModelled` is answered by an arm of Dispatch.lean whose command has no meaning yet, with its mnemonic.
Safe: nothing is claimed of it. -/
inductive Refusal where
  | notModelled (mnemonic : String)
  deriving DecidableEq, Repr

/-- The block. -/
structure State where
  /-- Commands that wait, first in first out. -/
  pending : List Instr
  /-- The model's own counter for free values (log 2). -/
  freeCtr : Nat
  /-- Stored registers by BAR0 offset; an unlisted one holds its Reset value. -/
  regs : NMap Word
  /-- Accepted changes that wait for their render pick, in order of acceptance. -/
  sched : List Sched
  t : TimeS
  m : ModeS
  p : PowerS
  b : BudgetS
  h : HostS
  ev : EvrS
  l : LdgS
  o : ObjS
  x : LoomS
  r : ReedS
  d : HeddleS
  f : FchS
  a : PortS
  n : NetS
  c : BatS
  g : FabS
  w : TwinS
  deriving DecidableEq, Repr

def Ring.off : Ring := { en := false, depth := 0, nch := 0, head := 0, tail := 0, gen := 0, phase := true, cfgErr := false, stamps := [] }

def EngineUse.none : EngineUse := { started := false, finished := false, used := 0, fin := 0, at_ := 0 }

def Trig.off : Trig := { armed := false, late := false, fired := false, at_ := 0, action := 0, arg := 0, period := 0 }

def Capture.none : Capture := { ns := 0, valid := false, missed := false, wait := Option.none }

/-- The time base after power-on (R406–R421, R431): device time 0, 48 kHz, pick 16, no reference. -/
def TimeS.reset : TimeS :=
  { now := 0, rate96 := false, pickLen := 16, pendRate := none, everSet := false, sel := none, lock := false, hold := false,
    far := false, valid := [false, false, false, false], cleanSince := List.replicate 4 (some 0), edges := [], lockAt := 0, freqAt := 0, ptpState := 0, ptpPort := 0,
    gm := 0, prio := [], revert := true, aes67 := false, eth := false, masterCap := false, domain := 127, pri1 := 128,
    pri2 := 128, cfgPort := 0, backup := 0, backupEn := false, portUpSince := none, lastAnnounce := none, servoSince := none, parent := 0, dataset := [], syncCorr := 0,
    exch := { t1 := none, t2 := none, t3 := none, t4 := none, syncSeq := 0, delaySeq := 0 }, freq := 0, holdFreq := 0,
    offset := 0, marks := [], trigs := [], caps := [], seqSync := 0, seqAnn := 0, seqDelay := 0, sent := [], gpioDrive := 0,
    gpioLevel := 0 }

/-- The Treadle's modes after power-on: Dormant in start-up, the core domain off (R602, R615). -/
def ModeS.reset : ModeS :=
  { mode := .dormant, start := true, under := .pass, before := .dormant, trans := none, transPick := none, held := none,
    resumeOv := none, wake := 0, thermal := false, tripMode := .dormant, tripStart := false, lastFault := none, coreOn := false, retention := false, cpRun := false,
    fwReady := false, maint := false, recovery := false, slot := 0, trial := false, readyAt := none, afterReady := none,
    dpRun := false, pick := 0, startPick := none, leadOut := false }

/-- The default rail table (R585, R586). -/
def RailRow.default : RailRow := { delay := 10, timeout := 20, offDelay := 1 }

def Regulator.default (addr : Nat) : Regulator := { addr := addr, vout := 0, iout := 0, temp := 0, fails := 0 }

/-- The power manager after power-on (R584–R600, R615). -/
def PowerS.reset : PowerS :=
  { en := 0, good := 0, fall := none, refOk := true, rails := List.replicate 8 RailRow.default, nextRails := none, imax := 60, thot := 100, seq := .idle,
    attempts := 0, faultRail := 0, fault := false,
    regs := [Regulator.default 0x40, Regulator.default 0, Regulator.default 0, Regulator.default 0], vset := 800, avs := .loop,
    holdSince := none, temps := List.replicate 8 0, hot := false, shedTaken := false, hotSince := none, hotSteps := 0,
    coolSince := none, overCount := 0, overSince := none, overSteps := 0, vaonA := false, vaonB := false, pfail := false,
    faultN := true, wakeN := false, inReset := false, resetCause := 0, straps := 0, fwOpen := false, fwNext := 0,
    fwVerified := false, fwSlot := 0, fwData := [] }

/-- The budget after reset (R50, R64). -/
def BudgetS.reset : BudgetS :=
  { target := 20, xfade := 32, shed := 0, shedRender := false, counted := [], due := none, lastOverrun := none, overruns := 0, cause := 0,
    cur := List.replicate 8 EngineUse.none, last := List.replicate 8 EngineUse.none, lastSlack := 0, lastEng := 0,
    latched := List.replicate 8 EngineUse.none, latchedSlack := 0, latchedEng := 0, winMin := 0xFFFF, winCount := 0,
    qMin := 0xFFFF }

/-- The host interface after reset (R470). -/
def HostS.reset : HostS :=
  { rings := [], heldCpl := [], evLost := 0, evLostFirst := 0, holdQ := [], accepted := [], loads := [], nextId := 0, unsig := 0,
    unsigSince := 0, msix := [], msixPend := [], msixSent := [], mbx := [], mbxWait := [], wdogFrom := none,
    wdogExpired := false, linkUp := false, linkLost := false, width := 0, speed := 0, d3hot := false, l2 := false,
    perst := false, pme := 0, epoch := 0, latches := [], holds := [], answer := [], cpl := .done, aer := 0, haqUnder := [], mem := [] }

/-- The recorder after power-on: empty (R581). -/
def EvrS.reset : EvrS :=
  { ram := [], nextSeq := 0, fifo := [], lost := 0, lostFirst := 0, lostLast := 0, lastEdge := none }

def Channel.none : Channel := { mfr := 0, density := 0, state := 0, errs := 0 }

def Counters.zero : Counters :=
  { seconds := 0, cycles := 0, takeovers := 0, demotions := 0, refLoss := [0, 0, 0, 0], overruns := 0, coreFaults := 0,
    flushes := 0, hist := [], runS := [], limS := [] }

/-- Sectors of each region code 0–4 (R551): the boot records' two sectors, journal, sets, archive, counters. -/
def regionSize : Nat → Nat
  | 0 => 2 | 1 => 512 | 2 => 512 | 3 => 256 | _ => 16

/-- A region with every sector erased. -/
def Region.empty (n : Nat) : Region := { free := (List.range n).map (fun i => (i, 0)), used := [] }

/-- The ledger after power-on with erased flash devices not yet found (R581; log 14). -/
def LdgS.reset : LdgS :=
  { fa := Channel.none, fb := Channel.none, mounted := false, mounting := false, cold := false, rebuild := false, scrub := false, flush := false,
    flushAt := 0, flushCut := false, regions := (List.range 5).map (fun i => Region.empty (regionSize i)), spare := 224,
    openErase := [], slotA := { image := [] }, slotB := { image := [] }, seq := 0, jobs := [], waiting := [], mTorn := 0,
    mReerased := 0, mMarginal := 0, mReloc := 0, lastScrub := none, lifeWarned := false, erased := [], cnt := Counters.zero, ms := 0,
    runAcc := [], limAcc := [], nonce := 0, nonceRead := none, otpRaised := 0, authHold := none }

/-- Applied state of an object at reset (03_objects R68). -/
def ObjState.reset : ObjState :=
  { x := 0, y := 0, z := 0, gain := -32768, spread := 0, law := 0, pin := 0, zones := 0xFFFF, air := false, glide := 8 }

def ObjInfo.none : ObjInfo := { pick := 0, seq := 0, ring := 0, late := false, lagged := false, sample := 0 }

def ObjS.reset : ObjS :=
  { applied := [], info := [], expect := [], checked := [], store := [], taken := [], prior := [], relCtr := 0, lag := 0, shown := 0, raised := false,
    peak := 0, quiet := 0, freezeEnd := 0 }

/-- The empty layout of 04_loom_geometry R100. -/
def Layout.empty : Layout :=
  { img := [], nearR := 500, centreR := 100, airK := 400000, shelfFc := 500, shelfG := 0, waveS := 0x800000, delayOfs := 0, id := 0,
    nz := 0, verts := [], facets := [], rows := [], ents := [] }

def Xp.zero : Xp := { gcur := 0, gtgt := 0, dcur := 0, dtgt := 0, live := false, defer := false }

/-- The Loom after reset (04_loom_geometry R100, R130; 05_loom_crosspoints R136, R137, R162). -/
def LoomS.reset : LoomS :=
  { active := Layout.empty, inactive := none, loaded := false, swapPick := 0, invalid := false, sos := 343200, ceil := [], ceilDef := 512,
    lower := [], xp := [], lines := [], slot := 0, cur := [], filt := [], law := [], fallEp := [], satEp := [], defEp := [],
    poolEp := false, recut := false, poisonLine := [], foundLine := [], poisonXp := [], sums := [], lastSum := [], sel := false, dumps := [] }

def OutCfg.reset : OutCfg :=
  { en := false, limEn := false, delay := 0, trim := 0, thresh := 0, attack := 0, release := 100 }

def ReedBank.empty : ReedBank := { id := 0, long := false, dir := [] }

/-- A cleared chain: the limiter gain is 1 (06_reed R168, R202). -/
def Chain.clear : Chain := { line := [], hist := [], headBad := [], lost := [], g := 0x800000, trim := 0, oldDelay := none, fading := false }

/-- The Reed after reset (06_reed R167). -/
def ReedS.reset : ReedS :=
  { cfg := [], chain := [], bankA := ReedBank.empty, bankB := ReedBank.empty, active := 0, loaded := false, swapPick := 0,
    xfade := [], xfadeRan := false, meas := none, clipEp := false, outs := [], lastIn := [], lastOut := [], sel := false }

def RouteSet.empty : RouteSet := { id := 0, ents := [] }

/-- The Heddle after reset (07_heddle R214, R230). -/
def HeddleS.reset : HeddleS :=
  { active := RouteSet.empty, inactive := none, loaded := false, swapPick := 0, invalid := false, hpf := [], filt := [], routes := [], cap := [],
    inp := [], src := [], prev := [], lastCap := [], cutWas := [], cutFrom := 0, acc := [], bus := [], out := [], play := [], lastOut := [], batNext := [], batOut := [],
    poison := [], selSrc := false, selRoute := false }

/-- The default bank (08_filter_chain R266, R268; log 10). -/
def FchBank.default : FchBank := { id := 0, t1 := 63, t2 := 47, ft := 38, img := none, poison := [] }

def Stimulus.none : Stimulus := { typ := 0, order := 0, level := 0, f1 := 0, f2 := 0, slen := 0, seed := 0 }

/-- The filter chain after reset (08_filter_chain R268, R280). -/
def FchS.reset : FchS :=
  { bankA := some FchBank.default, bankB := none, active := 0, loaded := false, swap := none, resets := [], lines := 0, clk6m := false,
    skew := false, modes := 0, mics := [], rs := [], rsDisabled := false, stim := Stimulus.none, stimAt := none, stimN := 0, stimEnd := 0,
    lfsr := 0, rows := [], stimOn := false, syncTime := 0, rsOut := [], made := 0, used := 0, satSeen := false, sel := false }

/-- Port settings after reset (11_audio_ports R368). -/
def AesCfg.reset : AesCfg :=
  { rxEn := false, txEn := false, autoCrc := true, grpEn := false, txRate := 0, zb := 2, ofs := 0, group := 0 }

def TdmCfg.reset : TdmCfg :=
  { inEn := false, outEn := false, inSlave := false, outSlave := false, fsWidth := false, fsDelay := false, fsPol := false,
    bclkEdge := false, outRate := 0, inSrc := 0, outSrc := 0, group := 0, grpIn := false, grpOut := false, inOfs := 0, outOfs := 0 }

def AesRx.reset : AesRx :=
  { lock := false, nonaudio := false, muted := true, clean := 0, pos := Option.none, csA := [], csB := [], usA := [], usB := [],
    keptA := Option.none, keptB := Option.none, userA := List.replicate 24 0, userB := List.replicate 24 0, lastKept := Option.none,
    since := false, upper := 0, ofs := 0, ppm := 0, good := 0, zPos := Option.none, viol := 0, lastPre := 0, ends := [], next := 0 }

def TdmIn.reset : TdmIn := { run := false, first := 0, next := 0, unrelated := false, pending := false, stopAt := Option.none }

def OutDir.reset : OutDir :=
  { st := 0, sent := 0, startAt := Option.none, stopAt := Option.none, pending := false, unrelated := false, firstReal := 0, frame := 0 }

def SlaveChk.reset : SlaveChk := { last := Option.none, pos := Option.none, mark := 0, count := 0, bad := false, badAt := 0 }

/-- Channel status and user data after reset (log 12). -/
def AesTx.reset : AesTx :=
  { cs := List.replicate 24 0, csNext := Option.none, user := List.replicate 48 0, userNext := Option.none, pos := 0 }

def Group.reset : Group :=
  { start := Option.none, stop := Option.none, running := false, startFrame := 0, firstReal := 0, real := false,
    stopFrame := Option.none }

def PortS.reset : PortS :=
  { aes := [], tdm := [], rx := [], tin := [], out := [], tx := [], groups := [], sent := [], wire := [], slave := [], cutNext := [], driven := [], sel := false }

/-- The default gate list (12_media_network R382). -/
def GateList.default : GateList := { cycle := 1, ents := [(65536, true, true)] }

def MacCfg.reset : MacCfg := { en := false, speed25 := false, promisc := false, maxf := 0, fec := 0, addr := List.replicate 6 0 }

def MacPort.reset : MacPort :=
  { cfg := MacCfg.reset, link := false, gates := GateList.default, nextGates := Option.none,
    swap := Option.none, entry := 0, fifoDrops := 0, streamQ := [], otherQ := [], busyTo := 0, last := [] }

def StreamCfg.reset : StreamCfg :=
  { en := false, tx := false, claimExt := false, vlan := false, port := 0, nch := 0, ptime := 0, pt := 0, extId := 5, firstCh := 0,
    rate := 0, claimGrp := 0xFF, ip := [], udpDst := 0, udpSrc := 0, ssrc := 0, linkOfs := 0, vlanTag := 0, dscp := 0, ttl := 0,
    pair := 0xFFFF }

def StreamS.reset : StreamS :=
  { packets := 0, late := 0, lost := 0, malformed := 0, early := 0, claim := 0, seq := Option.none, lastAt := 0, eligible := false,
    first := 0, held := [], heldFrom := 0 }

/-- The management MAC after reset (12_media_network R399, R402). -/
def MgS.reset : MgS :=
  { ctl := 2 + 4 + 5 * 2 ^ 7 + 10 * 2 ^ 13 + 0x20 * 2 ^ 23, addr := List.replicate 6 0,
    lpiIdle := 64, wake := [], mcast := [], speed := 0, link := false, lowered := false, negotiating := false, pending := false,
    lpi := false, partner1000 := false, toHigh := false, rxBytes := 0, txBytes := 0, low := 0, sinceRaise := 0,
    windowAt := 0, held := Option.none, emptySince := some 0 }

def NetS.reset : NetS :=
  { ports := [], cfgs := [], strm := [], tails := [], rtpQ := [], buf := [], lastCh := [], mg := MgS.reset, sentMg := [], sel := false }

/-- Registers of a core with nothing in them. -/
def BatRegs.zero : BatRegs :=
  { d := List.replicate 8 0, a := [(0, 0), (0, 0)], ar := List.replicate 8 0, nr := List.replicate 8 1, lr := List.replicate 8 0, lc := 0,
    ls := 0, le := 0, ldepth := 0, loops := [], calls := [], z := false, n := false, v := false, sv := false, av := false, mf := false,
    mv := 0, ix := 0, pc := 0 }

/-- Physical core `c` after reset (09_batten_cores R284, R312; log 11). -/
def BatCore.reset (c : Nat) : BatCore :=
  { st := if c < 32 then 1 else 0, lcore := if c < 32 then c else 0, cause := 0, code := [], fill := 0, x := [], y := [],
    prog := none }

/-- Logical core `l` after reset (R284). -/
def LCore.reset (l : Nat) : LCore :=
  { phys := l, st := 0, held := none, start := 0, runFrom := 0, faults := 0, moves := 0, faultAt := 0, used := 0, phase := .waiting,
    inst := 0,
    regs := BatRegs.zero, steps := 0, total := 0, slots := [], restore := [], repeats := false, replay := false }

def BatS.reset : BatS := { cores := [], lcs := [], outs := [], lastOut := [] }

def BobCh.reset : BobCh :=
  { en := false, trig := 0, src := 0, haq := 0, head := 0, cur := 0, run := false, parked := false, pend := false, halt := false,
    last := 0, desc := [], done := 0, bytes := 0, doorbells := 0, early := 0 }

def Level.reset : Level := { susp := [], hwq := [], spill := [], waiting := [], bpFrom := Option.none }

def Flow.reset : Flow := { next := 0, base := 0, opened := [], done := [] }

def Executor.reset : Executor := { cur := Option.none, preempt := false }

/-- The fabric when the core domain starts (15_fabric R484, R508). -/
def FabS.reset : FabS :=
  { gm := [], sm := [], sems := [], oc := [], epochs := [], gated := [], idleSince := [], wakeLatch := none, granted := [], starve := [],
    bob := [], slots := [], running := [], levels := [], flows := [], ex := [], traceEn := false, kinds := 0, levelMask := 0,
    latched := [], bad := [] }

def ClaimGrp.reset : ClaimGrp := { sel := Option.none, next := Option.none, filled := false, switches := 0 }

/-- The twin state after reset (16_twin R536, R544; log 8 for the ranks). -/
def TwinS.reset : TwinS :=
  { en := false, dual := false, rank := 0, peerRank := 0, fill := 2 ^ 64 - 1, role := 0, claim := 0, peerClaim := 0, epoch := 0,
    listenFrom := 0, peerListens := false, peerReady := false, incompat := false, diverged := false, drift := false, quiet := 0,
    episode := 0, driftTotal := 0, frames := 0, linkHb := false, pinHb := false, linkMiss := 0, pinMiss := 0, linkDue := 0, pinDue := 0,
    lanes := [false, false], own := false, peerPin := false, peerPinAt := 0,
    bothAt := 0, hbOut := false, beating := false, broken := [], framePick := 0, adopt := [], ckpts := [], resync := [], asked := [],
    outCrc := [], batCrc := [], versions := [], sent := none, swap := none, hbSent := none, takePick := 0,
    resetAsk := 0, lostAt := none, beatAt := 0, groups := [] }

/-- The block before its always-on supply first enters its range: the state right after power-on reset. -/
def State.reset : State :=
  { pending := [], freeCtr := 0, regs := [], sched := [], t := TimeS.reset, m := ModeS.reset, p := PowerS.reset, b := BudgetS.reset,
    h := HostS.reset, ev := EvrS.reset, l := LdgS.reset,
    o := ObjS.reset, x := LoomS.reset, r := ReedS.reset, d := HeddleS.reset, f := FchS.reset, a := PortS.reset,
    n := NetS.reset, c := BatS.reset, g := FabS.reset, w := TwinS.reset }

end Sys2Proof.Machine
end

