-- ==== Sys2Proof/Machine/Ops.lean ====
section
/-!
DEFINITION. Sys2Proof/Machine/Ops.lean: the named operations that the meanings share: device time and picks, stored registers
and counters, host memory, interrupts, ring writes, completions, the recorder, and free values.
-/
namespace Sys2Proof.Machine

/-! ### Device time, picks and samples -/

/-- One nanosecond in units of device time (R3). -/
def nsU : Nat := 65536

/-- One microsecond, one millisecond, one second in units of device time. -/
def usU : Nat := 1000 * nsU
def msU : Nat := 1000000 * nsU
def secU : Nat := 1000000000 * nsU

/-- The render rate in force. -/
def State.fs (s : State) : Nat := if s.t.rate96 then 96000 else 48000

/-- Rounded start of sample `k` since the epoch (01_architecture R29). -/
def sampleStart (fs k : Nat) : Nat := k * 65536 * 1000000000 / fs

/-- Rounded start of pick `p` of `n` samples (R28). -/
def pickStart (fs n p : Nat) : Nat := p * n * 65536 * 1000000000 / fs

/-- The pick in which a device time lies: the largest p with p × N × 65,536 × 10^9 ÷ fs below T + 1 (R28). -/
def pickOf (fs n tU : Nat) : Nat := ((tU + 1) * fs - 1) / (n * 65536 * 1000000000)

/-- The sample in which a device time lies (R29). -/
def sampleOf (fs tU : Nat) : Nat := ((tU + 1) * fs - 1) / (65536 * 1000000000)

/-- Rounded start of pick `p` at the rate and pick length in force. -/
def State.pickAt (s : State) (p : Nat) : Nat := pickStart s.fs s.t.pickLen p

/-- The pick that device time lies in. -/
def State.pickNow (s : State) : Nat := pickOf s.fs s.t.pickLen s.t.now

/-- Device time in whole nanoseconds. -/
def State.ns (s : State) : Nat := s.t.now / nsU

/-- Device time has run on to `t`; it never decreases while it runs (R406). -/
def advance (t : Nat) (s : State) : State := { s with t := { s.t with now := max s.t.now t } }

/-! ### Free values -/

/-- A fresh free value: nothing constrains it (log 2). -/
def draw (s : State) : DWord × State := (Config.freeWord s.freeCtr, { s with freeCtr := s.freeCtr + 1 })

/-! ### Stored registers -/

/-- The stored value of the register at a BAR0 offset. -/
def State.reg (s : State) (off : Nat) : Word :=
  match nfind s.regs off with
  | some w => w
  | none => match regDef? off with
    | some d => d.resetWord
    | none => 0

/-- The stored register replaced. -/
def setReg (off : Nat) (w : Word) (s : State) : State := { s with regs := nset s.regs off w }

/-- Bits [hi:lo] of a stored register. -/
def State.field (s : State) (off hi lo : Nat) : Nat := wbits (s.reg off) hi lo

/-- One field of a stored register replaced. -/
def putField (off hi lo v : Nat) (s : State) : State := setReg off (wset (s.reg off) hi lo v) s

/-- A counter field raised by `n`, saturating at its largest value (R470, R581, R615, R629). -/
def bumpBy (n off hi lo : Nat) (s : State) : State :=
  putField off hi lo (satN (2 ^ (hi + 1 - lo) - 1) (s.field off hi lo + n)) s

/-- A counter field raised by one. -/
def bump (off hi lo : Nat) (s : State) : State := bumpBy 1 off hi lo s

/-- A field raised to at least `v` (a peak). -/
def raiseTo (off hi lo v : Nat) (s : State) : State :=
  if s.field off hi lo < v then putField off hi lo (satN (2 ^ (hi + 1 - lo) - 1) v) s else s

/-! ### Byte memories -/

/-- The byte of a memory at an address; an unlisted byte reads 0 (log 5). -/
def memByte : List Host.Cell → Nat → Byte
  | [], _ => 0
  | (a', b) :: r, a => if a = a' then b else if a < a' then 0 else memByte r a

/-- A memory with one byte written, in canonical form: addresses strictly rise and no listed byte is 0. -/
def memWrite : List Host.Cell → Nat → Byte → List Host.Cell
  | [], a, b => if b = 0 then [] else [(a, b)]
  | (a', b') :: r, a, b =>
    if a = a' then (if b = 0 then r else (a, b) :: r)
    else if a < a' then (if b = 0 then (a', b') :: r else (a, b) :: (a', b') :: r)
    else (a', b') :: memWrite r a b

/-- A memory with a run of bytes written. -/
def memWriteAll : List Host.Cell → Nat → List Byte → List Host.Cell
  | m, _, [] => m
  | m, a, b :: r => memWriteAll (memWrite m a b) (a + 1) r

/-- `n` bytes of a memory. -/
def memRead (m : List Host.Cell) (a n : Nat) : List Byte := (List.range n).map (fun i => memByte m (a + i))

/-- The canonical form of a byte memory: addresses strictly rise and no listed byte reads 0. -/
def Memory.wf : List Host.Cell → Bool
  | [] => true
  | [(_, b)] => b != 0
  | (a, b) :: (a', b') :: r => (b != 0) && decide (a < a') && Memory.wf ((a', b') :: r)

/-- The function masters transactions: it is in D0 and the link is not in L2 (14_host_interface R440, R441). -/
def State.masters (s : State) : Bool := !s.h.d3hot && !s.h.l2

/-- Bytes written to host memory, while the function masters transactions. -/
def writeHost (a : Nat) (bytes : List Byte) (s : State) : State :=
  { s with h := { s.h with mem := if s.masters then memWriteAll s.h.mem a bytes else s.h.mem } }

/-! ### Interrupts (14_host_interface R463, R464) -/

/-- A dword of the MSI-X table; each vector's mask bit is 1 until it is written (log 21). -/
def State.msixWord (s : State) (i : Nat) : Word := nget (if i % 4 = 3 then 1 else 0) s.h.msix i

/-- A vector is signalled: its message is written, or its pending bit set while it is masked or the function masters no
transaction (R440). -/
def signal (v : Nat) (s : State) : State :=
  if wbits (s.msixWord (4 * v + 3)) 0 0 = 1 ∨ s.masters = false then
    { s with h := { s.h with msixPend := nset s.h.msixPend v true } }
  else
    let a := (s.msixWord (4 * v)).toNat + 2 ^ 32 * (s.msixWord (4 * v + 1)).toNat
    let s := writeHost a (leBytes 4 (s.msixWord (4 * v + 2)).toNat) s
    { s with h := { s.h with msixSent := nmod 0 s.h.msixSent v (· + 1), msixPend := ndel s.h.msixPend v } }

/-! ### Rings (R442–R448) -/

def State.ring (s : State) (q : Nat) : Ring := nget Ring.off s.h.rings q

def setRing (q : Nat) (r : Ring) (s : State) : State := { s with h := { s.h with rings := nset s.h.rings q r } }

/-- BAR0 offsets of ring q's registers. -/
def ringReg (q o : Nat) : Nat := 0x2100 + 0x20 * q + o

/-- The ring's base in host memory, and the address of HIF_RING_AUX. -/
def State.ringBase (s : State) (q : Nat) : Nat := (s.reg (ringReg q 0)).toNat + 2 ^ 32 * (s.reg (ringReg q 4)).toNat
def State.ringAux (s : State) (q : Nat) : Nat := (s.reg (ringReg q 8)).toNat + 2 ^ 32 * (s.reg (ringReg q 0xC)).toNat

/-- The ring serves: enabled, the function in D0 and the link up (R440). -/
def State.ringOn (s : State) (q : Nat) : Bool := (s.ring q).en && s.masters

/-- A device-written ring has room for one more entry (R444). -/
def Ring.room (r : Ring) : Bool := decide ((r.tail + 1) % r.depth ≠ r.head)

/-- Next index of a ring, and whether it wraps. -/
def Ring.next (r : Ring) (i : Nat) : Nat := if i + 1 < r.depth then i + 1 else 0

/-- The producer index moved on by one; each wrap raises GEN and inverts the phase (R446, R470). -/
def Ring.pushed (r : Ring) : Ring :=
  if r.tail + 1 < r.depth then { r with tail := r.tail + 1 }
  else { r with tail := 0, gen := (r.gen + 1) % 16, phase := !r.phase }

/-- The device writes its next entry of a ring. -/
def pushEntry (q size : Nat) (bytes : List Byte) (s : State) : State :=
  let r := s.ring q
  setRing q r.pushed (writeHost (s.ringBase q + size * r.tail) bytes s)

/-- The device-side index written to the address of HIF_RING_AUX (R447). -/
def writeIndex (q i : Nat) (s : State) : State := writeHost (s.ringAux q) (leBytes 4 i) s

/-! ### Completions (R448, R452, R453, R464) -/

/-- A completion counted towards vector 1 (R464). -/
def countCompletion (s : State) : State :=
  let n := s.h.unsig + 1
  let s := { s with h := { s.h with unsig := n, unsigSince := if s.h.unsig = 0 then s.t.now else s.h.unsigSince } }
  if s.field 0x2010 7 0 ≤ n then signal 1 { s with h := { s.h with unsig := 0 } } else s

/-- A completion written to CPL0: the 14 first bytes with phase 0, the phase and the CQ's head added (R446, R452). -/
def writeCompletion (e : List Byte) (noirq : Bool) (s : State) : State :=
  let r := s.ring 10
  let b2 := byteAt e 2 + flag 7 r.phase
  let cq := b2 / 16 % 2
  let bytes := e.take 2 ++ [BitVec.ofNat 8 b2] ++ (e.drop 3).take 11 ++ leBytes 2 ((s.ring cq).head % 4096)
  let s := pushEntry 10 16 bytes s
  if noirq then s else countCompletion s

/-- Held completions written while CPL0 has room (R448). -/
def releaseHeld : List (List Byte × Bool) → State → State
  | [], s => { s with h := { s.h with heldCpl := [] } }
  | (e, n) :: r, s =>
    if s.ringOn 10 && (s.ring 10).room then releaseHeld r (writeCompletion e n s)
    else { s with h := { s.h with heldCpl := (e, n) :: r } }

/-- A completion delivered: written at once, or held behind those already held (R448). -/
def deliver (e : List Byte) (noirq : Bool) (s : State) : State := releaseHeld (s.h.heldCpl ++ [(e, noirq)]) s

/-- How a command ends: its status, result words, and the flags LATE, SUPERSEDED and ABRUPT (R452). -/
structure Ending where
  status : Nat
  r0 : Nat
  r1 : Nat
  late : Bool
  superseded : Bool
  abrupt : Bool
  deriving DecidableEq, Repr

/-- Status codes of R455. -/
def stOK : Nat := 0x00
def stBusy : Nat := 0x01
def stBudget : Nat := 0x02
def stRate : Nat := 0x03
def stAlign : Nat := 0x04
def stOverlap : Nat := 0x05
def stStale : Nat := 0x06
def stAborted : Nat := 0x07
def stAuth : Nat := 0x08
def stLedgerFull : Nat := 0x09
def stMode : Nat := 0x0A
def stParam : Nat := 0x0B
def stResource : Nat := 0x0C
def stTimeout : Nat := 0x0D
def stPoison : Nat := 0x0E

/-- An ending with a status and two result words. -/
def Ending.of (status : Nat) (r0 : Nat := 0) (r1 : Nat := 0) : Ending :=
  { status := status, r0 := r0, r1 := r1, late := false, superseded := false, abrupt := false }

/-- OK with a render pick in RESULT0 and RESULT1 (R453). -/
def Ending.atPick (p : Nat) (late : Bool := false) : Ending :=
  { status := stOK, r0 := p % 2 ^ 32, r1 := p / 2 ^ 32 % 2 ^ 32, late := late, superseded := false, abrupt := false }

/-- The 14 first bytes of a completion entry, phase 0 (R452). -/
def completionEntry (w : Waiter) (e : Ending) : List Byte :=
  leBytes 2 w.tag ++ [BitVec.ofNat 8 (w.gen % 16 + flag 4 (w.ring == 1)), BitVec.ofNat 8 e.status] ++ leBytes 4 e.r0 ++
    leBytes 4 e.r1 ++ [BitVec.ofNat 8 w.opcode, BitVec.ofNat 8 (flag 0 e.late + flag 1 e.superseded + flag 2 e.abrupt)]

/-- An accepted command completes. A command orphaned by a host-side reset writes no completion (R439). -/
def complete (w : Waiter) (e : Ending) (s : State) : State :=
  if s.h.accepted.any (fun x => x.id == w.id) then
    deliver (completionEntry w e) w.noirq
      { s with h := { s.h with accepted := s.h.accepted.filter (fun x => x.id != w.id) } }
  else s

/-- The same for a command that may have no waiter (a change that no command asked for). -/
def completeOpt (w : Option Waiter) (e : Ending) (s : State) : State :=
  match w with
  | some w => complete w e s
  | none => s

/-! ### The recorder and EVQ0 (17_ledger_recorder R570–R574, 14_host_interface R448, R457) -/

/-- Severity of an event code, 0–5 (R570; log 15). -/
def severity (code : Nat) : Nat := (Config.eventSeverity code).toNat % 6

/-- The 32 bytes of a recorder record (R457), its phase bit as given. -/
def EvRec.bytes (r : EvRec) (phase : Bool) : List Byte :=
  leBytes 8 r.time ++ leBytes 2 r.code ++ leBytes 2 r.source ++ leBytes 2 r.rep ++
    [BitVec.ofNat 8 r.sev, BitVec.ofNat 8 (flag 0 r.closed + flag 1 r.staged + flag 2 r.archived + flag 7 phase)] ++
    fit 16 r.args

/-- The record passes HIF_EVQ_FILT (R457). -/
def State.passesFilter (s : State) (r : EvRec) : Bool :=
  decide (s.field 0x2014 2 0 ≤ r.sev) && bitOf (s.field 0x2014 28 16) (r.code / 256 - 1) && decide (0 < r.code / 256)

/-- The entry of code 0x0904 that tells of events lost, if any were and EVQ0 has room (R448). -/
def tellLost (s : State) : State :=
  if decide (0 < s.h.evLost) && s.ringOn 11 && (s.ring 11).room then
    let r : EvRec := { time := s.ns, code := 0x0904, source := 0x0900, rep := 1, sev := 3, closed := false, staged := false,
                       archived := false, args := leBytes 2 (satN 0xFFFF s.h.evLost) ++ leBytes 8 s.h.evLostFirst,
                       lastT := s.t.now, closedAt := 0, edge := 0, told := true }
    let s := pushEntry 11 32 (r.bytes (s.ring 11).phase) s
    signal 2 { s with h := { s.h with evLost := 0 } }
  else s

/-- A record written to EVQ0 if it passes the filter, or counted lost (R448, R457). -/
def evqWrite (seq : Nat) (r : EvRec) (s : State) : State :=
  if s.passesFilter r then
    let s := tellLost s
    if s.ringOn 11 && (s.ring 11).room then
      signal 2 (pushEntry 11 32 (r.bytes (s.ring 11).phase) s)
    else
      signal 0 (bump 0x2018 15 0
        { s with h := { s.h with evLostFirst := if s.h.evLost = 0 then seq else s.h.evLostFirst, evLost := s.h.evLost + 1 } })
  else s

/-- The record held in RAM under a sequence number. -/
def State.record? (s : State) (seq : Nat) : Option EvRec := nfind s.ev.ram seq

/-- The open record, which is the last one written while it is not closed (R571). -/
def State.openRecord (s : State) : Option EvRec :=
  if s.ev.nextSeq = 0 then none else
    match s.record? (s.ev.nextSeq - 1) with
    | some r => if r.closed then none else some r
    | none => none

/-- The open record closes; one that repeated is written to EVQ0 again (R571). -/
def closeRecord (s : State) : State :=
  match s.openRecord with
  | none => s
  | some r =>
    let seq := s.ev.nextSeq - 1
    let r := { r with closed := true, closedAt := s.t.now }
    let s := { s with ev := { s.ev with ram := nset s.ev.ram seq r } }
    if 1 < r.rep then evqWrite seq r s else s

/-- RECORD_CLOSE_TIMER (R571): 1 s has passed without a repeat. -/
def closeTimer (s : State) : State :=
  match s.openRecord with
  | some r => if r.lastT + secU ≤ s.t.now then closeRecord s else s
  | none => s

/-- Whether writing the next record would overwrite one that is not archived (R573). -/
def State.ramFull (s : State) : Bool :=
  decide (4096 ≤ s.ev.nextSeq) &&
    match s.record? (s.ev.nextSeq - 4096) with
    | some r => !r.archived
    | none => false

/-- The REFCLK edge at which a post made now is taken: REFCLK has a period of 40 ns (R570). -/
def State.edge (s : State) : Nat := s.t.now / (40 * nsU)

/-- One record written into RAM at this edge, in place of the one 4,096 before it (R570, R573). -/
def writeRecord (r : EvRec) (s : State) : State :=
  let s := closeRecord s
  let seq := s.ev.nextSeq
  let s := if s.ramFull then bump 0x12014 31 16 s else s
  let ram := if 4096 ≤ seq then ndel s.ev.ram (seq - 4096) else s.ev.ram
  let s := { s with ev := { s.ev with ram := nset ram seq r, nextSeq := seq + 1, lastEdge := some s.edge } }
  if r.told then s else evqWrite seq r s

/-- A new record of an event posted now (R570): the source's low byte is the instance, its high byte the class of the code. -/
def newRecord (code inst : Nat) (args : List Byte) (s : State) : EvRec :=
  { time := s.ns, code := code, source := code / 256 * 256 + inst % 256, rep := 1, sev := severity code, closed := false, staged := false,
    archived := false, args := fit 16 args, lastT := s.t.now, closedAt := 0, edge := s.edge, told := false }

/-- One more occurrence of the same event (R571). -/
def EvRec.again (now : Nat) (r : EvRec) : EvRec := { r with rep := satN 0xFFFF (r.rep + 1), lastT := now }

/-- Two records tell of the same event of the same source (R571). -/
def EvRec.same (a b : EvRec) : Bool := a.code == b.code && a.source == b.source

/-- The staged entries that come before a post: those of earlier instants, and those of its own instant whose source is not higher
(R570, R572). -/
def stagedBefore (r : EvRec) (f : List EvRec) : List EvRec := f.takeWhile (fun x => decide (x.edge ≠ r.edge) || decide (x.source ≤ r.source))

/-- The staging FIFO given its new contents; an entry beyond the sixteenth is discarded and counted (R572). -/
def putStaged (f : List EvRec) (s : State) : State :=
  let n := (f.drop 16).foldl (fun k x => k + x.rep) 0
  let s := { s with ev := { s.ev with fifo := f.take 16 } }
  if n = 0 then s
  else bumpBy n 0x12014 15 0
    { s with ev := { s.ev with lost := s.ev.lost + n, lostFirst := if s.ev.lost = 0 then s.ns else s.ev.lostFirst, lostLast := s.ns } }

/-- A post that goes to the staging FIFO: merged into the entry before it, or staged at its place (R572). -/
def stageEvent (r : EvRec) (s : State) : State :=
  let front := stagedBefore r s.ev.fifo
  let back := s.ev.fifo.drop front.length
  match front.getLast? with
  | some n =>
    if n.same r then { s with ev := { s.ev with fifo := front.dropLast ++ n.again s.t.now :: back } }
    else putStaged (front ++ { r with staged := true } :: back) s
  | none => putStaged ({ r with staged := true } :: back) s

/-- A post of a lower source than the record that this instant has put into RAM takes its place, and that record is staged (R570). EVQ0 has had
it already (log 54). -/
def postBefore (o r : EvRec) (s : State) : State :=
  let seq := s.ev.nextSeq - 1
  let s := putStaged ({ o with staged := true, told := true } :: s.ev.fifo) s
  evqWrite seq r { s with ev := { s.ev with ram := nset s.ev.ram seq r } }

/-- A post taken (R570–R573): merged into the open record, written at this edge if the edge is free and nothing is staged, or staged. -/
def takePost (r : EvRec) (s : State) : State :=
  if stagedBefore r s.ev.fifo ≠ [] then stageEvent r s
  else
    let free : Bool := s.ev.fifo.isEmpty && !(s.ev.lastEdge == some s.edge) && !(s.l.mounted && s.ramFull)
    match s.openRecord with
    | some o =>
      if o.same r then { s with ev := { s.ev with ram := nset s.ev.ram (s.ev.nextSeq - 1) (o.again s.t.now) } }
      else if free then writeRecord r s
      else if o.edge = r.edge ∧ o.staged = false ∧ r.source < o.source then postBefore o r s
      else stageEvent r s
    | none => if free then writeRecord r s else stageEvent r s

/-- A block posts an event (R24, R570–R573); a record that has stood open for 1 s without a repeat is closed before it. -/
def post (code inst : Nat) (args : List Byte) (s : State) : State :=
  let s := closeTimer s
  takePost (newRecord code inst args s) s

/-- Argument bytes of R664. -/
def a1 (v : Nat) : List Byte := leBytes 1 v
def a2 (v : Nat) : List Byte := leBytes 2 v
def a4 (v : Nat) : List Byte := leBytes 4 v
def a8 (v : Nat) : List Byte := leBytes 8 v

/-! ### Modes -/

/-- Start-up or Dormant: the data plane is stopped (R602, R607). -/
def State.inDormant (s : State) : Bool := s.m.mode == .dormant && !s.m.start

/-- The mode whose data plane runs: under Maintain, the mode beneath it (R601). -/
def State.dataMode (s : State) : Mode := if s.m.mode = .maintain then s.m.under else s.m.mode

/-- The full render runs: Measure, Lead or Shadow, also under Maintain (R601). -/
def State.rendering (s : State) : Bool :=
  match s.dataMode with
  | .measure => true | .lead => true | .shadow => true | _ => false

/-- The device is in Maintain: by its mode, or while the management processor serves the rings after a recovery boot or a restart
(R605; 14_host_interface R454, 17_ledger_recorder R568). -/
def State.inMaintain (s : State) : Bool := s.m.mode == .maintain || s.m.maint

/-- The core domain is powered and out of reset, so that the rings and core registers are served. -/
def State.coreUp (s : State) : Bool := s.m.coreOn && !s.m.retention

/-- Firmware or the management processor serves the command rings (R454, R471). -/
def State.serving (s : State) : Bool := s.coreUp && (s.m.fwReady || s.m.maint)

/-- The next render pick: the one after the pick in progress by device time. -/
def State.nextPick (s : State) : Nat := s.pickNow + 1

/-- The pick a command names: 0 means the next render pick; a pick more than 2^20 after the one in progress by device
time is out of range (R23). -/
def State.named (s : State) (p : Nat) : Option Nat :=
  if p = 0 then some s.nextPick else if s.pickNow + 2 ^ 20 < p then none else some p

/-- The mode that the data plane starts in (18_power_modes R602, R608): Maintain after a recovery boot, otherwise RESUME of the MODE_SET that
entered Dormant or else of TRD_CFG. A mode that the twin setting rules out (R605), or no mode at all, gives way to Lead or Pass (log 45). -/
def State.resumeMode (s : State) (chosen : Option Mode) : Mode :=
  if s.m.recovery then .maintain
  else
    let m := match chosen with
      | some m => m
      | none => (Mode.ofCode (s.field 0x1004 10 8)).getD .pass
    match m with
    | .shadow => if s.w.en then .shadow else .lead
    | .measure => if s.w.en then .lead else .measure
    | .dormant => .pass
    | m => m

/-! ### Memory errors (19_register_map R626–R628) -/

def setG (f : FabS → FabS) (s : State) : State := { s with g := f s.g }

/-- One log entry (R629): time, instance, kind, syndrome and word. -/
def logMemError (inst word syn : Nat) (dbl : Bool) (s : State) : State :=
  let e := s.field 0x13008 7 0
  let o := 0x14000 + 16 * e
  let s := setReg o (BitVec.ofNat 32 s.ns) (setReg (o + 4) (BitVec.ofNat 32 (s.ns / 2 ^ 32)) s)
  let s := setReg (o + 8) (BitVec.ofNat 32 (inst + flag 8 dbl + 2 ^ 9 + syn * 2 ^ 16)) (setReg (o + 12) (BitVec.ofNat 32 (word % 2 ^ 20)) s)
  let s := if e = 255 then putField 0x13008 8 8 1 s else s
  putField 0x13008 7 0 ((e + 1) % 256) s

/-- A read finds an error (R627). Errors in the always-on RAM count only while the core domain is powered. -/
def memError (inst word : Nat) (dbl : Bool) (s : State) : State :=
  if 147 ≤ inst ∨ (inst = 146 ∧ ¬ s.m.coreOn) then s
  else
    let syn := (Config.syndrome s.freeCtr).toNat
    let s := { s with freeCtr := s.freeCtr + 1 }
    let o := 0x13400 + 16 * inst
    let s := if dbl then bump o 31 16 (bump 0x13004 31 0 s) else bump o 15 0 (bump 0x13000 31 0 s)
    logMemError inst word syn dbl (setReg (o + 4) (BitVec.ofNat 32 (word % 2 ^ 20 + flag 20 dbl + syn * 2 ^ 21)) s)

/-- Key of a word in the map of words with an error. -/
def badKey (inst word : Nat) : Nat := inst * 2 ^ 20 + word

/-- `n` words from `lo` on are written: an armed injection that names one of them leaves an error in it (R628); the others are left with
none. -/
def rangeWritten (inst lo n : Nat) (s : State) : State :=
  let w := s.field 0x13010 19 0
  let hit := decide (s.field 0x1300C 8 8 = 1) && decide (s.field 0x1300C 7 0 = inst) && decide (lo ≤ w) && decide (w < lo + n)
  let k := badKey inst lo
  let s := setG (fun g => { g with bad := g.bad.filter (fun b => decide (b.1 < k) || decide (k + n ≤ b.1)) }) s
  if hit then setG (fun g => { g with bad := nset g.bad (badKey inst w) (decide (s.field 0x1300C 9 9 = 1)) }) (putField 0x1300C 8 8 0 s) else s

/-- One word is written. -/
def wordWritten (inst word : Nat) (s : State) : State := rangeWritten inst word 1 s

/-- A word is read: an error in it counts (R627). -/
def wordRead (inst word : Nat) (s : State) : State :=
  match nfind s.g.bad (badKey inst word) with
  | some dbl => memError inst word dbl s
  | none => s

/-- A word holds a double-bit error. -/
def State.isPoisoned (s : State) (inst word : Nat) : Bool := nget false s.g.bad (badKey inst word)

/-- An error put in its place in a list that rises by instance, then word. -/
def errorInto (x : EccError) : List EccError → List EccError
  | [] => [x]
  | y :: r => if badKey x.inst x.word < badKey y.inst y.word then x :: y :: r else y :: errorInto x r

/-- Errors found in one instant in the order in which they are logged (R627). -/
def inLogOrder (errs : List EccError) : List EccError := errs.foldl (fun l x => errorInto x l) []

/-- The errors that reading the words `ws` finds, in the order of the log: those that the words hold, and in other words those that the
read's operands bring. -/
def State.errorsIn (s : State) (ws : List (Nat × Nat)) (errs : List EccError) : List EccError :=
  if errs = [] ∧ s.g.bad = [] then []
  else
    inLogOrder (ws.filterMap (fun w =>
      match nfind s.g.bad (badKey w.1 w.2) with
      | some dbl => some { dbl := dbl, inst := w.1, word := w.2, place := .other }
      | none => errs.find? (fun e => decide (e.inst = w.1) && decide (e.word = w.2))))

/-- Errors counted and logged. -/
def memErrors (l : List EccError) (s : State) : State := l.foldl (fun st x => memError x.inst x.word x.dbl st) s

end Sys2Proof.Machine
end

