-- ==== Sys2Proof/Machine/BattenIsa.lean ====
section
/-!
DEFINITION. Sys2Proof/Machine/BattenIsa.lean: the Batten instruction set (10_batten_isa): the fields of a word, what is illegal, and the
result of one step.
-/
namespace Sys2Proof.Machine

/-! ### Complex words (09_batten_cores R287) -/

/-- Real and imaginary parts of a 64-bit word, and the word of two parts. -/
def cre (d : Nat) : Int := signed 32 d
def cim (d : Nat) : Int := signed 32 (d / 2 ^ 32)
def cword (r i : Int) : Nat := unsignedOf 32 r + 2 ^ 32 * unsignedOf 32 i

/-! ### Fields (R315, R320, R335) -/

/-- The opcode; every DOI reads as 0x38 (R320). -/
def batOp (w : Nat) : Nat := if bitsOf w 63 60 = 14 then 0x38 else bitsOf w 63 58

/-- A move part: 0 X, 1 Y. -/
def movePart (w side : Nat) : Nat := if side = 0 then bitsOf w 39 20 else bitsOf w 19 0

/-- Fields of a move part. -/
def mop (m : Nat) : Nat := bitsOf m 19 17
def mD (m : Nat) : Nat := bitsOf m 16 14
def mOther (m : Nat) : Bool := bitOf m 13
def mN (m : Nat) : Nat := bitsOf m 12 11
def mMode (m : Nat) : Nat := bitsOf m 10 9
def mPart (m : Nat) : Nat := bitsOf m 8 7

/-- The memory that a load or store accesses: 0 X, 1 Y (R336). -/
def moveMem (m side : Nat) : Option Nat :=
  if mop m = 1 ∨ mop m = 2 then some (if mOther m then 1 - side else side) else none

/-- Signed field SH. -/
def shField (w : Nat) : Int := signed 6 (bitsOf w 53 48)

/-! ### Registers that a step writes (R339 case 4) -/

/-- Numbers of registers: D 0–7, A 8–9, address 10–17, modifier 20–27, length 30–37, LC 40, LS 41, LE 42, MV 43, IX 44, SR 45. -/
def specReg (spec : Nat) : Nat :=
  if spec = 0 then 45 else if spec ≤ 3 then 39 + spec else if spec = 4 then 43 else if spec = 5 then 44
  else if spec < 16 then 2 + spec else if spec < 24 then 4 + spec else 6 + spec

/-- Registers that the arithmetic part writes. -/
def arithWrites (w : Nat) : List Nat :=
  let op := batOp w
  let d := bitsOf w 57 55
  if 0x04 ≤ op ∧ op ≤ 0x0C then [8 + bitsOf w 57 57, 45]
  else if op = 0x21 then [d, bitsOf w 51 49, 45]
  else if op = 0x22 then [45]
  else if 0x10 ≤ op ∧ op ≤ 0x20 then [d, 45]
  else if op = 0x23 then [d]
  else if 0x24 ≤ op ∧ op ≤ 0x29 then [8 + bitsOf w 57 57]
  else if op = 0x2A then [bitsOf w 56 54, 45]
  else if 0x2B ≤ op ∧ op ≤ 0x2E then [43, 44, 45]
  else if op = 0x2F then [d]
  else if op = 0x30 then [specReg (bitsOf w 44 40)]
  else if op = 0x34 ∨ op = 0x38 then [40, 41, 42]
  else []

/-- Registers that a move part writes. -/
def moveWrites (m side : Nat) : List Nat :=
  let an := 10 + 4 * side + mN m
  let post := if mMode m = 0 then [] else [an]
  if mop m = 1 then mD m :: post
  else if mop m = 2 then post
  else if mop m = 3 then [10 * (1 + bitsOf m 16 15) + 4 * side + bitsOf m 14 13]
  else if mop m = 4 then post
  else if mop m = 5 then [mD m]
  else []

/-- A list names some number twice. -/
def repeated : List Nat → Bool
  | [] => false
  | a :: r => r.contains a || repeated r

/-! ### Illegal words (R339) -/

/-- Reserved values and bits that must be 0 in the arithmetic part (R320, cases 1 and 2). -/
def badArith (w : Nat) : Bool :=
  let op := batOp w
  let z := fun hi lo => decide (bitsOf w hi lo = 0)
  let sat := bitOf w 48
  let satOk := [0x10, 0x11, 0x12, 0x13, 0x14, 0x1A, 0x1D].contains op
  let usesT := [0x10, 0x11, 0x16, 0x17, 0x18, 0x1D, 0x21, 0x22].contains op
  let usesK := [0x1A, 0x1B, 0x1C, 0x1E, 0x1F].contains op
  let cc := bitsOf w 55 52
  let spec := bitsOf w 44 40
  if op = 0x00 ∨ op = 0x36 then !z 57 40
  else if 0x04 ≤ op ∧ op ≤ 0x0C then !z 50 40
  else if 0x10 ≤ op ∧ op ≤ 0x22 then
    !z 47 45 || (sat && !satOk) || (!usesT && !z 51 49) || (!usesK && !z 44 40) || (decide (op = 0x22) && !z 57 55)
  else if op = 0x23 then false
  else if op = 0x24 then !z 56 40
  else if 0x25 ≤ op ∧ op ≤ 0x27 then !z 53 40
  else if op = 0x28 then !z 56 40
  else if op = 0x29 then !z 56 54 || !z 47 40
  else if op = 0x2A then !z 45 40 || decide (bitsOf w 47 46 = 3) || decide (shField w < -8) || decide (7 < shField w)
  else if 0x2B ≤ op ∧ op ≤ 0x2D then !z 57 57 || !z 50 40
  else if op = 0x2E then !z 57 42 || decide (bitsOf w 41 40 = 3)
  else if op = 0x2F then !z 54 45 || decide (spec = 6) || decide (spec = 7)
  else if op = 0x30 then !z 57 55 || !z 51 45 || decide (spec = 6) || decide (spec = 7)
  else if op = 0x31 ∨ op = 0x32 then !z 57 56 || decide (0xC ≤ cc)
  else if op = 0x33 ∨ op = 0x35 then !z 57 56 || !z 51 40 || decide (0xC ≤ cc)
  else if op = 0x34 then !z 57 55
  else if op = 0x38 then false
  else true

/-- The same for a move part (R335). -/
def badMove (m : Nat) : Bool :=
  let z := fun hi lo => decide (bitsOf m hi lo = 0)
  if mop m = 0 then !z 16 0
  else if mop m = 1 ∨ mop m = 2 then !z 6 0 || decide (mPart m = 3)
  else if mop m = 3 then decide (bitsOf m 16 15 = 3)
  else if mop m = 4 then !z 16 13 || !z 8 0
  else if mop m = 5 then !z 10 0
  else true

/-- A condition code holds (R329). -/
def ccHolds (cc : Nat) (r : BatRegs) : Bool :=
  if cc = 0 then true else if cc = 1 then r.z else if cc = 2 then !r.z else if cc = 3 then r.n else if cc = 4 then !r.n
  else if cc = 5 then !r.n && !r.z else if cc = 6 then r.n || r.z else if cc = 7 then r.v else if cc = 8 then !r.v
  else if cc = 9 then r.mf else if cc = 10 then !r.mf else decide (0 < r.ldepth) && decide (r.lc = 1)

/-- The address is the loop end of an active loop. -/
def atLoopEnd (r : BatRegs) : Bool :=
  decide (0 < r.ldepth) && (decide (r.pc = r.le) || r.loops.any (fun l => decide (l.2.2 = r.pc)))

/-- The word is illegal in the state of the core (R339). -/
def illegalWord (w : Nat) (r : BatRegs) : Bool :=
  let op := batOp w
  let xm := movePart w 0
  let ym := movePart w 1
  let taken := ccHolds (bitsOf w 55 52) r
  let spec := bitsOf w 44 40
  badArith w || badMove xm || badMove ym ||
  (match moveMem xm 0, moveMem ym 1 with | some a, some b => decide (a = b) | _, _ => false) ||
  repeated (arithWrites w ++ moveWrites xm 0 ++ moveWrites ym 1) ||
  (decide (op = 0x32) && taken && decide (8 ≤ r.calls.length)) ||
  (decide (op = 0x33) && taken && decide (r.calls = [])) ||
  ((decide (op = 0x34) || decide (op = 0x38)) && (decide (3 ≤ r.ldepth) || atLoopEnd r)) ||
  (decide (op = 0x34) && decide (bitsOf w 51 40 ≤ r.pc)) ||
  (decide (op = 0x38) && decide (4095 < r.pc + 1 + bitsOf w 47 40)) ||
  (decide (op = 0x35) && taken && decide (r.ldepth = 0)) ||
  (decide (op = 0x30) && decide (1 ≤ spec) && decide (spec ≤ 3) && atLoopEnd r)

/-! ### Arithmetic (R321–R327) -/

/-- An accumulator part saturated to 72 bits, and whether it was. -/
def sat72 (x : Int) : Int × Bool := let y := satS 72 x; (y, decide (y ≠ x))

/-- Accumulator `k` set to two exact parts (R321). -/
def putAcc (k : Nat) (re im : Int) (r : BatRegs) : BatRegs :=
  let (x, s1) := sat72 re
  let (y, s2) := sat72 im
  { r with a := lset r.a k (x, y), av := r.av || s1 || s2 }

/-- A 32-bit part: in range as it is, otherwise saturated or wrapped (R323), and whether it overflowed. -/
def part32 (sat : Bool) (x : Int) : Int × Bool :=
  if -2147483648 ≤ x ∧ x ≤ 2147483647 then (x, false)
  else (if sat then satS 32 x else signed 32 (unsignedOf 32 x), true)

/-- A result with its flags (R324). -/
def putD (k : Nat) (re im : Int) (v : Bool) (r : BatRegs) : BatRegs :=
  { r with d := lset r.d k (cword re im), z := decide (re = 0) && decide (im = 0), n := decide (re < 0), v := v, sv := r.sv || v }

/-- The exponent of a part (R322). -/
def partExp (x : Int) : Nat :=
  let m := if x < 0 then (-x - 1).toNat else x.toNat
  if m = 0 then 31 else 30 - m.log2

/-- RND of one part (R323). -/
def rndPart (k : Nat) (x : Int) : Int × Bool :=
  if k = 0 then (x, false)
  else
    let y := (x + 2 ^ (k - 1)) / 2 ^ k * 2 ^ k
    let top : Int := 2147483647 / 2 ^ k * 2 ^ k
    if top < y then (top, true) else (y, false)

/-- AST of one part (R325): rounding 0 floor, 1 half up, 2 half to even. -/
def astPart (sh : Int) (rm : Nat) (a : Int) : Int × Bool :=
  let k := (31 - sh).toNat
  let y := if rm = 0 then a / 2 ^ k else if rm = 1 then (a + 2 ^ (k - 1)) / 2 ^ k else roundEven a (2 ^ k)
  (satS 32 y, decide (satS 32 y ≠ y))

/-- SR as a word (R329). -/
def BatRegs.sr (r : BatRegs) : Nat :=
  flag 0 r.z + flag 1 r.n + flag 2 r.v + flag 3 r.sv + flag 4 r.av + flag 5 r.mf + fld 8 2 r.ldepth + fld 10 4 r.calls.length

/-- MVFS's value (R327): zero-extended, NX and NY sign-extended, MV whole. -/
def readSpec (spec : Nat) (r : BatRegs) : Nat :=
  if spec = 0 then r.sr else if spec = 1 then r.lc else if spec = 2 then r.ls else if spec = 3 then r.le else if spec = 4 then r.mv
  else if spec = 5 then r.ix else if spec < 16 then lget 0 r.ar (spec - 8)
  else if spec < 24 then unsignedOf 32 (lget 0 r.nr (spec - 16)) else lget 0 r.lr (spec - 24)

/-- MVTS (R327, R329). -/
def writeSpec (spec w : Nat) (r : BatRegs) : BatRegs :=
  if spec = 0 then { r with z := bitOf w 0, n := bitOf w 1, v := bitOf w 2, sv := bitOf w 3, av := bitOf w 4, mf := bitOf w 5 }
  else if spec = 1 then { r with lc := w % 65536 } else if spec = 2 then { r with ls := w % 4096 }
  else if spec = 3 then { r with le := w % 4096 } else if spec = 4 then { r with mv := w }
  else if spec = 5 then { r with ix := w % 8192 } else if spec < 16 then { r with ar := lset r.ar (spec - 8) (w % 8192) }
  else if spec < 24 then { r with nr := lset r.nr (spec - 16) (signed 13 w) }
  else { r with lr := lset r.lr (spec - 24) (w % 8192) }

/-- Complex products of s and t, straight and with t conjugated, and the separate product (R320). -/
def cmul (s t : Nat) : Int × Int := (cre s * cre t - cim s * cim t, cre s * cim t + cim s * cre t)
def cmulj (s t : Nat) : Int × Int := (cre s * cre t + cim s * cim t, -(cre s * cim t) + cim s * cre t)
def rmul (s t : Nat) : Int × Int := (cre s * cre t, cim s * cim t)

/-- Format M. -/
def execM (op k s t : Nat) (r : BatRegs) : BatRegs :=
  let p := if op ≤ 6 then cmul s t else if op ≤ 9 then cmulj s t else rmul s t
  let a := lget (0, 0) r.a k
  if op = 4 ∨ op = 7 ∨ op = 10 then putAcc k p.1 p.2 r
  else if op = 5 ∨ op = 8 ∨ op = 11 then putAcc k (a.1 + p.1) (a.2 + p.2) r
  else putAcc k (a.1 - p.1) (a.2 - p.2) r

/-- Both parts through a function that reports overflow. -/
def both (f : Int → Int × Bool) (d : Nat) (s : Nat) (r : BatRegs) : BatRegs :=
  let (x, v1) := f (cre s)
  let (y, v2) := f (cim s)
  putD d x y (v1 || v2) r

/-- A bitwise result. -/
def putBits (d w : Nat) (r : BatRegs) : BatRegs := putD d (cre w) (cim w) false r

/-- Format R. -/
def execR (op d s t tn k : Nat) (sat : Bool) (r : BatRegs) : BatRegs :=
  if op = 0x10 ∨ op = 0x11 then
    let sg : Int := if op = 0x10 then 1 else -1
    let (x, v1) := part32 sat (cre s + sg * cre t)
    let (y, v2) := part32 sat (cim s + sg * cim t)
    putD d x y (v1 || v2) r
  else if op = 0x12 then both (fun x => part32 sat (-x)) d s r
  else if op = 0x13 then both (fun x => part32 sat (if x < 0 then -x else x)) d s r
  else if op = 0x14 then let (y, v) := part32 sat (-(cim s)); putD d (cre s) y v r
  else if op = 0x15 then putD d (cim s) (cre s) false r
  else if op = 0x16 then putBits d (s &&& t) r
  else if op = 0x17 then putBits d (s ||| t) r
  else if op = 0x18 then putBits d (s ^^^ t) r
  else if op = 0x19 then putBits d (2 ^ 64 - 1 - s) r
  else if op = 0x1A then both (fun x => part32 sat (x * 2 ^ k)) d s r
  else if op = 0x1B then both (fun x => (x / 2 ^ k, false)) d s r
  else if op = 0x1C then putBits d (s % 2 ^ 32 / 2 ^ k + 2 ^ 32 * (s / 2 ^ 32 / 2 ^ k)) r
  else if op = 0x1D then
    let h := signed 6 t
    if 0 ≤ h then both (fun x => part32 sat (x * 2 ^ h.toNat)) d s r else both (fun x => (x / 2 ^ (-h).toNat, false)) d s r
  else if op = 0x1E then both (rndPart k) d s r
  else if op = 0x1F then
    both (fun x => let y := clampI (-(2 ^ k)) (2 ^ k - 1) x; (y, decide (y ≠ x))) d s r
  else
    let n := min (partExp (cre s)) (partExp (cim s))
    if op = 0x20 then putD d n 0 false r
    else if op = 0x21 then
      let r := putD d (cre s * 2 ^ n) (cim s * 2 ^ n) false r
      { r with d := lset r.d tn n }
    else { r with z := decide (cre s = cre t), n := decide (cre s < cre t), v := false }

/-- Format A. -/
def execA (op k ds : Nat) (sh : Int) (rm : Nat) (r : BatRegs) : BatRegs :=
  let a := lget (0, 0) r.a k
  let o := lget (0, 0) r.a (1 - k)
  let s := lget 0 r.d ds
  if op = 0x24 then { r with a := lset r.a k (0, 0) }
  else if op = 0x25 then putAcc k (cre s * 2147483648) (cim s * 2147483648) r
  else if op = 0x26 then putAcc k (a.1 + cre s * 2147483648) (a.2 + cim s * 2147483648) r
  else if op = 0x27 then putAcc k (a.1 - cre s * 2147483648) (a.2 - cim s * 2147483648) r
  else if op = 0x28 then putAcc k (a.1 + o.1) (a.2 + o.2) r
  else if op = 0x29 then
    if 0 ≤ sh then putAcc k (a.1 * 2 ^ sh.toNat) (a.2 * 2 ^ sh.toNat) r
    else { r with a := lset r.a k (a.1 / 2 ^ (-sh).toNat, a.2 / 2 ^ (-sh).toNat) }
  else
    let (x, v1) := astPart sh rm a.1
    let (y, v2) := astPart sh rm a.2
    putD ds x y (v1 || v2) r

/-- Format S (R326). -/
def execS (op s ar kind : Nat) (r : BatRegs) : BatRegs :=
  let hit := fun (m : Nat) => { r with mv := m, ix := ar, mf := true }
  let miss := { r with mf := false }
  if op = 0x2B then (if cre r.mv < cre s then hit s else miss)
  else if op = 0x2C then (if cre s < cre r.mv then hit s else miss)
  else if op = 0x2D then
    let m := (cre s * cre s + cim s * cim s).toNat
    (if r.mv < m then hit m else miss)
  else { r with mv := if kind = 0 then 0x80000000 else if kind = 1 then 0x7FFFFFFF else 0, ix := 0, mf := false }

/-! ### Loops and the next PC (R318, R331–R334) -/

/-- The innermost loop ends (R332): the newest saved set, if any, is restored. -/
def popLoop (r : BatRegs) : BatRegs :=
  match r.loops with
  | (c, s, e) :: l => { r with lc := c, ls := s, le := e, loops := l, ldepth := r.ldepth - 1 }
  | [] => { r with ldepth := r.ldepth - 1 }

/-- The loop-end test at address `a` (R332). -/
def loopTest : Nat → Nat → BatRegs → BatRegs
  | 0, a, r => { r with pc := (a + 1) % 4096 }
  | k + 1, a, r =>
    if 1 < r.lc then { r with lc := r.lc - 1, pc := r.ls }
    else
      let r := popLoop r
      if 0 < r.ldepth ∧ r.le = a then loopTest k a r else { r with pc := (a + 1) % 4096 }

/-- The PC falls through, by way of the loop-end test where it applies. -/
def fallThrough (a : Nat) (r : BatRegs) : BatRegs :=
  if 0 < r.ldepth ∧ a = r.le then loopTest 4 a r else { r with pc := (a + 1) % 4096 }

/-- The same for a step that has written the registers `r'`: the test reads them as they stood at its start (R317, R328). -/
def fallInto (a : Nat) (r r' : BatRegs) : BatRegs :=
  let t := fallThrough a r
  if 0 < r.ldepth ∧ a = r.le then { r' with lc := t.lc, ls := t.ls, le := t.le, ldepth := t.ldepth, loops := t.loops, pc := t.pc }
  else { r' with pc := t.pc }

/-- A DO over `a` + 1 to `e` (R331). -/
def doLoop (count a e : Nat) (r : BatRegs) : BatRegs :=
  if count = 0 then { r with pc := (e + 1) % 4096 }
  else
    { r with loops := if 0 < r.ldepth then (r.lc, r.ls, r.le) :: r.loops else r.loops, lc := count, ls := a + 1, le := e,
             ldepth := r.ldepth + 1, pc := (a + 1) % 4096 }

/-- The arithmetic part and the next PC, reading the registers as they stood (`r`). WAITP ends the instance, and no other case of R318
applies. -/
def execArith (w : Nat) (r : BatRegs) : BatRegs :=
  let op := batOp w
  let a := r.pc
  let dreg := fun i => lget 0 r.d i
  let cc := ccHolds (bitsOf w 55 52) r
  if op = 0x31 then (if cc then { r with pc := bitsOf w 51 40 } else fallThrough a r)
  else if op = 0x32 then
    (if cc then { r with calls := (a + 1) % 4096 :: r.calls, pc := bitsOf w 51 40 } else fallThrough a r)
  else if op = 0x33 then
    (if cc then { r with calls := r.calls.tail, pc := r.calls.head?.getD 0 } else fallThrough a r)
  else if op = 0x35 then
    (if cc then
      let e := r.le
      let r := popLoop r
      if 0 < r.ldepth ∧ r.le = e then loopTest 4 e r else { r with pc := (e + 1) % 4096 }
    else fallThrough a r)
  else if op = 0x34 then doLoop (dreg (bitsOf w 54 52) % 65536) a (bitsOf w 51 40) r
  else if op = 0x38 then doLoop (bitsOf w 59 48) a (a + 1 + bitsOf w 47 40) r
  else if op = 0x36 then r
  else
    let r' :=
      if op = 0x00 then r
      else if op ≤ 0x0C then execM op (bitsOf w 57 57) (dreg (bitsOf w 56 54)) (dreg (bitsOf w 53 51)) r
      else if op ≤ 0x22 then
        execR op (bitsOf w 57 55) (dreg (bitsOf w 54 52)) (dreg (bitsOf w 51 49)) (bitsOf w 51 49) (bitsOf w 44 40) (bitOf w 48) r
      else if op = 0x23 then { r with d := lset r.d (bitsOf w 57 55) (unsignedOf 32 (signed 15 (bitsOf w 54 40))) }
      else if op ≤ 0x2A then execA op (bitsOf w 57 57) (bitsOf w 56 54) (shField w) (bitsOf w 47 46) r
      else if op ≤ 0x2E then execS op (dreg (bitsOf w 56 54)) (lget 0 r.ar (4 * bitsOf w 53 53 + bitsOf w 52 51)) (bitsOf w 41 40) r
      else if op = 0x2F then { r with d := lset r.d (bitsOf w 57 55) (readSpec (bitsOf w 44 40) r) }
      else writeSpec (bitsOf w 44 40) (if bitsOf w 44 40 = 4 then dreg (bitsOf w 54 52) else dreg (bitsOf w 54 52) % 2 ^ 32) r
    fallInto a r r'

/-! ### Moves (R335–R337, 09_batten_cores R288) -/

/-- The 13 address bits reversed. -/
def rev13 (a : Nat) : Nat := (List.range 13).foldl (fun acc i => acc * 2 + a / 2 ^ i % 2) 0

/-- The smallest k with 2^k ≥ L. -/
def logCeil (l : Nat) : Nat := if l ≤ 1 then 0 else (l - 1).log2 + 1

/-- An address after its post-modification (R288). -/
def postMod (mode a : Nat) (n : Int) (l : Nat) : Nat :=
  if mode = 0 then a
  else if mode = 3 then rev13 ((rev13 a + rev13 (n % 8192).toNat) % 8192)
  else
    let m : Int := if mode = 2 then 1 else n
    if l = 0 then (((a : Int) + m) % 8192).toNat
    else
      let b := a / 2 ^ logCeil l * 2 ^ logCeil l
      b + ((((a - b : Nat) : Int) + m) % (l : Int)).toNat

/-- A word with its real or imaginary half replaced (R337). -/
def partMove (part new old : Nat) : Nat :=
  if part = 0 then new else if part = 1 then new % 2 ^ 32 + 2 ^ 32 * (old / 2 ^ 32) else old % 2 ^ 32 + 2 ^ 32 * (new / 2 ^ 32)

/-- The writes of one move part: `r0`, `x0`, `y0` are registers and memories at the start of the step (R317). -/
def execMove (m side : Nat) (r0 : BatRegs) (x0 y0 : NMap Nat) (acc : BatRegs × NMap Nat × NMap Nat) : BatRegs × NMap Nat × NMap Nat :=
  let (r, x, y) := acc
  let k := 4 * side + mN m
  let a := lget 0 r0.ar k
  let mem := if (if mOther m then 1 - side else side) = 0 then x0 else y0
  let post := fun (r : BatRegs) =>
    if mMode m = 0 then r else { r with ar := lset r.ar k (postMod (mMode m) a (lget 0 r0.nr k) (lget 0 r0.lr k)) }
  if mop m = 1 then
    (post { r with d := lset r.d (mD m) (partMove (mPart m) (nget 0 mem a) (lget 0 r0.d (mD m))) }, x, y)
  else if mop m = 2 then
    let w := partMove (mPart m) (lget 0 r0.d (mD m)) (nget 0 mem a)
    if (if mOther m then 1 - side else side) = 0 then (post r, nset x a w, y) else (post r, x, nset y a w)
  else if mop m = 3 then
    let j := 4 * side + bitsOf m 14 13
    let kind := bitsOf m 16 15
    (if kind = 0 then { r with ar := lset r.ar j (bitsOf m 12 0) }
     else if kind = 1 then { r with nr := lset r.nr j (signed 13 (bitsOf m 12 0)) }
     else { r with lr := lset r.lr j (bitsOf m 12 0) }, x, y)
  else if mop m = 4 then (post r, x, y)
  else if mop m = 5 then ({ r with d := lset r.d (mD m) (lget 0 r0.d (bitsOf m 13 11)) }, x, y)
  else acc

/-- Memory (0 X, 1 Y) and address of a move part's access (R336). -/
def moveAt (m side : Nat) (r : BatRegs) : Option (Nat × Nat) := (moveMem m side).map (fun k => (k, lget 0 r.ar (4 * side + mN m)))

/-- A move part reads the word that it accesses: a load, and a part store (R337). -/
def moveReads (m : Nat) : Bool := decide (mop m = 1) || (decide (mop m = 2) && decide (mPart m ≠ 0))

/-- Data words of both move parts for which `f` holds. -/
def dataWords (f : Nat → Bool) (w : Nat) (r : BatRegs) : List (Nat × Nat) :=
  [0, 1].filterMap (fun side => if f (movePart w side) then moveAt (movePart w side) side r else none)

/-- One legal word executed (R316, R317). -/
def execWord (w : Nat) (r : BatRegs) (x y : NMap Nat) : BatRegs × NMap Nat × NMap Nat :=
  execMove (movePart w 1) 1 r x y (execMove (movePart w 0) 0 r x y (execArith w r, x, y))

end Sys2Proof.Machine
end

