-- ==== Sys2Proof/Machine/Fixed.lean ====
section
/-!
DEFINITION. Sys2Proof/Machine/Fixed.lean: the real functions that the spec's formulas use (square root, exponential, sine, cosine,
arc tangent), as integers scaled by 2^64. Each is within 2^-56 of the exact value over the ranges the model uses, which is
finer than every tolerance of the spec (04_loom_geometry R122, R123; log 27).
-/
namespace Sys2Proof.Machine

/-- A real number scaled by 2^64. -/
abbrev Fx := Int

def fxOne : Fx := 18446744073709551616

/-- Constants π, ln 2 and ln 10. -/
def fxPi : Fx := 57952155664616982739
def fxLn2 : Fx := 12786308645202655659
def fxLn10 : Fx := 42475197918399869019

/-- An integer, and a quotient of integers, as scaled numbers. -/
def fxOf (n : Int) : Fx := n * fxOne
def fxQ (a b : Int) : Fx := if b = 0 then 0 else a * fxOne / b

def fxMul (a b : Fx) : Fx := a * b / fxOne
def fxDiv (a b : Fx) : Fx := if b = 0 then 0 else a * fxOne / b

/-- Square root of a natural number, bit by bit from bit `n`. -/
def isqrtFrom : Nat → Nat → Nat → Nat
  | 0, _, r => r
  | n + 1, x, r =>
    let c := r + 2 ^ n
    isqrtFrom n x (if c * c ≤ x then c else r)

/-- The whole part of the square root of a number below 2^256. -/
def isqrt (x : Nat) : Nat := isqrtFrom (x.log2 / 2 + 1) x 0

/-- Square root of a scaled number that is not negative. -/
def fxSqrt (a : Fx) : Fx := if a ≤ 0 then 0 else (isqrt (a.toNat * 2 ^ 64) : Int)

/-- Square root of a natural number, scaled. -/
def fxSqrtNat (x : Nat) : Fx := (isqrt (x * 2 ^ 128) : Int)

/-- Taylor terms of the exponential: the sum of x^k / k! from term `k` on, `n` terms, `t` being the term before. -/
def expTerms (x : Fx) : Nat → Nat → Fx → Fx
  | 0, _, _ => 0
  | n + 1, k, t =>
    let t' := fxMul t x / (k : Int)
    t' + expTerms x n (k + 1) t'

/-- e^x. -/
def fxExp (x : Fx) : Fx :=
  let k := x / fxLn2
  let r := x - k * fxLn2
  let e := fxOne + expTerms r 26 1 fxOne
  if 0 ≤ k then e * 2 ^ k.toNat else e / 2 ^ (-k).toNat

/-- 10^x. -/
def fxPow10 (x : Fx) : Fx := fxExp (fxMul x fxLn10)

/-- Terms of the sine and cosine series: alternate terms x^k / k!, `n` of them, starting after term `t` of order `k`. -/
def trigTerms (x2 : Fx) : Nat → Nat → Fx → Fx
  | 0, _, _ => 0
  | n + 1, k, t =>
    let t' := -(fxMul t x2) / ((k + 1 : Int) * (k + 2))
    t' + trigTerms x2 n (k + 2) t'

/-- An angle brought to −π … π. -/
def fxWrap (x : Fx) : Fx :=
  let t := 2 * fxPi
  let r := x - (x / t) * t
  if fxPi < r then r - t else r

def fxSin (x : Fx) : Fx := let y := fxWrap x; y + trigTerms (fxMul y y) 20 1 y
def fxCos (x : Fx) : Fx := let y := fxWrap x; fxOne + trigTerms (fxMul y y) 20 0 fxOne

/-- tan x away from its poles. -/
def fxTan (x : Fx) : Fx := fxDiv (fxSin x) (fxCos x)

/-- Terms of the arc tangent series: (−1)^k y^(2k+1) / (2k+1), from the power `p` of order `k`. -/
def atanTerms (y2 : Fx) : Nat → Nat → Fx → Fx
  | 0, _, _ => 0
  | n + 1, k, p => p / (k : Int) + atanTerms y2 n (k + 2) (-(fxMul p y2))

/-- Half-angle step of the arc tangent: tan(θ/2) from tan θ. -/
def atanHalf (x : Fx) : Fx := fxDiv x (fxOne + fxSqrt (fxOne + fxMul x x))

/-- arctan x for x from 0 to 1. -/
def fxAtan01 (x : Fx) : Fx :=
  let y := atanHalf (atanHalf (atanHalf x))
  8 * atanTerms (fxMul y y) 14 1 y

/-- The angle, 0 … π, of a vector with sine part `s` ≥ 0 and cosine part `c`. -/
def fxAngle (s c : Fx) : Fx :=
  if s = 0 ∧ c = 0 then 0
  else if 0 ≤ c then (if s ≤ c then fxAtan01 (fxDiv s c) else fxPi / 2 - fxAtan01 (fxDiv c s))
  else (if s ≤ -c then fxPi - fxAtan01 (fxDiv s (-c)) else fxPi / 2 + fxAtan01 (fxDiv (-c) s))

/-- A scaled number rounded to the nearest integer, halves upwards. -/
def fxRound (a : Fx) : Int := (2 * a + fxOne) / (2 * fxOne)

/-- A scaled number times 2^k, rounded to the nearest integer. -/
def fxRoundTo (k : Nat) (a : Fx) : Int := fxRound (a * 2 ^ k)

/-- Three-dimensional vectors. -/
structure V3 where
  x : Int
  y : Int
  z : Int
  deriving DecidableEq, Repr

def V3.dot (a b : V3) : Int := a.x * b.x + a.y * b.y + a.z * b.z
def V3.sub (a b : V3) : V3 := ⟨a.x - b.x, a.y - b.y, a.z - b.z⟩
def V3.add (a b : V3) : V3 := ⟨a.x + b.x, a.y + b.y, a.z + b.z⟩
def V3.cross (a b : V3) : V3 := ⟨a.y * b.z - a.z * b.y, a.z * b.x - a.x * b.z, a.x * b.y - a.y * b.x⟩

/-- Length of a vector of integers, scaled. -/
def V3.len (a : V3) : Fx := fxSqrtNat (a.dot a).toNat

/-- The direction of a vector of integers, each component scaled. -/
def V3.unit (a : V3) : V3 :=
  let l := a.len
  ⟨fxDiv (fxOf a.x) l, fxDiv (fxOf a.y) l, fxDiv (fxOf a.z) l⟩

/-- Dot product and length of scaled vectors. -/
def V3.fdot (a b : V3) : Fx := a.dot b / fxOne
def V3.flen (a : V3) : Fx := fxSqrt (a.fdot a)

/-- The angle between two unit vectors. -/
def V3.angle (a b : V3) : Fx :=
  let c := a.cross b
  let c' : V3 := ⟨c.x / fxOne, c.y / fxOne, c.z / fxOne⟩
  fxAngle c'.flen (a.fdot b)

end Sys2Proof.Machine
end

