-- ==== Sys2Proof/Machine/Geometry.lean ====
section
/-!
DEFINITION. Sys2Proof/Machine/Geometry.lean: layout images and the render laws (04_loom_geometry): the load-time checks, facet
panning, the wave law, pinned channels, and the gain and delay targets of one object.
-/
namespace Sys2Proof.Machine

/-- Render inputs and outputs at a render rate (03_objects R66, 00_scope R2). -/
def inputsAt (rate96 : Bool) : Nat := if rate96 then 512 else 1024
def outputsAt (rate96 : Bool) : Nat := if rate96 then 256 else 512

def State.inputs (s : State) : Nat := inputsAt s.t.rate96
def State.outputs (s : State) : Nat := outputsAt s.t.rate96

/-! ### The image (R97–R101) -/

/-- Counts of a header: NV, NF, NZ, NP, NE. -/
def imgNV (b : List Byte) : Nat := getLE b 6 2
def imgNF (b : List Byte) : Nat := getLE b 8 2
def imgNZ (b : List Byte) : Nat := byteAt b 10
def imgNP (b : List Byte) : Nat := byteAt b 11
def imgNE (b : List Byte) : Nat := getLE b 12 2

/-- The image length of R97. -/
def layoutLen (b : List Byte) : Nat :=
  (64 + 32 * imgNV b + 8 * imgNF b + 16 * imgNZ b + 4 * imgNP b + 8 * imgNE b + 7) / 8 * 8

/-- Offsets of the sections. -/
def facetOfs (b : List Byte) : Nat := 64 + 32 * imgNV b
def zoneOfs (b : List Byte) : Nat := facetOfs b + 8 * imgNF b
def rowOfs (b : List Byte) : Nat := zoneOfs b + 16 * imgNZ b
def entOfs (b : List Byte) : Nat := rowOfs b + 4 * imgNP b

/-- The image with its CRC bytes taken as 0. -/
def blankCrc (o : Nat) (b : List Byte) : List Byte := b.take o ++ zeros 4 ++ b.drop (o + 4)

def readVertex (b : List Byte) (k : Nat) : Vertex :=
  let o := 64 + 32 * k
  { x := getLES b o 4, y := getLES b (o + 4) 4, z := getLES b (o + 8) 4, nx := getLES b (o + 12) 2, ny := getLES b (o + 14) 2,
    nz := getLES b (o + 16) 2, out := getLE b (o + 18) 2 % 512, zmem := getLE b (o + 20) 2 }

def readFacet (b : List Byte) (k : Nat) : Nat × Nat × Nat :=
  let o := facetOfs b + 8 * k
  (getLE b o 2, getLE b (o + 2) 2, getLE b (o + 4) 2)

/-- The layout that an image describes. -/
def readLayout (b : List Byte) : Layout :=
  { img := b, nearR := getLE b 16 4, centreR := getLE b 20 4, airK := getLE b 24 4, shelfFc := getLE b 28 2, shelfG := getLE b 30 2,
    waveS := getLE b 32 4 % 2 ^ 24, delayOfs := getLE b 36 4, id := getLE b 40 4, nz := imgNZ b,
    verts := (List.range (imgNV b)).map (readVertex b), facets := (List.range (imgNF b)).map (readFacet b),
    rows := (List.range (imgNP b)).map (fun k => (getLE b (rowOfs b + 4 * k) 2, getLE b (rowOfs b + 4 * k + 2) 2)),
    ents := (List.range (imgNE b)).map (fun k => (getLE b (entOfs b + 8 * k) 2 % 512, getLE b (entOfs b + 8 * k + 4) 4 % 2 ^ 24)) }

def Vertex.pos (v : Vertex) : V3 := ⟨v.x, v.y, v.z⟩
def Vertex.normal (v : Vertex) : V3 := ⟨v.nx, v.ny, v.nz⟩

/-- A normal is (0, 0, 0) or has a length within 1 ± 2^-8 of 2^15 (reason 5). -/
def normalOk (v : Vertex) : Bool :=
  let n := v.normal.dot v.normal
  decide (n = 0) || (decide ((32768 - 128) * (32768 - 128) ≤ n) && decide (n ≤ (32768 + 128) * (32768 + 128)))

def in24 (x : Int) : Bool := decide (-8388608 ≤ x) && decide (x ≤ 8388607)

/-- The first index below `n` at which a check fails. -/
def firstBad (n : Nat) (ok : Nat → Bool) : Option Nat := (List.range n).find? (fun k => !ok k)

/-- No two of a list's members are equal. -/
def distinct : List Nat → Bool
  | [] => true
  | a :: r => !r.contains a && distinct r

/-- Reason 9: a facet whose unit directions span less than 2^-12. The determinant of the directions is that of the positions over the product
of their lengths, so the squares compare in whole numbers. -/
def facetFlat (ly : Layout) (f : Nat × Nat × Nat) : Bool :=
  let v := fun k => (lget ⟨0, 0, 0, 0, 0, 0, 0, 0⟩ ly.verts k).pos
  let d := (v f.1).dot ((v f.2.1).cross (v f.2.2))
  decide (d * d * 2 ^ 24 < (v f.1).dot (v f.1) * (v f.2.1).dot (v f.2.1) * (v f.2.2).dot (v f.2.2))

/-- The outputs of a pinned row. -/
def rowEnts (ly : Layout) (r : Nat × Nat) : List (Nat × Nat) := (ly.ents.drop r.1).take r.2

/-- The checks of R101 in order: the reason and the index of the first failure. `len` is LEN of the command. -/
def layoutFault (b : List Byte) (len nOut : Nat) : Option (Nat × Nat) :=
  let ly := readLayout b
  let nv := imgNV b
  let nf := imgNF b
  let np := imgNP b
  let ne := imgNE b
  if getLE b 0 4 ≠ 0x4C4D5351 ∨ getLE b 4 2 ≠ 1 ∨ ¬ zeroRange b 14 2 ∨ ¬ zeroRange b 44 16 ∨ byteAt b 35 ≠ 0 then some (1, 0)
  else if 512 < nv ∨ 2040 < nf ∨ 16 < imgNZ b ∨ 64 < np ∨ 4096 < ne ∨ len ≠ layoutLen b ∨ b.length < len then some (2, 0)
  else if crc32c (blankCrc 60 (b.take len)) ≠ getLE b 60 4 then some (3, 0)
  else
    let v := fun k => lget ⟨0, 0, 0, 0, 0, 0, 0, 0⟩ ly.verts k
    match firstBad nv (fun k => in24 (v k).x && in24 (v k).y && in24 (v k).z && decide (getLE b (64 + 32 * k + 18) 2 < 512) &&
        zeroRange b (64 + 32 * k + 22) 10) with
    | some k => some (4, k)
    | none => match firstBad nv (fun k => normalOk (v k)) with
      | some k => some (5, k)
      | none => match firstBad nv (fun k => decide ((v k).out < nOut) && !((ly.verts.take k).any (fun w => w.out == (v k).out))) with
        | some k => some (6, k)
        | none =>
          let f := fun k => lget (0, 0, 0) ly.facets k
          match firstBad nf (fun k => decide ((f k).1 < nv) && decide ((f k).2.1 < nv) && decide ((f k).2.2 < nv) &&
              distinct [(f k).1, (f k).2.1, (f k).2.2] && zeroRange b (facetOfs b + 8 * k + 6) 2) with
          | some k => some (7, k)
          | none => match firstBad nf (fun k => [(f k).1, (f k).2.1, (f k).2.2].all (fun i => decide (10000 ≤ (v i).pos.dot (v i).pos))) with
            | some k => some (8, k)
            | none => match firstBad nf (fun k => !facetFlat ly (f k)) with
              | some k => some (9, k)
              | none =>
                let r := fun k => lget (0, 0) ly.rows k
                match firstBad np (fun k => decide (1 ≤ (r k).2) && decide ((r k).2 ≤ 512) && decide ((r k).1 + (r k).2 ≤ ne) &&
                    distinct ((rowEnts ly (r k)).map (·.1))) with
                | some k => some (10, k)
                | none => match firstBad ne (fun k => decide (getLE b (entOfs b + 8 * k) 2 < nOut) && zeroRange b (entOfs b + 8 * k + 2) 2 &&
                    decide (byteAt b (entOfs b + 8 * k + 7) = 0)) with
                  | some k => some (10, k)
                  | none =>
                    if ly.nearR < 100 ∨ 10000 < ly.nearR ∨ ly.centreR < 10 ∨ 2000 < ly.centreR ∨ ly.airK < 10000 ∨ 4000000 < ly.airK ∨
                        ly.shelfFc < 50 ∨ 4000 < ly.shelfFc ∨ 3072 < ly.shelfG ∨ 0x800000 < ly.waveS ∨ 524287 < ly.delayOfs then
                      some (11, 0)
                    else none

/-- The empty layout's image (R100). -/
def emptyImage : List Byte :=
  let h := leBytes 4 0x4C4D5351 ++ leBytes 2 1 ++ zeros 10 ++ leBytes 4 500 ++ leBytes 4 100 ++ leBytes 4 400000 ++ leBytes 2 500 ++
    zeros 2 ++ leBytes 4 0x800000 ++ zeros 4 ++ zeros 4 ++ zeros 16 ++ zeros 4
  h.take 60 ++ leBytes 4 (crc32c h)

/-- The image that LAYOUT_QUERY writes. -/
def Layout.image (l : Layout) : List Byte := if l.img = [] then emptyImage else l.img

/-! ### Facet panning (R104–R112) -/

def Vertex.none : Vertex := ⟨0, 0, 0, 0, 0, 0, 0, 0⟩

def Layout.vert (l : Layout) (k : Nat) : Vertex := lget Vertex.none l.verts k

/-- A zone mask cut to the zones that exist (R98). -/
def Layout.zonesOf (l : Layout) (mask : Nat) : Nat := mask % 2 ^ l.nz

/-- A vertex lies in a zone of the mask. -/
def Layout.reaches (l : Layout) (mask k : Nat) : Bool := decide ((l.vert k).zmem &&& l.zonesOf mask ≠ 0)

/-- Facets whose vertices all lie in zones of the mask (R104). -/
def Layout.eligible (l : Layout) (mask : Nat) : List (Nat × Nat × Nat) :=
  l.facets.filter (fun f => l.reaches mask f.1 && l.reaches mask f.2.1 && l.reaches mask f.2.2)

/-- The facet gains of an object at p (R105) as whole numbers: the gain of a vertex v is |v| times its number, over |p| times the size of the
facet's determinant, which is the first component. -/
def Layout.facetNums (l : Layout) (p : V3) (f : Nat × Nat × Nat) : Int × Int × Int × Int :=
  let a := (l.vert f.1).pos
  let b := (l.vert f.2.1).pos
  let c := (l.vert f.2.2).pos
  let d := a.dot (b.cross c)
  let s : Int := if d < 0 then -1 else 1
  (s * d, s * p.dot (b.cross c), s * a.dot (p.cross c), s * a.dot (b.cross p))

/-- The facet contains the direction of p (R105): every gain is at least −2^-20, compared exactly by squares. The sum of such gains is then
positive, since the direction they make has length 1. -/
def Layout.holdsDir (l : Layout) (p : V3) (f : Nat × Nat × Nat) : Bool :=
  let g := l.facetNums p f
  let ok := fun (k : Nat) (n : Int) =>
    let v := (l.vert k).pos
    decide (0 ≤ n) || decide (v.dot v * (n * n) * 2 ^ 40 ≤ p.dot p * (g.1 * g.1))
  ok f.1 g.2.1 && ok f.2.1 g.2.2.1 && ok f.2.2 g.2.2.2

/-- The direction that the gains of a facet make, up to its length. -/
def Layout.gainDir (l : Layout) (f : Nat × Nat × Nat) (g : Int × Int × Int) : V3 :=
  let t := fun (n : Int) (k : Nat) => let v := (l.vert k).pos; (⟨n * v.x, n * v.y, n * v.z⟩ : V3)
  ((t g.1 f.1).add (t g.2.1 f.2.1)).add (t g.2.2 f.2.2)

/-- Vector `a` makes a smaller angle with p than `b` does: the cosines compared exactly, by their signed squares. -/
def V3.nearer (p a b : V3) : Bool :=
  let ca := p.dot a * ((p.dot a).natAbs : Int) * b.dot b
  let cb := p.dot b * ((p.dot b).natAbs : Int) * a.dot a
  decide (cb < ca)

/-- A selected facet: its vertices, its gains as whole numbers, and whether the object is projected onto it. -/
structure FacetSel where
  f : Nat × Nat × Nat
  g : Int × Int × Int
  projected : Bool
  deriving DecidableEq, Repr

/-- The selected facet (R105, R106). -/
def Layout.selectFacet (l : Layout) (p : V3) (fs : List (Nat × Nat × Nat)) : Option FacetSel :=
  match fs.find? (l.holdsDir p) with
  | some f => some { f := f, g := (l.facetNums p f).2, projected := false }
  | none =>
    fs.foldl (fun best f =>
      let n := (l.facetNums p f).2
      let g := (max 0 n.1, max 0 n.2.1, max 0 n.2.2)
      let x : FacetSel := { f := f, g := g, projected := true }
      if g = (0, 0, 0) then best
      else match best with
        | none => some x
        | some y => if p.nearer (l.gainDir f g) (l.gainDir y.f y.g) then some x else best) none

/-- Constant-power gain of vertex k from the selected facet (R107), from the squares of the gains. -/
def Layout.facetGainOf (l : Layout) (sel : Option FacetSel) (k : Nat) : Fx :=
  match sel with
  | none => 0
  | some x =>
    let sq := fun (n : Int) (k : Nat) => let v := (l.vert k).pos; (v.dot v * (n * n)).toNat
    let sum := sq x.g.1 x.f.1 + sq x.g.2.1 x.f.2.1 + sq x.g.2.2 x.f.2.2
    let gain := fun (n : Int) =>
      let r : Fx := isqrt (sq n k * 2 ^ 128 / sum)
      if n < 0 then -r else r
    if k = x.f.1 then gain x.g.1 else if k = x.f.2.1 then gain x.g.2.1 else if k = x.f.2.2 then gain x.g.2.2 else 0

/-- Effective spread in degrees (R108). -/
def Layout.spreadOf (l : Layout) (p : V3) (spread : Nat) : Fx :=
  let sg := fxQ spread 16
  sg + fxMul (fxOf 180 - sg) (max 0 (fxOne - fxDiv p.len (fxOf l.centreR)))

/-- Four times the signed square of the cosine of a multiple of 15°, where that is a whole number. -/
def cosSquare4 (k : Nat) : Option Int :=
  if k = 0 then some 4 else if k = 2 then some 3 else if k = 3 then some 2 else if k = 4 then some 1 else if k = 6 then some 0
  else if k = 8 then some (-1) else if k = 9 then some (-2) else if k = 10 then some (-3) else if k = 12 then some (-4) else none

/-- The effective spread as a count of 15°, where it is one: the only spreads whose cosine the angle of whole-number vectors can meet. -/
def Layout.spread15 (l : Layout) (p : V3) (spread : Nat) : Option Nat :=
  let r := l.centreR
  let d := (p.dot p).toNat
  let t := if r * r ≤ d then some (spread * r) else if isqrt d * isqrt d = d then some (spread * r + (2880 - spread) * (r - isqrt d)) else none
  match t with
  | some t => if t % (240 * r) = 0 then some (t / (240 * r)) else none
  | none => none

/-- A direction lies within the effective spread `sg` of p (R109): exactly where equality can occur, and elsewhere by the angle `th` in
degrees. -/
def Layout.inSpread (l : Layout) (p v : V3) (spread : Nat) (sg th : Fx) : Bool :=
  match (l.spread15 p spread).bind cosSquare4 with
  | some c => decide (c * (p.dot p * v.dot v) ≤ 4 * (p.dot v * ((p.dot v).natAbs : Int)))
  | none => decide (th ≤ sg)

/-- Spread term of a candidate at angle `th` degrees, which lies within the spread or not (R109). -/
def spreadTerm (sg beta th : Fx) (inside : Bool) : Fx :=
  if sg = 0 ∨ ¬ inside then 0 else beta + fxMul (fxOne - beta) ((fxOne + fxCos (fxMul fxPi (fxDiv th sg))) / 2)

/-- What the geometry of one object gives: law gains per output with their delays, and what it counts (R106, R110, R111, R115). -/
structure Geometry where
  law : Nat
  /-- Output, law gain scaled by 2^64 (exact), delay, delay clamped. -/
  gains : List (Nat × Fx × Nat × Bool)
  projected : Bool
  fallback : Bool
  deriving DecidableEq, Repr

/-- Nearest-vertex fallback (R111). A vertex of no facet takes part in it like any other (log 81). -/
def Layout.fallback (l : Layout) (p : V3) (mask : Nat) : Geometry :=
  let ks := (List.range l.verts.length).filter (fun k => l.reaches mask k && decide (10000 ≤ (l.vert k).pos.dot (l.vert k).pos))
  let better := fun (a b : Nat) =>
    if p.dot p = 0 then decide ((l.vert a).out < (l.vert b).out)
    else
      let va := (l.vert a).pos
      let vb := (l.vert b).pos
      p.nearer va vb || (!p.nearer vb va && decide ((l.vert a).out < (l.vert b).out))
  match ks.foldl (fun best k => match best with
      | none => some k
      | some b => if better k b then some k else some b) none with
  | none => { law := 0, gains := [], projected := false, fallback := true }
  | some k => { law := 0, gains := [((l.vert k).out, fxOne, 0, false)], projected := false, fallback := true }

/-- Facet panning of a position, mask and spread (R104–R112). -/
def Layout.facetLaw (l : Layout) (p : V3) (mask spread : Nat) : Geometry :=
  if ¬ anyTo l.verts.length (fun k => l.reaches mask k) then { law := 0, gains := [], projected := false, fallback := false }
  else
    let fs := l.eligible mask
    if fs = [] then l.fallback p mask
    else
      let sg := l.spreadOf p spread
      let beta := sg / 180
      let full := decide (fxOf 180 ≤ sg)
      let u := p.unit
      let sel := if full then none else l.selectFacet p fs
      let cands := (List.range l.verts.length).filter (fun k => fs.any (fun f => f.1 == k || f.2.1 == k || f.2.2 == k))
      let w := fun k =>
        if full then fxOne
        else
          let th := fxMul (u.angle (l.vert k).pos.unit) (fxDiv (fxOf 180) fxPi)
          let s := spreadTerm sg beta th (l.inSpread p (l.vert k).pos spread sg th)
          fxMul (fxOne - beta) (l.facetGainOf sel k) + fxMul beta s
      let ws := cands.map (fun k => (k, w k))
      let n : Fx := isqrt (ws.foldl (fun a x => a + (x.2 * x.2).toNat) 0)
      if ws.all (fun x => x.2 == 0) then l.fallback p mask
      else
        { law := 0, gains := (ws.filter (fun x => x.2 != 0)).map (fun x => ((l.vert x.1).out, fxDiv x.2 n, 0, false)),
          projected := match sel with
            | some x => x.projected
            | none => false,
          fallback := false }

/-! ### Wave law (R113–R116) and pinned law (R118, R119) -/

/-- Activity of a vertex for an object at p (R113). -/
def activity (p : V3) (v : Vertex) : Fx :=
  let d := v.pos.sub p
  if d.dot d < 1 then fxOne else max 0 (fxDiv (fxOf (d.dot v.normal) / 32768) d.len)

/-- Vertices that the wave law may use: in the zones, with a normal. -/
def Layout.waveVerts (l : Layout) (mask : Nat) : List Nat :=
  (List.range l.verts.length).filter (fun k => l.reaches mask k && decide ((l.vert k).normal ≠ ⟨0, 0, 0⟩))

def Layout.waveActive (l : Layout) (p : V3) (mask : Nat) : List Nat :=
  (l.waveVerts mask).filter (fun k => decide (0 < activity p (l.vert k)))

/-- Exact delay of R115 in 1/64 sample before clamping and offset, rounded to nearest. -/
def waveDelay (r : Fx) (fs sos : Nat) : Int := fxRound (64 * r * (fs : Int) / (sos : Int))

/-- A free deviation of −2 … 1 cut to −1 … 1. -/
def dev1 (d : BitVec 2) : Int := clampI (-1) 1 d.toInt

/-- Wave-law gains and delays (R113–R115). -/
def Layout.waveLaw (l : Layout) (p : V3) (mask fs sos : Nat) (key : List Int) : Geometry :=
  { law := 1, projected := false, fallback := false,
    gains := (l.waveActive p mask).map (fun k =>
      let v := l.vert k
      let r := (v.pos.sub p).len
      let g := fxMul (fxMul (fxQ l.waveS 8388608) (activity p v)) (fxDiv (fxOf l.nearR) (max r (fxOf l.nearR)))
      let d := (max 0 (waveDelay r fs sos - (l.delayOfs : Int) + dev1 (Config.delayDev ((v.out : Int) :: key)))).toNat
      (v.out, g, satN 524287 d, decide (524287 < d))) }

/-- Pinned law: one output, or a pinned row's weights. -/
def Layout.pinnedLaw (l : Layout) (pin : Nat) : Geometry :=
  { law := 2, projected := false, fallback := false,
    gains := if pin < 32768 then [(pin % 512, fxOne, 0, false)]
      else (rowEnts l (lget (0, 0) l.rows (pin % 64))).map (fun e => (e.1, fxQ e.2 8388608, 0, false)) }

/-- What the geometry computes from, so that equal states give equal words. -/
def ObjState.key (o : ObjState) : List Int :=
  [o.x, o.y, o.z, o.gain, o.spread, o.law, o.pin, o.zones]

def ObjState.posV (o : ObjState) : V3 := ⟨o.x, o.y, o.z⟩

/-- The geometry of an object as it is rendered: with `noWave` (shedding step 3, R92), or without an active vertex (R116), the wave law
becomes facet panning. -/
def Layout.geometry (l : Layout) (o : ObjState) (noWave : Bool) (fs sos : Nat) : Geometry :=
  if o.law = 2 then l.pinnedLaw o.pin
  else if o.law = 1 ∧ ¬ noWave ∧ l.waveActive o.posV o.zones ≠ [] then l.waveLaw o.posV o.zones fs sos (o.key ++ [(l.id : Int), (sos : Int), (fs : Int)])
  else l.facetLaw o.posV o.zones o.spread

/-- Object gain as a factor (R123). -/
def linearGain (g : Int) : Fx := if g = -32768 then 0 else fxPow10 (fxQ g 5120)

/-- A word within 4 LSB of an exact value given in LSB scaled by 2^64: the nearest word, moved by a free deviation that stays within the
bound (R122, R123). -/
def within4 (e : Fx) (d : BitVec 4) : Int :=
  clampI (-((4 * fxOne - e) / fxOne)) ((e + 4 * fxOne) / fxOne) (fxRound e + d.toInt)

/-- Law gain word Q1.23; exactly 0 for 0, and exact for the pinned law (R118, R122). -/
def lawWord (law : Nat) (g : Fx) (key : List Int) : Int :=
  if g = 0 then 0 else if law = 2 then fxRoundTo 23 g else max 0 (within4 (g * 8388608) (Config.lawDev key))

/-- Gain target and whether it saturates (R123). -/
def gainTarget (law : Nat) (g : Fx) (gain : Int) (key : List Int) : Nat × Bool :=
  if gain = -32768 then (0, false)
  else
    let e := lawWord law g key * linearGain gain
    if 16777216 * fxOne ≤ e then (0xFFFFFF, true)
    else if e = 0 then (0, false)
    else (satN 0xFFFFFF (max 0 (within4 e (Config.gainDev key))).toNat, false)

/-- Targets of one object: output, gain target, delay target, saturated, delay clamped. -/
def targets (g : Geometry) (o : ObjState) : List (Nat × Nat × Nat × Bool × Bool) :=
  g.gains.map (fun x =>
    let (w, sat) := gainTarget g.law x.2.1 o.gain ((x.1 : Int) :: (g.law : Int) :: o.key)
    (x.1, w, x.2.2.1, sat, x.2.2.2))

end Sys2Proof.Machine
end

