-- ==== Sys2Proof/Machine/LoomOps.lean ====
section
/-!
DEFINITION. Sys2Proof/Machine/LoomOps.lean: one render pick of the Loom (05_loom_crosspoints): input filters, live sets, the lanes'
arithmetic, output sums, and the pick's end.
-/
namespace Sys2Proof.Machine

def setX (f : LoomS → LoomS) (s : State) : State := { s with x := f s.x }

/-- Applied state of an object. -/
def State.obj (s : State) (i : Nat) : ObjState := nget ObjState.reset s.o.applied i

/-- A real value in units of 2^-64 rounded to one of its two neighbouring words: no rule gives the rounding (log 29). -/
def freeRound (key : List Int) (a : Fx) : Int :=
  if a % fxOne = 0 then a / fxOne else a / fxOne + (b2n (Config.roundBit key) : Int)

/-! ### Input filters (R117, R120, R121, R125) -/

def InFilter.zero : InFilter := { air := 0, x1 := 0, y1 := 0 }

/-- α of the air-absorption low-pass at a position, none while it is bypassed (R120). -/
def airAlpha (airK fs : Nat) (p : V3) : Option Fx :=
  let d := p.len
  if d = 0 then none
  else
    let fc := fxDiv (fxOf (airK * 1000)) d
    if fxOf (45 * (fs : Int)) ≤ 100 * fc then none
    else some (fxOne - fxExp (-(fxMul (2 * fxPi) (max (fxOf 250) fc)) / (fs : Int)))

/-- Shelf coefficients b0, b1, a1 (R117). -/
def shelfCoef (fc g fs : Nat) : Fx × Fx × Fx :=
  let k := fxTan (fxPi * (fc : Int) / (fs : Int))
  let v := fxPow10 (fxQ g 5120)
  let r := fxSqrt v
  let kz := fxDiv k r
  let kp := fxMul k r
  (fxDiv (fxMul v (fxOne + kz)) (fxOne + kp), fxDiv (fxMul v (kz - fxOne)) (fxOne + kp), fxDiv (kp - fxOne) (fxOne + kp))

/-- One sample through the low-pass and the shelf. While air absorption is off the low-pass state follows the input, as in the bypass of R120
(log 82). -/
def filterSample (al : Option Fx) (sh : Option (Fx × Fx × Fx)) (f : InFilter) (x : Fx) : InFilter × Fx :=
  let y := match al with
    | none => x
    | some a => f.air + fxMul a (x - f.air)
  match sh with
  | none => ({ air := y, x1 := y, y1 := y }, y)
  | some (b0, b1, a1) =>
    let z := fxMul b0 y + fxMul b1 f.x1 - fxMul a1 f.y1
    ({ air := y, x1 := y, y1 := z }, z)

/-- The samples of one input's pick filtered, as 32-bit words. -/
def filterPick (i : Nat) (al : Option Fx) (sh : Option (Fx × Fx × Fx)) : List Int → InFilter → InFilter × List Int
  | [], f => (f, [])
  | x :: r, f =>
    let (f, y) := filterSample al sh f (fxOf x)
    let (f', ys) := filterPick i al sh r f
    (f', satS 32 (freeRound [(i : Int), y] y) :: ys)

/-! ### Live sets (R137–R141) -/

/-- Ceiling of an input (R137). -/
def State.ceilOf (s : State) (i : Nat) : Nat := nget s.x.ceilDef s.x.ceil i

/-- Sum of the ceilings in force: C of the reservation table. -/
def State.ceilSum (s : State) : Nat := sumTo s.inputs s.ceilOf

/-- One crosspoint instance of a pick (R138). -/
structure Inst where
  i : Nat
  o : Nat
  g0 : Nat
  g1 : Nat
  d0 : Nat
  dt : Nat
  /-- Glide limit; 0 for a delay that does not move. -/
  glide : Nat
  closing : Bool
  deriving DecidableEq, Repr

/-- Crosspoint entries of an input. -/
def State.xpsOf (s : State) (i : Nat) : List (Nat × Xp) :=
  (s.x.xp.filter (fun e => decide (i * 512 ≤ e.1) && decide (e.1 < i * 512 + 512))).map (fun e => (e.1 - i * 512, e.2))

/-- Targets in rank order: gain descending, ties to the lower output (R139). -/
def ranked (t : List (Nat × Nat × Nat × Bool × Bool)) : List (Nat × Nat × Nat × Bool × Bool) :=
  (t.filter (fun x => x.2.1 != 0)).foldl (fun acc x => insertBy (fun y => (0xFFFFFF - y.2.1) * 512 + y.1) x acc) []

/-- What R139 and R141 decide for one input: the outputs that continue, close, open and are deferred. -/
structure LiveSet where
  cont : List Nat
  closes : List Nat
  opens : List Nat
  defers : List Nat
  deriving DecidableEq, Repr

/-- The procedure of R139, and of R141 where `lower` gives a new ceiling. `dual` tells that every live crosspoint closes (R138). -/
def liveSet (ceil : Nat) (lower : Option Nat) (dual : Bool) (live : List Nat) (t : List Nat) : LiveSet :=
  let cont0 := if dual then [] else t.filter (fun o => live.contains o)
  let cont := match lower with
    | some c => cont0.take c
    | none => cont0
  let closes := live.filter (fun o => !cont.contains o)
  let fresh := t.filter (fun o => dual || !live.contains o)
  let budget := ceil - live.length
  let room := match lower with
    | some c => if c < cont0.length then 0 else min budget (c - cont.length)
    | none => budget
  { cont := cont, closes := closes, opens := fresh.take room, defers := fresh.drop room }

/-- The instances of one input, ascending by output, closing before opening on one output. -/
def instances (i : Nat) (ls : LiveSet) (xp : Nat → Xp) (tgt : Nat → Nat × Nat) (glide : Nat) (poisoned : Nat → Bool) : List Inst :=
  (List.range 512).foldr (fun o acc =>
    if poisoned o then acc
    else
      let e := xp o
      let (g, d) := tgt o
      let acc := if ls.opens.contains o then
        { i := i, o := o, g0 := 0, g1 := g, d0 := d, dt := d, glide := 0, closing := false } :: acc else acc
      if ls.cont.contains o then
        { i := i, o := o, g0 := e.gcur, g1 := g, d0 := e.dcur, dt := d, glide := glide, closing := false } :: acc
      else if ls.closes.contains o then
        { i := i, o := o, g0 := e.gcur, g1 := 0, d0 := e.dcur, dt := e.dcur, glide := 0, closing := true } :: acc
      else acc) []

/-! ### Lanes (R147–R156) -/

/-- The delay moved once towards its target by at most `lim` (R89, R155). -/
def moveDelay (lim d t : Nat) : Nat := if d < t then min t (d + lim) else max t (d - lim)

/-- Delays used at samples 0 … n − 1, each after its move. -/
def glidePath (lim t : Nat) : Nat → Nat → List Nat
  | 0, _ => []
  | n + 1, d =>
    let d' := moveDelay lim d t
    d' :: glidePath lim t n d'

/-- Extension of a window beyond N + 3 samples (R147). -/
def extension (n : Nat) (path : List Nat) : Nat :=
  let us := path.zipIdx.map (fun x => (x.2 : Int) - ((x.1 / 64 : Nat) : Int))
  match us with
  | [] => 0
  | u :: r => (r.foldl max u - r.foldl min u - ((n : Int) - 1)).toNat

/-- Interpolator coefficients Q2.22 of a fraction f/64 (R150, R151). -/
def interpCoef (f : Nat) : Int × Int × Int × Int :=
  let m : Int := 64 - f
  let w := fun (num : Int) (den : Nat) => roundUp (num * 4194304) (262144 * den)
  (w (-(m * (m - 64) * (m - 128))) 6, w ((m + 64) * (m - 64) * (m - 128)) 2, w (-((m + 64) * m * (m - 128))) 2,
   w ((m + 64) * m * (m - 64)) 6)

/-- Sample k of a line and the current pick: k from −8,192 to N − 1, the ends held as R152 gives. -/
def lineSample (n : Nat) (line cur : List Int) (k : Int) : Int :=
  if (n : Int) ≤ k then lget 0 cur (n - 1)
  else if 0 ≤ k then lget 0 cur k.toNat
  else lget 0 line (min 8191 (-k - 1).toNat)

/-- The interpolated sample and whether it saturates (R150, R151). -/
def interpolate (n : Nat) (line cur : List Int) (i d : Nat) : Int × Bool :=
  let m : Int := (i : Int) - ((d / 64 : Nat) : Int) - 1
  let (a, b, c, e) := interpCoef (d % 64)
  let x := lineSample n line cur
  let v := (a * x (m - 1) + b * x m + c * x (m + 1) + e * x (m + 2) + 2097152) / 4194304
  (satS 32 v, decide (satS 32 v ≠ v))

/-- The line slot of sample k < 0, when `slot` is the one written next: slots count up from 0 at the start of the Loom, alike for every input
(log 83). -/
def slotOf (slot : Nat) (k : Int) : Nat := (((slot : Int) + k) % 8192).toNat

/-- Whether a tap of sample i with delay d reads a poisoned slot (R159): one tap when f = 0, four otherwise. -/
def tapsPoisoned (slot : Nat) (bad : List Nat) (i d : Nat) : Bool :=
  if bad = [] then false
  else
    let m : Int := (i : Int) - ((d / 64 : Nat) : Int) - 1
    let taps := if d % 64 = 0 then [m + 1] else [m - 1, m, m + 1, m + 2]
    taps.any (fun k => decide (k < 0) && bad.contains (slotOf slot (max k (-8192))))

/-- Gain at sample i of n (R154): halves round up. -/
def rampGain (n g0 g1 i : Nat) : Int := roundUp ((g0 : Int) * n + ((g1 : Int) - g0) * (i + 1)) n

/-- Products of one instance in units of 2^-4 LSB, and the interpolator saturations (R151, R156). -/
def laneRun (n slot : Nat) (bad : List Nat) (line cur : List Int) (x : Inst) (path : List Nat) : List Int × Nat :=
  let rs := path.zipIdx.map (fun pi =>
    if tapsPoisoned slot bad pi.2 pi.1 then ((0 : Int), false)
    else
      let (v, sat) := interpolate n line cur pi.2 pi.1
      ((v * rampGain n x.g0 x.g1 pi.2 + 262144) / 524288, sat))
  (rs.map (·.1), (rs.filter (·.2)).length)

/-- What the lanes have built up: sums per output, saturations, pool left, an instance held back, delays at the end of the pick. -/
structure LaneAcc where
  sums : NMap (List Int)
  isat : Nat
  pool : Nat
  held : Bool
  ends : List (Nat × Nat)
  /-- Poisoned words that taps read, by input and slot. -/
  found : List (Nat × Nat)
  deriving DecidableEq, Repr

/-- One instance run by a lane, the glide pool granted in order (R148). -/
def runInst (n slot : Nat) (bad : Nat → List Nat) (line cur : Nat → List Int) (a : LaneAcc) (x : Inst) : LaneAcc :=
  let path := if x.glide = 0 then List.replicate n x.d0 else glidePath x.glide x.dt n x.d0
  let excess := extension n path - n / 8
  let (path, pool, held) :=
    if excess = 0 then (path, a.pool, false)
    else if excess ≤ a.pool then (path, a.pool - excess, false)
    else (glidePath (min x.glide 8) x.dt n x.d0, a.pool, true)
  let (prods, sat) := laneRun n slot (bad x.i) (line x.i) (cur x.i) x path
  let hit := (bad x.i).filter (fun z => path.zipIdx.any (fun pi => tapsPoisoned slot [z] pi.2 pi.1))
  { sums := nset a.sums x.o (List.zipWith (· + ·) prods (nget (List.replicate n 0) a.sums x.o)), isat := a.isat + sat, pool := pool,
    held := a.held || held,
    ends := if x.closing then a.ends else (x.i * 512 + x.o, path.getLast?.getD x.d0) :: a.ends,
    found := hit.foldl (fun l z => if l.contains (x.i, z) then l else l ++ [(x.i, z)]) a.found }

/-- Instances in the order of R143: groups ascending, then inputs, then outputs. -/
def laneOrder (perGroup : Nat) (xs : List Inst) : List Inst :=
  (List.range 32).foldr (fun g acc => xs.filter (fun x => decide (x.o / perGroup = g)) ++ acc) []

/-- An output sum as an internal word (R157). -/
def sumWord (v : Int) : Int × Bool := let w := (v + 8) / 16; (satS 32 w, decide (satS 32 w ≠ w))

/-! ### One render pick -/

/-- What the Loom computes for one input before the lanes run. -/
structure InputPlan where
  geo : Geometry
  tgt : List (Nat × Nat × Nat × Bool × Bool)
  ls : LiveSet
  insts : List Inst
  filt : InFilter
  cur : List Int
  deriving DecidableEq, Repr

/-- Wave law is shed (R59 step 3). -/
def State.noWave (s : State) : Bool := decide (3 ≤ s.b.shed)

/-- The rendered law of the last pick. -/
def State.lawOf (s : State) (i : Nat) : Option Nat := nfind s.x.law i

/-- The targets that an input keeps where its geometry was not computed: those of the pick before (R161). -/
def State.keptTargets (s : State) (i : Nat) : List (Nat × Nat × Nat × Bool × Bool) :=
  (s.xpsOf i).map (fun e => (e.1, e.2.gtgt, e.2.dtgt, false, false))

/-- One input's plan: filters, geometry, live set and instances. `xs` are its N render-input samples; `geoDone` tells that its geometry is
computed in this pick. Outputs that do not exist at the render rate have no crosspoint (R135). -/
def planInput (s : State) (geoDone : Bool) (i : Nat) (xs : List Int) : InputPlan :=
  let o := s.obj i
  let ly := s.x.active
  let geo := if geoDone then ly.geometry o s.noWave s.fs s.x.sos
    else { law := (s.lawOf i).getD 0, gains := [], projected := false, fallback := false }
  let tgt := if geoDone then (targets geo o).filter (fun y => decide (y.1 < s.outputs)) else s.keptTargets i
  let al := if o.air ∧ o.law ≠ 2 then airAlpha ly.airK s.fs o.posV else none
  let sh := if o.law = 1 ∧ ¬ s.noWave then some (shelfCoef ly.shelfFc ly.shelfG s.fs) else none
  let (f, cur) := filterPick i al sh xs (nget InFilter.zero s.x.filt i)
  let es := s.xpsOf i
  let live := (es.filter (fun e => e.2.live)).map (·.1)
  let dual := match s.lawOf i with
    | some l => decide (l ≠ geo.law) || (geoDone && s.x.recut && decide (l = 1))
    | none => false
  let rk := ranked tgt
  let ls := liveSet (s.ceilOf i) (nfind s.x.lower i) dual live (rk.map (·.1))
  let t := fun k => match tgt.find? (fun y => y.1 == k) with
    | some y => (y.2.1, y.2.2.1)
    | none => (0, 0)
  { geo := geo, tgt := tgt, ls := ls, filt := f, cur := cur,
    insts := instances i ls (fun k => nget Xp.zero s.x.xp (i * 512 + k)) t (if geo.law = 1 then o.glide else 0)
      (fun k => s.x.poisonXp.contains (i * 512 + k)) }

/-- Crosspoint entries of one input after the pick (R135, R139, R160). `dend` gives the delay at the end of an instance. -/
def endEntries (i : Nat) (pl : InputPlan) (dend : Nat → Option Nat) (bad : Nat → Bool) (xp : NMap Xp) : NMap Xp :=
  upto 512 (fun o m =>
    let key := i * 512 + o
    let e := nget Xp.zero m key
    let (g, d) := match pl.tgt.find? (fun y => y.1 == o) with
      | some y => (y.2.1, y.2.2.1)
      | none => (0, 0)
    if bad o then nset m key { gcur := 0, gtgt := g, dcur := 0, dtgt := d, live := false, defer := false }
    else if pl.ls.opens.contains o ∨ pl.ls.cont.contains o then
      nset m key { gcur := g, gtgt := g, dcur := (dend key).getD d, dtgt := d, live := decide (g ≠ 0), defer := false }
    else if pl.ls.closes.contains o ∨ pl.ls.defers.contains o then
      nset m key { e with gcur := 0, gtgt := g, dtgt := d, live := false, defer := pl.ls.defers.contains o }
    else if e.gtgt ≠ g ∨ e.defer then nset m key { e with gtgt := g, dtgt := d, defer := false }
    else m) xp

/-- Events and counts of one input's geometry (R106, R111, R115, R116, R124). The source's instance is the object index (log 78). -/
def countGeometry (i : Nat) (pl : InputPlan) (s : State) : State :=
  let o := s.obj i
  let s := if pl.geo.projected then bump 0x7914 15 0 s else s
  let s := if pl.geo.fallback then bump 0x7914 31 16 s else s
  let s := if pl.tgt.any (fun y => y.2.2.2.2) then bump 0x7918 15 0 s else s
  let wfall := decide (o.law = 1) && !s.noWave && decide (pl.geo.law = 0)
  let s := if wfall then bump 0x7918 31 16 s else s
  let s := if wfall && !(nget false s.x.fallEp i) then post 0x0512 i (a2 i) s else s
  let s := if decide (o.law = 1) && !s.noWave then setX (fun x => { x with fallEp := nset x.fallEp i wfall }) s else s
  let satOut := (pl.tgt.filter (fun y => y.2.2.2.1)).foldl (fun m y => min m y.1) 512
  let s := if satOut < 512 ∧ ¬ nget false s.x.satEp i then post 0x0513 i (a2 i ++ a2 satOut) s else s
  setX (fun x => { x with satEp := nset x.satEp i (decide (satOut < 512)), law := nset x.law i pl.geo.law }) s

/-- Deferred crosspoints of one input's pick (R140). -/
def countDefers (i : Nat) (pl : InputPlan) (s : State) : State :=
  let dfr := decide (pl.ls.defers ≠ [])
  let s := if dfr then bump 0x7010 15 0 s else s
  let s := if dfr && !(nget false s.x.defEp i) then post 0x0520 i (a2 i) s else s
  setX (fun x => { x with defEp := nset x.defEp i dfr }) s

/-- A poisoned delay-line word is found, once in a pick (R159). -/
def foundPoison (i slot : Nat) (s : State) : State :=
  if s.x.foundLine.contains (i, slot) then s
  else
    let s := setX (fun y => { y with foundLine := y.foundLine ++ [(i, slot)] }) s
    post 0x0522 0 (a2 i ++ a2 slot ++ a8 s.m.pick) (setReg 0x7020 (BitVec.ofNat 32 (i % 1024 + fld 10 13 slot)) (bump 0x701C 23 16 s))

/-- What the lanes do with every instance of a pick. -/
def State.lanes (s : State) (curs : NMap (List Int)) (order : List Inst) : LaneAcc :=
  let bad := fun i => (s.x.poisonLine.filter (fun z => z.1 == i)).map (·.2)
  order.foldl (runInst s.t.pickLen s.x.slot bad (fun i => nget [] s.x.lines i) (fun i => nget [] curs i))
    { sums := [], isat := 0, pool := 8192, held := false, ends := [], found := [] }

/-- The control state of a pick of the Loom, of whatever became of its sums (R139–R148, R161): the crosspoint table, the filters, the current
samples, deferred crosspoints and the glides held back. -/
def loomControl (geoDone : Bool) (plans : List (Nat × InputPlan)) (acc : LaneAcc) (insts : Nat) (s : State) : State :=
  let dend := fun key => (acc.ends.find? (fun e => e.1 == key)).map (·.2)
  let xp := plans.foldl (fun m p => endEntries p.1 p.2 dend (fun o => s.x.poisonXp.contains (p.1 * 512 + o)) m) s.x.xp
  let s := if geoDone then plans.foldl (fun st p => countGeometry p.1 p.2 st) s else s
  let s := plans.foldl (fun st p => countDefers p.1 p.2 st) s
  let s := if acc.held then bump 0x7010 31 16 s else s
  let s := if acc.held && !s.x.poolEp then post 0x0521 0 [] s else s
  setX (fun x => { x with
    xp := xp, cur := plans.foldl (fun m p => nset m p.1 p.2.cur) x.cur, poolEp := acc.held,
    filt := plans.foldl (fun m p => nset m p.1 p.2.filt) x.filt }) (raiseTo 0x700C 19 0 insts s)

/-- The plans of a pick's inputs, and their instances in the order of the lanes. -/
def State.loomPlans (s : State) (geoDone : Bool) (xin : Nat → List Int) : List (Nat × InputPlan) :=
  (List.range s.inputs).map (fun i => (i, planInput s geoDone i (xin i)))

def State.loomOrder (s : State) (plans : List (Nat × InputPlan)) : List Inst :=
  laneOrder (s.outputs / 32) (plans.foldr (fun p acc => p.2.insts ++ acc) [])

def plannedSamples (plans : List (Nat × InputPlan)) : NMap (List Int) := plans.foldl (fun m p => nset m p.1 p.2.cur) []

/-- One render pick of the Loom from its render inputs: output sums, the crosspoint table, lines and counts (R139–R160). Delay lines take
the pick's samples at its end. Of several outputs that saturate in a pick, LOOM_SAT_OUT names the highest: groups run in ascending order,
and within a group the latest is the model's choice (R157; log 84). -/
def loomPick (xin : Nat → List Int) (s : State) : State :=
  let n := s.t.pickLen
  let plans := s.loomPlans true xin
  let order := s.loomOrder plans
  let acc := s.lanes (plannedSamples plans) order
  let words := (List.range s.outputs).map (fun o => (o, (nget (List.replicate n 0) acc.sums o).map sumWord))
  let osat := words.foldl (fun m w => m + (w.2.filter (·.2)).length) 0
  let firstSat := (words.filter (fun w => w.2.any (·.2))).map (·.1)
  let s := loomControl true plans acc order.length s
  let s := acc.found.foldl (fun st z => foundPoison z.1 z.2 st) s
  let s := bumpBy acc.isat 0x7014 31 16 (bumpBy osat 0x7014 15 0 s)
  let s := match firstSat.getLast? with
    | some o => putField 0x7018 8 0 o s
    | none => s
  let s := match firstSat with
    | o :: _ => post 0x0523 0 (a2 o ++ a2 (satN 0xFFFF osat)) s
    | [] => s
  setX (fun x => { x with sums := words.map (fun w => (w.1, w.2.map (·.1))) })
    (putField 0x7008 19 0 order.length (putField 0x7024 13 0 (8192 - acc.pool) s))

/-- The current samples appended to the lines at the end of the pick (R146); a poisoned word is overwritten in its turn (R159). -/
def appendLines (s : State) : State :=
  let n := s.t.pickLen
  setX (fun x => { x with
    lines := x.cur.foldl (fun m c => nset m c.1 ((c.2.reverse ++ nget [] m c.1).take 8192)) x.lines,
    slot := (x.slot + n) % 8192,
    poisonLine := x.poisonLine.filter (fun z => decide (n ≤ (z.2 + 8192 - x.slot) % 8192)),
    lastSum := x.sums.foldl (fun m w => nset m w.1 (w.2.getLast?.getD 0)) x.lastSum }) s

/-- The Loom stopped by an overrun (R161): every instance counts as complete, inputs whose geometry was not computed keep their targets, and
every output sum repeats its last word. -/
def loomStop (geoDone : Bool) (xin : Nat → List Int) (s : State) : State :=
  let plans := s.loomPlans geoDone xin
  let order := s.loomOrder plans
  setX (fun x => { x with sums := (List.range s.outputs).map (fun o => (o, List.replicate s.t.pickLen (nget 0 x.lastSum o))) })
    (loomControl geoDone plans (s.lanes (plannedSamples plans) order) order.length s)

/-- The Loom starts (R136): the crosspoint table, the delay lines and the filters are cleared. The picks in which it stood still had no
deferred crosspoint, no saturated target and no glide held back (R124, R140, R148); a ceiling lowered for this pick still falls (R141). -/
def loomStart (s : State) : State :=
  setX (fun x => { x with xp := [], lines := [], slot := 0, cur := [], filt := [], law := [], poisonLine := [], foundLine := [], poisonXp := [],
                          sums := [], lastSum := [], satEp := [], defEp := [], poolEp := false, recut := false }) s

/-- The errors found in a pick are told of once it is over. -/
def loomForget (s : State) : State := setX (fun x => { x with foundLine := [], poisonXp := [] }) s

/-- The words of a crosspoint state entry (R135); zero where poisoned (R163). -/
def Xp.words (e : Xp) : List Nat :=
  [e.gcur, e.gtgt, e.dcur, e.dtgt + flag 19 e.live + flag 20 e.defer]

/-- SNAPSHOT_LATCH of LOOM_XP_SEL (R163). -/
def loomSnapshot (s : State) : State :=
  if s.x.sel then
    let k := s.field 0x7028 18 0
    let ws := if s.x.poisonXp.contains k then [0, 0, 0, 0] else (nget Xp.zero s.x.xp k).words
    let s := (List.range 4).foldl (fun st w => setReg (0x702C + 4 * w) (BitVec.ofNat 32 (lget 0 ws w)) st) s
    putField 0x7028 31 31 1 (setX (fun x => { x with sel := false }) s)
  else s

/-- Bytes of a dump: 512 entries per input (R165). -/
def dumpBytes (s : State) (first count : Nat) : List Byte :=
  (List.range (512 * count)).foldr (fun j acc =>
    let k := first * 512 + j
    (if s.x.poisonXp.contains k then zeros 16 else (nget Xp.zero s.x.xp k).words.foldr (fun w a => leBytes 4 w ++ a) []) ++ acc) []

/-- The dumps that take the entries at the end of this pick (R165). -/
def loomDumps (p : Nat) (s : State) : State :=
  s.x.dumps.foldl (fun st d => complete d.1 (.of stOK (lo32' p)) (writeHost d.2.1 (dumpBytes s d.2.2.1 d.2.2.2) st))
    (setX (fun x => { x with dumps := [] }) s)
where
  lo32' (p : Nat) : Nat := p % 2 ^ 32

/-- The object has a crosspoint delay that is not at its target (03_objects R96). -/
def State.gliding (s : State) (i : Nat) : Bool := (s.xpsOf i).any (fun e => e.2.live && e.2.dcur != e.2.dtgt)

end Sys2Proof.Machine
end

