-- ==== Sys2Proof/Machine/ReedOps.lean ====
section
/-!
DEFINITION. Sys2Proof/Machine/ReedOps.lean: one render pick of the Reed (06_reed): alignment delay, room correction, trim, limiter and
output word; bank images; and the measurement's deconvolution.
-/
namespace Sys2Proof.Machine

def setR (f : ReedS → ReedS) (s : State) : State := { s with r := f s.r }

def State.outCfg (s : State) (o : Nat) : OutCfg := nget OutCfg.reset s.r.cfg o
def State.chainOf (s : State) (o : Nat) : Chain := nget Chain.clear s.r.chain o

/-- The active and the inactive bank (R178). -/
def State.reedActive (s : State) : ReedBank := if s.r.active = 0 then s.r.bankA else s.r.bankB
def State.reedInactive (s : State) : ReedBank := if s.r.active = 0 then s.r.bankB else s.r.bankA

/-- The inactive bank replaced. -/
def putReedInactive (b : ReedBank) (s : State) : State :=
  setR (fun r => if r.active = 0 then { r with bankB := b } else { r with bankA := b }) s

/-- An output without an entry has TAPS 0 and GEN 0 (R181). -/
def BankEntry.none : BankEntry := { gen := 0, taps := 0, ofs := 0, coef := [], bad := [] }
def ReedBank.entry (b : ReedBank) (o : Nat) : BankEntry := nget BankEntry.none b.dir o

/-! ### Room correction (R172–R176, R180) -/

/-- Classes of the tail: block size, first tap, partitions (R172). -/
def tailClasses : List (Nat × Nat × Nat) := [(16, 128, 176), (64, 2944, 10), (256, 3584, 2), (1024, 4096, 4)]

/-- Partitions of a section of `t` taps: block size and first tap. -/
def partsOf (t : Nat) : List (Nat × Nat) :=
  tailClasses.foldr (fun c acc =>
    ((List.range c.2.2).map (fun i => (c.1, c.2.1 + c.1 * i))).filter (fun p => decide (p.2 < t)) ++ acc) []

/-- Taps of one partition from its spectrum of `b` entries (R180), in units of 2^-64. -/
def partTaps (b : Nat) (c : List Int) : List Fx :=
  (List.range b).map (fun j =>
    let ends := lget 0 c 0 + (if j % 2 = 0 then lget 0 c 1 else -(lget 0 c 1))
    let mid := sumToI (b - 1) (fun k' =>
      let k := k' + 1
      let w := fxPi * ((j * k % (2 * b) : Nat) : Int) / (b : Int)
      2 * (lget 0 c (2 * k) * fxCos w - lget 0 c (2 * k + 1) * fxSin w))
    (ends * fxOne + mid) / 2147483648)

/-- Taps of a section: the head as stored, then each partition in tap order. -/
def sectionTaps (t : Nat) (c : List Int) : List Fx :=
  let head := (c.take (min t 128)).map (fun w => w * 8589934592)
  ((partsOf t).foldl (fun (acc : List Fx × List Int) p => (acc.1 ++ partTaps p.1 (acc.2.take (2 * p.1)), acc.2.drop (2 * p.1)))
    (head, c.drop 128)).1

/-- Words of a section's block (R180). -/
def sectionWords (t : Nat) : Nat := min t 128 + sumTo (partsOf t).length (fun i => 2 * (lget (0, 0) (partsOf t) i).1)

/-- Bytes of a coefficient block (R180). -/
def blockBytes (t : Nat) : Nat := if t = 16384 then 8 * sectionWords 8192 else 4 * sectionWords t

/-- The impulse response of an entry (R172, R174). -/
def BankEntry.response (e : BankEntry) : List Fx :=
  if e.taps = 16384 then sectionTaps 8192 (e.coef.take 16256) ++ sectionTaps 8192 (e.coef.drop 16256)
  else sectionTaps e.taps e.coef

/-- The deviation that R176 allows a tail: below 10^-6 of full scale. -/
def tailDeviation (key : List Int) : Fx := (Config.tailDev key).toInt * (fxOf 134217728 / 1000000) / 2147483649

/-- One bin of a forward transform of length `m`, real and imaginary, in units of 2^-64. -/
def dftAt (m : Nat) (xs : List Int) (k : Nat) : Fx × Fx :=
  xs.zipIdx.foldl (fun acc xi =>
    let w := 2 * fxPi * ((k * xi.2 % m : Nat) : Int) / (m : Int)
    (acc.1 + xi.1 * fxCos w, acc.2 - xi.1 * fxSin w)) (0, 0)

/-- The place in a block of the partition of class `b` that starts at tap `t` (R180). -/
def partOffset (taps b t : Nat) : Option Nat :=
  ((partsOf taps).foldl (fun (a : Nat × Option Nat) p => (a.1 + 2 * p.1, if p = (b, t) then some a.1 else a.2)) (min taps 128, none)).2

/-- What output sample `n` loses where a spectrum word reads as 0 (R172, R180, R204): the product of that bin with the partition that the block
meets. `xs` is the input history, newest first, its newest sample being `n`. A filter of 16,384 taps meets it in its first section. -/
def lostPart (e : BankEntry) (xs : List Int) (n : Nat) (z : LostBin) : Fx :=
  let b := z.cls
  match partOffset (min e.taps 8192) b (b * (n / b - z.block)) with
  | none => 0
  | some o =>
    let x := (List.range (2 * b)).map (fun r => lget 0 xs (n - ((z.block - 1) * b + r)))
    let re := lget 0 e.coef (o + 2 * z.bin)
    let im := lget 0 e.coef (o + 2 * z.bin + 1)
    let r := b + n % b
    if z.bin = 0 then
      ((dftAt (2 * b) x 0).1 * re + (if r % 2 = 0 then 1 else -1) * (dftAt (2 * b) x b).1 * im) / 2147483648
    else
      let f := dftAt (2 * b) x z.bin
      let w := fxPi * ((z.bin * r % (2 * b) : Nat) : Int) / (b : Int)
      2 * (fxMul (f.1 * re - f.2 * im) (fxCos w) - fxMul (f.1 * im + f.2 * re) (fxSin w)) / 2147483648

/-- Room correction of sample `n`: `hs` the response, `xs` the input history, newest first; the head samples of ages `bad` and the spectrum
words `lost` read as 0 (R172, R176, R204). -/
def roomSample (e : BankEntry) (hs : List Fx) (n : Nat) (bad : List Nat) (lost : List LostBin) (xs : List Int) : Int :=
  if e.taps = 0 then lget 0 xs 0
  else
    let y := (List.zipWith (fun h x => h * x) hs xs).foldl (· + ·) 0
    let y := bad.foldl (fun a k => a - lget 0 hs k * lget 0 xs k) y
    let y := lost.foldl (fun a z => a - lostPart e xs n z) y
    satS 32 (fxRound (if e.taps ≤ 128 then y else y + tailDeviation (e.coef ++ xs.take e.taps)))

/-- The spectrum word `w` of an output after sample `n`: classes in the order of R172, in each the newest block first, in a block bin by bin
(log 85). It is replaced within 4,096 samples. -/
def lostBin (w n : Nat) : Option LostBin :=
  (tailClasses.foldl (fun (a : Nat × Option LostBin) c =>
    let size := c.2.2 * c.1
    (a.1 + size, if a.1 ≤ w ∧ w < a.1 + size then
        some { cls := c.1, block := n / c.1 - 1 - (w - a.1) / c.1, bin := (w - a.1) % c.1, till := n + 4096 } else a.2)) (0, none)).2

/-- A crossfade mix at sample `i` (R189). -/
def mix (n i : Nat) (a b : Int) : Int := satS 32 (roundUp (a * ((n : Int) - (i + 1)) + b * (i + 1)) n)

/-! ### Trim, limiter and output word (R170, R171, R194) -/

/-- Linear factor of a gain in 1/256 dB; −32,768 is mute. -/
def dbFactor (g : Int) : Fx := if g = -32768 then 0 else fxPow10 (fxQ g 5120)

/-- A limiter coefficient: 1 − exp(−num ÷ (time × fs)), 1 for a time of 0 (R194, R195). -/
def limiterAlpha (num time fs : Nat) : Fx := if time = 0 then fxOne else fxOne - fxExp (-(fxQ num (time * fs)))

/-- One sample of the limiter: gain and output, and whether it clips by more than 16 LSB (R194). The gain word's rounding is open
(log 29). -/
def limiterSample (key : List Int) (att rel thr : Fx) (g : Nat) (x : Fx) : Nat × Fx × Bool :=
  let a : Int := x.natAbs
  let t := if thr < a then fxDiv thr a else fxOne
  let g0 : Fx := (g : Int) * 2199023255552
  let g1 := if t < g0 then
      let z := g0 + fxMul att (t - g0)
      if z - t ≤ 4503599627370496 then t else z
    else g0 + fxMul rel (t - g0)
  let gw := (freeRound key (g1 * 8388608)).toNat
  let y := fxMul x ((gw : Int) * 2199023255552)
  let ya : Int := y.natAbs
  if thr < ya then (gw, if x < 0 then -thr else thr, decide (fxOf 16 < ya - thr)) else (gw, y, false)

/-- The 24-bit grid and full scale (R171): the word and whether it saturates. -/
def gridWord (x : Int) : Int × Bool :=
  let y := (x + 8) / 16 * 16
  let z := clampI (-0x8000000) 0x7FFFFF0 y
  (z, decide (z ≠ y))

/-- What one output's chain does in a pick. -/
structure ChainRun where
  ch : Chain
  out : List Int
  clips : Nat
  engaged : Bool
  sats : Nat
  deriving DecidableEq, Repr

/-- One output's chain over the samples of a pick (R166), the first of which is sample `at_`. `old` is the entry to cross from, if the output
crossfades. -/
def runChain (n fs at_ : Nat) (c : OutCfg) (e : BankEntry) (old : Option BankEntry) (ch : Chain) (xs : List Int) : ChainRun :=
  let hs := e.response
  let hs0 := match old with
    | some e0 => e0.response
    | none => []
  let f0 := dbFactor ch.trim
  let f1 := dbFactor c.trim
  let att := limiterAlpha 100000 c.attack fs
  let rel := limiterAlpha 1000 c.release fs
  let thr := fxMul (fxOf 134217728) (dbFactor c.thresh)
  let z := (xs.zipIdx).foldl (fun (a : ChainRun) xi =>
    let i := xi.2
    let line := (xi.1 :: a.ch.line).take 4096
    let dl := lget 0 line c.delay
    let x := match ch.oldDelay with
      | some d => mix n i (lget 0 line d) dl
      | none => dl
    let hist := (x :: a.ch.hist).take 16384
    let bad := (a.ch.headBad.map (· + 1)).filter (fun k => decide (k < 128))
    let lost := a.ch.lost.filter (fun z => decide (at_ + i < z.till))
    let y1 := roomSample e hs (at_ + i) bad lost hist
    let y2 := match old with
      | some e0 => mix n i (roomSample e0 hs0 (at_ + i) bad lost hist) y1
      | none => y1
    let y3 := if ch.fading then mix n i y2 0 else y2
    let f := f0 + (f1 - f0) * ((i : Int) + 1) / (n : Int)
    let key := [y3, ch.trim, c.trim, (i : Int), (n : Int), (a.ch.g : Int), c.thresh, (c.attack : Int), (c.release : Int)]
    let v := f * y3
    let (g, w, clip) := if c.limEn then limiterSample key att rel thr a.ch.g v else (0x800000, v, false)
    let (o, sat) := gridWord (freeRound (1 :: key) w)
    { ch := { a.ch with line := line, hist := hist, headBad := bad, lost := lost, g := g }, out := a.out ++ [o], clips := a.clips + b2n clip,
      engaged := a.engaged || decide (g < 0x800000), sats := a.sats + b2n sat })
    { ch := ch, out := [], clips := 0, engaged := false, sats := 0 }
  { z with ch := { z.ch with trim := c.trim, oldDelay := none, fading := false } }

/-- An output runs in this pick: enabled, or in the pick that disables it (R168). -/
def State.outRuns (s : State) (o : Nat) : Bool := (s.outCfg o).en || (s.chainOf o).fading

/-- O of the reservations (R167). -/
def State.outsEnabled (s : State) : Nat := sumTo s.outputs (fun o => b2n (s.outRuns o))

/-- Runs of all outputs that run, ascending. `xin` gives an output's chain inputs. -/
def chainRuns (xin : Nat → List Int) (s : State) : List (Nat × ChainRun) :=
  ((List.range s.outputs).filter s.outRuns).map (fun o =>
    (o, runChain s.t.pickLen s.fs (s.m.pick * s.t.pickLen) (s.outCfg o) (s.reedActive.entry o)
      (if s.r.xfade.contains o then some (s.reedInactive.entry o) else none) (s.chainOf o) (xin o)))

/-- The chains left as the runs leave them. -/
def keepChains (runs : List (Nat × ChainRun)) (xin : Nat → List Int) (s : State) : State :=
  setR (fun r => { r with
    chain := runs.foldl (fun m x => nset m x.1 x.2.ch) r.chain,
    lastIn := runs.foldl (fun m x => nset m x.1 ((xin x.1).getLast?.getD 0)) r.lastIn }) s

/-- One render pick of the Reed (R166, R171, R196). -/
def reedPick (s : State) : State :=
  let n := s.t.pickLen
  let xin := fun o => nget (List.replicate n 0) s.x.sums o
  let runs := chainRuns xin s
  let s := keepChains runs xin s
  let outs := (List.range s.outputs).map (fun o => (o, match runs.find? (fun x => x.1 == o) with
    | some x => x.2.out
    | none => List.replicate n 0))
  let s := setR (fun r => { r with
    outs := outs, lastOut := outs.foldl (fun m x => nset m x.1 (x.2.getLast?.getD 0)) r.lastOut }) s
  let sats := (runs.filter (fun x => x.2.sats != 0)).map (·.1)
  let s := bumpBy (runs.foldl (fun a x => a + x.2.sats) 0) 0x801C 15 0 s
  let s := match sats.getLast? with
    | some o => putField 0x801C 24 16 o s
    | none => s
  let s := match sats with
    | o :: _ => post 0x0604 0 (a2 o) s
    | [] => s
  let clips := (runs.filter (fun x => x.2.clips != 0)).map (·.1)
  let s := bumpBy (runs.foldl (fun a x => a + x.2.clips) 0) 0x8020 15 0 s
  let s := match clips with
    | o :: _ => if s.r.clipEp then s else post 0x0605 0 (a2 o) s
    | [] => s
  let eng := (runs.filter (fun x => x.2.engaged)).map (·.1)
  let s := bumpBy eng.length 0x8020 31 16 s
  let s := { s with l := { s.l with limAcc := eng.foldl (fun m o => nmod 0 m o (· + n)) s.l.limAcc } }
  setR (fun r => { r with clipEp := decide (clips ≠ []) }) s

/-- The Reed stopped by an overrun (02_pick_budget R57; 06_reed R192): each output repeats its last word, and the chains take in a
block of each input's last sample. -/
def reedRepeat (s : State) : State :=
  let n := s.t.pickLen
  let xin := fun o => List.replicate n (nget 0 s.r.lastIn o)
  let s := keepChains (chainRuns xin s) xin s
  setR (fun r => { r with outs := (List.range s.outputs).map (fun o => (o, List.replicate n (nget 0 r.lastOut o))) }) s

/-- The crossfades of a swap end with its pick, whether or not the Reed finished it (R166, R189, R192). REED_STAT.XFADE tells of a crossfade
that ran in a completed pick. -/
def reedEnd (finished : Bool) (s : State) : State :=
  setR (fun r => { r with xfadeRan := finished && decide (r.xfade ≠ []), xfade := [] }) s

/-- A word of an output's signal memories reads as 0 (R204). The line and the history hold two samples in a word, the newest first (log 85). -/
def loseLine (o w : Nat) (s : State) : State :=
  let c := s.chainOf o
  setR (fun r => { r with chain := nset r.chain o { c with line := lset (lset c.line (2 * w) 0) (2 * w + 1) 0 } }) s

def loseHist (o w : Nat) (s : State) : State :=
  let c := s.chainOf o
  setR (fun r => { r with chain := nset r.chain o { c with headBad := c.headBad ++ [2 * w, 2 * w + 1] } }) s

def loseSpectrum (o w : Nat) (s : State) : State :=
  let c := s.chainOf o
  match lostBin w (s.m.pick * s.t.pickLen) with
  | some z => setR (fun r => { r with chain := nset r.chain o { c with lost := c.lost ++ [z] } }) s
  | none => s

/-- The Reed starts (R202): lines and histories cleared, limiter gains 1; each output's trim is in force from the start. -/
def reedStart (s : State) : State :=
  setR (fun r => { r with
    chain := r.cfg.foldl (fun m x => nset m x.1 { Chain.clear with trim := x.2.trim }) [], outs := [], lastIn := [], lastOut := [],
    xfade := [], clipEp := false }) s

/-- The lead-in in picks (R185). -/
def leadPicks (n : Nat) : Nat := if n = 0 then 0 else 1024 / n

/-! ### Bank images (R179–R183) -/

/-- The directory entry `k` of an image: OUT, GEN, TAPS, OFFSET. -/
def imgEntry (b : List Byte) (k : Nat) : Nat × Nat × Nat × Nat :=
  let o := 64 + 16 * k
  (getLE b o 2, getLE b (o + 2) 2, getLE b (o + 4) 4, getLE b (o + 8) 4)

/-- TAPS that a bank may hold (R179). -/
def tapsOk (long : Bool) (t : Nat) : Bool := [0, 128, 1024, 2048, 4096, 8192].contains t || (long && decide (t = 16384))

/-- Whether two blocks share a byte; a block of no bytes shares none. -/
def overlap (a la b lb : Nat) : Bool := decide (0 < la) && decide (0 < lb) && decide (a < b + lb) && decide (b < a + la)

/-- The first failure of R182, as reason and directory index. -/
def reedBankFault (b : List Byte) (len nOut : Nat) (single : Bool) : Option (Nat × Nat) :=
  if len < 64 then some (2, 0)
  else if getLE b 0 4 ≠ 0x52424E4B ∨ getLE b 4 2 ≠ 1 ∨ 1 < byteAt b 6 ∨ ¬ zeroRange b 7 1 ∨ ¬ zeroRange b 10 2 ∨ ¬ zeroRange b 20 40 then
    some (1, 0)
  else
    let long := decide (byteAt b 6 = 1)
    let k := getLE b 8 2
    let l := getLE b 16 4
    if k = 0 ∨ (if long then 256 else 512) < k ∨ l ≠ len ∨ l % 8 ≠ 0 ∨ 33554432 < l ∨ l < 64 + 16 * k ∨ (single ∧ k ≠ 1) then
      some (2, 0)
    else if crc32c (blankCrc 60 (fit len b)) ≠ getLE b 60 4 then some (3, 0)
    else
      let e := imgEntry b
      match firstBad k (fun i =>
          let x := e i
          decide (x.1 < nOut) && !(long && decide (256 ≤ x.1)) && (List.range i).all (fun j => (e j).1 != x.1) && tapsOk long x.2.2.1 &&
            zeroRange b (64 + 16 * i + 12) 4) with
      | some i => some (4, i)
      | none =>
        match firstBad k (fun i =>
            let x := e i
            decide (x.2.2.2 % 8 = 0) && decide (x.2.2.2 + blockBytes x.2.2.1 ≤ len) &&
              (List.range i).all (fun j => !overlap (e j).2.2.2 (blockBytes (e j).2.2.1) x.2.2.2 (blockBytes x.2.2.1))) with
        | some i => some (5, i)
        | none => none

/-- The words of a coefficient block. -/
def readCoef (b : List Byte) (ofs t : Nat) : List Int := (List.range (blockBytes t / 4)).map (fun k => getLES b (ofs + 4 * k) 4)

/-- The bank of a sound image. -/
def readBank (b : List Byte) : ReedBank :=
  { id := getLE b 12 4, long := decide (byteAt b 6 = 1),
    dir := (List.range (getLE b 8 2)).foldl (fun m k =>
      let (o, g, t, ofs) := imgEntry b k
      nset m o { gen := g, taps := t, ofs := ofs, coef := readCoef b ofs t, bad := [] }) [] }

/-- The outputs that a swap changes (R187). -/
def State.reedChanged (s : State) : List Nat :=
  (List.range s.outputs).filter (fun o =>
    let a := s.reedActive.entry o
    let b := s.reedInactive.entry o
    decide (a.gen ≠ b.gen) || decide (a.taps ≠ b.taps))

/-- The directory that REED_BANK_QUERY writes (R203, R208): 16 bytes per output in output order, each entry as it was loaded. -/
def ReedBank.directory (b : ReedBank) : List Byte :=
  (List.range 512).foldr (fun o acc =>
    let e := b.entry o
    leBytes 2 o ++ leBytes 2 e.gen ++ leBytes 4 e.taps ++ leBytes 4 e.ofs ++ zeros 4 ++ acc) []

/-! ### Measurement (R197–R201) -/

/-- The transform length of R199. -/
def measM : Nat := 1048576

/-- One bin of a transform of R199. -/
def dftBin (xs : List Int) (k : Nat) : Fx × Fx := dftAt measM xs k

/-- Squared magnitude of a bin, in units of 2^-128. -/
def binPower (z : Fx × Fx) : Int := z.1 * z.1 + z.2 * z.2

/-- ε of R199 for a reference channel: the largest power × 10^(−REG ÷ 10), in units of 2^-128. -/
def measEps (ref : List Int) (reg : Nat) : Int :=
  (List.range measM).foldl (fun m k => max m (binPower (dftBin ref k))) 0 * fxPow10 (fxQ (-(reg : Int)) 10) / fxOne

/-- Sample `n` of the impulse response of a channel (R199), in units of 2^-64. -/
def irSample (ref ch : List Int) (eps : Int) (n : Nat) : Fx :=
  (List.range measM).foldl (fun acc k =>
    let x := dftBin ref k
    let c := dftBin ch k
    let p := binPower x + eps
    let re := if p = 0 then 0 else (c.1 * x.1 + c.2 * x.2) * fxOne / p
    let im := if p = 0 then 0 else (c.2 * x.1 - c.1 * x.2) * fxOne / p
    let w := 2 * fxPi * ((k * n % measM : Nat) : Int) / (measM : Int)
    acc + (fxMul re (fxCos w) - fxMul im (fxSin w))) 0 / (measM : Int)

/-- The IEEE 754 binary32 word of a value, its last bit free between the two neighbours (R199; log 29). -/
def binary32 (key : List Int) (v : Fx) : Nat :=
  let a := v.natAbs
  if a = 0 then 0
  else
    let e := a.log2
    let m := if e < 23 then a * 2 ^ (23 - e) else a / 2 ^ (e - 23)
    let exact := decide (e < 23) || decide (a % 2 ^ (e - 23) = 0)
    let bits := (e + 127 - 64) * 2 ^ 23 + (m - 2 ^ 23) + (if exact then 0 else b2n (Config.roundBit key))
    (if v < 0 then 2 ^ 31 else 0) + bits

/-- The bytes that a run writes: IR_LEN samples of each channel from 1 on (R199). -/
def MeasRun.results (m : MeasRun) : List Byte :=
  let ch := fun c => (nget [] m.caps c).take m.len
  let eps := measEps (ch 0) m.reg
  (fromTo 1 (m.chans - 1)).foldr (fun c acc =>
    (List.range m.irLen).foldr (fun n acc =>
      let v := irSample (ch 0) (ch c) eps n
      leBytes 4 (binary32 [v, (c : Int), (n : Int)] v) ++ acc) acc) []

/-- Steps of the deconvolution (R200): the reference, and each further channel. -/
def deconRef : Nat := 23068672
def deconChan : Nat := 42991616

/-- Render picks that the deconvolution takes: its steps at 2,048 × N per pick (R200). -/
def MeasRun.deconPicks (m : MeasRun) (n : Nat) : Nat :=
  (deconRef + (m.chans - 1) * deconChan + 2048 * n - 1) / (2048 * n)

/-- Capture picks. -/
def MeasRun.capPicks (m : MeasRun) (n : Nat) : Nat := (m.len + n - 1) / n

/-- Samples captured of channel 0. -/
def MeasRun.captured (m : MeasRun) : Nat := (nget [] m.caps 0).length

/-- The measurement register (R206): the channel being deconvolved and the progress in percent, from the steps of R200 (log 32). -/
def State.measWord (s : State) : Nat × Nat :=
  match s.r.meas with
  | none => (0, 0)
  | some m =>
    let n := s.t.pickLen
    let done := match m.decon with
      | some p => s.m.pick - p
      | none => 0
    let steps := done * 2048 * n
    let chan := match m.decon with
      | some _ => if steps < deconRef then 0 else min (m.chans - 1) (1 + (steps - deconRef) / deconChan)
      | none => 0
    let cap := match m.start with
      | some q => min (m.capPicks n) (s.m.pick - q)
      | none => 0
    (chan, satN 100 (100 * (cap + done) / (m.capPicks n + m.deconPicks n)))

/-- The measurement run ends with a status; its workspace is freed (R201): event 0x0612, or 0x0611 on completion. -/
def endMeas (status : Nat) (s : State) : State :=
  match s.r.meas with
  | none => s
  | some m =>
    let p := m.start.getD 0
    post (if status = stOK then 0x0611 else 0x0612) 0 []
      (complete m.w (.of status (if status = stOK then p % 2 ^ 32 else 0)) (setR (fun r => { r with meas := none }) s))

/-! ### Registers (R206, R207) -/

/-- A configuration record as REED_OUT_CFG gives it; HARD and APPLY, which belong to a command, are free (log 33). -/
def OutCfg.record (c : OutCfg) (free : Nat) : List Byte :=
  leBytes 2 (flag 0 c.en + flag 1 c.limEn + flag 2 (bitOf free 4)) ++ leBytes 2 c.delay ++ leBytes 2 (unsignedOf 16 c.trim) ++
    leBytes 2 (unsignedOf 16 c.thresh) ++ leBytes 2 c.attack ++ leBytes 2 c.release ++ leBytes 2 (free % 16) ++ zeros 2

/-- Gain reduction in 1/256 dB of a gain word: the largest whole number at or below it, or the next (R206; log 29). -/
def gainReduction (g : Nat) : Nat :=
  if g = 0x800000 then 0
  else
    let x : Fx := (g : Int) * 2199023255552
    let n : Nat := (List.range 16).foldl (fun (acc : Nat) i =>
      let c : Nat := acc + 2 ^ (15 - i)
      if x ≤ fxPow10 (fxQ (-(c : Int)) 5120) then c else acc) 0
    n + b2n (Config.roundBit [(g : Int)])

/-- SNAPSHOT_LATCH of REED_OUT_SEL (R207). -/
def reedSnapshot (s : State) : State :=
  if s.r.sel then
    let o := s.field 0x8030 8 0
    let (v, s) := draw s
    let b := (s.outCfg o).record (v.toNat % 32)
    let s := (List.range 4).foldl (fun st w => setReg (0x8034 + 4 * w) (BitVec.ofNat 32 (getLE b (4 * w) 4)) st) s
    let s := putField 0x8044 15 0 (gainReduction (s.chainOf o).g) s
    putField 0x8030 31 31 1 (setR (fun r => { r with sel := false }) s)
  else s

/-- The pending bank swap, if any: its pick and whether it is crossfaded. -/
def State.bankPending (s : State) : Option (Nat × Bool) :=
  match s.sched.find? (fun x => match x.chg with | .bankSwap _ _ => true | _ => false) with
  | some x => some (x.pick, match x.chg with | .bankSwap xf _ => xf | _ => false)
  | none => none

/-- The lead-in of the pending swap runs in the pick in progress (R186); a swap that waits for a load has none yet. -/
def State.leadIn (s : State) : Bool := match s.bankPending with
  | some (q, _) => s.m.dpRun && decide (q ≤ s.m.pick + leadPicks s.t.pickLen) && !s.h.loads.any (fun l => decide (l.set = .reed))
  | none => false

end Sys2Proof.Machine
end

