-- ==== Sys2Proof/Machine/Chan.lean ====
section
/-!
DEFINITION. Sys2Proof/Machine/Chan.lean: channel codes (07_heddle R210, R211), which channels exist, which sources are active, and the
rates of destinations (11_audio_ports R343, 12_media_network R385).
-/
namespace Sys2Proof.Machine

def setA (f : PortS → PortS) (s : State) : State := { s with a := f s.a }
def setN (f : NetS → NetS) (s : State) : State := { s with n := f s.n }
def setD (f : HeddleS → HeddleS) (s : State) : State := { s with d := f s.d }
def setF (f : FchS → FchS) (s : State) : State := { s with f := f s.f }

def State.aes (s : State) (p : Nat) : AesCfg := nget AesCfg.reset s.a.aes p
def State.tdm (s : State) (p : Nat) : TdmCfg := nget TdmCfg.reset s.a.tdm p
def State.strm (s : State) (k : Nat) : StreamCfg := nget StreamCfg.reset s.n.cfgs k

/-- Stream numbers: receive 0–255, transmit 256–511. -/
def rxStreams : List Nat := List.range 256
def txStreams : List Nat := fromTo 256 511

/-- The source codes (R210). -/
def srcCode (rate96 : Bool) (c : Nat) : Bool :=
  (decide (c < 0x80) && !(rate96 && decide (8 ≤ c % 16))) || (decide (0x80 ≤ c) && decide (c < 0xB0)) ||
  (decide (0x100 ≤ c) && decide (c < 0x600)) || (decide (0x600 ≤ c) && decide (c < 0x600 + outputsAt rate96)) ||
  (decide (0x800 ≤ c) && decide (c < 0x940))

/-- Sources with input filters. -/
def srcFiltered (rate96 : Bool) (c : Nat) : Bool := srcCode rate96 c && decide (c < 0x600)

/-- The destination codes (R210). -/
def dstCode (rate96 : Bool) (c : Nat) : Bool :=
  decide (c < inputsAt rate96) || (decide (0x400 ≤ c) && decide (c < 0x540)) ||
  (decide (0x600 ≤ c) && decide (c < 0x680) && !(rate96 && decide (8 ≤ c % 16))) || (decide (0x680 ≤ c) && decide (c < 0x6A0)) ||
  (decide (0x700 ≤ c) && decide (c < 0xA40))

/-- Destinations on the 24-bit grid (R217): TDM, AES3 and network channels. -/
def dstGrid (c : Nat) : Bool := decide (0x600 ≤ c) && decide (c < 0xA00)

/-- Channels of a HAQ ring, which are active while it is enabled (14_host_interface R459). -/
def State.haqChans (s : State) (h : Nat) : Nat := if (s.ring (14 + h)).en then min 16 (s.ring (14 + h)).nch else 0

/-- Bits of FCH_OUT_MODE of an output. -/
def outMode (modes m : Nat) : Nat := modes / 4 ^ m % 4

/-- An enabled stream covers a channel. -/
def StreamCfg.covers (c : StreamCfg) (ch : Nat) : Bool := c.en && decide (c.firstCh ≤ ch) && decide (ch < c.firstCh + c.nch)

/-- Whether a source with input filters is active (R219). -/
def State.srcActive (s : State) (c : Nat) : Bool :=
  if c < 0x80 then (s.tdm (c / 16)).inEn && !(s.t.rate96 && decide (8 ≤ c % 16))
  else if c < 0xA0 then (s.aes ((c - 0x80) / 2)).rxEn
  else if c < 0xB0 then decide (outMode s.f.modes (c - 0xA0) ≠ 0)
  else if c < 0x100 then false
  else if c < 0x500 then rxStreams.any (fun k => (s.strm k).covers (c - 0x100))
  else if c < 0x600 then decide ((c - 0x500) % 16 < s.haqChans ((c - 0x500) / 16))
  else false

/-- F of the reservations: active sources with filters (R44, R238). -/
def State.activeSources (s : State) : List Nat := (List.range 0x600).filter s.srcActive

/-- F counted without listing: ports, filter-chain outputs, the channels of enabled streams and host audio. -/
def State.countSources (s : State) : Nat :=
  let on := (rxStreams.map s.strm).filter (·.en)
  sumTo 8 (fun p => if (s.tdm p).inEn then (if s.t.rate96 then 8 else 16) else 0) +
  sumTo 16 (fun p => if (s.aes p).rxEn then 2 else 0) + sumTo 16 (fun m => b2n (decide (outMode s.f.modes m ≠ 0))) +
  (if on = [] then 0 else sumTo 1024 (fun ch => b2n (on.any (·.covers ch)))) + sumTo 16 s.haqChans

/-- Fixed port rates in Hz by code (11_audio_ports R368); code 0 is the render rate. -/
def aesRate (code : Nat) : Nat := lget 0 [0, 32000, 44100, 48000, 88200, 96000, 176400, 192000] code
def tdmRate (code : Nat) : Nat := lget 0 [0, 44100, 48000, 88200, 96000] code

/-- A rate code's rate, the render rate for code 0. -/
def State.rateOr (s : State) (r : Nat) : Nat := if r = 0 then s.fs else r

/-- Rate of a destination channel (R211): its port's, its stream's, or the render rate. -/
def State.dstRate (s : State) (c : Nat) : Nat :=
  if 0x600 ≤ c ∧ c < 0x680 then s.rateOr (tdmRate (s.tdm ((c - 0x600) / 16)).outRate)
  else if 0x680 ≤ c ∧ c < 0x6A0 then s.rateOr (aesRate (s.aes ((c - 0x680) / 2)).txRate)
  else if 0x700 ≤ c ∧ c < 0xA00 then
    match txStreams.find? (fun k => (s.strm k).covers (c - 0x700)) with
    | some k => s.rateOr (tdmRate (s.strm k).rate)
    | none => s.fs
  else s.fs

/-- A destination's port or stream runs at fs × L ÷ M from the media clock (08_filter_chain R260). -/
def State.targetRuns (s : State) (c l m : Nat) : Bool :=
  decide (s.dstRate c * m = s.fs * l) &&
    (if c < 0x680 then (s.tdm ((c - 0x600) / 16)).outEn && !(s.tdm ((c - 0x600) / 16)).outSlave
     else if c < 0x6A0 then (s.aes ((c - 0x680) / 2)).txEn
     else txStreams.any (fun k => (s.strm k).covers (c - 0x700)))

/-- A destination that a resampler channel feeds (08_filter_chain R261). -/
def State.isTarget (s : State) (c : Nat) : Bool := s.f.rs.any (fun x => x.2.dst == c)

end Sys2Proof.Machine
end

