-- ==== Sys2Proof/Machine/HeddleOps.lean ====
section
/-!
DEFINITION. Sys2Proof/Machine/HeddleOps.lean: the Heddle (07_heddle): input filters, routes and their gains, buses and passes, route
sets, and what a swap does to live signal.
-/
namespace Sys2Proof.Machine

/-! ### Input filters (R212–R214) -/

/-- A coefficient as a signed Q2.30 word, rounded to nearest (R213). -/
def q30 (v : Fx) : Int := fxRoundTo 30 v

/-- Corner of a high-pass selection in Hz (R247). -/
def hpfCorner (sel : Nat) : Nat := lget 0 [0, 20, 40, 80, 120] sel

/-- b0, b1, b2, a1, a2 of the high-pass (R212). -/
def hpfCoef (fc fs : Nat) : Int × Int × Int × Int × Int :=
  let k := fxTan (fxPi * (fc : Int) / (fs : Int))
  let r2 := fxSqrt (fxOf 2)
  let k2 := fxMul k k
  let d := fxOne + fxMul r2 k + k2
  (q30 (fxDiv fxOne d), q30 (fxDiv (fxOf (-2)) d), q30 (fxDiv fxOne d), q30 (fxDiv (2 * (k2 - fxOne)) d),
   q30 (fxDiv (fxOne - fxMul r2 k + k2) d))

/-- A filter sum rounded half up to the internal word and saturated (R213). -/
def filterWord (acc : Int) : Int := satS 32 ((acc + 536870912) / 1073741824)

def SrcFilter.zero : SrcFilter := { dx := 0, dy := 0, x1 := 0, x2 := 0, y1 := 0, y2 := 0 }

/-- One sample through the DC blocker and the high-pass; `hp` is none while it is off (R212, R214). -/
def srcSample (a : Int) (hp : Option (Int × Int × Int × Int × Int)) (f : SrcFilter) (x : Int) : SrcFilter × Int :=
  let y := filterWord ((x - f.dx) * 1073741824 + a * f.dy)
  match hp with
  | none => ({ dx := x, dy := y, x1 := y, x2 := f.x1, y1 := 0, y2 := 0 }, y)
  | some (b0, b1, b2, a1, a2) =>
    let z := filterWord (b0 * y + b1 * f.x1 + b2 * f.x2 - a1 * f.y1 - a2 * f.y2)
    ({ dx := x, dy := y, x1 := y, x2 := f.x1, y1 := z, y2 := f.y1 }, z)

/-- A run of samples through both filters. -/
def srcRun (a : Int) (hp : Option (Int × Int × Int × Int × Int)) (f : SrcFilter) (xs : List Int) : SrcFilter × List Int :=
  let r := xs.foldl (fun (acc : SrcFilter × List Int) x => let (g, y) := srcSample a hp acc.1 x; (g, y :: acc.2)) (f, [])
  (r.1, r.2.reverse)

/-- The DC blocker's coefficient (R212). -/
def dcCoef (fs : Nat) : Int := q30 (fxExp (-(4 * fxPi / (fs : Int))))

/-! ### Gains and routes (R216, R217, R231–R237) -/

/-- The gain word of R216. -/
def gainWord (g : Int) : Nat := if g = -32768 then 0 else (fxRoundTo 21 (fxPow10 (fxQ g 5120))).toNat

/-- The deadline of R235 in samples. -/
def zcDeadline (timeout fs : Nat) : Nat := ((if timeout = 0 then 50 else timeout) * fs + 9999) / 10000

/-- The gain word that a move has in force, and the word it leads to. -/
def RouteMove.word : RouteMove → Nat
  | .hold w => w | .ramp _ b => b | .fadeIn w => w | .fadeOut w => w | .zero a _ _ => a | .stepped b => b

/-- Sample `j` crosses zero (R235). -/
def crosses (p x : Int) : Bool := decide (x = 0) || decide (p * x < 0)

/-- The gain words of a pick, the move afterwards, and crossings counted. `prev` is the source's sample before the pick. -/
def moveWords (n : Nat) (prev : Int) (xs : List Int) : RouteMove → List Nat × RouteMove × Nat
  | .hold w => (List.replicate n w, .hold w, 0)
  | .stepped w => (List.replicate n w, .stepped w, 0)
  | .ramp a b => ((List.range n).map (fun (i : Nat) => (roundUp ((a : Int) * n + ((b : Int) - a) * (i + 1)) n).toNat), .hold b, 0)
  | .fadeIn w => ((List.range n).map (fun (i : Nat) => (roundUp ((w : Int) * (i + 1)) n).toNat), .hold w, 0)
  | .fadeOut w => ((List.range n).map (fun (i : Nat) => (roundUp ((w : Int) * ((n : Int) - (i + 1))) n).toNat), .fadeOut 0, 0)
  | .zero a b left =>
    let ps := prev :: xs
    match ((List.range n).find? (fun j => decide (j ≤ left) && crosses (lget 0 ps j) (lget 0 xs j))) with
    | some j => (List.replicate j a ++ List.replicate (n - j) b, .hold b, 1)
    | none =>
      if left < n then (List.replicate left a ++ List.replicate (n - left) b, .stepped b, 0)
      else (List.replicate n a, .zero a b (left - n), 0)

/-- One product (R217). -/
def routeProduct (inv : Bool) (x : Int) (w : Nat) : Int := ((if inv then -x else x) * (w : Int) + 1048576) / 2097152

/-- Steps per sample that a route costs: 2 while it fades, and 1 otherwise (R232). -/
def RouteRun.steps (r : RouteRun) : Nat := match r.move with
  | .fadeIn _ => 2
  | .fadeOut _ => 2
  | _ => 1

/-- A route over one pick: its products, itself afterwards, and crossings counted. -/
def RouteRun.play (r : RouteRun) (n : Nat) (prev : Int) (xs : List Int) : List Int × RouteRun × Nat :=
  let (ws, mv, z) := moveWords n prev xs r.move
  let ps := List.zipWith (routeProduct r.ent.inv) xs ws
  let ps := if r.lost then List.replicate n 0 else match r.poison with
    | some k => ps.take k ++ List.replicate (n - k) 0
    | none => ps
  (ps, { r with move := mv }, z)

/-- How a route moves over a pick of an overrun (R239): no crossing is sought. -/
def RouteMove.skip (n : Nat) : RouteMove → RouteMove
  | .zero a b left => if left < n then .stepped b else .zero a b (left - n)
  | .ramp _ b => .hold b
  | .fadeIn w => .hold w
  | .fadeOut _ => .fadeOut 0
  | m => m

/-- A bus as a source and as a destination. -/
def srcBus (c : Nat) : Option Nat := if 0x900 ≤ c ∧ c < 0x940 then some (c - 0x900) else none
def dstBus (c : Nat) : Option Nat := if 0x500 ≤ c ∧ c < 0x540 then some (c - 0x500) else none

/-- Bus-to-bus edges of some routes. -/
def busEdges (rs : List RouteEnt) : List (Nat × Nat) :=
  rs.filterMap (fun r => match srcBus r.src, dstBus r.dst with
    | some a, some b => if r.cut then none else some (a, b)
    | _, _ => none)

/-- Buses in an order in which each follows those that feed it, and the buses left in a cycle. -/
def busSort : Nat → List Nat → List (Nat × Nat) → List Nat × List Nat
  | 0, rem, _ => ([], rem)
  | k + 1, rem, es =>
    let free := rem.filter (fun b => !es.any (fun e => decide (e.2 = b) && rem.contains e.1))
    if free = [] then ([], rem)
    else
      let (o, l) := busSort k (rem.filter (fun b => !free.contains b)) es
      (free ++ o, l)

def busOrder (rs : List RouteEnt) : List Nat × List Nat := busSort 65 (List.range 64) (busEdges rs)

/-- The buses form a cycle (R221). -/
def busCycle (rs : List RouteEnt) : Bool := decide ((busOrder rs).2 ≠ [])

/-- Bus `b` is reached from the buses listed. -/
def busReached : Nat → List (Nat × Nat) → List Nat → List Nat
  | 0, _, acc => acc
  | k + 1, es, acc =>
    let more := (es.filter (fun e => acc.contains e.1 && !acc.contains e.2)).map (·.2)
    if more = [] then acc else busReached k es (acc ++ more.eraseDups)

/-- The route lies on a cycle of buses: its source is reached from its destination (R221). -/
def onBusCycle (es : List (Nat × Nat)) (r : RouteEnt) : Bool :=
  match srcBus r.src, dstBus r.dst with
  | some a, some b => !r.cut && (busReached 64 es [b]).contains a
  | _, _ => false

/-- A render output as a source. -/
def srcRender (c : Nat) : Bool := decide (0x600 ≤ c) && decide (c < 0x800)

/-- The buses that output-pass routes feed (R220). -/
def outBuses : Nat → List RouteEnt → List Nat → List Nat
  | 0, _, acc => acc
  | k + 1, rs, acc =>
    let more := rs.filterMap (fun r => match dstBus r.dst with
      | some b => if !r.cut && (srcRender r.src || (match srcBus r.src with | some a => acc.contains a | none => false)) &&
          !acc.contains b then some b else none
      | none => none)
    if more = [] then acc else outBuses k rs (acc ++ more.eraseDups)

/-- The route is in the output pass (R220). -/
def inOutPass (obs : List Nat) (r : RouteEnt) : Bool :=
  srcRender r.src || (match srcBus r.src with | some a => obs.contains a | none => false)

/-- Ri and Ro of a list of routes. -/
def passCounts (rs : List RouteEnt) : Nat × Nat :=
  let rs := rs.filter (fun r => !r.cut)
  let o := (rs.filter (inOutPass (outBuses 64 rs []))).length
  (rs.length - o, o)

/-! ### One render pick -/

/-- The routes in force as entries. -/
def State.routesNow (s : State) : List RouteEnt := s.d.routes.map (·.ent)

/-- Samples of a source that is neither filtered nor a bus; Batten outputs are those of the render pick before (02_pick_budget R55).
In Pass, render and Batten outputs read zero (R219). -/
def State.plainSource (s : State) (bat : NMap (List Int)) (c : Nat) : List Int :=
  let z := List.replicate s.t.pickLen 0
  if srcRender c then (if s.rendering then nget z s.r.outs (c - 0x600) else z)
  else if 0x800 ≤ c ∧ c < 0x900 then (if s.rendering then nget z bat (c - 0x800) else z)
  else nget z s.d.src c

/-- Samples of any source: a bus is the saturated sum of what feeds it (R217). -/
def State.sourceOf (s : State) (bat : NMap (List Int)) (acc : NMap (List Int)) (c : Nat) : List Int :=
  match srcBus c with
  | some b => (nget (List.replicate s.t.pickLen 0) acc (0x500 + b)).map (satS 32)
  | none => s.plainSource bat c

/-- A Batten input's destination code. -/
def dstBatten (c : Nat) : Bool := decide (0x400 ≤ c) && decide (c < 0x500)

/-- Routes in an order in which every bus is summed before it is read (R220). -/
def orderRoutes (rs : List RouteRun) : List RouteRun :=
  let bo := (busOrder (rs.map (·.ent))).1
  bo.foldr (fun b acc => rs.filter (fun r => r.ent.dst == 0x500 + b) ++ acc) (rs.filter (fun r => (dstBus r.ent.dst).isNone))

/-- What a pass builds up: sums per destination, routes afterwards, crossings. -/
structure PassAcc where
  acc : NMap (List Int)
  done : List RouteRun
  zero : Nat
  deriving DecidableEq, Repr

/-- The routes of one pass run in order. -/
def runPass (s : State) (bat : NMap (List Int)) (acc : NMap (List Int)) (rs : List RouteRun) : PassAcc :=
  (orderRoutes rs).foldl (fun a r =>
    let xs := s.sourceOf bat a.acc r.ent.src
    let (ps, r', z) := r.play s.t.pickLen (nget 0 s.d.prev r.ent.src) xs
    { acc := nset a.acc r.ent.dst (List.zipWith (· + ·) ps (nget (List.replicate s.t.pickLen 0) a.acc r.ent.dst)),
      done := r' :: a.done, zero := a.zero + z }) { acc := acc, done := [], zero := 0 }

/-- Routes split by pass. -/
def State.passRoutes (s : State) (out : Bool) : List RouteRun :=
  let rs := s.d.routes.filter (fun r => !r.ent.cut)
  let obs := outBuses 64 (rs.map (·.ent)) []
  rs.filter (fun r => inOutPass obs r.ent == out)

/-- Routes replaced by what a pass made of them. -/
def keepRoutes (done : List RouteRun) (s : State) : State :=
  setD (fun d => { d with routes := d.routes.map (fun r =>
    match done.find? (fun x => decide (x.ent.src = r.ent.src) && decide (x.ent.dst = r.ent.dst) && decide (x.ent.inv = r.ent.inv)
        && decide (x.idx = r.idx)) with
    | some x => x
    | none => r) }) s

/-- Input samples of a source in this pick, poisoned ones as zero (R246). -/
def State.inputSamples (s : State) (c : Nat) : List Int :=
  let xs := nget (List.replicate s.t.pickLen 0) s.d.inp c
  xs.zipIdx.map (fun x => if s.d.poison.contains (c, x.2) then 0 else x.1)

/-- All active sources filtered, from the given samples. -/
def filterSources (xin : Nat → List Int) (s : State) : State :=
  let a := dcCoef s.fs
  let hp := (List.range 5).map (fun k => if k = 0 then none else some (hpfCoef (hpfCorner k) s.fs))
  let outs := s.activeSources.map (fun c =>
    (c, srcRun a (lget none hp (nget 0 s.d.hpf c)) (nget SrcFilter.zero s.d.filt c) (xin c)))
  setD (fun d => { d with
    filt := outs.foldl (fun m x => nset m x.1 x.2.1) d.filt, src := outs.map (fun x => (x.1, x.2.2)) }) s

/-- Steps that a pass uses in this pick (R232, R238): cut-through entries cost none. -/
def State.passSteps (s : State) (out : Bool) : Nat :=
  s.t.pickLen * (((s.passRoutes out).foldl (fun a r => a + r.steps) 0) + (if out then 0 else s.countSources))

/-- The input pass (R220, R222): filters, then routes. `bat` gives the Batten outputs of the pick before. -/
def heddleInput (bat : NMap (List Int)) (s : State) : State :=
  let s := filterSources s.inputSamples s
  let a := runPass s bat [] (s.passRoutes false)
  bumpBy a.zero 0x901C 15 0 (setD (fun d => { d with acc := a.acc }) (keepRoutes a.done s))

/-- The output pass (R222): Batten inputs that it feeds wait for the next pick. -/
def heddleOutput (bat : NMap (List Int)) (s : State) : State :=
  let isBat := fun (x : Nat × List Int) => dstBatten x.1
  let a := runPass s bat (s.d.acc.filter (fun x => !isBat x)) (s.passRoutes true)
  let acc := (s.d.acc.filter isBat).foldl (fun m x => nset m x.1 x.2) (a.acc.filter (fun x => !isBat x))
  bumpBy a.zero 0x901C 15 0 (setD (fun d => { d with acc := acc, batOut := a.acc.filter isBat }) (keepRoutes a.done s))

/-- Samples of a render input after the input pass. -/
def State.renderIn (s : State) (i : Nat) : List Int := (nget (List.replicate s.t.pickLen 0) s.d.acc i).map (satS 32)

/-- Samples of a Batten input: this pick's input-pass routes and the output-pass routes of the pick before (R222; log 34). -/
def State.battenIn (s : State) (prevOut : NMap (List Int)) (j : Nat) : List Int :=
  let z := List.replicate s.t.pickLen 0
  (List.zipWith (· + ·) (nget z s.d.acc (0x400 + j)) (nget z prevOut (0x400 + j))).map (satS 32)

/-- A destination sample from its sum (R217), and whether it saturated. -/
def destWord (c : Nat) (v : Int) : Int × Bool :=
  let a := satS 32 v
  if dstGrid c then let (w, sat) := gridWord a; (w, sat || decide (a ≠ v)) else (a, decide (a ≠ v))

/-- Routes whose zero-crossing step is taken at its deadline are counted (R235). -/
def settleSteps (p : RouteRun → Bool) (s : State) : State :=
  let hit := s.d.routes.filter (fun r => p r && (match r.move with | .stepped _ => true | _ => false))
  bumpBy hit.length 0x901C 31 16 (setD (fun d => { d with routes := d.routes.map (fun r =>
    if p r then (match r.move with | .stepped b => { r with move := .hold b } | _ => r) else r) }) s)

/-- The last sample of a source in the pick that ends, after input filters (R235): a bus' is its own destination word. -/
def State.lastSource (s : State) (bat : NMap (List Int)) (out : NMap (List Int)) (c : Nat) : Int :=
  (match srcBus c with
    | some b => nget [] out (0x500 + b)
    | none => s.plainSource bat c).getLast?.getD 0

/-- A poisoned entry that the Heddle has restored fades back in at its GAIN; one whose copy is unreadable too stays at zero (R245). -/
def RouteRun.restored (r : RouteRun) : RouteRun :=
  match r.poison with
  | some _ => if r.lost then { r with poison := none } else { r with poison := none, move := .fadeIn (gainWord r.ent.gain) }
  | none => r

/-- Sums of the destinations of a pass that stopped: each repeats its last sample (R239). -/
def repeatSums (n : Nat) (last : NMap Int) (rs : List RouteRun) (acc : NMap (List Int)) : NMap (List Int) :=
  rs.foldl (fun m r => nset m r.ent.dst (List.replicate n (nget 0 last r.ent.dst))) acc

/-- What a pass leaves behind that stopped (R57, R239): each filter takes in its source's last sample again, and every fade, ramp and
pending step moves on. -/
def heddleStopped (inOk outOk : Bool) (s : State) : State :=
  let n := s.t.pickLen
  let skip := fun (rs : List RouteRun) => rs.map (fun r => { r with move := r.move.skip n })
  let ins := s.passRoutes false
  let outs := s.passRoutes true
  let s := if inOk then s else
    setD (fun d => { d with acc := repeatSums n d.lastOut ins [] })
      (filterSources (fun c => List.replicate n (nget SrcFilter.zero s.d.filt c).dx) (keepRoutes (skip ins) s))
  if outOk then s else
    setD (fun d => { d with
      acc := repeatSums n d.lastOut (outs.filter (fun r => !dstBatten r.ent.dst)) d.acc,
      batOut := (outs.filter (fun r => dstBatten r.ent.dst)).foldl
        (fun m r => nset m r.ent.dst (List.replicate n ((nget [] d.batNext r.ent.dst).getLast?.getD 0))) [] })
      (keepRoutes (skip outs) s)

/-- The end of a render pick (R217, R231, R239, R245): destination samples are made, saturation is counted, fading routes end, poisoned
entries are restored and fade in again. `inOk` and `outOk` tell whether each pass finished. -/
def heddleEnd (bat : NMap (List Int)) (inOk outOk : Bool) (s : State) : State :=
  let n := s.t.pickLen
  let s := heddleStopped inOk outOk s
  let fed := ((s.passRoutes false ++ s.passRoutes true).map (·.ent.dst)).foldl (fun (m : NMap Unit) c => nset m c ()) []
  let sumOf := fun (c : Nat) => if dstBatten c then List.zipWith (· + ·) (nget (List.replicate n 0) s.d.acc c) (nget (List.replicate n 0) s.d.batNext c)
    else nget (List.replicate n 0) s.d.acc c
  let words := fed.map (fun x => (x.1, (sumOf x.1).map (destWord x.1)))
  let sats := (words.filter (fun w => w.2.any (·.2))).map (·.1)
  let cnt := words.foldl (fun a w => a + (w.2.filter (·.2)).length) 0
  let s := bumpBy cnt 0x9020 15 0 s
  let s := match sats.getLast? with
    | some c => putField 0x9020 27 16 c s
    | none => s
  let s := match sats with
    | c :: _ => post 0x0342 0 (a2 c) s
    | [] => s
  let out := words.map (fun w => (w.1, w.2.map (·.1)))
  let prev := (s.d.routes.map (·.ent.src)).foldl (fun m c => nset m c (s.lastSource bat out c)) []
  let s := settleSteps (fun _ => true) s
  setD (fun d => { d with
    out := out, lastOut := out.map (fun w => (w.1, w.2.getLast?.getD 0)), prev := prev, poison := [],
    batNext := d.batOut, batOut := [],
    routes := (d.routes.filter (fun r => match r.move with | .fadeOut _ => false | _ => true)).map RouteRun.restored }) s

/-- Entry to Dormant: a zero-crossing step that is pending is taken at the last sample and counts as a timeout (R235). -/
def heddleHalt (s : State) : State :=
  settleSteps (fun _ => true) (setD (fun d => { d with routes := d.routes.map (fun r => { r with move := match r.move with
    | .zero _ b _ => .stepped b
    | m => m }) }) s)

/-! ### Swaps (R229–R237, R669) -/

/-- The cut-through entries that serve frames of sample `k` (R243); a poisoned one carries zero (R245). -/
def State.cutsAt (s : State) (k : Nat) : List RouteEnt :=
  if k < s.d.cutFrom then s.d.cutWas
  else (s.d.routes.filter (fun r => r.ent.cut)).map (fun r => if r.poison.isSome || r.lost then { r.ent with gain := -32768 } else r.ent)

/-- The sample that a cut-through entry carries: unchanged, or exact zero when muted (R241). -/
def RouteEnt.cutWord (e : RouteEnt) (v : Int) : Int := if e.gain = -32768 then 0 else v

/-- Entries of a set as routes in force. -/
def RouteEnt.same (a b : RouteEnt) : Bool := decide (a.src = b.src) && decide (a.dst = b.dst) && decide (a.inv = b.inv)

/-- How a route that stays moves when its gain changes (R233–R237). -/
def changeGain (fs : Nat) (old : RouteMove) (e : RouteEnt) : RouteMove :=
  let a := old.word
  let b := gainWord e.gain
  if e.mode = 2 then .hold b
  else if e.mode = 1 then .ramp a b
  else match old with
    | .zero a _ left => .zero a b left
    | _ => .zero a b (zcDeadline e.timeout fs)

/-- The routes in force in the swap's pick, and whether R669 cut routes short. -/
def swapRoutes (fs : Nat) (cur : List RouteRun) (new : RouteSet) : List RouteRun × Bool :=
  let ents := new.ents.map (·.2)
  let gone := cur.filter (fun r => !ents.any (fun e => e.same r.ent))
  let cyc := busCycle (cur.map (·.ent) ++ ents) && !busCycle (cur.map (·.ent)) && !busCycle ents
  let cutShort := fun (r : RouteRun) => cyc && (srcBus r.ent.src).isSome && (dstBus r.ent.dst).isSome
  let fading := (gone.filter (fun r => !r.ent.hard && !r.ent.cut && !cutShort r)).map (fun r => { r with move := .fadeOut r.move.word })
  let stay := new.ents.map (fun x =>
    match cur.find? (fun r => x.2.same r.ent) with
    | some r =>
      if x.2.cut then { r with idx := x.1, ent := x.2, move := .hold (gainWord x.2.gain) }
      else if r.lost then { idx := x.1, ent := x.2, move := .fadeIn (gainWord x.2.gain), poison := none, lost := false }
      else if r.ent.gain = x.2.gain then { r with idx := x.1, ent := x.2 }
      else { r with idx := x.1, ent := x.2, move := changeGain fs r.move x.2 }
    | none =>
      { idx := x.1, ent := x.2, poison := none, lost := false,
        move := if x.2.hard || x.2.cut then .hold (gainWord x.2.gain) else .fadeIn (gainWord x.2.gain) })
  (stay ++ fading, cyc)

/-- Routes added and removed by a swap. -/
def swapCounts (old new : RouteSet) : Nat × Nat :=
  ((new.ents.filter (fun x => !old.ents.any (fun y => y.2.same x.2))).length,
   (old.ents.filter (fun x => !new.ents.any (fun y => y.2.same x.2))).length)

/-! ### Route-set images (R226, R227) -/

/-- Entry `k` of an image: INDEX and, if VALID, the entry. -/
def readRoute (b : List Byte) (k : Nat) : Nat × Option RouteEnt :=
  let o := 32 + 16 * k
  let fl := byteAt b (o + 9)
  (getLE b o 2 % 4096,
   if bitOf fl 0 then
     some { src := getLE b (o + 2) 2, dst := getLE b (o + 4) 2, gain := getLES b (o + 6) 2, mode := byteAt b (o + 8) % 4, hard := bitOf fl 1,
            cut := bitOf fl 2, inv := bitOf fl 3, timeout := getLE b (o + 10) 2 }
   else none)

/-- The bytes of an entry. -/
def RouteEnt.bytes (idx : Nat) (e : RouteEnt) : List Byte :=
  leBytes 2 idx ++ leBytes 2 e.src ++ leBytes 2 e.dst ++ leBytes 2 (unsignedOf 16 e.gain) ++ leBytes 1 e.mode ++
    leBytes 1 (1 + flag 1 e.hard + flag 2 e.cut + flag 3 e.inv) ++ leBytes 2 e.timeout ++ zeros 4

/-- An image of KIND 1 of a set's valid entries in INDEX order (R249). -/
def RouteSet.image (r : RouteSet) : List Byte :=
  let body := r.ents.foldr (fun x acc => x.2.bytes x.1 ++ acc) []
  let len := 32 + body.length
  let head := leBytes 4 0x52534554 ++ leBytes 2 1 ++ leBytes 1 1 ++ zeros 1 ++ leBytes 2 r.ents.length ++ zeros 2 ++ leBytes 4 r.id ++
    leBytes 4 len ++ zeros 8
  head ++ leBytes 4 (crc32c (head ++ zeros 4 ++ body)) ++ body

/-- The inactive copy that an image makes (R226). -/
def loadRoutes (active : RouteSet) (b : List Byte) : RouteSet :=
  let base := if byteAt b 6 = 1 then [] else active.ents
  { id := getLE b 12 4,
    ents := (List.range (getLE b 8 2)).foldl (fun m k => match readRoute b k with
      | (i, some e) => nset m i e
      | (i, none) => ndel m i) base }

/-- Ports of cut-through channels: clocked from the media clock at the render rate (R240). Inputs run at the render rate; an output
does at rate code 0 or its equal. -/
def State.cutSrcOk (s : State) (c : Nat) : Bool :=
  (decide (c < 0x80) && !(s.tdm (c / 16)).inSlave) || (decide (0x80 ≤ c) && decide (c < 0xA0))

def State.cutDstOk (s : State) (c : Nat) : Bool :=
  ((decide (0x600 ≤ c) && decide (c < 0x680) && !(s.tdm ((c - 0x600) / 16)).outSlave) || (decide (0x680 ≤ c) && decide (c < 0x6A0))) &&
    decide (s.dstRate c = s.fs)

/-- A cut-through entry that breaks R240. -/
def State.badCut (s : State) (rs : NMap RouteEnt) (x : Nat × RouteEnt) : Bool :=
  x.2.cut && !(s.cutSrcOk x.2.src && s.cutDstOk x.2.dst && (decide (x.2.gain = 0) || decide (x.2.gain = -32768)) &&
    rs.all (fun y => decide (y.1 = x.1) || decide (y.2.dst ≠ x.2.dst)))

/-- The first failure of R227: status, reason, INDEX. -/
def State.routeFault (s : State) (b : List Byte) (len : Nat) : Option (Nat × Nat × Nat) :=
  if getLE b 0 4 ≠ 0x52534554 ∨ getLE b 4 2 ≠ 1 ∨ 1 < byteAt b 6 ∨ ¬ zeroRange b 7 1 ∨ ¬ zeroRange b 10 2 ∨ ¬ zeroRange b 20 8 then
    some (stParam, 1, 0)
  else
    let k := getLE b 8 2
    if 4096 < k ∨ (byteAt b 6 = 0 ∧ k = 0) ∨ getLE b 16 4 ≠ 32 + 16 * k ∨ len ≠ 32 + 16 * k then some (stParam, 2, 0)
    else if crc32c (blankCrc 28 (fit len b)) ≠ getLE b 28 4 then some (stParam, 3, 0)
    else
      let idx := fun i => getLE b (32 + 16 * i) 2
      match firstBad k (fun i =>
          let o := 32 + 16 * i
          decide (idx i < 4096) && (List.range i).all (fun j => idx j != idx i) && decide (byteAt b (o + 8) < 3) &&
            decide (byteAt b (o + 9) < 16) && zeroRange b (o + 12) 4) with
      | some i => some (stParam, 4, idx i % 4096)
      | none =>
        match firstBad k (fun i => match readRoute b i with
            | (_, none) => true
            | (_, some e) => srcCode s.t.rate96 e.src && dstCode s.t.rate96 e.dst && (decide (e.gain ≤ 3072)) && decide (e.timeout ≤ 1000)) with
        | some i => some (stParam, 5, idx i)
        | none =>
          let rs := (loadRoutes s.d.active b).ents
          match rs.find? (fun x => decide (s.dstRate x.2.dst ≠ s.fs)) with
          | some x => some (stRate, 6, x.1)
          | none =>
            match rs.find? (fun x => rs.any (fun y => decide (y.1 < x.1) && decide (y.2.src = x.2.src) && decide (y.2.dst = x.2.dst))) with
            | some x => some (stParam, 7, x.1)
            | none =>
              let es := rs.map (·.2)
              let obs := outBuses 64 es []
              match rs.find? (fun x => !x.2.cut && ((inOutPass obs x.2 && decide (x.2.dst < 0x400)) || onBusCycle (busEdges es) x.2)) with
              | some x => some (stParam, 8, x.1)
              | none =>
                match rs.find? (s.badCut rs) with
                | some x => some (stParam, 9, x.1)
                | none => none

/-- A route joins different rates with the given rates of destinations (R223, R224). -/
def ratesClash (fs : Nat) (rate : Nat → Nat) (rs : RouteSet) : Bool :=
  rs.ents.any (fun x => decide (rate x.2.dst ≠ fs))

/-- The Heddle starts on leaving reset or Dormant (R214): filter histories are cleared; every route of the active set is in force at its
gain (R235). -/
def heddleStart (s : State) : State :=
  setD (fun d => { d with
    filt := [], cap := [], inp := [], src := [], prev := [], lastCap := [], acc := [], bus := [], out := [], play := [], lastOut := [],
    batNext := [], batOut := [], poison := [], cutWas := [], cutFrom := 0,
    routes := d.active.ents.map (fun x => { idx := x.1, ent := x.2, move := .hold (gainWord x.2.gain), poison := none, lost := false }) }) s

end Sys2Proof.Machine
end

