-- ==== Sys2Proof/Machine/FchOps.lean ====
section
/-!
DEFINITION. Sys2Proof/Machine/FchOps.lean: the filter chain (08_filter_chain): microphones, stimulus, resampled outputs, banks and
synchronising resets.
-/
namespace Sys2Proof.Machine

/-! ### Banks (R266–R268) -/

def State.fchBank? (s : State) : Option FchBank := if s.f.active = 0 then s.f.bankA else s.f.bankB
def State.fchIdle (s : State) : Option FchBank := if s.f.active = 0 then s.f.bankB else s.f.bankA

/-- The active bank; the default bank stands where none is held. -/
def State.fchBank (s : State) : FchBank := s.fchBank?.getD FchBank.default

def putFchIdle (b : Option FchBank) (s : State) : State :=
  setF (fun f => if f.active = 0 then { f with bankB := b } else { f with bankA := b }) s

/-- Coefficient `i` of a bank's sections, signed Q1.31; a poisoned word contributes zero (R276). -/
def FchBank.coef (b : FchBank) (i : Nat) : Int :=
  if b.poison.contains i then 0
  else match b.img with
    | some d => getLES d (32 + 4 * i) 4
    | none => (Config.defaultFch i).toInt

/-- First coefficient of each section: HB1, HB2, FIN_A, FIN_D, RS, and the end. -/
def FchBank.sect (b : FchBank) (k : Nat) : Nat :=
  lget 0 [0, b.t1, b.t1 + b.t2, b.t1 + b.t2 + b.ft, b.t1 + b.t2 + 2 * b.ft, b.t1 + b.t2 + 2 * b.ft + 8192] k

/-- LEN of a bank's image (R266). -/
def fchLen (t1 t2 ft : Nat) : Nat := 32 + 4 * (t1 + t2 + 2 * ft) + 32768

/-- The image of a bank (R282). -/
def FchBank.image (b : FchBank) : List Byte :=
  match b.img with
  | some d => d
  | none =>
    let head := leBytes 4 0x46434842 ++ leBytes 2 1 ++ leBytes 1 b.t1 ++ leBytes 1 b.t2 ++ leBytes 1 b.ft ++ zeros 3 ++ leBytes 4 b.id ++
      leBytes 4 (fchLen b.t1 b.t2 b.ft) ++ zeros 8
    let body := (List.range (b.sect 5)).foldr (fun i acc => leBytes 4 (Config.defaultFch i).toNat ++ acc) []
    head ++ leBytes 4 (crc32c (head ++ zeros 4 ++ body)) ++ body

/-- A half-band section has no coefficient at an even, non-zero distance from its centre (R267). -/
def halfBandOk (d : List Byte) (first taps : Nat) : Bool :=
  allTo taps (fun i =>
    let c := (taps - 1) / 2
    let dist := if i < c then c - i else i - c
    !(decide (dist % 2 = 0) && decide (dist ≠ 0)) || decide (getLE d (32 + 4 * (first + i)) 4 = 0))

/-- The first failure of R267. -/
def fchBankFault (b : List Byte) (len : Nat) : Option Nat :=
  let t1 := byteAt b 6
  let t2 := byteAt b 7
  let ft := byteAt b 8
  if getLE b 0 4 ≠ 0x46434842 ∨ getLE b 4 2 ≠ 1 ∨ ¬ zeroRange b 9 3 ∨ ¬ zeroRange b 20 8 then some 1
  else if t1 < 7 ∨ 63 < t1 ∨ t1 % 4 ≠ 3 ∨ t2 < 7 ∨ 63 < t2 ∨ t2 % 4 ≠ 3 ∨ ft < 8 ∨ 64 < ft ∨ getLE b 16 4 ≠ fchLen t1 t2 ft ∨ len ≠ fchLen t1 t2 ft then
    some 2
  else if crc32c (blankCrc 28 (fit len b)) ≠ getLE b 28 4 then some 3
  else if ¬ halfBandOk b 0 t1 ∨ ¬ halfBandOk b t1 t2 then some 4
  else none

def readFchBank (b : List Byte) (len : Nat) : FchBank :=
  { id := getLE b 12 4, t1 := byteAt b 6, t2 := byteAt b 7, ft := byteAt b 8, img := some (fit len b), poison := [] }

/-! ### Chains (R256) -/

/-- The chain of a PDM clock and render rate: 1 A, 2 B, 3 C; none where the table lists none. -/
def chainOf (clk6m rate96 : Bool) : Option Nat :=
  match clk6m, rate96 with
  | false, false => some 1 | true, false => some 2 | true, true => some 3 | false, true => none

/-- CIC ratio R. -/
def State.cicRatio (s : State) : Nat := if s.f.clk6m && !s.t.rate96 then 32 else 16

/-- Settling length S of the microphone path (R272). -/
def State.settleLen (s : State) : Nat :=
  let b := s.fchBank
  let r := s.cicRatio
  max (max ((5 * (r - 1) + 1 + 4 * r - 1) / (4 * r)) ((b.t1 + 3) / 4)) (max ((b.t2 + 1) / 2) b.ft)

/-- Group delay of the microphone path in 1/256 output sample (R259). -/
def State.groupDelay (s : State) : Nat :=
  let b := s.fchBank
  let r := s.cicRatio
  -- halves of PDM bits, of samples at 4 fs, 2 fs and fs, in units of 1/256 sample
  (5 * (r - 1) * 256 / r / 4 + (b.t1 - 1) * 64 + (b.t2 - 1) * 128 + (b.ft - 1) * 256) / 2 +
    (if s.f.skew then (if r = 32 then 1 else 2) else 0)

/-- Saturated samples of a channel counted (R257, R280). -/
def fchSat (n chan : Nat) (s : State) : State :=
  if n = 0 then s
  else putField 0xA028 22 16 chan (bumpBy n 0xA028 15 0 (setF (fun f => { f with satSeen := true }) s))

/-- A FIR sum over a history, newest sample first, rounded half up and saturated (R257). -/
def firWord (b : FchBank) (first taps : Nat) (xs : List Int) : Int × Bool :=
  let v := ((List.range taps).foldl (fun a j => a + b.coef (first + j) * lget 0 xs j) (0 : Int) + 1073741824) / 2147483648
  (satS 32 v, decide (satS 32 v ≠ v))

/-- A cleared chain, whose output reads zero before render sample `z` and which has received no bit before its next instant. -/
def Mic.clear (z : Nat) : Mic :=
  { ints := [0, 0, 0, 0, 0], combs := [0, 0, 0, 0, 0], bits := 0, h1 := [], h2 := [], hf := [], zeroTo := z, bit := false, run := 0,
    stuck := false, skip := true }

/-- The chain cleared, with the stream's run of equal bits going on. -/
def Mic.restart (m : Mic) (z : Nat) : Mic := { Mic.clear z with bit := m.bit, run := m.run, stuck := m.stuck }

/-- Integrators after one bit. -/
def integrate : Int → List Int → List Int
  | _, [] => []
  | x, i :: r => (i + x) :: integrate (i + x) r

/-- Combs after one decimated value: the new differences and the stored values. -/
def comb : Int → List Int → Int × List Int
  | x, [] => (x, [])
  | x, c :: r => let (y, l) := comb (x - c) r; (y, x :: l)

/-- One PDM value (+1, −1, or 0 for a bit never received) through a microphone's CIC: its output every R bits (R256, R257). -/
def cicStep (r : Nat) (m : Mic) (v : Int) : Mic × Option Int :=
  let ints := integrate v m.ints
  let n := m.bits + 1
  let m := { m with ints := ints, bits := n % (4 * r) }
  if n % r ≠ 0 then (m, none)
  else
    let (c, combs) := comb (ints.getLast?.getD 0) m.combs
    ({ m with combs := combs }, some (c * 134217728 / (r ^ 5 : Nat)))

/-- One PDM value through the whole chain: a finished output sample, and saturations (R256–R258). -/
def micStep (b : FchBank) (r fin : Nat) (m : Mic) (v : Int) : Mic × Option Int × Nat :=
  let n := m.bits + 1
  match cicStep r m v with
  | (m, none) => (m, none, 0)
  | (m, some c) =>
    let h1 := (c :: m.h1).take 64
    let m := { m with h1 := h1 }
    if n / r % 2 ≠ 0 then (m, none, 0)
    else
      let (y1, s1) := firWord b 0 b.t1 h1
      let h2 := (y1 :: m.h2).take 64
      let m := { m with h2 := h2 }
      if n / r % 4 ≠ 0 then (m, none, b2n s1)
      else
        let (y2, s2) := firWord b b.t1 b.t2 h2
        let hf := (y2 :: m.hf).take 64
        let (y, s3) := firWord b fin b.ft hf
        ({ m with hf := hf }, some y, b2n s1 + b2n s2 + b2n s3)

/-- The run of equal bits (R255). -/
def countRun (m : Mic) (bit : Bool) : Mic :=
  if m.run ≠ 0 ∧ m.bit = bit then { m with run := m.run + 1 } else { m with bit := bit, run := 1 }

/-- What PDM bit `i` of a sample's 4R bits is to a microphone: bits before the instant of a restart were never received, and the falling-edge
microphones latch none at that instant itself (R252, R258, R271). -/
def Mic.pdmValue (m : Mic) (r mic i : Nat) (bit : Bool) : Int :=
  if m.skip ∧ i < (if mic % 2 = 0 then 4 * r - 1 else 4 * r) then 0 else if bit then 1 else -1

/-- One output sample of microphone `mic`: `word` holds its 4R bits, the first in bit 0; none where its line is not enabled. -/
def micSample (b : FchBank) (r fin mic : Nat) (word : Option Nat) (m : Mic) : Mic × Int × Nat :=
  let (m', y, n) := (List.range (4 * r)).foldl (fun acc i =>
    let (m1, y, sat) := match word with
      | some w => micStep b r fin (countRun acc.1 (bitOf w i)) (m.pdmValue r mic i (bitOf w i))
      | none => micStep b r fin acc.1 0
    (m1, y.getD acc.2.1, acc.2.2 + sat)) (m, 0, 0)
  ({ m' with skip := false }, y, n)

/-! ### Stimulus (R274) -/

/-- Feedback taps of a maximum-length sequence. -/
def mlsTaps (order : Nat) : List Nat :=
  if order = 12 then [12, 6, 4, 1] else if order = 14 then [14, 5, 3, 1] else if order = 16 then [16, 15, 13, 4]
  else if order = 18 then [18, 11] else [20, 17]

/-- A Fibonacci LFSR of `w` stages, stage k in bit k − 1: the sum of the taps enters stage 1 (log 35). -/
def lfsrStep (w : Nat) (taps : List Nat) (x : Nat) : Nat :=
  (x * 2) % 2 ^ w + b2n (taps.foldl (fun a t => a != bitOf x (t - 1)) false)

/-- A pink-noise value: the upper 24 bits as signed Q1.23, and the register after the draw. -/
def pinkDraw (x : Nat) : Int × Nat := (signed 24 (x / 256), lfsrStep 32 [32, 22, 2, 1] x)

/-- Trailing zero bits of n, 16 for none below. -/
def trailingZeros (n : Nat) : Nat := ((List.range 16).find? (fun i => bitOf n i)).getD 16

/-- Stimulus sample n as a word; the rounding to a word is open (log 29), and the sweep lies within −120 dB (log 31). -/
def stimWord (st : Stimulus) (fs n lfsr : Nat) (rows : List Int) (w : Int) : Int :=
  let a := fxPow10 (fxQ st.level 5120)
  let full := fxOf 134217728
  let key := [(st.typ : Int), (st.order : Int), st.level, (st.f1 : Int), (st.f2 : Int), (st.slen : Int), (st.seed : Int), (n : Int)]
  if st.typ = 1 then
    -- ln(F2 / F1) by halving: x = ln r with r between 1 and 2^k
    let r := fxQ st.f2 st.f1
    let ln := (List.range 72).foldl (fun acc i =>
      let c : Fx := acc + 2 ^ (69 - i)
      if fxExp c ≤ r then c else acc) (0 : Fx)
    let ts := fxQ st.slen fs
    let ph := fxMul (fxMul (2 * fxPi * (st.f1 : Int)) (fxDiv ts ln)) (fxExp (ln * (n : Int) / (st.slen : Int)) - fxOne)
    let v := fxMul (fxMul full a) (fxSin ph)
    freeRound key (v + (Config.sweepDev key).toInt * (full / 1000000) / 2147483649)
  else if st.typ = 2 then
    let v := fxMul full a
    freeRound key (if bitOf lfsr (st.order - 1) then v else -v)
  else if st.typ = 3 then
    let v := rows.foldl (· + ·) 0 + w
    freeRound key (fxMul a (fxOf (v * 16)) / 17)
  else 0

/-- The stimulus generator cleared: it stands before sample 0 (R271, R274). -/
def stimClear (f : FchS) : FchS :=
  { f with stimN := 0, lfsr := if f.stim.typ = 2 then 2 ^ f.stim.order - 1 else f.stim.seed, rows := List.replicate 16 0 }

/-- One sample of the stimulus: the word and the generator afterwards. Rows draw before w (log 35). -/
def stimStep (fs : Nat) (f : FchS) : Int × FchS :=
  if f.stimEnd ≤ f.stimN then (0, f)
  else if f.stim.typ = 3 then
    let due := fun r => decide (f.stimN = 0) || decide (trailingZeros f.stimN = r)
    let (rows, l) := (List.range 16).foldl (fun (acc : List Int × Nat) r =>
      if due r then let (v, l) := pinkDraw acc.2; (lset acc.1 r v, l) else acc) (f.rows, f.lfsr)
    let (w, l) := pinkDraw l
    (stimWord f.stim fs f.stimN l rows w, { f with rows := rows, lfsr := l, stimN := f.stimN + 1 })
  else
    (stimWord f.stim fs f.stimN f.lfsr [] 0,
     { f with stimN := f.stimN + 1, lfsr := if f.stim.typ = 2 then lfsrStep f.stim.order (mlsTaps f.stim.order) f.lfsr else f.lfsr })

/-! ### Resampled outputs (R260–R263, R272) -/

/-- Output m of a channel (R262): `newest` is the index of the newest input sample. Word and saturation. -/
def rsWord (b : FchBank) (n newest : Nat) (c : RsChan) (m : Nat) : Int × Bool :=
  let num : Int := (m : Int) * c.m - ((2 * n + 16) * c.l : Nat)
  let k := num / (c.l : Int)
  let fr := (num % (c.l : Int)).toNat
  let p := 256 * fr / c.l
  let a : Int := (2 * (256 * fr % c.l) * 65536 + c.l) / (2 * c.l)
  let rs := b.sect 4
  let cf := fun i => if i < 8192 then b.coef (rs + i) else 0
  let x := fun (j : Int) => if j < (c.since : Int) ∨ (newest : Int) < j then 0 else lget 0 c.hist ((newest : Int) - j).toNat
  let sum := (List.range 32).foldl (fun acc t =>
    acc + ((65536 - a) * cf (256 * t + p) + a * cf (256 * t + p + 1)) * x (k + 16 - (t : Int))) (0 : Int)
  let v := (sum + 70368744177664) / 140737488355328
  let (w, sat) := gridWord (satS 32 v)
  (w, sat || decide (satS 32 v ≠ v))

/-- First output whose instant lies in or after a pick. -/
def rsFirst (n l m p : Nat) : Nat := (p * n * l + m - 1) / m

/-- An output of a channel and its saturation, zero while the channel settles (R272). -/
def rsOutput (b : FchBank) (n newest : Nat) (c : RsChan) (m : Nat) : Int × Bool := if m < c.zeroTo then (0, false) else rsWord b n newest c m

/-- Outputs of a channel laid end to end with those of its target; what has long been sent is dropped (R263). -/
def joinOut (c : RsChan) (n p a : Nat) (ws : List (Int × Bool)) (m : NMap (Nat × List (Int × Bool))) : NMap (Nat × List (Int × Bool)) :=
  let (b0, old) := nget (a, []) m c.dst
  let keep := rsFirst n c.l c.m (p - 2)
  if b0 + old.length = a then nset m c.dst (max b0 keep, old.drop (keep - b0) ++ ws) else nset m c.dst (a, ws)

/-- Outputs of a channel whose instants lie in pick p. -/
def rsPick (p : Nat) (c : RsChan) (s : State) : State :=
  let n := s.t.pickLen
  let a := rsFirst n c.l c.m p
  let e := rsFirst n c.l c.m (p + 1)
  let ws := (List.range (e - a)).map (fun i => rsOutput s.fchBank n ((p - 1) * n - 1) c (a + i))
  setF (fun f => { f with rsOut := joinOut c n p a ws f.rsOut, used := f.used + 66 * (e - a) }) s

/-- Saturated outputs of a channel from index `first` on: index times M over L is the instant in render samples. -/
def satInstants (j first : Nat) (c : RsChan) (o : Nat × List (Int × Bool)) : List (Nat × Nat × Nat) :=
  (o.2.zipIdx.filter (fun w => w.1.2 && decide (first ≤ o.1 + w.2))).map (fun w => ((o.1 + w.2) * c.m * 65536 / c.l, j, 1))

/-- The later of two saturations; at one instant, that of the higher channel (R264). -/
def laterSat (x y : Nat × Nat × Nat) : Nat × Nat × Nat := if x.1 < y.1 ∨ (x.1 = y.1 ∧ x.2.1 ≤ y.2.1) then y else x

/-- Saturations counted in the order of R264. -/
def countSats (l : List (Nat × Nat × Nat)) (s : State) : State :=
  match l with
  | [] => s
  | x :: r => fchSat l.length (16 + (r.foldl laterSat x).2.1) s

/-- All channels for the pick after the one in progress (R263, R264). -/
def rsAll (s : State) : State :=
  let p := s.m.pick + 1
  let s' := s.f.rs.foldl (fun st x => rsPick p x.2 st) s
  countSats (s.f.rs.foldr (fun x acc =>
    satInstants x.1 (rsFirst s.t.pickLen x.2.l x.2.m p) x.2 (nget (0, []) s'.f.rsOut x.2.dst) ++ acc) []) s'

/-- The inputs of the render pick that ended join each channel's history. -/
def rsTakeInputs (s : State) : State :=
  setF (fun f => { f with rs := f.rs.map (fun x =>
    (x.1, { x.2 with hist := ((nget (List.replicate s.t.pickLen 0) s.d.out (0xA00 + x.1)).reverse ++ x.2.hist).take 256 })) }) s

/-- First output of a channel at or after the instant of a render sample. -/
def RsChan.firstAt (c : RsChan) (k : Nat) : Nat := (k * c.l + c.m - 1) / c.m

/-- A channel's outputs at or after a render sample, computed with the state as it is (R269, R272): what was computed ahead for those instants
gives way. -/
def rsRedone (s : State) (k : Nat) (c : RsChan) : List (Int × Bool) :=
  let n := s.t.pickLen
  let (b0, old) := nget (0, []) s.f.rsOut c.dst
  old.zipIdx.map (fun o =>
    let m := b0 + o.2
    if m < c.firstAt k then o.1
    else
      let p := m * c.m / c.l / n
      rsOutput s.fchBank n ((p - 1) * n - 1) { c with hist := c.hist.drop ((s.m.pick * n - 1) - ((p - 1) * n - 1)) } m)

/-- Every channel's outputs from a render sample on computed again; a saturation that was not there before is counted. -/
def rsRedo (k : Nat) (s : State) : State :=
  let s' := setF (fun f => { f with rsOut := f.rs.foldl (fun m x =>
    nset m x.2.dst ((nget (0, []) s.f.rsOut x.2.dst).1, rsRedone s k x.2)) f.rsOut }) s
  let fresh := fun (c : RsChan) => (List.zip (nget (0, []) s.f.rsOut c.dst).2 (rsRedone s k c)).map (fun w => (w.2.1, w.2.2 && !w.1.2))
  countSats (s.f.rs.foldr (fun x acc => satInstants x.1 0 x.2 ((nget (0, []) s.f.rsOut x.2.dst).1, fresh x.2) ++ acc) []) s'

/-! ### Resets and bank swaps (R269–R273) -/

/-- Settling outputs of a channel (R272). -/
def rsSettle (c : RsChan) : Nat := (32 * c.l + c.m - 1) / c.m

/-- A synchronising reset whose instant is render sample `r`, as sample `k` is processed (R271–R273): the two are one but after an overrun or a
start of the data plane. -/
def fchReset (r k : Nat) (s : State) : State :=
  let z := r + s.settleLen
  let s := setF (fun f => stimClear { f with
    mics := (List.range 16).foldl (fun m o => if outMode f.modes o = 0 then m else nset m o ((nget (Mic.clear 0) f.mics o).restart z)) f.mics,
    rs := f.rs.map (fun x => (x.1, { x.2 with since := r, zeroTo := x.2.firstAt r + rsSettle x.2 })),
    syncTime := sampleStart s.fs r / nsU }) s
  post 0x0351 0 [] (rsRedo k s)

/-- The bank swap at render sample k (R269). -/
def fchSwap (k : Nat) (w : Waiter) (s : State) : State :=
  let s := setF (fun f => { f with active := 1 - f.active, loaded := false, swap := none }) s
  let s := post 0x0350 0 (a4 s.fchBank.id) (rsRedo k s)
  complete w (.of stOK (k % 2 ^ 32)) s

/-- Resets and swaps whose render sample has come: the new bank first, so that a reset at the same instant clears its histories; resets of one
instant act as one (R273). -/
def fchDue (k : Nat) (s : State) : State :=
  let s := match s.f.swap with
    | some (q, w) => if q ≤ k ∧ s.f.loaded ∧ ¬ s.h.loads.any (fun l => decide (l.set = .fch)) then fchSwap k w s else s
    | none => s
  let due := (s.f.resets.filter (fun r => decide (r ≤ k))).foldl (fun (m : NMap Unit) r => nset m r ()) []
  let s := setF (fun f => { f with resets := f.resets.filter (fun r => decide (k < r)) }) s
  due.foldl (fun st r => fchReset r.1 k st) s

/-! ### The PDM clock (R252, R253) -/

/-- Rate of PDM_CLK in Hz; none while the ball is driven low: with no line enabled, in reset and in Dormant. -/
def State.pdmRate (s : State) : Option Nat :=
  if s.m.dpRun ∧ ¬ s.m.leadOut ∧ s.f.lines ≠ 0 then some (if s.f.clk6m then 6144000 else 3072000) else none

/-- The level of PDM_CLK: a rising edge falls on every render sample instant. -/
def State.pdmLevel (s : State) : Bool := match s.pdmRate with
  | some f => decide (s.t.now * f % (65536 * 1000000000) * 2 < 65536 * 1000000000)
  | none => false

/-! ### One output instant (R264) -/

/-- Some output is in microphone mode; some output has a mode. -/
def State.hasMics (s : State) : Bool := anyTo 16 (fun m => decide (outMode s.f.modes m = 1))
def State.hasOuts (s : State) : Bool := decide (s.f.modes ≠ 0)

/-- The next render sample of the capture pick in progress, and whether its instant has come. -/
def State.fchNext (s : State) : Nat := s.m.pick * s.t.pickLen + s.f.made
def State.fchCome (s : State) : Bool := decide (s.f.made < s.t.pickLen) && decide (sampleStart s.fs s.fchNext ≤ s.t.now)

/-- The stimulus plays into the capture pick in progress (R275). -/
def State.stimPlays (s : State) : Bool := match s.f.stimAt with
  | some q => s.f.stimOn && decide (q ≤ s.m.pick + 1)
  | none => false

/-- Steps of one microphone output sample with a bank (R265). -/
def FchBank.micSteps (b : FchBank) : Nat := 2 * ((b.t1 + 3) / 2) + (b.t2 + 3) / 2 + b.ft + 1

/-- Pm and Gs of the reservation E5. -/
def pdmCounts (modes stimTyp : Nat) : Nat × Nat :=
  let pm := sumTo 16 (fun m => b2n (decide (outMode modes m = 1)))
  let st := sumTo 16 (fun m => b2n (decide (outMode modes m = 2)))
  (pm, if stimTyp = 0 then 0 else 8 + st)

/-- One output's sample: `bits` holds each output's PDM bits, `sw` is the stimulus'. -/
def fchOutput (k : Nat) (bits : List Nat) (sw : Int) (s : State) (m : Nat) : State :=
  let mode := outMode s.f.modes m
  if mode = 0 then s
  else
    let b := s.fchBank
    let mic := nget (Mic.clear 0) s.f.mics m
    let fin := if s.f.skew ∧ m % 2 = 0 then b.sect 3 else b.sect 2
    let (mic', y, sat) := if mode = 1 then
        micSample b s.cicRatio fin m (if bitOf s.f.lines (m / 2) then some (lget 0 bits m) else none) mic
      else ({ mic with skip := false }, sw, 0)
    let y := if k < mic.zeroTo ∨ mic.stuck then 0 else y
    let s := fchSat sat m (setF (fun f => { f with mics := nset f.mics m mic' }) s)
    setD (fun d => { d with cap := nset d.cap (0xA0 + m) (nget [] d.cap (0xA0 + m) ++ [y]) }) s

/-- The next render sample of the capture pick in progress: what is due at its instant, then outputs 0 to 15 (R264). -/
def fchSample (bits : List Nat) (s : State) : State :=
  let k := s.fchNext
  let s := fchDue k s
  let (sw, f1) := if s.stimPlays then stimStep s.fs s.f else (0, s.f)
  let (pm, gs) := pdmCounts s.f.modes (if s.stimPlays then s.f.stim.typ else 0)
  let s := { s with f := f1 }
  let s := (List.range 16).foldl (fchOutput k bits sw) s
  setF (fun f => { f with made := f.made + 1, used := f.used + pm * s.fchBank.micSteps + gs }) s

/-- Instants that have come and need no PDM bits. -/
def fchCatch (s : State) : State :=
  if s.hasMics then s else upto (s.t.pickLen - s.f.made) (fun _ st => if st.fchCome then fchSample [] st else st) s

/-- A block of output instants: those that have come. -/
def fchBlock (pdm : List (List Nat)) (s : State) : State :=
  if s.hasMics then pdm.foldl (fun st b => if st.fchCome then fchSample b st else st) s else fchCatch s

/-- The filter chain has made its outputs of the pick, or has none to make. -/
def State.fchMade (s : State) : Bool :=
  !s.hasOuts || decide (s.f.made = s.t.pickLen) ||
    (!s.hasMics && decide (sampleStart s.fs ((s.m.pick + 1) * s.t.pickLen - 1) ≤ s.t.now))

/-- The filter chain finishes its pick: the resampler channels compute the next pick's outputs (R263). -/
def fchFinish (s : State) : State := rsAll (fchCatch s)

/-- Steps used in the pick (R265). -/
def State.fchUsed (s : State) : Nat := 256 + s.f.used

/-- An instant that an overrun passes over (R57, R277): what is due at it happens, the stimulus moves on, the CIC runs on bits that no row tells
of, and each FIR history takes its newest input again. -/
def fchPass (s : State) : State :=
  let s := fchDue s.fchNext s
  let (v, s) := draw s
  let r := s.cicRatio
  let f1 := if s.stimPlays then (stimStep s.fs s.f).2 else s.f
  let again := fun (n : Nat) (h : List Int) => (List.replicate n (lget 0 h 0) ++ h).take 64
  let through := fun (i : Nat) (x : Mic) =>
    let x' := (List.range (4 * r)).foldl (fun (m : Mic) k =>
      let bit := bitOf (Config.freeWord (v.toNat + 2 * i + k / 64)).toNat (k % 64)
      (cicStep r (countRun m bit) (x.pdmValue r i k bit)).1) x
    { x' with h1 := again 4 x.h1, h2 := again 2 x.h2, hf := again 1 x.hf, skip := false }
  setF (fun f => { f1 with made := f.made + 1, mics := f1.mics.map (fun x => (x.1, if outMode f1.modes x.1 = 1 then through x.1 x.2 else x.2)) }) s

/-- The filter chain stopped by an overrun (R57, R277): outputs repeat the last sample of the pick before, and each resampler channel the last
output that it made; in the resamplers' histories the inputs of the pick give way to the sample before them. -/
def fchRepeat (s : State) : State :=
  let n := s.t.pickLen
  let s := upto (n - s.f.made) (fun _ st => fchPass st) s
  let s := (List.range 16).foldl (fun st m => if outMode st.f.modes m = 0 then st else
    setD (fun d => { d with cap := nset d.cap (0xA0 + m) (List.replicate n (nget 0 d.lastCap (0xA0 + m))) }) st) s
  let p := s.m.pick + 1
  setF (fun f => { f with
    rs := f.rs.map (fun x => (x.1, { x.2 with hist := List.replicate n (lget 0 x.2.hist n) ++ x.2.hist.drop n })),
    rsOut := f.rs.foldl (fun m x =>
      let a := rsFirst n x.2.l x.2.m p
      joinOut x.2 n p a (List.replicate (rsFirst n x.2.l x.2.m (p + 1) - a) (((nget (0, []) m x.2.dst).2.getLast?.getD (0, false)).1, false)) m) f.rsOut }) s

/-- The filter chain starts on leaving reset or Dormant: histories cleared. -/
def fchStart (s : State) : State :=
  setF (fun f => { f with
    mics := (List.range 16).foldl (fun m o => if outMode f.modes o = 0 then m else nset m o (Mic.clear 0)) [],
    rs := f.rs.map (fun x => (x.1, { x.2 with hist := [], since := 0, zeroTo := 0 })), rsOut := [], made := 0, used := 0,
    stimAt := none, stimOn := false }) s

/-! ### Cost (R265) -/

/-- E5 (R265). -/
def State.fchSteps (s : State) : Nat :=
  let n := s.t.pickLen
  let (pm, gs) := pdmCounts s.f.modes s.f.stim.typ
  256 + n * (164 * pm + gs) + s.f.rs.foldl (fun a x => a + 66 * ((n * x.2.l + x.2.m - 1) / x.2.m)) 0

/-- A channel's record as FCH_RS_SET gives it. -/
def rsRecord (j : Nat) (c : Option RsChan) : List Byte :=
  match c with
  | some c => leBytes 1 j ++ leBytes 1 1 ++ leBytes 2 c.l ++ leBytes 2 c.m ++ leBytes 2 c.dst ++ zeros 8
  | none => leBytes 1 j ++ zeros 15

/-- SNAPSHOT_LATCH of FCH_RS_SEL (R281). -/
def fchSnapshot (s : State) : State :=
  if s.f.sel then
    let j := s.field 0xA038 5 0
    let b := rsRecord j (nfind s.f.rs j)
    let s := (List.range 4).foldl (fun st w => setReg (0xA03C + 4 * w) (BitVec.ofNat 32 (getLE b (4 * w) 4)) st) s
    putField 0xA038 31 31 1 (setF (fun f => { f with sel := false }) s)
  else s

end Sys2Proof.Machine
end

