-- ==== Sys2Proof/Machine/BattenOps.lean ====
section
/-!
DEFINITION. Sys2Proof/Machine/BattenOps.lean: the Batten cores (09_batten_cores): program images, memory allocation, instances, checkpoints,
faults and moves, and the outputs of a pick.
-/
namespace Sys2Proof.Machine

def setC (f : BatS → BatS) (s : State) : State := { s with c := f s.c }

def State.lcore (s : State) (l : Nat) : LCore := nget (LCore.reset l) s.c.lcs l
def State.pcore (s : State) (c : Nat) : BatCore := nget (BatCore.reset c) s.c.cores c
def putLcore (l : Nat) (x : LCore) (s : State) : State := setC (fun b => { b with lcs := nset b.lcs l x }) s
def putPcore (c : Nat) (x : BatCore) (s : State) : State := setC (fun b => { b with cores := nset b.cores c x }) s

/-- The program that a logical core runs or holds loaded. -/
def State.lprog (s : State) (l : Nat) : Option BatProg := (s.pcore (s.lcore l).phys).prog

/-- Physical cores that are spare, lowest first (R312). -/
def State.spares (s : State) : List Nat := (List.range 34).filter (fun c => (s.pcore c).st == 0)

/-- The logical core runs a program (BAT_MAP.STATE 2 or 3). -/
def LCore.runs (x : LCore) : Bool := decide (x.st = 2) || decide (x.st = 3)

/-! ### Images (R295–R298) -/

/-- `n` 64-bit words from offset `o`. -/
def words64 (b : List Byte) (o n : Nat) : List Nat := (List.range n).map (fun i => getLE b (o + 8 * i) 8)

def readInst (t : List Byte) (nin nout i : Nat) : BatInst :=
  let o := 16 + 264 * i
  { id := getLE t o 2, ins := (List.range nin).map (fun k => getLE t (o + 8 + 2 * k) 2),
    outs := (List.range nout).map (fun k => getLE t (o + 136 + 2 * k) 2) }

/-- The program of a sound image and table. -/
def readProg (b t : List Byte) : BatProg :=
  let cw := getLE b 6 2
  let xw := getLE b 10 2
  let yw := getLE b 12 2
  { id := getLE b 32 4, code := words64 b 64 cw, entry := getLE b 8 2, xc := words64 b (64 + 8 * cw) xw,
    yc := words64 b (64 + 8 * (cw + xw)) yw, stateW := getLE b 14 2, steps8 := getLE b 16 4, steps16 := getLE b 20 4,
    steps32 := getLE b 24 4, nin := byteAt b 28, nout := byteAt b 29,
    insts := (List.range (getLE t 0 2)).map (readInst t (byteAt b 28) (byteAt b 29)) }

/-- STEPSn for a pick length. -/
def BatProg.steps (p : BatProg) (n : Nat) : Nat := if n = 8 then p.steps8 else if n = 16 then p.steps16 else p.steps32

/-- X words per instance and the words of R297. -/
def BatProg.xBlock (p : BatProg) (n : Nat) : Nat := 2 * p.nin * n + p.stateW
def BatProg.xBase (p : BatProg) (n i : Nat) : Nat := p.xc.length + i * p.xBlock n
def BatProg.stateBase (p : BatProg) (n i : Nat) : Nat := p.xBase n i + 2 * p.nin * n
def BatProg.yBase (p : BatProg) (n i : Nat) : Nat := p.yc.length + i * p.nout * n

/-- The allocation lies within both memories (R298 reason 6). -/
def BatProg.memFits (p : BatProg) (n : Nat) : Bool :=
  decide (p.xBase n p.insts.length ≤ 8192) && decide (p.yBase n p.insts.length ≤ 8192)

/-- Output channels that a program names. -/
def BatProg.outChans (p : BatProg) : List Nat := p.insts.foldl (fun a i => a ++ i.outs.filter (fun c => c != 0xFFFF)) []

/-- Output channels named by other logical cores than `l`. -/
def State.otherOuts (s : State) (l : Nat) : List Nat :=
  (List.range 32).foldl (fun a k =>
    if k = l then a
    else
      let x := s.lcore k
      let a := match (s.pcore x.phys).prog with
        | some p => a ++ p.outChans
        | none => a
      match x.held with
      | some h => (match (s.pcore h).prog with
        | some p => a ++ p.outChans
        | none => a)
      | none => a) []

/-- Some element occurs twice. -/
def hasTwice : List Nat → Bool
  | [] => false
  | a :: r => r.contains a || hasTwice r

/-- The first failure of R298: status, reason and instance. -/
def State.batFault (s : State) (l : Nat) (b t : List Byte) (len tlen : Nat) : Option (Nat × Nat × Nat) :=
  let cw := getLE b 6 2
  let xw := getLE b 10 2
  let yw := getLE b 12 2
  let sw := getLE b 14 2
  let nin := byteAt b 28
  let nout := byteAt b 29
  let ni := getLE t 0 2
  let st := getLE b (if s.t.pickLen = 8 then 16 else if s.t.pickLen = 16 then 20 else 24) 4
  if getLE b 0 4 ≠ 0x42544E50 ∨ getLE b 4 2 ≠ 1 ∨ ¬ zeroRange b 30 2 ∨ ¬ zeroRange b 40 20 ∨ ¬ zeroRange t 2 14 then some (stParam, 1, 0)
  else if (List.range (min ni 16)).any (fun i => !zeroRange t (16 + 264 * i + 2) 6) then
    some (stParam, 1, ((List.range (min ni 16)).find? (fun i => !zeroRange t (16 + 264 * i + 2) 6)).getD 0)
  else if cw = 0 ∨ 4096 < cw ∨ 8192 < xw ∨ 8192 < yw ∨ 1024 < sw ∨ 64 < nin ∨ 64 < nout ∨ getLE b 36 4 ≠ 64 + 8 * (cw + xw + yw) ∨
      len ≠ 64 + 8 * (cw + xw + yw) then some (stParam, 2, 0)
  else if crc32c (blankCrc 60 (fit len b)) ≠ getLE b 60 4 then some (stParam, 3, 0)
  else if cw ≤ getLE b 8 2 ∨ st = 0 ∨ st < (sw + 7) / 8 + 1 then some (stParam, 4, 0)
  else if ni = 0 ∨ 16 < ni ∨ tlen ≠ 16 + 264 * ni then some (stParam, 5, 0)
  else
    let p := readProg b t
    let others := s.otherOuts l
    let chOk := fun (c : Nat) => decide (c < 256) || decide (c = 0xFFFF)
    match firstBad ni (fun i =>
        let o := 16 + 264 * i
        let x := readInst t nin nout i
        let before := (List.range i).foldl (fun a j => a ++ (readInst t nin nout j).outs) []
        let outs := x.outs.filter (fun c => c != 0xFFFF)
        x.ins.all chOk && x.outs.all chOk && zeroRange t (o + 8 + 2 * nin) (2 * (64 - nin)) && zeroRange t (o + 136 + 2 * nout) (2 * (64 - nout)) &&
          !hasTwice outs && outs.all (fun c => !before.contains c && !others.contains c)) with
    | some i => some (stParam, 5, i)
    | none => if p.memFits s.t.pickLen then none else some (stResource, 6, 0)

/-! ### Memories and entry (R290–R294) -/

/-- A run of words written into a memory. -/
def putWords (m : NMap Nat) (a : Nat) (ws : List Nat) : NMap Nat :=
  (ws.zipIdx).foldl (fun m w => nset m (a + w.2) w.1) m

/-- A core loaded with a program: instruction words, filled up with all ones (R319), constants in place, everything else 0 (R294, R297). -/
def BatCore.load (c : BatCore) (p : BatProg) : BatCore :=
  { c with prog := some p, code := putWords [] 0 p.code, fill := 2 ^ 64 - 1, x := putWords [] 0 p.xc, y := putWords [] 0 p.yc }

/-- An instruction word of a core. -/
def BatCore.word (c : BatCore) (pc : Nat) : Nat := nget c.fill c.code pc

/-- Instance number of a memory of physical core `c`: 0 instruction, 1 X, 2 Y (19_register_map R626). -/
def batMem (c k : Nat) : Nat := 44 + 3 * c + k

/-- Physical core `c` loaded: every word of its memories is written. -/
def loadCore (c : Nat) (p : BatProg) (s : State) : State :=
  rangeWritten (batMem c 0) 0 4096 (rangeWritten (batMem c 1) 0 8192 (rangeWritten (batMem c 2) 0 8192
    (putPcore c ((s.pcore c).load p) s)))

/-- A run of words written into the X memory of a core. -/
def putX (c a : Nat) (ws : List Nat) (s : State) : State :=
  rangeWritten (batMem c 1) a ws.length (putPcore c { s.pcore c with x := putWords (s.pcore c).x a ws } s)

/-- The windows of all instances written for the pick (R290). -/
def writeWindows (c : Nat) (p : BatProg) (s : State) : State :=
  let n := s.t.pickLen
  p.insts.zipIdx.foldl (fun st iw =>
    let base := p.xBase n iw.2 + (s.m.pick % 2) * p.nin * n
    iw.1.ins.zipIdx.foldl (fun st ck =>
      let xs := if ck.1 = 0xFFFF then List.replicate n 0 else s.battenIn s.d.batNext ck.1
      putX c (base + ck.2 * n) (xs.map (fun v => cword v 0)) st) st) s

/-- Registers at the entry of instance `i` (R292). -/
def entryRegs (p : BatProg) (n pick i : Nat) : BatRegs :=
  let ni := p.insts.length
  { BatRegs.zero with
    ar := [(p.xBase n i + (pick % 2) * p.nin * n) % 8192, p.stateBase n i % 8192, 0, p.xBase n ni % 8192, p.yBase n i % 8192, 0,
           p.yBase n ni % 8192, i],
    pc := p.entry }

/-- Valid slots of an instance with their numbers, newest first (R299). -/
def LCore.validSlots (x : LCore) (i : Nat) : List (Nat × Slot) :=
  let at_ := fun (k : Nat) => (((nfind x.slots k).filter (fun z => z.valid)).map (fun z => (k, z))).toList
  match at_ (2 * i) ++ at_ (2 * i + 1) with
  | [a, b] => if a.2.tag < b.2.tag then [b, a] else [a, b]
  | l => l

/-- Newest valid slot of an instance. -/
def LCore.newest (x : LCore) (i : Nat) : Option Slot := ((x.validSlots i).head?).map (·.2)

/-- The state region for a restore (R303): the newest valid slot that is read without a double-bit error, or zeros with event 0x0704.
`errs` are the errors that reading the slots finds; CKPT_POISON counts the slots found bad. -/
def restoreFrom (l i : Nat) (errs : List EccError) (s : State) : List Nat × State :=
  let slots := (s.lcore l).validSlots i
  let bad := fun (z : Nat × Slot) => errs.any (fun x => x.dbl && decide (x.place = .slot z.1))
  let lost := slots.takeWhile bad
  let read := slots.take (lost.length + 1)
  let s := memErrors (inLogOrder (errs.filter (fun x => read.any (fun z => decide (x.place = .slot z.1))))) s
  let s := bumpBy lost.length 0xF00C 23 16 s
  match slots.drop lost.length with
  | z :: _ => (z.2.words, s)
  | [] => (List.replicate (match s.lprog l with | some p => p.stateW | none => 0) 0, post 0x0704 l (a1 i) s)

/-- Reading input i and entering the next instance of a logical core (R289, R290, R292, R305); `errs` are errors in the checkpoint slots that a
restore reads. -/
def enterInstance (l : Nat) (errs : List EccError) (s : State) : State :=
  let x := s.lcore l
  match s.lprog l with
  | none => s
  | some p =>
    let n := s.t.pickLen
    let s := if x.inst = 0 then writeWindows x.phys p s else s
    let s := if x.restore.contains x.inst then
        let (ws, s) := restoreFrom l x.inst errs s
        putX x.phys (p.stateBase n x.inst) ws (putLcore l { x with restore := x.restore.filter (fun i => i != x.inst) } s)
      else s
    let start := fun (replay : Bool) (q : Nat) (s : State) =>
      putLcore l { s.lcore l with phase := .running, steps := 0, replay := replay, regs := entryRegs p n q x.inst } s
    -- a marked instance of a shadow first replays the pick before from the lead's checkpoint (16_twin R525)
    match nfind s.w.ckpts (16 * l + x.inst) with
    | some (q, ws) =>
      if s.w.resync.contains (16 * l + x.inst) ∧ q + 2 = s.m.pick then
        start true (s.m.pick - 1) (putX x.phys (p.stateBase n x.inst) ws s)
      else start false s.m.pick s
    | none => start false s.m.pick s

/-- The replay of a resync has ended: the instance now runs the pick in progress (16_twin R525). -/
def endReplay (l : Nat) (p : BatProg) (s : State) : State :=
  let x := s.lcore l
  let i := 16 * l + x.inst
  let s := { s with w := { s.w with resync := s.w.resync.filter (fun k => k != i), ckpts := ndel s.w.ckpts i } }
  let s := post 0x0A0A l [] (bump 0x10014 23 16 s)
  putLcore l { x with replay := false, total := x.total + x.steps, steps := 0, regs := entryRegs p s.t.pickLen s.m.pick x.inst } s

/-! ### Faults and moves (R300–R304) -/

/-- A physical core faults (R300, R301): cause 0 double-bit error, 1 step count, 2 illegal instruction. -/
def batFaultNow (l cause : Nat) (s : State) : State :=
  let x := s.lcore l
  let c := s.pcore x.phys
  let s := putPcore x.phys { c with st := 2, cause := cause } s
  let s := putLcore l { x with
    phase := .faulted, faultAt := s.m.pick, repeats := true, faults := satN 0xFFFF (x.faults + 1), total := x.total + x.steps + 8 } s
  let s := setReg 0xF004 (BitVec.ofNat 32 (x.phys + cause * 64 + x.inst % 16 * 256 + x.regs.pc * 4096)) (bump 0xF008 15 0 s)
  let s := { s with l := { s.l with cnt := { s.l.cnt with coreFaults := satN 0xFFFFFFFF (s.l.cnt.coreFaults + 1) } }, m := { s.m with lastFault := some s.t.now } }
  post 0x0701 x.phys (a1 x.phys ++ a1 l ++ a1 cause ++ a1 x.inst ++ a2 x.regs.pc ++ a8 s.m.pick) s

/-- The first render pick whose first entry is still to come: entries begin when the Heddle's input pass is complete (R289, R302). -/
def State.entryPick (s : State) : Nat := if (lget EngineUse.none s.b.cur 0).finished then s.m.pick + 1 else s.m.pick

/-- The move of R302 to the lowest spare, or R304 where there is none; `errs` are the errors in the checkpoint slots that it reads. A logical
core that was stopped meanwhile moves too, and stays stopped. -/
def batMove (l : Nat) (errs : List EccError) (s : State) : State :=
  let x := s.lcore l
  match s.spares, s.lprog l with
  | _, none => s
  | [], some _ => post 0x0703 l [] (putLcore l { x with st := 4, phase := .done, repeats := x.repeats && decide (x.faultAt = s.m.pick) } s)
  | k :: _, some p =>
    let s := loadCore k p s
    let s := (List.range p.insts.length).foldl (fun st i =>
      let (ws, st) := restoreFrom l i errs st
      putX k (p.stateBase s.t.pickLen i) ws st) s
    let s := putPcore k { s.pcore k with st := 1, lcore := l } s
    let q := max s.entryPick x.start
    let now := decide (q ≤ s.m.pick)
    let s := putLcore l { x with
      phys := k, moves := satN 0xFFFF (x.moves + 1), runFrom := q, inst := 0, steps := 0, restore := [],
      phase := if now || !x.runs then .waiting else .done, repeats := x.repeats && !now } s
    post 0x0702 l (a1 x.phys ++ a1 k ++ a8 q) (bump 0xF008 23 16 s)

/-! ### Steps and checkpoints (R293, R299, R300) -/

/-- Steps of a checkpoint (R299). -/
def ckptSteps (p : BatProg) : Nat := (p.stateW + 7) / 8

/-- Errors that the core finds in words of its memories: each counts in its instance, and the corrected ones in BAT_ECC.CORR (R338). -/
def coreErrors (l : List EccError) (s : State) : State := bumpBy (l.filter (fun x => !x.dbl)).length 0xF00C 15 0 (memErrors l s)

/-- One step of a logical core (R316). `errs` are the errors that its reads find, beside those that the words hold. A step that would be beyond
the declaration reads nothing, and an illegal instruction reads no data (R340). -/
def batStep (l : Nat) (errs : List EccError) (s : State) : State :=
  let x := s.lcore l
  match s.lprog l with
  | none => s
  | some p =>
    if x.phase ≠ .running then s
    else if p.steps s.t.pickLen < x.steps + 1 then batFaultNow l 1 s
    else
      let c := s.pcore x.phys
      let e1 := s.errorsIn [(batMem x.phys 0, x.regs.pc)] errs
      let s := coreErrors e1 s
      let w := c.word x.regs.pc
      if e1.any (·.dbl) then batFaultNow l 0 s
      else if illegalWord w x.regs then batFaultNow l 2 s
      else
        let e2 := s.errorsIn ((dataWords moveReads w x.regs).map (fun a => (batMem x.phys (1 + a.1), a.2))) errs
        let s := coreErrors e2 s
        if e2.any (·.dbl) then batFaultNow l 0 s
        else
          let (r, mx, my) := execWord w x.regs c.x c.y
          let s := putPcore x.phys { c with x := mx, y := my } s
          let s := (dataWords (fun m => mop m == 2) w x.regs).foldl (fun st a => wordWritten (batMem x.phys (1 + a.1)) a.2 st) s
          let wait := decide (batOp w = 0x36)
          if wait && x.replay then endReplay l p (putLcore l { x with steps := x.steps + 1 } s)
          else
            -- the copy into the slot begins (R299)
            let slots := if wait then nmod { tag := 0, words := [], valid := false } x.slots (2 * x.inst + s.m.pick % 2)
                (fun z => { z with valid := false }) else x.slots
            putLcore l { x with regs := r, steps := x.steps + 1, phase := if wait then .checkpoint else .running, slots := slots } s

/-- The checkpoint of the instance that executed WAITP finishes (R293, R299), or the core faults in it, at a double-bit error in a word that
it copies or at the end of the declared steps, whichever comes first (R300). -/
def checkpointDone (l : Nat) (errs : List EccError) (s : State) : State :=
  let x := s.lcore l
  match s.lprog l with
  | none => s
  | some p =>
    if x.phase ≠ .checkpoint then s
    else
      let n := s.t.pickLen
      let base := p.stateBase n x.inst
      -- words that the declared steps let it copy
      let room := min p.stateW (8 * (p.steps n - x.steps))
      let found := s.errorsIn ((List.range room).map (fun k => (batMem x.phys 1, base + k))) errs
      let stop := found.find? (·.dbl)
      let last := match stop with
        | some e => (e.word - base) / 8
        | none => room
      let s := coreErrors (found.filter (fun e => decide ((e.word - base) / 8 ≤ last))) s
      match stop with
      | some _ => batFaultNow l 0 (putLcore l { x with steps := x.steps + last } s)
      | none =>
        if room < p.stateW then batFaultNow l 1 (putLcore l { x with steps := p.steps n } s)
        else
          let c := s.pcore x.phys
          let ws := (List.range p.stateW).map (fun k => nget 0 c.x (base + k))
          let z : Slot := { tag := s.m.pick, words := ws, valid := true }
          let steps := x.steps + ckptSteps p
          putLcore l { x with
            slots := nset x.slots (2 * x.inst + s.m.pick % 2) z, steps := steps, total := x.total + steps + 8,
            phase := if p.insts.length ≤ x.inst + 1 then .done else .waiting, inst := x.inst + 1 } s

/-! ### Picks (R289, R291, R301, R304, R305, R308) -/

/-- The logical core runs its program in this pick. -/
def LCore.active (x : LCore) (pick : Nat) : Bool := x.runs && decide (x.runFrom ≤ pick)

/-- Every logical core has ended its work of the pick. -/
def State.batDone (s : State) : Bool :=
  (List.range 32).all (fun l =>
    let x := s.lcore l
    !x.active s.m.pick || decide (x.phase = .done) || decide (x.phase = .faulted))

/-- Steps used by the logical cores in this pick (R64, R312). -/
def State.batUsed (s : State) : Nat := sumTo 32 (fun l => (s.lcore l).total)

/-- The outputs of one logical core for the pick that ends (R291, R301, R304, R305). -/
def batOutputs (s : State) (l : Nat) : List (Nat × List Int) :=
  let x := s.lcore l
  let n := s.t.pickLen
  match s.lprog l with
  | none => []
  | some p =>
    -- a fault that no spare can mend silences the core from the pick after it (R304)
    let silent := decide (x.phase = .faulted) && decide (x.faultAt < s.m.pick) && s.spares.isEmpty
    if (!x.runs && !x.repeats) || silent then p.outChans.map (fun c => (c, List.replicate n 0))
    else if x.repeats ∨ x.phase ≠ .done ∨ s.m.pick < x.runFrom then
      p.outChans.map (fun c => (c, List.replicate n (nget 0 s.c.lastOut c)))
    else
      let y := (s.pcore x.phys).y
      p.insts.zipIdx.foldl (fun acc iw =>
        iw.1.outs.zipIdx.foldl (fun acc ck =>
          if ck.1 = 0xFFFF then acc
          else acc ++ [(ck.1, (List.range n).map (fun k => cre (nget 0 y (p.yBase n iw.2 + ck.2 * n + k))))]) acc) []

/-- Steps of a logical core in the pick that ends, 8 per instance included (R312). How far the copy of a checkpoint had come that the deadline
stopped, nothing tells: `part` is free (log 2). -/
def LCore.spent (x : LCore) (late : Bool) (copy part : Nat) : Nat :=
  x.total + (if late && decide (x.phase = .running) then x.steps + 8
    else if late && decide (x.phase = .checkpoint) then x.steps + part % max copy 1 + 8 else 0)

/-- A logical core as the next pick finds it; an instance stopped at the deadline is restored before its next entry (R305). -/
def LCore.rewind (x : LCore) (late : Bool) (used : Nat) : LCore :=
  { x with
    used := used, total := 0, inst := 0, steps := 0, replay := false,
    restore := if late && (decide (x.phase = .running) || decide (x.phase = .checkpoint)) && !x.restore.contains x.inst then x.restore ++ [x.inst]
      else x.restore,
    repeats := decide (x.phase = .faulted),
    phase := if x.phase = .faulted then .faulted else .waiting }

/-- The end of a pick of the Batten cores. -/
def battenEnd (s : State) : State :=
  let outs := (List.range 32).foldl (fun a l => a ++ batOutputs s l) []
  let s := setC (fun b => { b with
    outs := outs.foldl (fun m x => nset m x.1 x.2) [],
    lastOut := outs.foldl (fun m x => nset m x.1 (x.2.getLast?.getD 0)) b.lastOut }) s
  let (v, s) := draw s
  (List.range 32).foldl (fun st l =>
    let x := st.lcore l
    let late := x.active st.m.pick
    let copy := match st.lprog l with
      | some p => ckptSteps p
      | none => 0
    let used := x.spent late copy (Config.freeWord (v.toNat + l)).toNat
    if x.runs then putLcore l (x.rewind late used) st else putLcore l { x with used := used, total := 0, repeats := false } st) s

/-- The cores stop (R310): outputs read zero. -/
def battenStop (s : State) : State := setC (fun b => { b with outs := [], lastOut := [] }) s

/-- A logical core made ready to run its program from its first instance on, with state regions of zeros, scratch cleared and constants
reloaded. On a failed physical core it does not run before its move (R285, R302). -/
def freshStart (l : Nat) (s : State) : State :=
  let x := s.lcore l
  match s.lprog l with
  | none => s
  | some p =>
    let failed := decide ((s.pcore x.phys).st = 2)
    let s := if failed then s else loadCore x.phys p s
    putLcore l { x with restore := [], phase := if failed then .faulted else .waiting, inst := 0, steps := 0, total := 0, replay := false,
                        repeats := failed } s

/-- The cores restart (R310). -/
def battenStart (s : State) : State :=
  (List.range 32).foldl (fun st l => if (st.lcore l).runs then freshStart l st else st) (battenStop s)

/-- A physical core becomes a spare again, or stays failed (R285). -/
def freeCore (c : Nat) (s : State) : State :=
  let x := s.pcore c
  if x.st = 2 then s else putPcore c { x with st := 0, lcore := 0, prog := none } s

/-- The spare held for a replacement is released. -/
def freeHeld (l : Nat) (s : State) : State :=
  let x := s.lcore l
  match x.held with
  | some k => putLcore l { x with held := none } (freeCore k s)
  | none => s

/-- BAT_LOAD commits (R306): on the held spare or the lowest one when the logical core runs. Otherwise on the mapped core, in place of any
replacement not yet started; where the mapped core has failed, the lowest spare takes its place (R285; log 63). -/
def loadBatten (l : Nat) (p : BatProg) (s : State) : Option State :=
  let x := s.lcore l
  if x.runs then
    match x.held.orElse (fun _ => s.spares.head?) with
    | some k =>
      let s := loadCore k p s
      some (putLcore l { x with held := some k } (putPcore k { s.pcore k with st := 3, lcore := l } s))
    | none => none
  else
    let s := freeHeld l s
    let dest := if (s.pcore x.phys).st = 2 then s.spares.head? else some x.phys
    match dest with
    | none => none
    | some k =>
      let s := loadCore k p s
      some (putLcore l { s.lcore l with phys := k, st := 1, phase := .waiting, slots := [] } (putPcore k { s.pcore k with st := 1, lcore := l } s))

/-- The program that BAT_START would start: the held replacement, otherwise the one loaded. -/
def State.startable (s : State) (l : Nat) : Option BatProg :=
  let x := s.lcore l
  match x.held with
  | some k => (s.pcore k).prog
  | none => if x.st = 1 then s.lprog l else none

/-- BAT_START takes effect at render pick q (R307). -/
def startBatten (l q : Nat) (s : State) : State :=
  let x := s.lcore l
  let s := match x.held with
    | some k => putLcore l { x with phys := k, held := none } (putPcore k { s.pcore k with st := 1 } (freeCore x.phys s))
    | none => s
  match s.lprog l with
  | none => s
  | some p =>
    let s := freshStart l (putLcore l { s.lcore l with st := 2, start := q, runFrom := q, faults := 0, moves := 0, slots := [] } s)
    post 0x0705 l (a8 q ++ a4 p.id) s

/-- BAT_STOP takes effect at render pick q (R308). -/
def stopBatten (l : Nat) (s : State) : State :=
  let x := s.lcore l
  post 0x0706 l [] (putLcore l { x with st := 1, phase := .waiting, inst := 0, repeats := false, restore := [] } s)

/-- A core-domain reset (18_power_modes R596): programs, memories and checkpoints are lost. Failed cores stay failed and the mapping stands,
which only a power-on or RESET_N reset makes anew (R284, R285; log 63). -/
def BatS.cold (b : BatS) : BatS :=
  { BatS.reset with
    cores := b.cores.map (fun c => (c.1, { BatCore.reset c.1 with
      st := if c.2.st = 3 then 0 else c.2.st, lcore := if c.2.st = 1 then c.2.lcore else 0, cause := c.2.cause })),
    lcs := b.lcs.map (fun l => (l.1, { LCore.reset l.1 with phys := l.2.phys })) }

/-- E6 of a logical core (R44): what it runs, counted only while it runs, with the resync allowance of 16_twin R523. -/
def State.batResv (s : State) (l : Nat) : Nat :=
  if (s.lcore l).runs then
    match s.lprog l with
    | some p => (p.insts.length + (if s.w.en then 1 else 0)) * (p.steps s.t.pickLen + 8)
    | none => 0
  else 0

/-- The pick length has changed (R311): programs that no longer fit are stopped. -/
def battenRecheck (s : State) : State :=
  (List.range 32).foldl (fun st l =>
    let x := st.lcore l
    match st.lprog l with
    | some p =>
      if x.runs ∧ (p.steps st.t.pickLen = 0 ∨ ¬ p.memFits st.t.pickLen) then post 0x0707 l (a1 l) (putLcore l { x with st := 1 } st) else st
    | none => st) s

/-! ### Reports (R313) -/

/-- Oldest of the instances' newest valid checkpoint picks; 0 with none. -/
def State.ckptPick (s : State) (l : Nat) : Nat :=
  match s.lprog l with
  | none => 0
  | some p =>
    let ts := (List.range p.insts.length).filterMap (fun i => ((s.lcore l).newest i).map (·.tag))
    match ts with
    | [] => 0
    | t :: r => r.foldl min t

/-- Instances of a logical core. -/
def State.instCount (s : State) (l : Nat) : Nat := match s.lprog l with
  | some p => p.insts.length
  | none => 0

def State.progId (s : State) (l : Nat) : Nat := match s.lprog l with
  | some p => p.id
  | none => 0

/-- BAT_MAP.STATE, 3 while a replacement is pending. -/
def State.batState (s : State) (l : Nat) : Nat :=
  let x := s.lcore l
  if x.st = 2 ∧ x.held.isSome then 3 else x.st

/-- One entry of BAT_QUERY's report. -/
def State.batReport (s : State) (l : Nat) : List Byte :=
  let x := s.lcore l
  leBytes 1 x.phys ++ leBytes 1 (s.batState l) ++ leBytes 1 (s.instCount l) ++ zeros 1 ++ leBytes 4 (s.progId l) ++ leBytes 4 (s.batResv l) ++
    leBytes 4 x.used ++ leBytes 8 x.start ++ leBytes 8 (s.ckptPick l) ++ leBytes 2 x.faults ++ leBytes 2 x.moves ++ zeros 28

end Sys2Proof.Machine
end

