-- ==== Sys2Proof/Machine/Operands.lean ====
section
/-!
DEFINITION. Sys2Proof/Machine/Operands.lean: the operand forms of host commands: the header of 14_host_interface R449 and the
fields of the 64-byte parameter area, little-endian (00_scope R5).
-/
namespace Sys2Proof.Machine

/-- `n` bytes of the parameter area at offset `o`, as an unsigned number. -/
def par (c : HostCmd) (o n : Nat) : Nat := getLE c.desc o n

/-- The same as a signed number. -/
def parS (c : HostCmd) (o n : Nat) : Int := getLES c.desc o n

/-- The bytes themselves. -/
def parBytes (c : HostCmd) (o n : Nat) : List Byte := fit n (c.desc.drop o)

/-- Reserved bytes [o, o + n) of the parameter area are 0. -/
def parZero (c : HostCmd) (o n : Nat) : Bool := zeroRange c.desc o n

/-- FENCE and NOIRQ (R449). -/
def hasFence (c : HostCmd) : Bool := bitOf c.flags 0
def hasNoirq (c : HostCmd) : Bool := bitOf c.flags 1

/-- A header with a reserved bit set, or a TMO outside 0–60,000 (R449, R454; log 22). -/
def badHeader (c : HostCmd) : Bool :=
  decide (c.rsvd ≠ 0) || decide (4 ≤ c.flags) || decide (60000 < c.tmo)

/-- An 8-byte-aligned host address. -/
def aligned8 (a : Nat) : Bool := decide (a % 8 = 0)

/-- How Maintain treats a command (R454). -/
inductive InMaintain where
  /-- The management processor processes it. -/
  | serve
  /-- Its chapter refuses it in Maintain: NOT_IN_MODE at once. -/
  | refuse
  /-- Every other command: the hold queue. -/
  | hold
  deriving DecidableEq, Repr

/-- What R454 needs to know of an opcode. -/
structure CmdInfo where
  opcode : Nat
  inMaintain : InMaintain
  deriving DecidableEq, Repr

end Sys2Proof.Machine
end

