-- ==== Sys2Proof/Machine/Accept.lean ====
section
/-!
DEFINITION. Sys2Proof/Machine/Accept.lean: how firmware, or in Maintain the management processor, takes a host command and accepts
it (14_host_interface R449–R456). The command's own effect is the `body`; everything around it is here once.
-/
namespace Sys2Proof.Machine

/-- What a host command does once it is accepted. -/
abbrev Body := HostCmd → Waiter → State → State

/-- The doorbell stamp of the command at the head of its ring; now, if none was recorded (log 23). -/
def State.headStamp (s : State) (q : Nat) : Nat := (s.ring q).stamps.head?.getD s.t.now

/-- The slot at the head of a command ring is freed. -/
def popRing (q : Nat) (s : State) : State :=
  let r := s.ring q
  if r.head = r.tail then s else setRing q { r with head := r.next r.head, stamps := r.stamps.tail } s

/-- The command is past its acceptance deadline (R451): acceptance at the deadline is in time. -/
def overdue (c : HostCmd) (stamp now : Nat) : Bool := decide (c.tmo ≠ 0) && decide (stamp + c.tmo * msU < now)

/-- Command ring `q` is served and holds a command (R440, R444). -/
def State.ringHolds (s : State) (q : Nat) : Bool := s.ringOn q && decide ((s.ring q).head ≠ (s.ring q).tail)

/-- The command is the next in turn: CQ1 goes before CQ0 (R450). -/
def State.inTurn (s : State) (q : Nat) : Bool := if q = 0 then s.ringHolds 0 && !s.ringHolds 1 else decide (q = 1) && s.ringHolds 1

/-- Firmware may take this command now (R448, R450, R454). -/
def State.takes (s : State) (c : HostCmd) (info : CmdInfo) : Bool :=
  s.serving && s.inTurn c.ring && decide (s.h.heldCpl.length < 64) && (s.m.maint || s.h.holdQ.isEmpty) &&
    (!hasFence c || (s.h.accepted.isEmpty && s.h.loads.isEmpty && s.h.holdQ.isEmpty)) &&
    (!(s.m.maint && info.inMaintain == .hold) || decide (s.h.holdQ.length < 256))

/-- Generation of the command at the head of a ring (R452): the wrap count at which its slot was written, which is one less than the
producer's once the tail has wrapped past it. -/
def State.headGen (s : State) (q : Nat) : Nat :=
  if (s.ring q).head ≤ (s.ring q).tail then (s.ring q).gen else ((s.ring q).gen + 15) % 16

/-- The waiter of the next command taken. -/
def newWaiter (c : HostCmd) (opcode : Nat) (s : State) : Waiter :=
  { id := s.h.nextId, ring := c.ring, gen := s.headGen c.ring, tag := c.tag, opcode := opcode, noirq := hasNoirq c }

/-- The command is accepted: it now has a completion to come. -/
def accepted (w : Waiter) (s : State) : State := { s with h := { s.h with accepted := s.h.accepted ++ [w] } }

/-- The command is accepted or judged (R451, R454). -/
def judge (body : Body) (c : HostCmd) (stamp : Nat) (w : Waiter) (s : State) : State :=
  let s := accepted w s
  if badHeader c then complete w (.of stParam) s
  else if overdue c stamp s.t.now then complete w (.of stTimeout) s
  else body c w s

/-- Firmware takes the command from its ring. In Maintain the management processor reads it instead, and serves, refuses or
holds it (R454). A command that cannot be taken stays in its ring. -/
def hostCommand (info : CmdInfo) (i : Instr) (c : HostCmd) (body : Body) (s : State) : State :=
  let s := advance c.t s
  if s.takes c info then
    let stamp := s.headStamp c.ring
    let w := newWaiter c info.opcode s
    let s := popRing c.ring { s with h := { s.h with nextId := s.h.nextId + 1 } }
    if s.m.maint then
      match info.inMaintain with
      | .serve => judge body c stamp w s
      | .refuse => judge (fun _ w s => complete w (.of stMode) s) c stamp w s
      | .hold =>
        if badHeader c then judge body c stamp w s
        else if overdue c stamp s.t.now then judge body c stamp w s
        else { s with h := { s.h with holdQ := s.h.holdQ ++ [{ i := i, stamp := stamp, w := w }] } }
    else judge body c stamp w s
  else s

/-! ### Changes that name a pick (01_architecture R19–R23, 18_power_modes R604) -/

/-- An accepted change waits for its pick. -/
def schedule (pick : Nat) (who : Option Waiter) (chg : Change) (s : State) : State :=
  { s with sched := s.sched ++ [{ pick := pick, who := who, chg := chg, late := false }] }

/-- A command that names a render pick: 0 is the next one, and a pick more than 2^20 ahead is BAD_PARAM (R23). -/
def atNamed (p : Nat) (w : Waiter) (s : State) (k : Nat → State) : State :=
  match s.named p with
  | none => complete w (.of stParam) s
  | some q => k q

end Sys2Proof.Machine
end

