-- ==== Sys2Proof/Machine/Views.lean ====
section
/-!
DEFINITION. Sys2Proof/Machine/Views.lean: register fields that report typed state (19_register_map R624), block by block: for a BAR0
offset, the fields [hi:lo] whose value the state gives. Every other bit of a register is the stored one.
-/
namespace Sys2Proof.Machine

/-- A field with the value it reads: high bit, low bit, value. -/
abbrev FieldView := Nat × Nat × Nat

/-- A stored register with the fields that typed state gives. -/
def viewed (w : Word) (v : List FieldView) : Word := v.foldl (fun acc f => wset acc f.1 f.2.1 f.2.2) w

/-- Low and high halves of a 64-bit value. -/
def lo32 (x : Nat) : Nat := x % 2 ^ 32
def hi32 (x : Nat) : Nat := x / 2 ^ 32 % 2 ^ 32

/-- Highest shedding step in force (R59, R64). -/
def State.shedStep (s : State) : Nat := if s.b.shedRender then 4 else s.b.shed

/-- The crossfade allowance X, 0 while shedding step 1 is in force (R59). -/
def State.xAllow (s : State) : Nat := if 1 ≤ s.b.shed then 0 else s.b.xfade

/-- SYS (R64, R625). -/
def sysView (s : State) (o : Nat) : List FieldView :=
  if o = 0x0 then [(27, 24, Config.grade.toNat)]
  else if o = 0x4 then [(31, 0, lo32 Config.serial.toNat)]
  else if o = 0x8 then [(31, 0, hi32 Config.serial.toNat)]
  else if o = 0xC then [(2, 0, s.p.straps)]
  else if o = 0x10 then [(31, 0, lo32 s.m.pick)]
  else if o = 0x14 then [(31, 0, hi32 s.m.pick)]
  else if o = 0x100 then [(6, 0, s.b.target), (25, 16, s.xAllow)]
  else if o = 0x104 then [(15, 0, s.b.lastSlack), (18, 16, s.b.lastEng)]
  else if o = 0x110 then [(18, 16, s.b.cause), (26, 24, s.shedStep)]
  else if 0x140 ≤ o ∧ o < 0x160 then [(31, 0, (lget EngineUse.none s.b.latched ((o - 0x140) / 4)).used)]
  else if 0x160 ≤ o ∧ o < 0x180 then [(15, 0, (lget EngineUse.none s.b.latched ((o - 0x160) / 4)).fin)]
  else []

/-- Index of the hottest sensor, the lowest of equals, and its reading (R593). -/
def hottest (ts : List Int) : Nat × Int :=
  (List.range ts.length).foldl (fun acc i => if acc.2 < lget 0 ts i then (i, lget 0 ts i) else acc) (0, lget 0 ts 0)

/-- The AVS field of TRD_VCORE: loop, fixed, held by R58, retention (R615). -/
def State.avsCode (s : State) : Nat :=
  if s.m.retention then 3 else if s.p.holdSince.isSome then 2 else match s.p.avs with
    | .loop => 0
    | .fixed _ => 1

/-- The highest rail enabled. -/
def topRail (en : Nat) : Nat := (List.range 8).foldl (fun m k => if bitOf en k then k else m) 0

/-- When rail `k` of a sequence down falls: the highest at once, each lower one its OFF_DELAY after the one above (R586). -/
def PowerS.fallAt (p : PowerS) (f : RailFall) (k : Nat) : Nat :=
  f.from_ + sumTo (topRail f.en - k) (fun j => (lget RailRow.default p.rails (k + j)).offDelay * msU)

/-- When a sequence down is over: PWR_GOOD of its last rail has been low for OFF_DELAY (R609). -/
def PowerS.fallEnd (p : PowerS) (f : RailFall) : Nat := p.fallAt f f.lo + (lget RailRow.default p.rails f.lo).offDelay * msU

/-- Levels of PWR_EN and PWR_GOOD now: those that stand, or those of a sequence down that is not over. -/
def State.railLevels (s : State) : Nat × Nat :=
  match s.p.fall with
  | some f =>
    if s.p.fallEnd f ≤ s.t.now then (s.p.en, s.p.good)
    else
      let up := sumTo 8 (fun k => flag k (decide (k < f.lo) || decide (s.t.now < s.p.fallAt f k)))
      (f.en &&& up, f.good &&& up)
  | none => (s.p.en, s.p.good)

/-- A rail enable is held until a shut-down ends (R609); the other bits of TRD_PEND come from their blocks. -/
def State.railHeld (s : State) : Bool := match s.p.seq with
  | .rising _ since => decide (s.t.now < since)
  | _ => false

/-- TRD (R615). -/
def trdView (s : State) (o : Nat) : List FieldView :=
  if o = 0x0 then
    [(2, 0, s.m.mode.code), (3, 3, b2n s.m.start), (6, 4, match s.m.trans with | some r => r.target.code | none => 0),
     (7, 7, b2n s.m.trans.isSome), (8, 8, b2n s.m.held.isSome), (11, 9, s.m.under.code), (14, 12, s.m.wake),
     (15, 15, b2n s.m.thermal)]
  else if o = 0x8 then [(9, 0, s.p.vset), (19, 10, (lget (Regulator.default 0) s.p.regs 0).vout), (21, 20, s.avsCode)]
  else if o = 0xC then [(15, 0, (lget (Regulator.default 0) s.p.regs 0).iout)]
  else if 0x10 ≤ o ∧ o < 0x30 then [(11, 0, unsignedOf 12 (lget 0 s.p.temps ((o - 0x10) / 4)))]
  else if o = 0x30 then
    [(11, 0, unsignedOf 12 (hottest s.p.temps).2), (14, 12, (hottest s.p.temps).1), (15, 15, b2n s.p.hot),
     (16, 16, b2n s.p.shedTaken), (23, 17, s.p.thot), (31, 24, s.p.imax)]
  else if o = 0x34 then
    [(7, 0, s.railLevels.1), (15, 8, s.railLevels.2), (18, 16, s.p.faultRail), (19, 19, b2n s.p.fault), (21, 20, s.p.attempts)]
  else if o = 0x38 then [(0, 0, b2n s.p.vaonA), (1, 1, b2n s.p.vaonB), (2, 2, b2n s.p.pfail)]
  else if o = 0x3C then [(1, 0, s.p.resetCause)]
  else if o = 0x40 then [(3, 3, b2n s.railHeld)]
  else if o = 0x44 then
    [(0, 0, b2n s.p.fwOpen), (17, 1, s.p.fwNext / 256), (18, 18, b2n s.p.fwVerified), (19, 19, s.p.fwSlot)]
  else []

/-- HIF (14_host_interface R470). -/
def hifView (s : State) (o : Nat) : List FieldView :=
  if o = 0x0 then
    [(0, 0, b2n s.m.fwReady), (1, 1, b2n s.m.maint), (2, 2, b2n s.h.linkUp), (6, 3, s.h.width), (9, 7, s.h.speed),
     (10, 10, b2n s.h.d3hot)]
  else if o = 0x4 then [(15, 8, s.h.epoch)]
  else if o = 0x1C then [(6, 0, satN 64 s.h.heldCpl.length), (24, 16, s.h.holdQ.length)]
  else if o = 0x20 then [(16, 16, b2n s.h.wdogExpired)]
  else if 0x100 ≤ o ∧ o < 0x4E0 then
    let r := s.ring ((o - 0x100) / 0x20)
    let k := (o - 0x100) % 0x20
    if k = 0x10 then [(12, 0, r.depth), (13, 13, b2n r.en), (18, 14, r.nch)]
    else if k = 0x14 then [(11, 0, r.head)]
    else if k = 0x18 then [(11, 0, r.tail)]
    else if k = 0x1C then [(3, 0, r.gen), (4, 4, b2n r.phase), (5, 5, b2n r.cfgErr)]
    else []
  else []

/-- Notices of a host mailbox. -/
def State.mbox (s : State) (k : Nat) : List DWord := nget [] s.h.mbx k

/-- TIME (13_time R431). -/
def timeView (s : State) (o : Nat) : List FieldView :=
  if o = 0x0 then
    [(2, 0, s.t.sel.getD 7), (3, 3, b2n s.t.lock), (4, 4, b2n s.t.hold), (5, 5, b2n s.t.far),
     (9, 6, sumTo 4 (fun r => flag r (lget false s.t.valid r))), (13, 10, s.t.ptpState), (15, 14, s.t.ptpPort)]
  else if o = 0x4 then [(31, 0, lo32 s.ns)]
  else if o = 0x8 then [(31, 0, hi32 s.ns)]
  else if o = 0xC then [(15, 0, s.t.now % nsU)]
  else if o = 0x10 then [(31, 0, unsignedOf 32 (satS 32 s.t.offset))]
  else if o = 0x14 then [(31, 0, unsignedOf 32 (satS 32 s.t.freq))]
  else if o = 0x18 then [(31, 0, unsignedOf 32 (satS 32 s.t.holdFreq))]
  else if o = 0x20 then [(31, 0, lo32 s.t.gm.toNat)]
  else if o = 0x24 then [(31, 0, hi32 s.t.gm.toNat)]
  else if 0x60 ≤ o ∧ o < 0x80 then
    let c := nget Capture.none s.t.caps ((o - 0x60) / 8)
    if (o - 0x60) % 8 = 0 then [(31, 0, lo32 c.ns)]
    else [(29, 0, hi32 c.ns), (30, 30, b2n c.missed), (31, 31, b2n c.valid)]
  else if 0x100 ≤ o ∧ o < 0x200 then
    let g := nget Trig.off s.t.trigs ((o - 0x100) / 4)
    [(0, 0, b2n g.armed), (1, 1, b2n g.late), (5, 2, g.action), (13, 6, g.arg)]
  else []

/-- Erased sectors of a region. -/
def State.freeSectors (s : State) (code : Nat) : Nat := (lget (Region.empty 0) s.l.regions code).free.length

/-- Highest erase count of any sector (R581). -/
def State.maxErase (s : State) : Nat :=
  s.l.regions.foldl (fun m r => (r.used.foldl (fun m x => max m x.erases) (r.free.foldl (fun m x => max m x.2) m))) 0

/-- Sequence of the oldest record in RAM that is not archived, EVR_SEQ when there is none (R581). -/
def State.oldestUnarchived (s : State) : Nat :=
  match s.ev.ram.find? (fun x => !x.2.archived) with
  | some (k, _) => k
  | none => s.ev.nextSeq

/-- Projected life in years of a region (R560; log 48): the erases left to its most worn sector, at the rate of the last 24 h of powered time
spread over its sectors. -/
def LdgS.life (l : LdgS) (code : Nat) : Nat :=
  let r := lget (Region.empty 0) l.regions code
  let worst := r.used.foldl (fun m x => max m x.erases) (r.free.foldl (fun m x => max m x.2) 0)
  let n := (l.erased.filter (fun x => x.1 == code)).foldl (fun a x => a + x.2.2) 0
  if n = 0 then 0x7FFF else satN 0x7FFF ((100000 - worst) * (r.used.length + r.free.length) * 86400 / (n * 31557600))

/-- The busiest region: the one with the shortest projected life. -/
def LdgS.lifeMin (l : LdgS) : Nat := (List.range 5).foldl (fun m k => min m (l.life k)) 0x7FFF

/-- The 1 s in which every token is refused (17_ledger_recorder R578). -/
def State.tokenHold (s : State) : Bool :=
  match s.l.authHold with
  | some t => decide (s.t.now < t + secU)
  | none => false

/-- LDG (17_ledger_recorder R581). -/
def ldgView (s : State) (o : Nat) : List FieldView :=
  if o = 0x0 then
    [(0, 0, b2n s.l.mounted), (1, 1, b2n (s.l.mounted && (s.l.fa.state != 1 || s.l.fb.state != 1 || s.l.rebuild))),
     (2, 2, b2n s.l.rebuild), (3, 3, b2n s.l.scrub), (4, 4, b2n s.l.flush), (5, 5, s.m.slot), (6, 6, b2n s.m.trial),
     (7, 7, b2n s.m.recovery)]
  else if o = 0x4 then [(7, 0, s.l.fa.mfr), (15, 8, s.l.fa.density), (17, 16, s.l.fa.state)]
  else if o = 0x8 then [(7, 0, s.l.fb.mfr), (15, 8, s.l.fb.density), (17, 16, s.l.fb.state)]
  else if o = 0xC then
    [(7, 0, satN 255 s.l.mTorn), (15, 8, satN 255 s.l.mReerased), (23, 16, satN 255 s.l.mMarginal), (31, 24, satN 255 s.l.mReloc)]
  else if o = 0x14 then [(16, 0, satN 0x1FFFF s.maxErase), (31, 17, s.l.lifeMin)]
  else if o = 0x18 then [(9, 0, if s.l.mounted then s.freeSectors 1 else 0), (19, 10, if s.l.mounted then s.freeSectors 2 else 0),
                         (29, 20, if s.l.mounted then s.l.spare else 0)]
  else if o = 0x1C then
    [(15, 0, satN 0xFFFF (match s.l.lastScrub with | some t => (s.t.now - t) / (86400 * secU) | none => 0))]
  else if o = 0x20 then [(31, 0, lo32 s.l.nonce)]
  else if o = 0x24 then [(31, 0, hi32 s.l.nonce)]
  else if o = 0x28 then [(8, 8, b2n s.tokenHold)]
  else []

/-- EVR (R581). -/
def evrView (s : State) (o : Nat) : List FieldView :=
  if o = 0x0 then [(12, 0, s.ev.ram.length), (17, 13, s.ev.fifo.length)]
  else if o = 0x4 then [(31, 0, lo32 s.ev.nextSeq)]
  else if o = 0x8 then [(31, 0, hi32 s.ev.nextSeq)]
  else if o = 0xC then [(31, 0, lo32 s.oldestUnarchived)]
  else if o = 0x10 then [(31, 0, hi32 s.oldestUnarchived)]
  else []

/-- Words of a memory instance, and its spare rows (19_register_map R626, R629). -/
def memWords (i : Nat) : Nat := if i < 44 then 524288 else if i < 146 then (if (i - 44) % 3 = 0 then 4096 else 8192) else 32768
def memSpare (i : Nat) : Nat := if i < 44 then 32 else if i < 146 then 4 else 8

/-- MEM (R629). -/
def memView (_ : State) (o : Nat) : List FieldView :=
  if 0x400 ≤ o ∧ o < 0x400 + 0x10 * 147 then
    let i := (o - 0x400) / 0x10
    let k := (o - 0x400) % 0x10
    if k = 8 then [(5, 0, (Config.rowsUsed i).toNat), (13, 8, memSpare i)]
    else if k = 0xC then [(20, 0, memWords i)]
    else []
  else []

end Sys2Proof.Machine
end

