-- ==== Sys2Proof/Machine/HostIf.lean ====
section
/-!
DEFINITION. Sys2Proof/Machine/HostIf.lean: the host interface's own commands and rows (14_host_interface): SYS_NOP, SYS_INFO,
CMD_ABORT, reserved opcodes, mailboxes, bad accesses, BAR2, D3hot, the watchdog and the completion timer.
-/
namespace Sys2Proof.Machine

def setH (f : HostS → HostS) (s : State) : State := { s with h := f s.h }

/-- What a bus read returned to a master: the block's output on that port. -/
def answer (m : Nat) (v : Word) (s : State) : State :=
  setH (fun h => { h with answer := nset h.answer m v, cpl := if m = 0 then .done else h.cpl }) s

/-- An access from PCIe inbound that does not complete plainly; a Completer Abort and poisoned data are reported through AER (R437;
15_fabric R478). -/
def hostCompletes (k : CplKind) (s : State) : State :=
  setH (fun h => { h with cpl := k, aer := if k = .abort ∨ k = .poisoned then h.aer + 1 else h.aer }) s

/-! ### System commands (R454, R456) -/

def sysNopBody : Body := fun c w s =>
  if parZero c 0 64 then complete w (.atPick s.pickNow) s else complete w (.of stParam) s

def sysNopInfo : CmdInfo := ⟨0x00, .serve⟩

/-- SYS_NOP (R456). -/
def execSysNop (c : HostCmd) (s : State) : Host.Outcome State Fault Refusal :=
  .next (hostCommand sysNopInfo (.sysNop c) c sysNopBody s)

/-- The firmware slot that runs. -/
def State.runningImage (s : State) : List Byte := if s.m.slot = 0 then s.l.slotA.image else s.l.slotB.image

/-- The value of SYS_ID (19_register_map R625). -/
def sysId : Nat := 0xA024 + 0x11 * 2 ^ 16 + Config.grade.toNat * 2 ^ 24

/-- The SYS_INFO report of R456; no firmware version runs after a recovery boot. -/
def State.infoReport (s : State) : List Byte :=
  leBytes 4 sysId ++ leBytes 8 Config.serial.toNat ++ leBytes 4 (if s.m.recovery then 0 else getLE s.runningImage 4 4) ++
    leBytes 1 s.m.slot ++ leBytes 1 s.m.mode.code ++ leBytes 1 s.t.pickLen ++ leBytes 1 (b2n s.t.rate96) ++ leBytes 1 s.h.epoch ++
    zeros 43

def sysInfoBody : Body := fun c w s =>
  if ¬ aligned8 (par c 0 8) then complete w (.of stAlign) s
  else if ¬ parZero c 8 56 then complete w (.of stParam) s
  else complete w (.of stOK) (writeHost (par c 0 8) s.infoReport s)

def sysInfoInfo : CmdInfo := ⟨0x01, .serve⟩

/-- SYS_INFO (R456). -/
def execSysInfo (c : HostCmd) (s : State) : Host.Outcome State Fault Refusal :=
  .next (hostCommand sysInfoInfo (.sysInfo c) c sysInfoBody s)

/-- Whether a waiter is the command that CMD_ABORT names (R456). -/
def abortNames (c : HostCmd) (x : Waiter) : Bool :=
  decide (x.tag = par c 0 2) && decide (x.gen % 16 = par c 2 1 % 16) && decide (x.ring = par c 2 1 / 16 % 2)

/-- The opcodes of the table of R454. -/
def knownOpcode (o : Nat) : Bool :=
  decide (o ≤ 0x05) || (decide (0x08 ≤ o) && decide (o ≤ 0x0A)) || (decide (0x10 ≤ o) && decide (o ≤ 0x18)) ||
  (decide (0x20 ≤ o) && decide (o ≤ 0x22)) || (decide (0x30 ≤ o) && decide (o ≤ 0x37)) || (decide (0x40 ≤ o) && decide (o ≤ 0x44)) ||
  (decide (0x50 ≤ o) && decide (o ≤ 0x56)) || (decide (0x60 ≤ o) && decide (o ≤ 0x64)) || (decide (0x70 ≤ o) && decide (o ≤ 0x75)) ||
  (decide (0x80 ≤ o) && decide (o ≤ 0x87)) || (decide (0x90 ≤ o) && decide (o ≤ 0x95)) || (decide (0xA0 ≤ o) && decide (o ≤ 0xA4)) ||
  (decide (0xB0 ≤ o) && decide (o ≤ 0xB7)) || (decide (0xC0 ≤ o) && decide (o ≤ 0xC3)) || (decide (0xD0 ≤ o) && decide (o ≤ 0xD2)) ||
  (decide (0xE0 ≤ o) && decide (o ≤ 0xE3)) || (decide (0xF0 ≤ o) && decide (o ≤ 0xF2))

/-- COMMAND_RESERVED_OPCODE (R454): BAD_PARAM for a reserved opcode, or for a known one with a reserved header bit set; a known
opcode with a sound header is no such command and has no effect here. -/
def execCommandReservedOpcode (c : HostCmd) (opcode : Nat) (s : State) : Host.Outcome State Fault Refusal :=
  .next (if ¬ knownOpcode (opcode % 256) ∨ badHeader c then
      hostCommand ⟨opcode % 256, .serve⟩ (.commandReservedOpcode c opcode) c (fun _ w s => complete w (.of stParam) s) s
    else advance c.t s)

/-! ### Mailboxes (R465–R468) -/

/-- Key of a latch or held half: they are kept per master (19_register_map R622). -/
def halfKey (m off : Nat) : Nat := m * 2 ^ 17 + off

/-- Notices of mailbox `k` replaced. -/
def setMbox (k : Nat) (l : List DWord) (s : State) : State := setH (fun h => { h with mbx := nset h.mbx k l }) s

/-- A write to a full host-to-device mailbox is dropped and told (R466). -/
def mailboxReject (k : Nat) (s : State) : State :=
  post 0x0908 k [] (signal 0 (bump 0x3044 31 16 (putField 0x3044 k k 1 s)))

/-- MBX_DATA_WRITE (R9, R466): the low half is held; the high half posts the notice, and is discarded with no low half held. -/
def mbxDataWrite (m k : Nat) (hi : Bool) (v : Word) (s : State) : State :=
  if ¬ s.coreUp ∨ 4 ≤ k then s
  else if hi then
    match nfind s.h.holds (halfKey m (0x3000 + 8 * k)) with
    | none => s
    | some lo =>
      let s := setH (fun h => { h with holds := ndel h.holds (halfKey m (0x3000 + 8 * k)) }) s
      if (s.mbox k).length < 4 then setMbox k (s.mbox k ++ [v ++ lo]) s else mailboxReject k s
  else setH (fun h => { h with holds := nset h.holds (halfKey m (0x3000 + 8 * k)) v }) s

def execMbxDataWrite (t k : Nat) (hi : Bool) (v : Word) (s : State) : Host.Outcome State Fault Refusal :=
  .next (mbxDataWrite 0 k hi v (advance t s))

/-- A notice enters a device-to-host mailbox, or waits for room (R468); MBX_IRQ decides vector 6 (R463). -/
def sendNotice (k : Nat) (n : DWord) (s : State) : State :=
  if (s.mbox k).length < 4 ∧ ¬ s.h.mbxWait.any (fun x => x.1 == k) then
    let s := setMbox k (s.mbox k ++ [n]) s
    if s.field 0x3048 3 0 / 2 ^ (k - 4) % 2 = 1 then signal 6 s else s
  else setH (fun h => { h with mbxWait := h.mbxWait ++ [(k, n)] }) s

/-- The first notice that waits for mailbox `k` enters it. -/
def admitWaiting (k : Nat) (s : State) : State :=
  match s.h.mbxWait.find? (fun x => x.1 == k) with
  | some x =>
    let s := setH (fun h => { h with mbxWait := h.mbxWait.erase x }) s
    let s := setMbox k (s.mbox k ++ [x.2]) s
    if s.field 0x3048 3 0 / 2 ^ (k - 4) % 2 = 1 then signal 6 s else s
  | none => s

/-- MBX_DATA_READ (R468): the low half latches the oldest notice; the high half returns its upper half and removes it. -/
def mbxDataRead (m k : Nat) (hi : Bool) (s : State) : State :=
  if k < 4 ∨ 8 ≤ k then answer m 0 s
  else match s.mbox k, hi with
    | [], _ => answer m 0 (setH (fun h => { h with latches := ndel h.latches (halfKey m (0x3004 + 8 * k)) }) s)
    | n :: _, false =>
      answer m (n.setWidth 32) (setH (fun h => { h with latches := nset h.latches (halfKey m (0x3004 + 8 * k)) ((n >>> 32).setWidth 32) }) s)
    | _ :: r, true =>
      match nfind s.h.latches (halfKey m (0x3004 + 8 * k)) with
      | none => answer m 0 s
      | some v =>
        let s := setH (fun h => { h with latches := ndel h.latches (halfKey m (0x3004 + 8 * k)) }) s
        answer m v (admitWaiting k (setMbox k r s))

def execMbxDataRead (t k : Nat) (hi : Bool) (s : State) : Host.Outcome State Fault Refusal :=
  .next (mbxDataRead 0 k hi (advance t s))

/-- Fields of a notice (R465). -/
def noticePointer (n : DWord) : Nat := n.toNat % 2 ^ 48
def noticeEpoch (n : DWord) : Nat := bitsOf n.toNat 55 48

/-- HOST_NOTICE_SERVICE (R465, R467, R469): the receiver takes the oldest notice of mailbox 0–3. One whose epoch is not the
host's is discarded unread; HOST_ALIVE restarts the watchdog; ECHO returns the notice with ECHOED set. -/
def hostNotice (k : Nat) (msg : List Byte) (s : State) : State :=
  match s.mbox k with
  | [] => s
  | n :: r =>
    if 4 ≤ k then s
    else
      let s := setMbox k r s
      if noticeEpoch n ≠ s.field 0x2004 7 0 then post 0x0905 k [] s
      else
        let svc := getLE msg 0 2
        let len := getLE msg 2 2
        if svc = 1 ∧ 8 ≤ len ∧ len ≤ 4096 then
          setH (fun h => { h with wdogFrom := if s.field 0x2020 15 0 = 0 then none else some s.t.now, wdogExpired := false }) s
        else if svc = 2 ∧ 8 ≤ len ∧ len ≤ 4096 then
          sendNotice (if k < 2 then 4 else 6)
            (BitVec.ofNat 64 (noticePointer n + s.h.epoch * 2 ^ 48 + bitsOf n.toNat 59 56 * 2 ^ 56 + 2 ^ 60)) s
        else post 0x0905 k [] s

def execHostNoticeService (t k : Nat) (msg : List Byte) (s : State) : Host.Outcome State Fault Refusal :=
  .next (hostNotice k msg (advance t s))

/-! ### Bad accesses, BAR2, power states (R436, R437, R440) -/

/-- BAR0_BAD_ACCESS (R436): an Unsupported Request, counted in HIF_ERR.UR, which signals vector 0. No access reaches a link in L2 (R441). -/
def badAccess (off width : Nat) (s : State) : State :=
  if s.coreUp ∧ ¬ s.h.l2 ∧ (width ≠ 4 ∨ off % 4 ≠ 0) then signal 0 (bump 0x2008 31 24 (hostCompletes .unsupported s)) else s

def execBar0BadAccess (t off width : Nat) (s : State) : Host.Outcome State Fault Refusal :=
  .next (badAccess off width (advance t s))

def execD3hotEntry (t : Nat) (s : State) : Host.Outcome State Fault Refusal :=
  .next (setH (fun h => { h with d3hot := true }) (advance t s))

/-- PCIE_LINK_RETURN (R438, R441): event 0x0903 after a loss; after Dormant a PME. -/
def linkReturn (width speed : Nat) (s : State) : State :=
  if s.coreUp ∧ ¬ s.h.linkUp then
    let s1 := setH (fun h => { h with linkUp := true, width := width % 16, speed := speed % 8 }) s
    let s2 := if s.h.l2 then { setH (fun h => { h with l2 := false, pme := h.pme + 1 }) s1 with p := { s1.p with wakeN := false } } else s1
    if s.h.linkLost then post 0x0903 0 [] (setH (fun h => { h with linkLost := false }) s2) else s2
  else s

def execPcieLinkReturn (t width speed : Nat) (s : State) : Host.Outcome State Fault Refusal :=
  .next (linkReturn width speed (advance t s))

/-! ### Timers (R464, R469) -/

/-- CPL_IRQ_TIMER: the oldest unsignalled completion has reached CPL_US. -/
def cplTimer (s : State) : State :=
  let us := s.field 0x2010 23 8
  if us ≠ 0 ∧ s.h.unsig ≠ 0 ∧ s.h.unsigSince + us * usU ≤ s.t.now then signal 1 (setH (fun h => { h with unsig := 0 }) s) else s

def execCplIrqTimer (t : Nat) (s : State) : Host.Outcome State Fault Refusal := .next (cplTimer (advance t s))

/-- HOST_WDOG_EXPIRY: no HOST_ALIVE within the period. A notice at the deadline is in time (R422). -/
def wdogExpiry (s : State) : State :=
  let ms := s.field 0x2020 15 0
  match s.h.wdogFrom with
  | some f =>
    if ms ≠ 0 ∧ f + ms * msU < s.t.now ∧ ¬ s.h.wdogExpired then
      post 0x0909 0 [] (signal 0 (setH (fun h => { h with wdogExpired := true }) s))
    else s
  | none => s

def execHostWdogExpiry (t : Nat) (s : State) : Host.Outcome State Fault Refusal := .next (wdogExpiry (advance t s))

end Sys2Proof.Machine
end

