-- ==== Sys2Proof/Machine/FabricOps.lean ====
section
/-!
DEFINITION. Sys2Proof/Machine/FabricOps.lean: the fabric's shared operations (15_fabric; 19_register_map R626–R628): on-chip addresses,
memory errors, bus errors, semaphores, on-chip mailboxes, Bobbin channels and the Shuttle.
-/
namespace Sys2Proof.Machine

/-! ### On-chip addresses (R472) -/

/-- Target and offset of an on-chip address. -/
def targetOf (a : Nat) : Option (Nat × Nat) :=
  if a < 0x1000000 then some (a / 64 % 4, a)
  else if 0x10000000 ≤ a ∧ a < 0x1A000000 then some (4 + (a - 0x10000000) / 0x2800000, (a - 0x10000000) % 0x2800000)
  else if 0x20000000 ≤ a ∧ a < 0x20020000 then some (8, a - 0x20000000)
  else if 0x21000000 ≤ a ∧ a < 0x21002000 then some (12, a - 0x21000000)
  else if 0x22000000 ≤ a ∧ a < 0x22020000 then some (13, a - 0x22000000)
  else if 0x23000000 ≤ a ∧ a < 0x23010000 then some (9, a - 0x23000000)
  else if 0x30000000 ≤ a ∧ a < 0x30000000 + 34 * 0x40000 then
    let o := (a - 0x30000000) % 0x40000
    if o < 0x8000 ∨ (0x10000 ≤ o ∧ o < 0x30000) then some (11, a - 0x30000000) else none
  else if 0x8000000000000000 ≤ a ∧ a < 0x8000000000000000 + 2 ^ 60 then some (10, a - 0x8000000000000000)
  else none

/-- Memory instance and word of an address, where the spec gives them: general memory by its bank bits, the Batten memories (R472, R626). -/
def instWord (a : Nat) : Option (Nat × Nat) :=
  match targetOf a with
  | some (t, o) =>
    if t < 4 then some (40 + t, o / 256 * 8 + o % 64 / 8)
    else if t = 11 then
      let p := o / 0x40000
      let r := o % 0x40000
      if r < 0x8000 then some (batMem p 0, r / 8)
      else if r < 0x20000 then some (batMem p 1, (r - 0x10000) / 8)
      else some (batMem p 2, (r - 0x20000) / 8)
    else none
  | none => none

/-- The 64-bit word of a Batten memory. -/
def battenWord (s : State) (o : Nat) : Nat :=
  let c := s.pcore (o / 0x40000)
  let r := o % 0x40000
  if r < 0x8000 then c.word (r / 8)
  else if r < 0x20000 then nget 0 c.x ((r - 0x10000) / 8)
  else nget 0 c.y ((r - 0x20000) / 8)

/-- The Batten memory word written. -/
def putBattenWord (o w : Nat) (s : State) : State :=
  let p := o / 0x40000
  let c := s.pcore p
  let r := o % 0x40000
  if r < 0x8000 then putPcore p { c with code := nset c.code (r / 8) w } s
  else if r < 0x20000 then putPcore p { c with x := nset c.x ((r - 0x10000) / 8) w } s
  else putPcore p { c with y := nset c.y ((r - 0x20000) / 8) w } s

/-- A record of the recorder's RAM as bytes; 0 where there is none. -/
def recorderByte (s : State) (o : Nat) : Byte :=
  match s.ev.ram.find? (fun x => decide (x.1 % 4096 = o / 32)) with
  | some (_, r) => lget 0 (r.bytes false) (o % 32)
  | none => 0

/-- One byte of an on-chip memory. -/
def onChipByte (s : State) (a : Nat) : Byte :=
  match targetOf a with
  | none => 0
  | some (t, o) =>
    if t < 4 then memByte s.g.gm o
    else if t < 8 then memByte s.g.sm (a - 0x10000000)
    else if t = 9 then memByte s.g.gm (0x1000000 + o)
    else if t = 10 then memByte s.h.mem o
    else if t = 11 then BitVec.ofNat 8 (battenWord s o / 2 ^ (8 * (o % 8)))
    else if t = 13 then recorderByte s o
    else 0

/-- One byte of an on-chip memory replaced; the recorder writes its own RAM. -/
def putOnChipByte (a : Nat) (b : Byte) (s : State) : State :=
  match targetOf a with
  | none => s
  | some (t, o) =>
    if t < 4 then setG (fun g => { g with gm := memWrite g.gm o b }) s
    else if t < 8 then setG (fun g => { g with sm := memWrite g.sm (a - 0x10000000) b }) s
    else if t = 9 then setG (fun g => { g with gm := memWrite g.gm (0x1000000 + o) b }) s
    else if t = 10 then setH (fun h => { h with mem := memWrite h.mem o b }) s
    else if t = 11 then
      let w := battenWord s o
      let sh := 2 ^ (8 * (o % 8))
      putBattenWord o (w - w / sh % 256 * sh + b.toNat * sh) s
    else s

/-- A run of bytes written from an address on, those that `en` enables; each word that receives a byte counts as written once (R628). -/
def putOnChip (a : Nat) (bytes : List (Bool × Byte)) (s : State) : State :=
  let at_ := (bytes.zipIdx.filter (fun x => x.1.1)).map (fun x => (a + x.2, x.1.2))
  let s := at_.foldl (fun st x => putOnChipByte x.1 x.2 st) s
  let ws := at_.foldl (fun acc x => if acc.getLast? = some (x.1 / 8) then acc else acc ++ [x.1 / 8]) ([] : List Nat)
  ws.foldl (fun st w => match instWord (8 * w) with
    | some (i, x) => wordWritten i x st
    | none => st) s

/-- A run of bytes written whole. -/
def writeOnChip (a : Nat) (bytes : List Byte) (s : State) : State := putOnChip a (bytes.map (fun b => (true, b))) s

/-! ### Bus errors (R478) -/

/-- A refused access: counted, told by event `code`, and answered 0. -/
def busErrorBy (code m target off : Nat) (args : List Byte) (s : State) : State :=
  let s := putField 0x6004 19 16 m (putField 0x6004 23 20 target (bump 0x6004 15 0 s))
  answer m 0 (post code m args (setReg 0x6008 (BitVec.ofNat 32 off) s))

def busError (m target off : Nat) (s : State) : State := busErrorBy 0x0801 m target off (a1 m ++ a1 target ++ a4 off) s

/-! ### Semaphores (R482–R484, R491) -/

/-- The mailbox-and-semaphore target serves accesses. -/
def State.mailUp (s : State) : Bool := s.coreUp

/-- SEMAPHORE_READ (R482). The host cannot reach the locks (R484). -/
def semRead (m k : Nat) (s : State) : State :=
  if ¬ s.mailUp ∨ m = 0 ∨ 64 ≤ k then busError m 12 (4 * k) s
  else match nfind s.g.sems k with
    | some o => answer m (BitVec.ofNat 32 (0x80000000 + o)) s
    | none => answer m 0 (setG (fun g => { g with sems := nset g.sems k m }) s)

/-- SEMAPHORE_WRITE (R482). -/
def semWrite (m k : Nat) (v : Word) (s : State) : State :=
  if ¬ s.mailUp ∨ m = 0 ∨ 64 ≤ k then busError m 12 (4 * k) s
  else if nfind s.g.sems k = some m ∧ v.toNat = m then setG (fun g => { g with sems := ndel g.sems k }) s
  else post 0x080C k (a1 k ++ a1 m) (bump 0x6018 15 0 s)

/-- The locks of a master released at its reset (R480). -/
def releaseLocks (m : Nat) (s : State) : State :=
  (s.g.sems.filter (fun x => x.2 == m)).foldl (fun st x =>
    post 0x0803 x.1 (a1 x.1 ++ a1 m) (bump 0x600C 31 16 (setG (fun g => { g with sems := ndel g.sems x.1 }) st))) s

/-! ### On-chip mailboxes (R485–R491) -/

/-- Master that receives a mailbox; none where firmware or the Shuttle decides. -/
def mailReceiver (k : Nat) : Option Nat :=
  if k < 4 then some (4 + k) else if k < 8 then some k else if k < 12 then some 3 else if k < 16 then some (k - 8)
  else if k < 19 then some 3 else none

/-- Return mailbox of a sender. -/
def returnBox (m : Nat) : Option Nat := if 4 ≤ m ∧ m < 8 then some (m + 8) else if m = 3 then some 16 else none

def State.ocBox (s : State) (k : Nat) : List (Nat × DWord) := nget [] s.g.oc k
def setOc (k : Nat) (l : List (Nat × DWord)) (s : State) : State := setG (fun g => { g with oc := nset g.oc k l }) s

/-- A control core is power-gated (R490). -/
def State.coreGated (s : State) (k : Nat) : Bool := nget false s.g.gated k
def ungate (k : Nat) (s : State) : State := setG (fun g => { g with gated := ndel g.gated k }) s

/-- A notice that finds its receiver gated wakes it (R490). -/
def wakeReceiver (k : Nat) (s : State) : State :=
  match mailReceiver k with
  | some r => if 4 ≤ r ∧ s.coreGated (r - 4) then post 0x080B k (a1 k ++ a1 r) (bump 0x3110 31 24 (ungate (r - 4) s)) else s
  | none => s

/-- ONCHIP_MAILBOX_POST (R485, R486, R490, R491). -/
def ocPost (m k : Nat) (v : DWord) (s : State) : State :=
  let off := 0x1000 + 0x20 * k
  if 32 ≤ k then busError m 12 off s
  else if s.m.retention ∧ m = 3 ∧ s.g.wakeLatch.isNone then setG (fun g => { g with wakeLatch := some (k, m, v) }) s
  else if ¬ s.mailUp then busError m 12 off s
  else if (s.ocBox k).length < 4 then wakeReceiver k (setOc k (s.ocBox k ++ [(m, v)]) s)
  else post 0x0805 k (a1 k ++ a1 m) (bump 0x3110 15 0 (busError m 12 off s))

/-- ONCHIP_MAILBOX_READ (R485): the 64-bit answer, its upper half at 16 + the master. -/
def ocRead (m k : Nat) (s : State) : State :=
  let off := 0x1008 + 0x20 * k
  if 32 ≤ k ∨ ¬ s.mailUp then busError m 12 off s
  else match s.ocBox k with
    | [] => answer (16 + m) 0 (answer m 0 s)
    | (_, n) :: r => setOc k r (answer (16 + m) ((n >>> 32).setWidth 32) (answer m (n.setWidth 32) s))

/-- The wake latch delivers once the core domain has started (R491). -/
def deliverLatch (s : State) : State :=
  match s.g.wakeLatch with
  | some (k, m, v) => ocPost m k v (setG (fun g => { g with wakeLatch := none }) s)
  | none => s

/-- Every notice of one mailbox cleared by its receiver's reset (R488). -/
def clearBox (k : Nat) (s : State) : State :=
  match s.ocBox k with
  | [] => s
  | l =>
    let (s, ab, lost) := l.foldl (fun (acc : State × Nat × Nat) x =>
      let (st, ab, lost) := acc
      let back := (x.2 &&& BitVec.ofNat 64 (2 ^ 60 - 1)) ||| BitVec.ofNat 64 (2 ^ 61)
      match returnBox x.1 with
      | some r =>
        if r ≠ k ∧ (st.ocBox r).length < 4 then (wakeReceiver r (setOc r (st.ocBox r ++ [(x.1, back)]) (bump 0x3110 23 16 st)), ab + 1, lost)
        else (bump 0x3114 15 0 st, ab, lost + 1)
      | none => (bump 0x3114 15 0 st, ab, lost + 1)) (setOc k [] s, 0, 0)
    post 0x0806 k (a1 k ++ a2 ab ++ a2 lost) s

/-- A receiver's mailboxes cleared. -/
def clearReceiver (m : Nat) (s : State) : State :=
  (List.range 32).foldl (fun st k => if mailReceiver k = some m then clearBox k st else st) s

/-- The epoch of a master after a reset (R487). -/
def nextEpoch (m : Nat) (s : State) : State := setG (fun g => { g with epochs := nmod 0 g.epochs m (fun e => (e + 1) % 256) }) s

/-! ### Bobbin channels (R492–R499) -/

def State.bob (s : State) (c : Nat) : BobCh := nget BobCh.reset s.g.bob c
def setBob (c : Nat) (x : BobCh) (s : State) : State := setG (fun g => { g with bob := nset g.bob c x }) s

/-- Fields of a descriptor (R494). -/
def dSrc (d : List Byte) : Nat := getLE d 0 8
def dDst (d : List Byte) : Nat := getLE d 8 8
def dLen (d : List Byte) : Nat := getLE d 16 3
def dRows (d : List Byte) : Nat := getLE d 20 2
def dSstr (d : List Byte) : Nat := getLE d 22 2
def dDstr (d : List Byte) : Nat := getLE d 24 2
def dChain (d : List Byte) : Nat := getLE d 28 4

/-- Memory of an address, for overlap (R496): general 0, sample 1, host 2, each Batten core 16 up; other targets 3 up. -/
def memoryOf (a : Nat) : Option Nat :=
  match targetOf a with
  | none => none
  | some (t, o) => some (if t < 4 then 0 else if t < 8 then 1 else if t = 10 then 2 else if t = 11 then 16 + o / 0x40000 else 64 + t)

/-- A transfer's extent starts and ends in one memory that the channel may address (R492). -/
def extentOk (c a n : Nat) : Bool :=
  match memoryOf a, memoryOf (a + n - 1) with
  | some m, some m' => decide (m = m') && (decide (c < 4) || decide (m < 3))
  | _, _ => false

/-- The first failed check of R495: its status. -/
def bobFault (c : Nat) (d : List Byte) : Option Nat :=
  let sx := 8 * (dRows d - 1) * dSstr d + dLen d
  let dx := 8 * (dRows d - 1) * dDstr d + dLen d
  if 4 ≤ c ∧ (dSrc d % 8 ≠ 0 ∨ dDst d % 8 ≠ 0 ∨ dLen d % 8 ≠ 0) then some stAlign
  else if byteAt d 19 ≠ 0 ∨ ¬ zeroRange d 26 2 ∨ bitsOf (dChain d) 23 19 ≠ 0 ∨ bitsOf (dChain d) 31 26 ≠ 0 ∨ dLen d = 0 ∨ dRows d = 0 ∨
      (dRows d = 1 ∧ (dSstr d ≠ 0 ∨ dDstr d ≠ 0)) ∨ ¬ extentOk c (dSrc d) sx ∨ ¬ extentOk c (dDst d) dx then some stParam
  else if 1 < dRows d ∧ memoryOf (dSrc d) = memoryOf (dDst d) ∧ dSrc d < dDst d + dx ∧ dDst d < dSrc d + sx then some stOverlap
  else none

/-- A channel fetches the descriptor at a place in general memory, in 32-byte units, and checks it (R494, R495). -/
def bobFetch (c off : Nat) (s : State) : State :=
  let d := memRead s.g.gm (32 * off) 32
  let x := { s.bob c with cur := off, parked := false, run := true, desc := d }
  match bobFault c d with
  | none => setBob c x s
  | some st =>
    let s := setBob c { x with run := false, halt := true, last := st } s
    post 0x0807 c (a4 c ++ a4 off ++ a1 st) (bump (0x500C + 0x20 * c) 31 16 s)

/-- A trigger starts a channel at the head of its chain (R493); a running or halted channel is left alone. -/
def bobStart (c : Nat) (s : State) : State :=
  let x := s.bob c
  if x.en && !x.run && !x.halt then bobFetch c x.head s else s

/-- The parked descriptor's chain word read again (R498, R499). -/
def bobReread (c : Nat) (s : State) : State :=
  let x := s.bob c
  let w := getLE (memRead s.g.gm (32 * x.cur + 28) 4) 0 4
  if bitOf w 24 then s else bobFetch c (w % 2 ^ 19) s

/-- A channel parks: the channels that its completion triggers start, and a pending doorbell is taken (R493, R498). -/
def bobPark (c : Nat) (s : State) : State :=
  let s := setBob c { s.bob c with run := false, parked := true } s
  let s := (List.range 16).foldl (fun st k =>
    let y := st.bob k
    if k ≠ c ∧ y.trig = 3 ∧ y.src = c then bobStart k st else st) s
  let x := s.bob c
  if x.pend ∧ x.parked then bobReread c (setBob c { x with pend := false } s) else s

/-- After a descriptor the channel reads its chain word (R498). -/
def bobFollow (c : Nat) (s : State) : State :=
  let w := getLE (memRead s.g.gm (32 * (s.bob c).cur + 28) 4) 0 4
  if bitOf w 24 then bobPark c s else bobFetch c (w % 2 ^ 19) s

/-- Doorbell (R498, R499, R508): from an on-chip master; PCIe inbound's is discarded. -/
def bobRing (m c : Nat) (s : State) : State :=
  if m = 0 ∨ 16 ≤ c ∨ ¬ s.coreUp then s
  else
    let s := bump (0x5014 + 0x20 * c) 15 0 s
    let x := { s.bob c with doorbells := (s.bob c).doorbells + 1 }
    if x.run then bump (0x5014 + 0x20 * c) 31 16 (setBob c { x with pend := true, early := x.early + 1 } s)
    else if x.parked ∧ x.en then bobReread c (setBob c x s)
    else if x.trig = 0 then bobStart c (setBob c x s)
    else setBob c x s

/-- Firmware's configuration of a channel, as BOB_CFG and BOB_HEAD read it: counts restart when it is enabled, and a halt ends (R495,
R509; log 36). -/
def bobConfig (c : Nat) (cfg head : Word) (s : State) : State :=
  if 16 ≤ c then s
  else
    let x := s.bob c
    let fresh := bitOf cfg.toNat 0 && !x.en
    let y := if fresh then { BobCh.reset with last := x.last } else x
    setBob c { y with en := bitOf cfg.toNat 0, trig := wbits cfg 2 1, src := wbits cfg 6 3, haq := wbits cfg 31 16,
                      head := wbits head 18 0, halt := false } s

/-- The pick boundary (R493). -/
def bobPickMark (s : State) : State :=
  (List.range 16).foldl (fun st c => if (st.bob c).trig = 2 ∧ (st.bob c).haq = 0 then bobStart c st else st) s

/-! ### The Shuttle (R500–R506) -/

def State.level (s : State) (l : Nat) : Level := nget Level.reset s.g.levels l
def setLevel (l : Nat) (x : Level) (s : State) : State := setG (fun g => { g with levels := nset g.levels l x }) s
def State.flow (s : State) (f : Nat) : Flow := nget Flow.reset s.g.flows f
def setFlow (f : Nat) (x : Flow) (s : State) : State := setG (fun g => { g with flows := nset g.flows f x }) s
def State.exec? (s : State) (e : Nat) : Executor := nget Executor.reset s.g.ex e
def setExec (e : Nat) (x : Executor) (s : State) : State := setG (fun g => { g with ex := nset g.ex e x }) s

/-- One trace record into TRQ0 (R448, R463, R506). -/
def trace (kind slot ex lvl : Nat) (flow : Option (Nat × Nat)) (s : State) : State :=
  if s.g.traceEn && bitOf s.g.kinds (kind - 1) && bitOf s.g.levelMask lvl && s.ringOn 30 then
    let x := s.level lvl
    let r := leBytes 8 s.ns ++ a1 kind ++ a1 slot ++ a1 ex ++ a1 lvl ++ a1 (match flow with | some f => f.1 | none => 0xFF) ++ a1 0 ++
      a2 (x.hwq.length + x.spill.length)
    if (s.ring 30).room then
      let s := pushEntry 30 16 r s
      let q := s.ring 30
      let s := writeIndex 30 q.tail s
      if (q.tail + q.depth - q.head) % q.depth = q.depth / 2 then signal 5 s else s
    else bump (ringReg 30 0x1C) 31 16 s
  else s

/-- A post enters its level (R501): the hardware queue, behind it the spill ring, and behind that it waits unacknowledged. Its trace
records follow in decision order (R506). -/
def enterLevel (l : Nat) (p : Thread) (s : State) : State :=
  let x := s.level l
  let told := trace 1 p.slot 0xFF l p.flow
  if x.waiting = [] ∧ x.spill = [] ∧ x.hwq.length < 16 then told (setLevel l { x with hwq := x.hwq ++ [p] } s)
  else if x.waiting = [] ∧ x.spill.length < 4096 then
    trace 2 p.slot 0xFF l p.flow (told (bump 0x4008 15 0 (setLevel l { x with spill := x.spill ++ [p] } s)))
  else
    let s := told (setLevel l { x with waiting := x.waiting ++ [p], bpFrom := some (x.bpFrom.getD s.t.now) } s)
    if x.bpFrom.isNone then trace 8 p.slot 0xFF l p.flow (post 0x0809 l (a4 l) (bump 0x4008 31 16 s)) else s

/-- Refill of a level's hardware queue, and of its spill ring from the posts that wait (R501). -/
def refill (l : Nat) (s : State) : State :=
  let x := s.level l
  let s := match x.spill with
    | p :: r => if x.hwq.length < 16 then trace 3 p.slot 0xFF l p.flow (setLevel l { x with hwq := x.hwq ++ [p], spill := r } s) else s
    | [] => s
  let x := s.level l
  match x.waiting with
  | p :: r =>
    if x.spill.length < 4096 then
      let s := setLevel l { x with spill := x.spill ++ [p], waiting := r, bpFrom := if r = [] then none else x.bpFrom } s
      let s := bump 0x4008 15 0 s
      match r, x.bpFrom with
      | [], some t0 => trace 9 p.slot 0xFF l p.flow (post 0x080A l (a4 l ++ a4 ((s.t.now - t0) / usU)) s)
      | _, _ => s
    else s
  | [] => s

/-- Executors of an affinity. -/
def executorsFor (mp : Bool) : List Nat := if mp then [4] else [0, 1, 2, 3]

def State.slotMp (s : State) (slot : Nat) : Bool := (nget (0, false) s.g.slots slot).2

/-- An entry may be dispatched: its slot does not run, and its flow's window has room (R503, R505). -/
def State.ready (s : State) (p : Thread) : Bool :=
  !s.g.running.contains p.slot &&
    match p.flow with
    | some (f, q) => (s.flow f).opened.contains q || decide ((s.flow f).opened.length < 64)
    | none => true

/-- Ready entries in the order in which they are served: by level, then age. -/
def State.readyList (s : State) : List (Nat × Thread) :=
  (List.range 32).foldl (fun acc l =>
    let x := s.level l
    if x.susp = [] ∧ x.hwq = [] then acc else acc ++ ((x.susp ++ x.hwq).filter s.ready).map (fun p => (l, p))) []

/-- One entry taken by executor `e`. -/
def dispatchTo (e l : Nat) (p : Thread) (s : State) : State :=
  let x := s.level l
  let x := if x.susp.contains p then { x with susp := x.susp.erase p } else { x with hwq := x.hwq.erase p }
  let s := setLevel l x s
  let s := match p.flow with
    | some (f, q) => if (s.flow f).opened.contains q then s else setFlow f { s.flow f with opened := (s.flow f).opened ++ [q] } s
    | none => s
  let s := setG (fun g => { g with running := p.slot :: g.running }) (setExec e { cur := some (p, l), preempt := false } s)
  let s := if e < 4 then ungate e s else s
  refill l (trace 4 p.slot e l p.flow (bump 0x4004 31 0 s))

/-- Free executors are given work until none can be (R503). Which of several free ones takes an entry is free. -/
def dispatchAll : Nat → State → State
  | 0, s => s
  | n + 1, s =>
    match s.readyList.find? (fun x => (executorsFor (s.slotMp x.2.slot)).any (fun e => (s.exec? e).cur.isNone)) with
    | none => s
    | some (l, p) =>
      match (executorsFor (s.slotMp p.slot)).filter (fun e => (s.exec? e).cur.isNone) with
      | [] => s
      | [e] => dispatchAll n (dispatchTo e l p s)
      | es =>
        let (v, s) := draw s
        dispatchAll n (dispatchTo (lget 0 es (v.toNat % es.length)) l p s)

/-- The executor that an entry of level `l` preempts: the lowest level running, ties to the higher number (R503). -/
def State.victim (s : State) (es : List Nat) (l : Nat) : Option Nat :=
  es.foldl (fun best e =>
    match (s.exec? e).cur with
    | some (_, le) =>
      if le ≤ l ∨ (s.exec? e).preempt then best
      else match best with
        | some b => (match (s.exec? b).cur with | some (_, lb) => if lb ≤ le then some e else best | none => some e)
        | none => some e
    | none => best) none

/-- Preemptions asked for: one per ready entry that no pending preemption serves. -/
def preemptFor (mp : Bool) (s : State) : State :=
  let es := executorsFor mp
  let want := s.readyList.filter (fun x => s.slotMp x.2.slot == mp)
  let pend := (es.filter (fun e => (s.exec? e).preempt)).length
  (want.drop pend).foldl (fun st x =>
    match st.victim es x.1 with
    | some e => (match (st.exec? e).cur with
      | some (p, l) => trace 6 p.slot e l p.flow (setExec e { cur := some (p, l), preempt := true } st)
      | none => st)
    | none => st) s

/-- The Shuttle decides (R503). -/
def shuttleDecide (s : State) : State := preemptFor true (preemptFor false (dispatchAll 5 s))

/-- SHUTTLE_POST (R500, R501, R505). A slot comes into use with its first post, which tells its level and affinity (log 37). -/
def shuttlePost (slot level : Nat) (mp : Bool) (flow : Option Nat) (arg : Nat) (s : State) : State :=
  if ¬ s.coreUp ∨ 256 ≤ slot ∨ 32 ≤ level ∨ (match flow with | some f => decide (16 ≤ f) | none => false) = true then s
  else
    let s := if (nfind s.g.slots slot).isNone then setG (fun g => { g with slots := nset g.slots slot (level, mp) }) s else s
    let l := (nget (0, false) s.g.slots slot).1
    let (fl, s) := match flow with
      | some f => (some (f, (s.flow f).next), setFlow f { s.flow f with next := (s.flow f).next + 1 } s)
      | none => (none, s)
    let p : Thread := { slot := slot, flow := fl, arg := arg % 2 ^ 32 }
    shuttleDecide (enterLevel l p s)

/-- Finished entries of a flow released in order (R505), each traced under its own thread (R506). -/
def releaseFlow (f : Nat) : Nat → State → State
  | 0, s => s
  | n + 1, s =>
    let x := s.flow f
    match x.done.find? (fun d => d.1 == x.base) with
    | none => s
    | some d =>
      let s := setFlow f { x with base := x.base + 1, opened := x.opened.filter (fun q => q != x.base), done := x.done.filter (fun y => y.1 != x.base) } s
      releaseFlow f n (match d.2 with
        | some (slot, lvl) => trace 7 slot 0xFF lvl (some (f, x.base)) s
        | none => s)

/-- An entry of a flow has ended; a window of 64 is all that can be released with it. -/
def flowEnd (f q : Nat) (who : Option (Nat × Nat)) (s : State) : State :=
  releaseFlow f 65 (setFlow f { s.flow f with done := (q, who) :: (s.flow f).done } s)

/-- An object record takes the next sequence number of its ring's flow and is dispatched at once (03_objects R81). -/
def flowTake (f : Nat) (s : State) : State :=
  let x := s.flow f
  setFlow f { x with next := x.next + 1, opened := x.opened ++ [x.next] } s

/-- The window of a flow has room. -/
def State.flowRoom (s : State) (f : Nat) : Bool := decide ((s.flow f).opened.length < 64)

/-- SHUTTLE_THREAD_END (R505). -/
def threadEnd (e : Nat) (s : State) : State :=
  match (s.exec? e).cur with
  | none => s
  | some (p, l) =>
    let s := setG (fun g => { g with running := g.running.erase p.slot, idleSince := nset g.idleSince e s.t.now })
      (setExec e Executor.reset s)
    let s := trace 5 p.slot e l p.flow s
    let s := match p.flow with
      | some (f, q) => flowEnd f q (some (p.slot, l)) s
      | none => s
    shuttleDecide s

/-- SHUTTLE_PREEMPT_POINT (R503): the thread that gives way waits as the oldest of its level. -/
def preemptPoint (e : Nat) (s : State) : State :=
  let x := s.exec? e
  match x.cur with
  | some (p, l) =>
    if x.preempt then
      let v := s.level l
      shuttleDecide (setLevel l { v with susp := v.susp ++ [p] }
        (setG (fun g => { g with running := g.running.erase p.slot }) (setExec e Executor.reset s)))
    else s
  | none => s

/-- CONTROL_CORE_GATE (R490): the core has been idle with an empty queue for 1 ms. -/
def gateCore (k : Nat) (s : State) : State :=
  if k < 4 ∧ s.coreUp ∧ (s.exec? k).cur.isNone ∧ nget 0 s.g.idleSince k + msU ≤ s.t.now ∧
      ¬ s.readyList.any (fun x => !s.slotMp x.2.slot) then
    setG (fun g => { g with gated := nset g.gated k true }) s
  else s

end Sys2Proof.Machine
end

