-- ==== Sys2Proof/Machine/Sha.lean ====
section
/-!
DEFINITION. Sys2Proof/Machine/Sha.lean: SHA-256 and HMAC-SHA-256 (FIPS 180-4, RFC 2104), which 17_ledger_recorder R577 names.
-/
namespace Sys2Proof.Machine

/-- The largest r with r ^ k ≤ n and r < 2 ^ `bits` more than the start, found bit by bit from the highest. -/
def rootOf (k n : Nat) : Nat → Nat → Nat
  | 0, r => r
  | b + 1, r => rootOf k n b (if (r + 2 ^ b) ^ k ≤ n then r + 2 ^ b else r)

/-- Whether a number below 18 ^ 2 is a prime: nothing from 2 to 17 divides it but itself. -/
def isPrime (p : Nat) : Bool := decide (2 ≤ p) && (List.range 18).all (fun d => decide (d < 2) || decide (p ≤ d) || decide (p % d ≠ 0))

/-- The first 64 primes. -/
def firstPrimes : List Nat := (List.range 312).filter isPrime

/-- First 32 bits of the fractional part of the k-th root. -/
def rootFraction (k p : Nat) : Word := BitVec.ofNat 32 (rootOf k (p * 2 ^ (32 * k)) 37 0)

/-- The round constants of SHA-256: from the cube roots of the first 64 primes. -/
def shaK : List Word := firstPrimes.map (rootFraction 3)

/-- The initial hash value: from the square roots of the first eight. -/
def shaH0 : List Word := (firstPrimes.take 8).map (rootFraction 2)

/-- The message schedule grown to `n` more words, newest first. -/
def shaSchedule : Nat → List Word → List Word
  | 0, w => w
  | n + 1, w =>
    let a := lget 0 w 14
    let b := lget 0 w 1
    let s0 := a.rotateRight 7 ^^^ a.rotateRight 18 ^^^ (a >>> 3)
    let s1 := b.rotateRight 17 ^^^ b.rotateRight 19 ^^^ (b >>> 10)
    shaSchedule n ((lget 0 w 15 + s0 + lget 0 w 6 + s1) :: w)

/-- One round over the eight working words. -/
def shaRound (v : List Word) (kw : Word) : List Word :=
  match v with
  | [a, b, c, d, e, f, g, h] =>
    let t1 := h + (e.rotateRight 6 ^^^ e.rotateRight 11 ^^^ e.rotateRight 25) + ((e &&& f) ^^^ (~~~e &&& g)) + kw
    let t2 := (a.rotateRight 2 ^^^ a.rotateRight 13 ^^^ a.rotateRight 22) + ((a &&& b) ^^^ (a &&& c) ^^^ (b &&& c))
    [t1 + t2, a, b, c, d + t1, e, f, g]
  | v => v

/-- A big-endian word of a block. -/
def shaWord (block : List Byte) (i : Nat) : Word := BitVec.ofNat 32 (getBE block (4 * i) 4)

/-- One 64-byte block compressed into the hash value. -/
def shaBlock (h : List Word) (block : List Byte) : List Word :=
  let w := (shaSchedule 48 ((List.range 16).map (shaWord block)).reverse).reverse
  let v := (List.zipWith (· + ·) shaK w).foldl shaRound h
  List.zipWith (· + ·) h v

/-- All blocks, `n` of them. -/
def shaBlocks : Nat → List Byte → List Word → List Word
  | 0, _, h => h
  | n + 1, m, h => shaBlocks n (m.drop 64) (shaBlock h (m.take 64))

/-- SHA-256 of a message. -/
def sha256 (m : List Byte) : List Byte :=
  let padded := m ++ [0x80] ++ zeros ((119 - m.length % 64) % 64) ++ beBytes 8 (8 * m.length)
  (shaBlocks (padded.length / 64) padded shaH0).foldr (fun w acc => beBytes 4 w.toNat ++ acc) []

/-- HMAC-SHA-256 with a key of at most 64 bytes. -/
def hmac256 (key m : List Byte) : List Byte :=
  let k := fit 64 key
  sha256 (k.map (· ^^^ 0x5C) ++ sha256 (k.map (· ^^^ 0x36) ++ m))

end Sys2Proof.Machine
end

