-- ==== Sys2Proof/Machine/LedgerOps.lean ====
section
/-!
DEFINITION. Sys2Proof/Machine/LedgerOps.lean: the ledger's shared operations (17_ledger_recorder): regions and their sectors, records
and what is current, compaction, jobs of mirrored flash operations, tokens, and archive batches.
-/
namespace Sys2Proof.Machine

def setL (f : LdgS → LdgS) (s : State) : State := { s with l := f s.l }

/-- n rounded up to a multiple of 16 (R552). -/
def round16 (n : Nat) : Nat := (n + 15) / 16 * 16

/-- Bytes a record occupies (R552). -/
def recSize (len : Nat) : Nat := 16 + round16 (len + 4) + 16

/-- A record is valid if some channel's copy is (R549, R553). -/
def FlashRec.valid (r : FlashRec) : Bool := r.okA || r.okB

def State.region (s : State) (code : Nat) : Region := lget (Region.empty 0) s.l.regions code

/-- Erases that a region has seen. -/
def Region.eraseSum (r : Region) : Nat := r.used.foldl (fun n x => n + x.erases) (r.free.foldl (fun n x => n + x.2) 0)

/-- A region replaced; erases that this took are noted, and event 0x0B08 follows once per mount (R560). -/
def setRegion (code : Nat) (r : Region) (s : State) : State :=
  let n := r.eraseSum - (s.region code).eraseSum
  let now := s.l.cnt.seconds
  let s := setL (fun l => { l with
    regions := lset l.regions code r,
    erased := if n = 0 then l.erased else l.erased.filter (fun x => decide (now < x.2.1 + 86400)) ++ [(code, now, n)] }) s
  if n ≠ 0 ∧ s.l.mounted ∧ ¬ s.l.lifeWarned ∧ s.l.lifeMin < 10 then post 0x0B08 0 [] (setL (fun l => { l with lifeWarned := true }) s) else s

/-- Every record of a region, oldest sector first. -/
def Region.records (r : Region) : List FlashRec := r.used.foldl (fun acc x => acc ++ x.recs) []

/-- The valid record of highest SEQ with a type and key (R556). -/
def Region.current (r : Region) (typ key : Nat) : Option FlashRec :=
  (r.records.filter (fun x => x.valid && x.typ == typ && x.key == key)).foldl
    (fun best x => match best with
      | none => some x
      | some b => if b.seq < x.seq then some x else some b) none

/-- Fields of a set's close record (R563). -/
def closeMask (p : List Byte) : Nat := byteAt p 16
def closeParts (p : List Byte) : Nat := getLE p 20 4
def closeFirst (p : List Byte) : Nat := getLE p 24 8

/-- A close record stands if every part it names has a valid record in its SEQ range (R563). -/
def Region.complete (r : Region) (c : FlashRec) : Bool :=
  decide (closeMask c.payload = 0) ||
  allTo (closeParts c.payload) (fun i => r.records.any (fun x =>
    x.valid && x.typ == 4 && x.key == c.key * 1024 + i && decide (closeFirst c.payload ≤ x.seq) && decide (x.seq ≤ c.seq)))

/-- The close record that decides a set: of the valid ones, the newest whose parts are all there (R563). -/
def Region.setClose (r : Region) (n : Nat) : Option FlashRec :=
  (r.records.filter (fun x => x.valid && x.typ == 5 && x.key == n && r.complete x)).foldl
    (fun best x => match best with
      | none => some x
      | some b => if b.seq < x.seq then some x else some b) none

/-- Whether a record is still current, so that compaction keeps it (R557, R563): the newest of its key; in the sets region, a close
record or part of the newest complete version, or of a save in progress, whose parts are newer than every close record. -/
def Region.keeps (r : Region) (x : FlashRec) : Bool :=
  x.valid &&
  if x.typ = 5 then
    match r.setClose x.key with
    | some c => decide (c.seq = x.seq)
    | none => false
  else if x.typ = 4 then
    match r.setClose (x.key / 1024) with
    | some c =>
      (decide (closeMask c.payload ≠ 0) && decide (closeFirst c.payload ≤ x.seq) && decide (x.seq ≤ c.seq)) || decide (c.seq < x.seq)
    | none => true
  else match r.current x.typ x.key with
    | some c => decide (c.seq = x.seq)
    | none => false

/-- A record placed at the end of the newest sector. -/
def Region.append (r : Region) (x : FlashRec) : Region :=
  match r.used.getLast? with
  | some sec => { r with used := r.used.dropLast ++ [{ sec with tail := sec.tail + recSize x.payload.length, recs := sec.recs ++ [x] }] }
  | none => r

/-- Whether the newest sector has room for `need` bytes (R554). -/
def Region.fits (r : Region) (need : Nat) : Bool :=
  match r.used.getLast? with
  | some sec => decide (sec.tail + need ≤ 65536)
  | none => false

/-- The next erased sector opened, its header written with the opening second (R552, R554). -/
def Region.openNext (r : Region) (sec : Nat) : Region :=
  match r.free with
  | (id, er) :: f => { free := f, used := r.used ++ [{ id := id, erases := er, opened := sec, tail := 16, recs := [] }] }
  | [] => r

/-- A record as the channels in use hold it once it has been written on them (R548). -/
def FlashRec.on (ch : Bool × Bool) (x : FlashRec) : FlashRec := { x with okA := ch.1, okB := ch.2, differ := false }

/-- One record copied to the open sector, the next one opened when it does not fit. -/
def Region.copy (now : Nat) (ch : Bool × Bool) (r : Region) (x : FlashRec) : Region :=
  let r := if r.fits (recSize x.payload.length) then r else r.openNext now
  r.append (x.on ch)

/-- Some records of a sector are copied to the open sector, and the sector is erased, joining the rotation behind the erased ones. -/
def Region.vacate (now : Nat) (ch : Bool × Bool) (keep : FlashRec → Bool) (r : Region) (sec : Sector) : Region :=
  let r' := (sec.recs.filter keep).foldl (Region.copy now ch) { r with used := r.used.filter (fun x => x.id != sec.id) }
  { r' with free := r'.free ++ [(sec.id, sec.erases + 1)] }

/-- LEDGER_COMPACTION (R557): the oldest sector gives up its current records. -/
def Region.compact (now : Nat) (ch : Bool × Bool) (r : Region) : Region :=
  match r.used with
  | [] => r
  | old :: _ => r.vacate now ch r.keeps old

/-- The highest erase count of a region. -/
def Region.topErases (r : Region) : Nat := r.used.foldl (fun n x => max n x.erases) (r.free.foldl (fun n x => max n x.2) 0)

/-- Wear levelling (R558): a sector whose erase count trails the region's highest by more than 1,000 gives up its current records and
enters the rotation. Every batch of the archive is kept. -/
def Region.level (code now : Nat) (ch : Bool × Bool) (r : Region) : Region :=
  match r.used.dropLast.find? (fun x => decide (x.erases + 1000 < r.topErases)) with
  | some sec => if r.free.isEmpty then r else r.vacate now ch (if code = 3 then FlashRec.valid else r.keeps) sec
  | none => r

/-- The erased sectors a region keeps in reserve (R557); the boot records' two sectors keep one, to copy into. -/
def reserveOf (code : Nat) : Nat := if code = 0 then 1 else 2

/-- Room for `need` bytes, kept above the reserve by compaction, at most once per sector; the archive, a ring, erases its oldest
sector instead (R557, R559). -/
def makeRoom (code now : Nat) (ch : Bool × Bool) (need : Nat) : Nat → Region → Option Region
  | 0, _ => none
  | n + 1, r =>
    if r.fits need then some r
    else if reserveOf code < r.free.length then some (r.openNext now)
    else if code = 3 then
      match r.used with
      | [] => none
      | old :: rest => makeRoom code now ch need n { free := r.free ++ [(old.id, old.erases + 1)], used := rest }
    else if r.used.length ≤ 1 then none
    else makeRoom code now ch need n (r.compact now ch)

/-- Whole seconds of device time. -/
def State.seconds (s : State) : Nat := s.ns / 1000000000

/-- The channels in use (R550). -/
def State.channels (s : State) : Bool × Bool := (s.l.fa.state == 1, s.l.fb.state == 1)

/-- Room made in a region, its wear levelled, or none when its current records fill it (R557, R558). -/
def State.room (s : State) (code need : Nat) : Option State :=
  let r := (s.region code).level code s.seconds s.channels
  match makeRoom code s.seconds s.channels need (r.used.length + r.free.length + 1) r with
  | some r => some (setRegion code r s)
  | none => none

/-- Jobs wait in order; `write` jobs are those that R583 counts. -/
def addJob (j : LJob) (s : State) : State := setL (fun l => { l with jobs := l.jobs ++ [j] }) s

/-- Ledger writes that wait (R583). -/
def State.writesWaiting (s : State) : Nat := (s.l.jobs.filter (fun j => j.write)).length

/-- A record with the next SEQ. -/
def newRec (typ key : Nat) (payload : List Byte) (s : State) : FlashRec × State :=
  ({ typ := typ, key := key, seq := s.l.seq, payload := payload, okA := true, okB := true, differ := false },
   setL (fun l => { l with seq := l.seq + 1 }) s)

/-- The steps of R554 for one record. -/
def recordOps (region : Nat) (r : FlashRec) : List FlashOp := [.program region r, .commit region r]

/-- The ledger can be used: mounted on at least one channel (R550). -/
def State.ledgerUp (s : State) : Bool := s.l.mounted && (s.l.fa.state == 1 || s.l.fb.state == 1)

/-- The mount is still running, so ledger commands wait (R556). -/
def State.ledgerMounting (s : State) : Bool := s.l.mounting && !s.l.mounted

/-- A record appended as a job, or the event of R557 when the region is full. -/
def appendRecord (region typ key : Nat) (payload : List Byte) (after : AfterJob) (s : State) : Option State :=
  match s.room region (recSize payload.length) with
  | none => none
  | some s =>
    let (r, s) := newRec typ key payload s
    some (addJob { ops := recordOps region r, after := after, write := true } s)

/-- Region full (R557). -/
def regionFull (region : Nat) (s : State) : State := post 0x0B07 region [] s

/-- A record appended where no command waits for it: a full region is told by its event (R557). -/
def appendQuiet (region typ key : Nat) (payload : List Byte) (s : State) : State :=
  (appendRecord region typ key payload .nothing s).getD (regionFull region s)

/-! ### The boot record (R568) -/

def BootRecord.default : BootRecord :=
  { active := 0, trial := 0xFF, attempted := 0, subVendor := 0x1F3D, subId := 0xA024, latch := List.replicate 16 0 }

def BootRecord.bytes (b : BootRecord) : List Byte :=
  leBytes 1 b.active ++ leBytes 1 b.trial ++ leBytes 1 b.attempted ++ zeros 1 ++ leBytes 2 b.subVendor ++ leBytes 2 b.subId ++
    b.latch.foldr (fun x acc => leBytes 2 x ++ acc) []

def BootRecord.parse (p : List Byte) : BootRecord :=
  { active := byteAt p 0, trial := byteAt p 1, attempted := byteAt p 2, subVendor := getLE p 4 2, subId := getLE p 6 2,
    latch := (List.range 16).map (fun i => getLE p (8 + 2 * i) 2) }

/-- The current boot record; the default where the ledger holds none (log 14). -/
def State.boot (s : State) : BootRecord :=
  match (s.region 0).current 1 0 with
  | some r => BootRecord.parse r.payload
  | none => BootRecord.default

/-- A boot record that the management processor writes before it goes on (R568): committed at once. -/
def writeBoot (b : BootRecord) (s : State) : State :=
  match s.room 0 (recSize 40) with
  | none => regionFull 0 s
  | some s =>
    let (r, s) := newRec 1 0 b.bytes s
    setRegion 0 ((s.region 0).append (r.on s.channels)) s

/-! ### Firmware images (R567) -/

/-- The lowest security version an image may have. -/
def State.minSecVer (s : State) : Nat := max Config.minSecVer.toNat s.l.otpRaised

/-- Why an image is refused (18_power_modes R612): 1 header or length, 2 signature, 3 revoked key, 4 security version; none if valid. -/
def State.imageFault (s : State) (img : List Byte) : Option Nat :=
  let len := getLE img 12 4
  let key := byteAt img 16
  if getLE img 0 4 ≠ 0x4657494D ∨ 16777216 - 4096 < len ∨ img.length < 4096 + len ∨ 3 < key then some 1
  else if Config.signatureOk key (img.take 128 ++ (img.drop 4096).take len ++ (img.drop 128).take 96) = false then some 2
  else if Config.keyRevoked key then some 3
  else if getLE img 8 4 < s.minSecVer then some 4
  else none

/-- The image of a slot. -/
def State.slotImage (s : State) (k : Nat) : List Byte := if k = 0 then s.l.slotA.image else s.l.slotB.image

def State.slotValid (s : State) (k : Nat) : Bool := decide (k < 2) && (s.imageFault (s.slotImage k)).isNone

/-! ### Lifetime counters (R566) -/

/-- The 4,352-byte payload. -/
def Counters.bytes (c : Counters) : List Byte :=
  leBytes 8 c.seconds ++ leBytes 4 c.cycles ++ leBytes 4 c.takeovers ++ leBytes 4 c.demotions ++
    c.refLoss.foldr (fun x acc => leBytes 4 x ++ acc) [] ++ leBytes 4 c.overruns ++ leBytes 4 c.coreFaults ++ leBytes 4 c.flushes ++
    zeros 16 ++ (List.range 32).foldr (fun i acc => leBytes 4 (nget 0 c.hist i) ++ acc) [] ++ zeros 64 ++
    (List.range 512).foldr (fun i acc => leBytes 4 (nget 0 c.runS i) ++ acc) [] ++
    (List.range 512).foldr (fun i acc => leBytes 4 (nget 0 c.limS i) ++ acc) []

/-- Counters from a record's payload. -/
def Counters.parse (p : List Byte) : Counters :=
  { seconds := getLE p 0 8, cycles := getLE p 8 4, takeovers := getLE p 12 4, demotions := getLE p 16 4,
    refLoss := (List.range 4).map (fun i => getLE p (20 + 4 * i) 4), overruns := getLE p 36 4, coreFaults := getLE p 40 4,
    flushes := getLE p 44 4,
    hist := ((List.range 32).map (fun i => (i, getLE p (64 + 4 * i) 4))).filter (fun x => x.2 != 0),
    runS := ((List.range 512).map (fun i => (i, getLE p (256 + 4 * i) 4))).filter (fun x => x.2 != 0),
    limS := ((List.range 512).map (fun i => (i, getLE p (2304 + 4 * i) 4))).filter (fun x => x.2 != 0) }

def setCnt (f : Counters → Counters) (s : State) : State := setL (fun l => { l with cnt := f l.cnt }) s

/-! ### Archive batches (R574) -/

/-- The payload of an archive batch: first sequence, count, lost count, then the records. -/
def batchPayload (recs : List (Nat × EvRec)) (lost : Nat) : List Byte :=
  leBytes 8 (match recs with | (k, _) :: _ => k | [] => 0) ++ leBytes 2 recs.length ++ leBytes 2 (satN 0xFFFF lost) ++ zeros 4 ++
    recs.foldr (fun x acc => ({ x.2 with archived := true } : EvRec).bytes false ++ acc) []

/-- Closed records in RAM that are not archived, oldest first. -/
def State.closedWaiting (s : State) : List (Nat × EvRec) := s.ev.ram.filter (fun x => x.2.closed && !x.2.archived)

/-- Batches already on their way to the flash reach up to this sequence. -/
def State.archivePending (s : State) : Nat :=
  s.l.jobs.foldl (fun m j => match j.after with
    | .archived u _ => max m u
    | _ => m) 0

/-- One batch of at most 16 records queued; the records count as archived once it is committed. -/
def queueBatch (recs : List (Nat × EvRec)) (w : Option Waiter) (s : State) : State :=
  match recs.getLast? with
  | none => completeOpt w (.of stOK) s
  | some (k, _) =>
    match appendRecord 3 6 0 (batchPayload recs 0) (.archived (k + 1) w) s with
    | some s => s
    | none => completeOpt w (.of stLedgerFull) (regionFull 3 s)

/-- A list cut into runs of 16. -/
def chunks16 : Nat → List (Nat × EvRec) → List (List (Nat × EvRec))
  | 0, _ => []
  | n + 1, l => if l = [] then [] else l.take 16 :: chunks16 n (l.drop 16)

/-- Batches for all the given records queued, the last one carrying what follows. -/
def queueAll : List (List (Nat × EvRec)) → (State → State) → Option Waiter → State → State
  | [], done, _, s => done s
  | [b], _, w, s => queueBatch b w s
  | b :: r, done, w, s => queueAll r done w (queueBatch b none s)

/-- Closed records not yet archived nor on their way. -/
def State.toArchive (s : State) : List (Nat × EvRec) := s.closedWaiting.filter (fun x => decide (s.archivePending ≤ x.1))

/-- Records up to a sequence marked archived in RAM. -/
def markArchived (u : Nat) (s : State) : State :=
  { s with ev := { s.ev with ram := s.ev.ram.map (fun x => if x.1 < u ∧ x.2.closed then (x.1, { x.2 with archived := true }) else x) } }

/-- The archived record of a sequence number, from the batches in flash, oldest first. -/
def State.archivedRecord (s : State) (seq : Nat) : Option (List Byte) :=
  (s.region 3).records.foldl (fun acc r =>
    if r.valid ∧ getLE r.payload 0 8 ≤ seq ∧ seq < getLE r.payload 0 8 + getLE r.payload 8 2 then
      some (fit 32 (r.payload.drop (16 + 32 * (seq - getLE r.payload 0 8))))
    else acc) none

/-- The clearing of EVR_CLEAR (R579): records that closed meanwhile are archived first. Then the RAM is empty, and 0x0C02 with the nonce is the
first new record; what is staged follows it. -/
def clearRecorder (w : Waiter) (nonce : Nat) (s : State) : State :=
  let s := closeRecord s
  if s.toArchive ≠ [] then
    let v := queueAll (chunks16 256 s.toArchive) id none s
    if v.l.jobs.length = s.l.jobs.length then complete w (.of stLedgerFull) v
    else addJob { ops := [], after := .cleared w nonce, write := false } v
  else
    let s := { s with ev := { s.ev with ram := [] } }
    complete w (.of stOK) (writeRecord (newRecord 0x0C02 0 (a8 nonce) s) s)

/-! ### The end of a job -/

/-- What follows a job, but for FW_ACTIVATE, which restarts the control plane (18_power_modes R613). -/
def finishJob (a : AfterJob) (s : State) : State :=
  match a with
  | .nothing => s
  | .complete w r0 r1 => complete w (.of stOK r0 r1) s
  | .activate _ _ => s
  | .archived u w => completeOpt w (.of stOK) (markArchived u s)
  | .cleared w nonce => clearRecorder w nonce s
  | .erased _ w => complete w (.of stOK) (post 0x0D02 0 [] s)
  | .setSaved w _ => complete w (.of stOK) s
  | .verify w =>
    let img := s.slotImage s.p.fwSlot
    match s.imageFault img with
    | none => complete w (.of stOK (getLE img 4 4) (getLE img 8 4)) { s with p := { s.p with fwVerified := true } }
    | some r => complete w (.of stAuth r) s

/-- Jobs at the head that have nothing left to do end. -/
def settleJobs : Nat → State → State
  | 0, s => s
  | n + 1, s =>
    match s.l.jobs with
    | [] => s
    | j :: rest =>
      match j.ops, j.after with
      | [], .activate _ _ => s
      | [], a => settleJobs n (finishJob a (setL (fun l => { l with jobs := rest }) s))
      | _ :: _, _ => s

/-- A job joins the others; one with nothing to do ends as its turn comes. -/
def startJob (j : LJob) (s : State) : State := settleJobs (s.l.jobs.length + 1) (addJob j s)

/-! ### Mirrored reads, relocation and scrub (R549, R561, R562) -/

/-- Both channels are in use and hold the same, so that copies are compared. -/
def State.mirrored (s : State) : Bool := s.channels.1 && s.channels.2 && !s.l.rebuild

/-- A record whose copies do not agree (R549). -/
def FlashRec.bad (r : FlashRec) : Bool := !(r.okA && r.okB) || r.differ

/-- RELOCATION (R561): every valid record of a sector is copied to the open sector, whole on the channels in use, and the sector erased. -/
def relocateSector (now : Nat) (ch : Bool × Bool) (r : Region) (id : Nat) : Region :=
  match r.used.find? (fun x => x.id == id) with
  | none => r
  | some sec => r.vacate now ch FlashRec.valid sec

/-- A sector of a region relocated. -/
def relocate (code id : Nat) (s : State) : State := setRegion code (relocateSector s.seconds s.channels (s.region code) id) s

/-- A read that resolves a record by R549: a copy that is invalid or different counts a mismatch and relocates the sector. -/
def mirrorRead (code : Nat) (x : FlashRec) (s : State) : State :=
  if s.mirrored && x.bad then
    let s := bump 0x11010 23 16 s
    let s := if x.okA && x.okB then post 0x0B04 code [] s else s
    match (s.region code).used.find? (fun sec => sec.recs.any (fun y => y.seq == x.seq)) with
    | some sec => relocate code sec.id s
    | none => s
  else s

/-- Whether a scrub relocates a sector: a bad copy, or opened more than 5 years ago where device time is known (R562). -/
def State.scrubs (s : State) (sec : Sector) : Bool :=
  (s.mirrored && sec.recs.any (fun r => r.bad)) ||
  ((s.t.everSet || s.t.valid.any id) && decide (sec.opened + 5 * 31557600 < s.seconds))

/-! ### Tokens and the nonce (R577, R578) -/

/-- A new nonce replaces the old. -/
def newNonce (s : State) : State :=
  let n := Config.nonce s.freeCtr
  setL (fun l => { l with nonce := n.toNat, nonceRead := none }) { s with freeCtr := s.freeCtr + 1 }

/-- The message of R577. -/
def tokenMessage (op region nonce : Nat) : List Byte :=
  leBytes 1 op ++ leBytes 1 region ++ zeros 2 ++ leBytes 8 Config.serial.toNat ++ leBytes 8 nonce

/-- The token that the device expects. -/
def expectedToken (op region nonce : Nat) : List Byte := hmac256 (leBytes 32 Config.hmacKey.toNat) (tokenMessage op region nonce)

/-- A token is presented (R578): accepted, or AUTH_FAIL with its count and event; either way the nonce changes. During the 1 s hold
every token is refused. -/
def presentToken (op region : Nat) (token : List Byte) (s : State) : Bool × State :=
  if s.tokenHold then (false, bump 0x11028 7 0 (newNonce s))
  else if token = expectedToken op region s.l.nonce then (true, newNonce s)
  else
    let s := bump 0x11028 7 0 (newNonce s)
    (false, post 0x0D01 0 [] (setL (fun l => { l with authHold := some s.t.now }) s))

end Sys2Proof.Machine
end

