-- ==== Sys2Proof/Machine/TwinOps.lean ====
section
/-!
DEFINITION. Sys2Proof/Machine/TwinOps.lean: twin operation's shared operations (16_twin): roles and claims, the two heartbeat paths, state
frames and their comparison.
-/
namespace Sys2Proof.Machine

def setW (f : TwinS → TwinS) (s : State) : State := { s with w := f s.w }

/-! ### Claims and roles (R531–R533, R537–R541) -/

/-- A claim of an epoch and a rank (R531). -/
def claimOf (epoch rank : Nat) : Nat := epoch % 2 ^ 24 * 256 + rank % 256

/-- The unit is lead: with twin operation off, a unit in Lead is alone and acts as one (R512). -/
def State.isLead (s : State) : Bool := decide (s.w.role = 1) || (!s.w.en && decide (s.dataMode = .lead))

/-- A partner is present: not both paths lost (R542). -/
def State.peerUp (s : State) : Bool := s.w.en && (s.w.linkHb || s.w.pinHb)

/-- A higher epoch is known and kept in the ledger (R532). -/
def knowEpoch (e : Nat) (s : State) : State :=
  if s.w.epoch < e then
    appendQuiet 1 3 0 (leBytes 4 (e % 2 ^ 24)) (setW (fun w => { w with epoch := e % 2 ^ 24 }) s)
  else s

/-- The mode of the data plane follows the role. -/
def roleMode (r : Mode) (s : State) : State :=
  match s.m.mode with
  | .maintain => { s with m := { s.m with under := if s.m.under = .lead ∨ s.m.under = .shadow then r else s.m.under } }
  | .lead => { s with m := { s.m with mode := r } }
  | .shadow => { s with m := { s.m with mode := r } }
  | _ => s

/-- The unit takes the lead with epoch E + 1 (R532). -/
def takeLead (s : State) : State :=
  let e := s.w.epoch
  let s := if e = 2 ^ 24 - 1 then post 0x0A0F 0 [] s else knowEpoch (e + 1) s
  roleMode .lead (setW (fun w => { w with role := 1, claim := claimOf w.epoch w.rank, resync := [], ckpts := [] }) s)

/-- CLAIM_OWN driven high if R537 allows it now. -/
def raiseOwn (s : State) : State :=
  if s.isLead ∧ s.w.beating ∧ ¬ s.w.peerPin ∧ s.w.peerPinAt + 2 * usU ≤ s.t.now then
    setW (fun w => { w with own := true, bothAt := s.t.now }) s
  else s

/-- The pick of a takeover, swap or demotion (R544). -/
def markTake (p : Nat) (s : State) : State := setW (fun w => { w with takePick := p }) s

/-- A takeover or a swap into lead is counted (R544, 17_ledger_recorder R566). -/
def countTakeover (s : State) : State :=
  setCnt (fun c => { c with takeovers := satN 0xFFFFFFFF (c.takeovers + 1) }) (bump 0x10024 15 0 s)

/-- A handover that waits is cancelled (R546). -/
def cancelSwap (s : State) : State :=
  match s.w.swap with
  | some (_, w) => completeOpt w (.of stAborted) (setW (fun x => { x with swap := none }) s)
  | none => s

/-- Demotion to shadow with claim (epoch, 0) (R533, R537, R540). A handover that still waits has no lead to hand over (log 68). -/
def demote (epoch p : Nat) (s : State) : State :=
  let s := knowEpoch epoch (cancelSwap s)
  let s := setW (fun w => { w with role := 2, claim := claimOf epoch 0, own := false, frames := 0 }) s
  let s := setCnt (fun c => { c with demotions := satN 0xFFFFFFFF (c.demotions + 1) }) (bump 0x10024 31 16 s)
  post 0x0A06 0 [] (roleMode .shadow (markTake p s))

/-- A claim seen in a Selvedge frame or in a stream of a claim group (R532, R533). -/
def seeClaim (c : Nat) (s : State) : State :=
  let s := knowEpoch (c / 256) s
  if s.w.en ∧ s.w.role = 1 ∧ s.w.claim < c then demote (c / 256) s.m.pick s else s

/-- The partner has failed (R530, R539): a shadow takes over from the first render pick that starts after now. -/
def partnerFailed (s : State) : State :=
  let s := cancelSwap (setW (fun w => { w with peerReady := false }) s)
  if s.w.role = 2 then
    let p := s.pickNow + 1
    post 0x0A05 0 [] (raiseOwn (markTake p (countTakeover (takeLead s))))
  else s

/-- The pick of a handover has come (R540): the shadow takes the lead, the lead demotes. -/
def handover (p : Nat) (s : State) : State :=
  match s.w.swap with
  | none => s
  | some (q, w) =>
    if p < q then s
    else
      let s := setW (fun x => { x with swap := none }) s
      if s.w.role = 2 then raiseOwn (markTake p (countTakeover (takeLead s)))
      else completeOpt w (.atPick p) (demote (s.w.epoch) p s)

/-- A unit enters Lead or Shadow with twin operation enabled: it listens (R541). -/
def startListening (s : State) : State :=
  if s.w.en then setW (fun w => { w with role := 3, claim := 0, listenFrom := s.t.now }) s else s

/-- The listening ends with a role (R541). -/
def endListening (peerStrap : Bool) (s : State) : State :=
  if s.w.role = 3 ∧ s.w.listenFrom + 2 * msU ≤ s.t.now then
    let strap := bitOf s.p.straps 2
    let lead := if s.peerUp then
        if s.w.peerClaim % 256 ≠ 0 then false
        else if s.w.peerListens then (if strap = peerStrap then decide (s.w.peerRank < s.w.rank) else strap)
        else true
      else true
    if lead then post 0x0A01 0 (a1 1) (raiseOwn (takeLead s))
    else
      let e := s.w.peerClaim / 256
      post 0x0A01 0 (a1 2) (roleMode .shadow (setW (fun w => { w with role := 2, claim := claimOf e 0, frames := 0 }) (knowEpoch e s)))
  else s

/-! ### Heartbeats (R517, R528, R529) -/

/-- A due instant's count. -/
def dueOf (t : Nat) : Nat := t / (50 * usU)

/-- The engines whose completion a pick needs in the mode (02_pick_budget R49). -/
def State.neededEngines (s : State) : List Nat :=
  if s.m.leadOut then [] else if s.rendering then [0, 1, 2, 3, 4, 5, 6, 7] else [0, 4, 5]

/-- Every engine has finished the pick in progress. -/
def State.pickDone (s : State) : Bool := s.neededEngines.all (fun e => (lget EngineUse.none s.b.cur e).finished)

/-- The pick-completion signal has been seen for every render pick whose deadline is at or before `tU` (R528). A pick whose engines
stopped at their deadline ended there with its reports (02_pick_budget R51, R56). -/
def State.picksComplete (s : State) (tU : Nat) : Bool :=
  let n := pickOf s.fs s.t.pickLen tU
  s.m.dpRun && (decide (n ≤ s.m.pick) || (decide (n = s.m.pick + 1) && s.pickDone))

/-- What the unit says in a heartbeat frame (R517). -/
def State.heartbeat (s : State) : Heartbeat :=
  { claim := s.w.claim, mode := s.m.mode.code, rate96 := s.t.rate96, pickLen := s.t.pickLen, done := if s.m.dpRun ∧ s.pickDone then s.m.pick else s.m.pick - 1,
    ready := decide (s.w.role = 2) && s.peerUp && !s.w.incompat && !s.w.diverged && !s.w.drift && decide (s.w.resync = []) && decide (s.w.frames = 16),
    handover := (match s.w.swap with | some (q, _) => if s.w.role = 1 then some q else none | none => none),
    listens := decide (s.w.role = 3), role := s.w.role, asks := s.w.resync.take 8,
    reset := s.isLead && s.field 0x1004 11 11 == 1 && (match s.w.lostAt with
      | some a => decide (a + 10 * msU ≤ s.t.now) && decide (s.t.now ≤ a + 10 * msU + secU)
      | none => false) }

/-- The shadow is ready (R527). -/
def State.twinReady (s : State) : Bool := s.heartbeat.ready

/-- HEARTBEAT_DUE (R528): HB_OUT toggles while the picks complete, in every mode and with the twin off too (01_architecture R26). -/
def heartbeatDue (s : State) : State :=
  if s.t.now % (50 * usU) ≠ 0 then s
  else if s.picksComplete (s.t.now - 50 * usU) then
    setW (fun w => { w with beating := true, hbOut := !w.hbOut, beatAt := s.t.now, hbSent := if w.en then some s.heartbeat else w.hbSent }) s
  else setW (fun w => { w with beating := false, own := false }) s

/-- A path has received (R529): path 0 the link, 1 the pin. -/
def pathHeard (path : Nat) (s : State) : State :=
  let k := dueOf s.t.now
  let was := if path = 0 then s.w.linkHb else s.w.pinHb
  let s := if path = 0 then setW (fun w => { w with linkDue := k, linkMiss := 0, linkHb := true }) s
           else setW (fun w => { w with pinDue := k, pinMiss := 0, pinHb := true }) s
  let s := setW (fun w => { w with lostAt := none }) s
  if was then s else post 0x0A04 path [] s

/-- HEARTBEAT_MISSING (R529, R530): the heartbeat due at t is judged at t + 5 µs; one that arrives at that instant comes first (13_time R422). -/
def heartbeatMissing (path : Nat) (s : State) : State :=
  let k := (s.t.now - 5 * usU) / (50 * usU)
  let last := if path = 0 then s.w.linkDue else s.w.pinDue
  if ¬ s.w.en ∨ s.t.now < 5 * usU ∨ k ≤ last then s
  else
    let s := if path = 0 then bump 0x1000C 15 0 (setW (fun w => { w with linkDue := k, linkMiss := w.linkMiss + 1 }) s)
             else bump 0x1000C 31 16 (setW (fun w => { w with pinDue := k, pinMiss := w.pinMiss + 1 }) s)
    let n := if path = 0 then s.w.linkMiss else s.w.pinMiss
    let up := if path = 0 then s.w.linkHb else s.w.pinHb
    if 3 ≤ n ∧ up then
      let s := if path = 0 then setW (fun w => { w with linkHb := false }) s else setW (fun w => { w with pinHb := false }) s
      let s := post 0x0A03 path [] s
      if s.w.linkHb ∨ s.w.pinHb then s else partnerFailed (setW (fun w => { w with lostAt := some s.t.now }) s)
    else s

/-- HEARTBEAT_FRAME_RX (R512, R513, R517, R529, R533, R540). -/
def heartbeatRx (hb : Heartbeat) (s : State) : State :=
  if ¬ s.w.en then s
  else
    let s := pathHeard 0 s
    let bad := decide (hb.rate96 ≠ s.t.rate96) || decide (hb.pickLen ≠ s.t.pickLen)
    let s := if bad && !s.w.incompat then post 0x0A0E 0 [] s else s
    let s := setW (fun w => { w with
      incompat := bad, peerClaim := hb.claim, peerListens := hb.listens, peerReady := hb.ready,
      resetAsk := if hb.reset && decide (w.claim < hb.claim) then w.resetAsk + 1 else 0,
      asked := ((w.asked.filter (fun k => !hb.asks.contains k)) ++ hb.asks.take 8) }) s
    let s := match hb.handover with
      | some q => if s.w.role = 2 ∧ s.w.swap.isNone then setW (fun w => { w with swap := some (q, none) }) s else s
      | none => s
    seeClaim hb.claim s

/-- HB_IN_EDGE (R529). -/
def hbInEdge (s : State) : State := if s.w.en then pathHeard 1 s else s

/-! ### State frames (R518–R527) -/

/-- CRC-32C of words, little-endian. -/
def crcWords (n : Nat) (ws : List Nat) : Nat := crc32c (ws.foldr (fun w acc => leBytes n w ++ acc) [])

/-- Output CRCs of the pick that has ended: blocks of 64 render outputs over its samples (R518). -/
def State.outCrcs (s : State) : List Nat :=
  (List.range (if s.t.rate96 then 4 else 8)).map (fun b =>
    crcWords 4 ((List.range 64).foldr (fun i acc =>
      (List.range s.t.pickLen).map (fun k => unsignedOf 32 (lget 0 (nget [] s.r.outs (64 * b + i)) k)) ++ acc) []))

/-- Checkpoint CRCs of the pick that has ended, by instance (R518). -/
def State.batCrcs (s : State) (p : Nat) : List (Nat × Nat) :=
  (List.range 32).foldr (fun l acc =>
    ((List.range (s.instCount l)).filterMap (fun i =>
      match nfind (s.lcore l).slots (2 * i + p % 2) with
      | some z => if z.valid ∧ z.tag = p then some (16 * l + i, crcWords 8 z.words) else none
      | none => none)) ++ acc) []

/-- Identifiers of the active sets, and of the swaps accepted for later picks with their pick (R518): 0 layout, 1 route set, 2 Reed bank,
3 filter-chain bank, 4 + l the program of logical core l. -/
def State.versionList (s : State) : List (Nat × Nat × Nat) :=
  let fchId := fun (b : Option FchBank) => match b with | some x => x.id | none => 0
  [(0, s.x.active.id, 0), (1, s.d.active.id, 0), (2, (if s.r.active = 0 then s.r.bankA.id else s.r.bankB.id), 0),
   (3, fchId (if s.f.active = 0 then s.f.bankA else s.f.bankB), 0)] ++
  ((List.range 32).filter (fun l => (s.lcore l).runs)).map (fun l => (4 + l, s.progId l, 0)) ++
  (match s.f.swap with
    | some (k, _) => [(3, fchId (if s.f.active = 0 then s.f.bankB else s.f.bankA), k / s.t.pickLen)]
    | none => []) ++
  s.sched.filterMap (fun c => match c.chg with
    | .layoutSwap _ => some (0, (match s.x.inactive with | some y => if s.x.loaded then y.id else 0 | none => 0), c.pick)
    | .routeSwap => some (1, (match s.d.inactive with | some y => if s.d.loaded then y.id else 0 | none => 0), c.pick)
    | .bankSwap _ _ => some (2, (if s.r.active = 0 then s.r.bankB.id else s.r.bankA.id), c.pick)
    | .batStart l => some (4 + l, (match s.startable l with | some y => y.id | none => 0), c.pick)
    | _ => none)

/-- Entries of the last few picks kept. -/
def keepRecent {α : Type} (p : Nat) (m : NMap α) : NMap α := m.filter (fun x => decide (p < x.1 + 8))

/-- What frames of pick `p` are compared with, taken at its end. -/
def twinRecord (p : Nat) (s : State) : State :=
  if s.w.en then
    let o := s.outCrcs
    let b := s.batCrcs p
    let v := s.versionList
    setW (fun w => { w with outCrc := nset (keepRecent p w.outCrc) p o, batCrc := nset (keepRecent p w.batCrc) p b,
                            versions := nset (keepRecent p w.versions) p v, adopt := keepRecent p w.adopt }) s
  else s

/-- The state frame of pick `p` that a lead sends (R518): `objs` are the entries for pick p + 2. -/
def sendFrame (p : Nat) (objs : List (List Byte)) (s : State) : State :=
  if s.w.en ∧ s.w.role = 1 then
    let asked := (s.w.asked.drop (s.w.asked.length - s.t.pickLen / 2))
    let f : StateFrame := {
      pick := p, claim := s.w.claim, objects := objs, versions := nget [] s.w.versions p, outCrcs := nget [] s.w.outCrc p,
      batCrcs := nget [] s.w.batCrc p,
      ckpts := asked.filterMap (fun i => match nfind (s.lcore (i / 16)).slots (2 * (i % 16) + p % 2) with
        | some z => if z.valid ∧ z.tag = p then some (i, z.words) else none
        | none => none) }
    setW (fun w => { w with sent := some f, framePick := p, asked := asked }) s
  else s

/-- The first set whose versions differ (R522). -/
def firstDiff (a b : List (Nat × Nat × Nat)) : Option Nat :=
  match (a.filter (fun x => !b.contains x)) ++ (b.filter (fun x => !a.contains x)) with
  | [] => none
  | x :: r => some (r.foldl (fun m y => min m y.1) x.1)

/-- Output comparison (R526). -/
def compareOutputs (own lead : List Nat) (s : State) : State :=
  let bad := (List.range own.length).filter (fun b => decide (lget 0 own b ≠ lget 0 lead b))
  if bad = [] then
    if s.w.drift then
      if s.w.quiet + 1 = 16 then
        let n := s.w.episode
        post 0x0A08 0 (a2 (satN 0xFFFF n)) (setW (fun w => { w with drift := false, quiet := 0, episode := 0 }) s)
      else setW (fun w => { w with quiet := w.quiet + 1 }) s
    else s
  else
    let s := setReg 0x10018 (BitVec.ofNat 32 (bad.foldl (fun a b => a + 2 ^ b) 0)) (bump 0x10014 15 0 s)
    let first := !s.w.drift
    let s := setW (fun w => { w with drift := true, quiet := 0, episode := w.episode + 1, driftTotal := w.driftTotal + 1 }) s
    if first then post 0x0A07 0 [] s else s

/-- The unit runs a Batten instance, by 16 × logical core + instance: it has a checkpoint of each pick that it completes. -/
def State.runsInstance (s : State) (k : Nat) : Bool := (s.lcore (k / 16)).runs && decide (k % 16 < s.instCount (k / 16))

/-- STATE_FRAME_RX (R515, R521–R526). -/
def stateFrameRx (seq : Nat) (f : StateFrame) (s : State) : State :=
  if ¬ s.w.en ∨ s.w.broken.contains seq then setW (fun w => { w with broken := w.broken.filter (fun k => k != seq) }) s
  else
    let s := seeClaim f.claim (setW (fun w => { w with peerClaim := f.claim }) s)
    -- complete only at or before the pick-start mark of pick p + 2 (R519)
    if s.w.role ≠ 2 ∨ s.pickAt (f.pick + 2) < s.t.now then s
    else
      let lat := (s.t.now - s.pickAt (f.pick + 1)) / (100 * nsU)
      let s := putField 0x10028 15 0 (satN 0xFFFF lat) s
      let s := setW (fun w => { w with framePick := f.pick, frames := min 16 (w.frames + 1),
                                       adopt := nset w.adopt (f.pick + 2) f.objects }) s
      let s := match nfind s.w.versions f.pick with
        | none => s
        | some v => match firstDiff v f.versions with
          | some k =>
            let s := if s.w.diverged then s else post 0x0A09 0 (a4 k) s
            setW (fun w => { w with diverged := true }) s
          | none => setW (fun w => { w with diverged := false }) s
      let s := match nfind s.w.batCrc f.pick with
        | none => s
        | some own =>
          let diff := (f.batCrcs.filter (fun x => s.runsInstance x.1 && !own.contains x)).map (fun x => x.1)
          setW (fun w => { w with resync := w.resync ++ diff.filter (fun i => !w.resync.contains i) }) s
      let s := setW (fun w => { w with ckpts := (f.ckpts.filter (fun x => w.resync.contains x.1)).foldl
                                         (fun m x => nset m x.1 (f.pick, x.2)) w.ckpts }) s
      match nfind s.w.outCrc f.pick with
      | none => s
      | some own => compareOutputs own f.outCrcs s

/-- STATE_FRAME_MISSED (R519), judged at the pick-start mark of pick p + 2. A pick that is not compared is no matching one (R526). -/
def stateFrameMissed (p : Nat) (s : State) : State :=
  if s.w.en ∧ s.w.role = 2 ∧ p + 2 = s.pickNow ∧ (nfind s.w.adopt (p + 2)).isNone then
    post 0x0A0B 0 [] (bump 0x10010 15 0 (setW (fun w => { w with frames := 0, quiet := 0 }) s))
  else s

/-- SELVEDGE_SEGMENT_RX (R515). -/
def segmentRx (seq : Nat) (ok : Bool) (s : State) : State :=
  if s.w.en ∧ ¬ ok then
    bump 0x10010 31 16 (setW (fun w => { w with broken := if w.broken.contains seq then w.broken else (seq :: w.broken).take 16 }) s)
  else s

/-- A lane goes down or up (R516). -/
def laneChange (lane : Nat) (up : Bool) (s : State) : State :=
  if lane < 2 ∧ lget false s.w.lanes lane ≠ up then
    post (if up then 0x0A0D else 0x0A02) lane (a1 lane) (setW (fun w => { w with lanes := lset w.lanes lane up }) s)
  else s

/-! ### Claim pins (R537) -/

/-- CLAIM_PEER changes level. -/
def claimPeerChange (high : Bool) (s : State) : State :=
  if s.w.peerPin = high then s else setW (fun w => { w with peerPin := high, peerPinAt := s.t.now, bothAt := s.t.now }) s

/-- CLAIM_CONFLICT: both claims high for 1 µs; the lower rank gives way. -/
def claimConflict (s : State) : State :=
  if s.w.own ∧ s.w.peerPin ∧ s.w.bothAt + usU ≤ s.t.now ∧ s.w.rank < s.w.peerRank then
    (if s.w.en then demote s.w.epoch s.m.pick s else setW (fun w => { w with own := false }) s)
  else s

end Sys2Proof.Machine
end

