-- ==== Sys2Proof/Machine/PortOps.lean ====
section
/-!
DEFINITION. Sys2Proof/Machine/PortOps.lean: the AES3 and TDM ports' shared operations (11_audio_ports; 07_heddle R240–R244): frame grids,
delivery with slips, receivers, cut-through, output states, alignment groups and configuration records. Ports are numbered 0–7 for TDM
and 8–23 for AES3.
-/
namespace Sys2Proof.Machine

/-! ### Frame grids (R344) -/

/-- Start of frame m at rate `fp` with an offset in 1/512 frame. -/
def frameStart (fp ofs m : Nat) : Nat := (m * 512 + ofs) * 65536 * 1000000000 / (512 * fp)

/-- The first frame that starts at or after a device time. -/
def firstFrame (fp ofs tU : Nat) : Nat :=
  let e := tU * fp / (65536 * 1000000000) - 2
  ((List.range 6).find? (fun i => decide (tU ≤ frameStart fp ofs (e + i)))).getD 6 + e

/-- The frame that starts at a device time: the last one that started at or before it. -/
def frameAt (fp ofs tU : Nat) : Nat := firstFrame fp ofs (tU + 1) - 1

def State.rx (s : State) (p : Nat) : AesRx := nget AesRx.reset s.a.rx p
def State.tin (s : State) (p : Nat) : TdmIn := nget TdmIn.reset s.a.tin p
def State.dir (s : State) (p : Nat) : OutDir := nget OutDir.reset s.a.out p
def State.tx (s : State) (p : Nat) : AesTx := nget AesTx.reset s.a.tx p
def State.chk (s : State) (k : Nat) : SlaveChk := nget SlaveChk.reset s.a.slave k
def State.grp (s : State) (g : Nat) : Group := nget Group.reset s.a.groups g
def setRx (p : Nat) (x : AesRx) (s : State) : State := setA (fun a => { a with rx := nset a.rx p x }) s
def setTin (p : Nat) (x : TdmIn) (s : State) : State := setA (fun a => { a with tin := nset a.tin p x }) s
def setDir (p : Nat) (x : OutDir) (s : State) : State := setA (fun a => { a with out := nset a.out p x }) s
def setChk (k : Nat) (x : SlaveChk) (s : State) : State := setA (fun a => { a with slave := nset a.slave k x }) s
def setTx (p : Nat) (x : AesTx) (s : State) : State := setA (fun a => { a with tx := nset a.tx p x }) s
def setGrp (g : Nat) (x : Group) (s : State) : State := setA (fun a => { a with groups := nset a.groups g x }) s

/-- Rate, offset and destination codes of an output port. -/
def State.outRate (s : State) (p : Nat) : Nat :=
  if p < 8 then s.rateOr (tdmRate (s.tdm p).outRate) else s.rateOr (aesRate (s.aes (p - 8)).txRate)
def State.outOfs (s : State) (p : Nat) : Nat := if p < 8 then (s.tdm p).outOfs else (s.aes (p - 8)).ofs

/-- Slots of a TDM frame at a rate (R343). -/
def slotsAt (fp : Nat) : Nat := if fp ≤ 48000 then 16 else 8

def State.outCodes (s : State) (p : Nat) : List Nat :=
  if p < 8 then (List.range (slotsAt (s.outRate p))).map (fun i => 0x600 + 16 * p + i)
  else [0x680 + 2 * (p - 8), 0x681 + 2 * (p - 8)]

/-- Source codes of an input port. -/
def State.inCodes (s : State) (p : Nat) : List Nat :=
  if p < 8 then (List.range (slotsAt s.fs)).map (fun i => 16 * p + i) else [0x80 + 2 * (p - 8), 0x81 + 2 * (p - 8)]

/-! ### Slips and delivery (R349, R351) -/

/-- One slip: direction 0 in or 1 out, kind 0 underrun or 1 overrun. -/
def slip (p dir kind index : Nat) (s : State) : State :=
  let s := if p < 8 then
      if dir = 1 then bump (0xC040 + 4 * p) 31 24 s else if kind = 0 then bump (0xC040 + 4 * p) 15 8 s else bump (0xC040 + 4 * p) 23 16 s
    else
      let o := 0xB0C0 + 4 * (p - 8)
      if dir = 1 then bump o 23 16 s else if kind = 0 then bump o 7 0 s else bump o 15 8 s
  post 0x0306 p (a1 p ++ a1 dir ++ a1 kind ++ a8 index) s

/-- The input carries audio: a running TDM input past its first real frame and not unrelated; a receiver not muted. -/
def State.inputLive (s : State) (p k : Nat) : Bool :=
  if p < 8 then (s.tin p).run && !(s.tin p).unrelated && decide ((s.tin p).first ≤ k) else !(s.rx (p - 8)).muted

/-- The input takes frames, so that it can slip. -/
def State.inputOn (s : State) (p : Nat) : Bool :=
  if p < 8 then (s.tin p).run && !(s.tin p).unrelated else (s.rx (p - 8)).lock

def State.inputNext (s : State) (p : Nat) : Nat := if p < 8 then (s.tin p).next else (s.rx (p - 8)).next
def setNext (p k : Nat) (s : State) : State :=
  if p < 8 then setTin p { s.tin p with next := k } s else setRx (p - 8) { s.rx (p - 8) with next := k } s

/-- Sample k of an input's channels put into the pick that captures it; earlier samples of the pick that nothing delivered are zero. -/
def capPut (p k : Nat) (vals : List Int) (s : State) : State :=
  let base := s.m.pick * s.t.pickLen
  if s.m.dpRun ∧ base ≤ k then
    (List.zip (s.inCodes p) vals).foldl (fun st cv =>
      setD (fun d =>
        let l := nget [] d.cap cv.1
        { d with cap := nset d.cap cv.1 (l ++ List.replicate (k - base - l.length) 0 ++ (if k - base < l.length then [] else [cv.2 * 16])) }) st) s
  else s

/-- The last sample that an input accepted, 24 bits. -/
def State.lastIn (s : State) (c : Nat) : Int := nget 0 s.d.lastCap c / 16

/-- What an input delivers for sample k: the last accepted samples, or zero while it is muted (R349, R353, R357). -/
def State.delivered (s : State) (p k : Nat) : List Int :=
  (s.inCodes p).map (fun c => if s.inputLive p k then s.lastIn c else 0)

/-- Samples up to `k` that no frame delivered: each an underrun (R349). -/
def underrunTo (p k : Nat) (s : State) : State :=
  let n0 := s.inputNext p
  (List.range (min (k - n0) 64)).foldl (fun st i =>
    let j := k - min (k - n0) 64 + i
    setNext p (j + 1) (capPut p j (st.delivered p j) (slip p 0 0 j st))) s

/-! ### What an output's balls carry (R346, R359) -/

/-- A word as bits, most significant first. -/
def msbBits (n : Nat) (v : Nat) : List Bool := ((List.range n).map (fun i => bitOf v i)).reverse

/-- A TDM slot: 24 bits of the sample, most significant first, and 8 bits of 0. -/
def slotBits (v : Int) : List Bool := msbBits 24 (unsignedOf 24 v) ++ List.replicate 8 false

/-- The frame sync at bit clock `i` of a frame of `n` (R346): high for one bit clock or for the first half of the frame, one bit clock before
the frame with FS_DELAY, inverted with FS_POL. -/
def syncBit (c : TdmCfg) (n i : Nat) : Bool :=
  let j := if c.fsDelay then (i + 1) % n else i
  (if c.fsWidth then decide (j < n / 2) else decide (j = 0)) != c.fsPol

/-- Time slots 4–31 of a subframe: the sample, least significant bit first, V = 0, U, C and even parity (R359; log 88). -/
def subframeBits (v : Int) (u c : Bool) : List Bool :=
  let b := (List.range 24).map (fun i => bitOf (unsignedOf 24 v) i) ++ [false, u, c]
  b ++ [b.foldl (fun p x => p != x) false]

/-- The balls of output `p` while it sends these words (and, for a transmitter, C, UA, UB and Z after them). -/
def State.wireOf (s : State) (p : Nat) (ws : List Int) : Wire :=
  if p < 8 then
    let n := 32 * ws.length
    { data := (ws.map slotBits).flatten, sync := (List.range n).map (syncBit (s.tdm p) n), rising := (s.tdm p).bclkEdge }
  else
    let on := fun i => decide (lget 0 ws i ≠ 0)
    { data := subframeBits (lget 0 ws 0) (on 3) (on 2) ++ subframeBits (lget 0 ws 1) (on 4) (on 2), sync := [on 5], rising := false }

/-- The output sends these words in the frame that has begun. -/
def putSent (p : Nat) (ws : List Int) (s : State) : State :=
  setA (fun a => { a with sent := nset a.sent p ws, wire := if ws = [] then ndel a.wire p else nset a.wire p (s.wireOf p ws) }) s

/-- The direction carries audio in frame m. -/
def State.outLive (s : State) (d : OutDir) (m : Nat) : Bool := decide (d.st = 2) && decide (d.firstReal ≤ m) && !d.unrelated && !s.m.leadOut

/-! ### Cut-through (07_heddle R240–R244) -/

/-- Place of a source or destination channel of a port: the port and its slot. -/
def portSlot (c : Nat) : Option (Nat × Nat) :=
  if c < 0x80 then some (c / 16, c % 16) else if 0x80 ≤ c ∧ c < 0xA0 then some (8 + (c - 0x80) / 2, c % 2)
  else if 0x600 ≤ c ∧ c < 0x680 then some ((c - 0x600) / 16, c % 16)
  else if 0x680 ≤ c ∧ c < 0x6A0 then some (8 + (c - 0x680) / 2, c % 2) else none

/-- Slots of a port's frame. -/
def State.slots (s : State) (p : Nat) : Nat := if p < 8 then slotsAt s.fs else 2

/-- The output frame of a cut-through sample of input frame k whose slot ended at `tin` (R242): frame k if its slot starts at least 36 ns
later, and otherwise the next. -/
def State.cutFrame (s : State) (po so k tin : Nat) : Nat :=
  if tin + 36 * nsU ≤ frameStart s.fs (s.outOfs po) k + 65536 * 1000000000 / s.fs * so / s.slots po then k else k + 1

/-- A cut-through sample takes its slot of the frame being sent, or waits for its frame. A resampler channel's target takes none
(08_filter_chain R261). -/
def cutPut (k tin : Nat) (e : RouteEnt) (v : Int) (s : State) : State :=
  match portSlot e.dst with
  | none => s
  | some (po, so) =>
    let f := s.cutFrame po so k tin
    let d := s.dir po
    if s.isTarget e.dst then s
    else if d.frame < f then
      setA (fun a => { a with cutNext := a.cutNext.filter (fun x => !(decide (x.2.1 = e.dst) && (decide (x.1 < k) || decide (x.1 = f)))) ++ [(f, e.dst, e.cutWord v)] }) s
    else if d.frame = f ∧ s.outLive d f then putSent po (lset (nget [] s.a.sent po) so (e.cutWord v)) s
    else s

/-- The cut-through entries fed by an input port's frame k, whose slots ended at the given instants. -/
def cutThrough (p k : Nat) (vals : List Int) (ends : List Nat) (s : State) : State :=
  (List.zip (s.inCodes p) (List.zip vals ends)).foldl (fun st cv =>
    ((st.cutsAt k).filter (fun e => decide (e.src = cv.1))).foldl (fun st e => cutPut k cv.2.2 e cv.2.1 st) st) s

/-- What a cut-through entry delivers into an output's frame m for which no sample waits (R244): the last sample that its input accepted,
or exact zero while the input is muted. -/
def State.cutRest (s : State) (m : Nat) (e : RouteEnt) : Int :=
  match portSlot e.src with
  | some (pi, _) => if s.inputLive pi m then e.cutWord (s.lastIn e.src) else 0
  | none => 0

/-- The cut-through word of a destination in frame m, if one feeds it (R241–R244). -/
def State.cutInto (s : State) (m c : Nat) : Option Int :=
  if s.isTarget c then none
  else match s.a.cutNext.find? (fun x => decide (x.1 = m) && decide (x.2.1 = c)) with
    | some x => some x.2.2
    | none => ((s.cutsAt m).find? (fun e => decide (e.dst = c))).map (s.cutRest m)

/-- A TDM input whose last frame has come stops, or starts again where a re-enable has waited for that (R362, R363). -/
def tinSettle (p : Nat) (s : State) : State :=
  let x := s.tin p
  match x.stopAt with
  | none => s
  | some e =>
    if x.next < e then s
    else if x.pending then setTin p { TdmIn.reset with run := true, first := e, next := e } s
    else setTin p TdmIn.reset s

/-- The first frame of an input at an advance that starts at or after a device time (R344, R363, R366). -/
def firstIn (fs ofs tU : Nat) : Nat := if ofs = 0 then firstFrame fs 0 tU else firstFrame fs (512 - ofs) tU + 1

/-- A TDM input ends with the frame before `e`. -/
def tinStop (p e : Nat) (s : State) : State :=
  let x := s.tin p
  if x.run then tinSettle p (setTin p { x with stopAt := some e, pending := false } s) else s

/-- A frame that an input accepts as sample k, or one too many (R349). `vals` are the accepted samples, whose slots ended at `ends`. -/
def acceptFrame (p k : Nat) (vals : List Int) (ends : List Nat) (s : State) : State :=
  if k < s.inputNext p then slip p 0 1 k s
  else
    let s := if s.inputOn p then underrunTo p k s else s
    let s := (List.zip (s.inCodes p) vals).foldl (fun st cv => setD (fun d => { d with lastCap := nset d.lastCap cv.1 (cv.2 * 16) }) st) s
    let out := s.delivered p k
    let s := cutThrough p k out ends (setNext p (k + 1) (capPut p k out s))
    if p < 8 then tinSettle p s else s

/-- The samples that inputs still owe at the pick-start mark of pick `p1`: underruns of running inputs, zeros of muted ones (R349). -/
def portsFill (p1 : Nat) (s : State) : State :=
  (List.range 24).foldl (fun st p =>
    if (p < 8 ∧ ((st.tdm p).inEn ∨ (st.tin p).run)) ∨ (8 ≤ p ∧ (st.aes (p - 8)).rxEn) then
      let last := p1 * st.t.pickLen
      let last := if p < 8 then min last ((st.tin p).stopAt.getD last) else last
      let st := if st.inputOn p then underrunTo p last st else setNext p (max last (st.inputNext p)) st
      if p < 8 then tinSettle p st else st
    else st) s

/-! ### AES3 receivers (R352–R358) -/

/-- Bits, first bit first, as bytes with the first bit least significant. -/
def bitBytes (n : Nat) (l : List Bool) : List Byte :=
  (List.range n).map (fun i => BitVec.ofNat 8 (sumTo 8 (fun k => flag k (lget false l (8 * i + k)))))

/-- The channel-status CRC of R356 over bytes 0–22, in transmission order (log 39). -/
def csCrc (b : List Byte) : Nat := (b.take 23).foldl (crcByteR 0xB8) 0xFF

/-- A receiver's mute state follows from its lock, its non-audio state and its blocks (R353, R357, R358). -/
def AesRx.remute (x : AesRx) : AesRx := { x with muted := !x.lock || x.nonaudio || !x.since }

/-- A sign of non-audio data (R357). -/
def nonAudio (p : Nat) (s : State) : State :=
  let x := s.rx p
  let s := setRx p { x with nonaudio := true, clean := 0, muted := true } s
  if x.nonaudio then s else post 0x0303 (8 + p) [] s

/-- A channel-status block of one subframe is complete (R356): sub 0 A, 1 B. -/
def csBlock (p sub : Nat) (b : List Byte) (s : State) : State :=
  if bitOf (byteAt b 0) 0 ∧ csCrc b ≠ byteAt b 23 then post 0x0305 (8 + p) [] (bump (0xB080 + 4 * p) 31 24 s)
  else
    let x := s.rx p
    let x := if sub = 0 then { x with keptA := some b, since := x.since || x.lock } else { x with keptB := some b }
    let s := setRx p ({ x with lastKept := some b } : AesRx).remute s
    if bitOf (byteAt b 0) 1 then nonAudio p s else s

/-- One subframe's effect on the receiver's counts and signs; its sample if it is sound. -/
def subframeIn (p sub : Nat) (f : Subframe) (s : State) : Option Int × State :=
  let bad := f.parity || f.violation
  let s := if bad then bump (0xB080 + 4 * p) 23 16 s else s
  let up := f.word % 2 ^ 24 / 256
  let x := s.rx p
  let burst := decide (x.upper = 0xF872) && decide (up = 0x4E1F)
  let s := setRx p { x with upper := up } s
  let s := if burst then nonAudio p s else s
  let x := s.rx p
  let s := setRx p (if sub = 0 then { x with csA := f.c :: x.csA, usA := f.u :: x.usA } else { x with csB := f.c :: x.csB, usB := f.u :: x.usB }) s
  (if bad then none else some (signed 24 f.word), s)

/-- The block position: a Z preamble begins a block (R356). -/
def blockStart (p : Nat) (z : Bool) (s : State) : State :=
  let x := s.rx p
  if z then setRx p { x with pos := some 0, csA := [], csB := [], usA := [], usB := [] } s else s

/-- The block ends after 192 frames. -/
def blockEnd (p : Nat) (s : State) : State :=
  let x := s.rx p
  match x.pos with
  | none => s
  | some k =>
    if k + 1 < 192 then setRx p { x with pos := some (k + 1) } s
    else
      let s := setRx p { x with pos := none, userA := bitBytes 24 x.usA.reverse, userB := bitBytes 24 x.usB.reverse } s
      csBlock p 1 (bitBytes 24 x.csB.reverse) (csBlock p 0 (bitBytes 24 x.csA.reverse) s)

/-- Units of device time in a second times the frames of a run's span, less the same of the frames' own time: with `rateSpan`, the relative
rate difference of a receiver's last frames (R352, R354). Of n frames the n − 1 periods between their ends are measured (log 88). -/
def rateExcess (fs : Nat) (ends : List Nat) : Int :=
  (65536 * 1000000000 * (ends.length - 1) : Nat) - ((((ends.head?.getD 0) - ends.getLast?.getD 0) * fs : Nat) : Int)
def rateSpan (fs : Nat) (ends : List Nat) : Nat := ((ends.head?.getD 0) - ends.getLast?.getD 0) * fs

/-- The rate of 1,536 frames differs from the render rate by no more than 50 ppm. -/
def rateOk (fs : Nat) (ends : List Nat) : Bool := decide ((rateExcess fs ends).natAbs * 1000000 ≤ 50 * rateSpan fs ends)

/-- The rate difference in ppm, rounded half up. -/
def ratePpm (fs : Nat) (ends : List Nat) : Int := roundUp (rateExcess fs ends * 1000000) (rateSpan fs ends)

/-- A receiver counts a frame for lock and unlock (R352, R353): a run of frames with valid preambles and a Z every 192, and a run of
violations. A gap of more than one and a half periods breaks the first. -/
def AesRx.track (x : AesRx) (fs now : Nat) (z pre bad : Bool) : AesRx :=
  let gap := decide (3 * 65536 * 1000000000 < 2 * fs * (now - x.lastPre))
  let x := { x with viol := if bad then x.viol + 1 else 0 }
  if !pre then { x with good := 0, zPos := none, ends := [] }
  else
    let x := { x with lastPre := now }
    let x := if gap then { x with good := 0, zPos := none, ends := [] } else x
    let early := match x.zPos with
      | some k => decide (k + 1 < 192)
      | none => false
    let miss := match x.zPos with
      | some k => decide (192 ≤ k + 1)
      | none => decide (191 ≤ x.good)
    if z && early then { x with good := 1, zPos := some 0, ends := [now] }
    else if !z && miss then { x with good := 0, zPos := none, ends := [] }
    else { x with good := min 1536 (x.good + 1), zPos := if z then some 0 else x.zPos.map (· + 1), ends := (now :: x.ends).take 1536 }

/-- One AES3 frame (R349, R352–R358). -/
def aesFrame (p : Nat) (a b : Subframe) (s : State) : State :=
  if ¬ (s.aes p).rxEn then s
  else
    let k := sampleOf s.fs (s.t.now - 1)
    let s := setRx p ((s.rx p).track s.fs s.t.now a.z (a.pre && b.pre) (a.violation || b.violation)) s
    let s := if (s.rx p).ends.length = 1536 then setRx p { s.rx p with ppm := ratePpm s.fs (s.rx p).ends } s else s
    let s := blockStart p a.z s
    let s := if a.v || b.v then bump (0xB080 + 4 * p) 15 0 s else s
    let before := (s.rx p).clean
    let s := setRx p { s.rx p with clean := before + 1 } s
    let (va, s) := subframeIn p 0 a s
    let (vb, s) := subframeIn p 1 b s
    let s := blockEnd p s
    if (s.rx p).lock then
      let per := 65536 * 1000000000 / s.fs
      let adv := sampleStart s.fs (k + 1) - s.t.now
      let s := setRx p { s.rx p with ofs := min 511 ((2 * 512 * adv + per) / (2 * per)) } s
      let c := 0x80 + 2 * p
      acceptFrame (8 + p) k [va.getD (s.lastIn c), vb.getD (s.lastIn (c + 1))] [min a.at_ s.t.now, min b.at_ s.t.now] s
    else s

/-- A receiver may lock (R352): 1,536 frames in a row are valid, and their rate is within 50 ppm. -/
def State.mayLock (s : State) (p : Nat) : Bool :=
  (s.aes p).rxEn && !(s.rx p).lock && decide ((s.rx p).good = 1536) && rateOk s.fs (s.rx p).ends

/-- AES_RX_LOCK (R352, R358). -/
def aesLock (p : Nat) (s : State) : State :=
  if s.mayLock p ∧ p < 16 then
    post 0x0301 (8 + p) [] (setRx p ({ s.rx p with lock := true, since := false, next := sampleOf s.fs s.t.now } : AesRx).remute s)
  else s

/-- Why a receiver unlocks (R353), by the place of the condition in that list: no valid preamble for 3 frame periods, 8 frames with
violations, or the rate. -/
def State.unlockReason (s : State) (p : Nat) : Option Nat :=
  let x := s.rx p
  if 3 * 65536 * 1000000000 ≤ s.fs * (s.t.now - x.lastPre) then some 1
  else if 8 ≤ x.viol then some 2
  else if x.ends.length = 1536 ∧ ¬ rateOk s.fs x.ends then some 3
  else none

/-- AES_RX_UNLOCK (R353): the receiver begins to acquire lock again. -/
def aesUnlock (p : Nat) (s : State) : State :=
  match s.unlockReason p with
  | none => s
  | some r =>
    if (s.rx p).lock then
      post 0x0302 (8 + p) (a1 r)
        (setRx p ({ s.rx p with lock := false, since := false, pos := none, good := 0, zPos := none, viol := 0, ends := [] } : AesRx).remute s)
    else s

/-- AES_NONAUDIO_UNMUTE (R357). -/
def nonAudioEnd (p : Nat) (s : State) : State :=
  let x := s.rx p
  if x.nonaudio ∧ 8192 ≤ x.clean then post 0x0304 (8 + p) [] (setRx p ({ x with nonaudio := false } : AesRx).remute s) else s

/-- A frame edge of a slave direction (R347): its period, its rate over each second of frames, and its place in the nominal frame. -/
def SlaveChk.edge (x : SlaveChk) (fp now : Nat) : SlaveChk :=
  let u := 65536 * 1000000000
  let place := now * fp % u
  match x.last, x.pos with
  | some l, some p0 =>
    let dt := (now - l) * fp
    let d := (place + u - p0) % u
    let full := decide (x.count + 1 = fp)
    let span := now - x.mark
    let bad := decide (dt * 10 < 8 * u) || decide (12 * u < dt * 10) || decide (4 * u < min d (u - d) * (32 * slotsAt fp)) ||
      (full && decide (span < ((span : Int) - u).natAbs * 1000000))
    { x with last := some now, mark := if full then now else x.mark, count := if full then 0 else x.count + 1, bad := bad,
             badAt := if bad then now else x.badAt }
  | _, _ => { x with last := some now, pos := some (x.pos.getD place), mark := now, count := 0, bad := false }

/-- Two frame-sync edges are missing (R347). -/
def SlaveChk.missing (x : SlaveChk) (fp now : Nat) : Bool := match x.last with
  | some l => decide (2 * 65536 * 1000000000 < (now - l) * fp)
  | none => false

/-- One TDM input frame (R346–R349): 32-bit slots, of which the last 8 bits are ignored. -/
def tdmFrame (p : Nat) (slots : List Nat) (s : State) : State :=
  if (s.tin p).run ∧ p < 8 then
    let s := if (s.tdm p).inSlave then setChk (2 * p) ((s.chk (2 * p)).edge s.fs s.t.now) s else s
    let k := sampleOf s.fs (s.t.now - 1)
    let n := slotsAt s.fs
    let per := 65536 * 1000000000 / s.fs
    acceptFrame p k ((List.range n).map (fun i => signed 24 (lget 0 slots i / 256 % 2 ^ 24)))
      ((List.range n).map (fun i => s.t.now - per * (n - 1 - i) / n)) s
  else s

/-! ### Outputs (R345, R350, R359–R363; 16_twin R538) -/

/-- The word that an output channel sends in frame m, if the core has written it (R345, R350): a resampler target's own output, exact zero
for another channel of a port whose rate differs, or the destination sample of output position m − 3. -/
def State.outWord (s : State) (fp m c : Nat) : Option Int :=
  if s.isTarget c then
    let (b, l) := nget (0, []) s.f.rsOut c
    if b ≤ m ∧ m < b + l.length then some ((lget (0, false) l (m - b)).1 / 16) else none
  else if fp ≠ s.fs then some 0
  else if s.m.dpRun then
    let b := (s.m.pick - 1) * s.t.pickLen
    let q := m - 3
    match nfind s.d.play c with
    | none => some 0
    | some l => if b ≤ q ∧ q < b + l.length then some (lget 0 l (q - b) / 16) else none
  else none

/-- Whether a unit's outputs drive their balls (16_twin R538). -/
def State.outputsDrive (s : State) : Bool := !s.w.en || s.w.dual || s.w.own

/-- Channel status as it is sent, with its CRC (R359). -/
def State.csSent (s : State) (p : Nat) (b : List Byte) : List Byte :=
  if (s.aes p).autoCrc && bitOf (byteAt b 0) 0 then b.take 23 ++ [BitVec.ofNat 8 (csCrc b)] else b

/-- Where a direction stands as frame m starts: a start or a stop that is due takes place (R361–R363). -/
def OutDir.atFrame (d : OutDir) (tdm : Bool) (m : Nat) : OutDir :=
  let due : Option Nat → Bool := fun o => match o with | some f => decide (f ≤ m) | none => false
  let d := if (decide (d.st = 1) || decide (d.st = 2)) && due d.stopAt then
      (if tdm then { d with st := 0, stopAt := none, startAt := if d.pending then some m else d.startAt, pending := false }
       else { d with st := 3, sent := 0, stopAt := none })
    else d
  if decide (d.st = 0) && due d.startAt then
    { d with st := if tdm then 2 else 1, sent := 0, startAt := none, pending := false } else d

/-- PORT_OUTPUT_FRAME (R344–R350, R359–R363). -/
def outputFrame (p : Nat) (s : State) : State :=
  if ¬ s.m.dpRun ∨ 24 ≤ p then s
  else
    let fp := s.outRate p
    let m := frameAt fp (s.outOfs p) s.t.now
    let d := { (s.dir p).atFrame (decide (p < 8)) m with frame := m }
    let s := if p < 8 ∧ (s.tdm p).outSlave ∧ ¬ d.unrelated then setChk (2 * p + 1) ((s.chk (2 * p + 1)).edge fp s.t.now) s else s
    let s := setA (fun a => { a with driven := nset a.driven p (s.outputsDrive && decide (d.st ≠ 0)) }) (setDir p d s)
    if d.st = 0 then putSent p [] s
    else
      let old := nget [] s.a.sent p
      let live := s.outLive d m
      let words := (s.outCodes p).map (fun c => if live then (match s.cutInto m c with | some v => some v | none => s.outWord fp m c) else some 0)
      let s := if live && words.any (·.isNone) then slip p 1 0 m s else s
      let vals := words.zipIdx.map (fun w => w.1.getD (lget 0 old w.2))
      let s := setA (fun a => { a with cutNext := a.cutNext.filter (fun x => !((s.outCodes p).contains x.2.1 && decide (x.1 ≤ m))) }) s
      if p < 8 then setDir p { d with sent := d.sent + 1 } (putSent p vals s)
      else
        let q := p - 8
        let x := s.tx q
        let x := if d.sent = 0 ∧ d.st = 1 then { x with pos := 0 } else x
        let x := if x.pos = 0 then { x with cs := x.csNext.getD x.cs, csNext := none, user := x.userNext.getD x.user, userNext := none } else x
        let cs := s.csSent q x.cs
        let bit := fun (b : List Byte) (o : Nat) => b2n (bitOf (byteAt b (o + x.pos / 8)) (x.pos % 8))
        let tail : List Int := [(bit cs 0 : Nat), (bit x.user 0 : Nat), (bit x.user 24 : Nat), (b2n (decide (x.pos = 0)) : Nat)]
        setDir p { d with sent := d.sent + 1 } (setTx q { x with pos := (x.pos + 1) % 192 } (putSent p (vals ++ tail) s))

/-- AES_TX_LEAD_END (R361, R362). -/
def leadEnd (q : Nat) (s : State) : State :=
  let d := s.dir (8 + q)
  if 192 * (s.aes q).zb ≤ d.sent ∧ q < 16 then
    if d.st = 1 then setDir (8 + q) { d with st := 2, sent := 0 } s
    else if d.st = 3 then
      if d.pending then setDir (8 + q) { d with st := 1, sent := 0, pending := false, startAt := none } s
      else setDir (8 + q) { d with st := 0, sent := 0, stopAt := none } s
    else s
  else s

/-! ### Slave directions (R347, R348) -/

/-- A slave direction: 0 in, 1 out; whether it is one, whether it is unrelated, and its frame rate. -/
def State.isSlave (s : State) (p dir : Nat) : Bool := if dir = 0 then (s.tdm p).inSlave else (s.tdm p).outSlave
def State.unrelated (s : State) (p dir : Nat) : Bool := if dir = 0 then (s.tin p).unrelated else (s.dir p).unrelated
def State.slaveRate (s : State) (p dir : Nat) : Nat := if dir = 0 then s.fs else s.outRate p
def setUnrelated (p dir : Nat) (bad : Bool) (s : State) : State :=
  if dir = 0 then setTin p { s.tin p with unrelated := bad, next := sampleOf s.fs s.t.now } s else setDir p { s.dir p with unrelated := bad } s

/-- TDM_SLAVE_UNRELATED (R347, R348): a condition holds. -/
def slaveUnrelated (p dir : Nat) (s : State) : State :=
  let k := 2 * p + min dir 1
  let x := s.chk k
  if p < 8 ∧ s.isSlave p dir ∧ ¬ s.unrelated p dir ∧ (x.bad ∨ x.missing (s.slaveRate p dir) s.t.now) then
    post 0x0307 p [] (setUnrelated p dir true (setChk k { x with badAt := s.t.now } s))
  else s

/-- TDM_SLAVE_RESUME (R348): 1 s has passed with no condition. An unrelated output runs on its own grid, so that no row tells of its
clock's edges (log 88). -/
def slaveResume (p dir : Nat) (s : State) : State :=
  let x := s.chk (2 * p + min dir 1)
  if p < 8 ∧ s.isSlave p dir ∧ s.unrelated p dir ∧ x.badAt + secU ≤ s.t.now ∧ ¬ (dir = 0 ∧ x.missing s.fs s.t.now) then
    post 0x0308 p [] (setUnrelated p dir false (setChk (2 * p + min dir 1) { SlaveChk.reset with pos := x.pos } s))
  else s

/-! ### Alignment groups (R364–R366) -/

/-- The group of an output port, if it is a member of one: transmitters and TDM outputs at the render rate may be (R364). -/
def State.outGroup (s : State) (p : Nat) : Option Nat :=
  if s.outRate p ≠ s.fs then none
  else if p < 8 then (if (s.tdm p).grpOut then some (s.tdm p).group else none)
  else if (s.aes (p - 8)).grpEn then some (s.aes (p - 8)).group else none

/-- An output that is enabled now waits for its group's start; it starts as though it had no group while that runs (R364, R366). -/
def State.waitsForGroup (s : State) (p : Nat) : Bool := match s.outGroup p with
  | some g => !(s.grp g).running
  | none => false

/-- Members of a group: AES3 transmitters and TDM outputs as output ports, TDM inputs. -/
def State.groupOuts (s : State) (g : Nat) : List Nat :=
  (List.range 24).filter (fun p => decide (s.outGroup p = some g) && (if p < 8 then (s.tdm p).outEn else (s.aes (p - 8)).txEn))
def State.groupIns (s : State) (g : Nat) : List Nat :=
  (List.range 8).filter (fun p => (s.tdm p).grpIn && decide ((s.tdm p).group = g) && (s.tdm p).inEn)

/-- A group's start trigger fires at `t` (R365). -/
def groupStart (g t : Nat) (s : State) : State :=
  let f := firstFrame s.fs 0 t
  let x := s.grp g
  if x.stopFrame = some f ∨ x.running then setGrp g { x with start := none } s
  else
    let outs := s.groupOuts g
    let zb := (outs.filter (fun p => decide (8 ≤ p))).foldl (fun m p => max m (s.aes (p - 8)).zb) 0
    let real := f + 192 * zb
    let s := setGrp g { x with start := none, running := true, startFrame := f, firstReal := real, real := false } s
    let s := outs.foldl (fun st p => setDir p { st.dir p with startAt := some f, firstReal := real } st) s
    (s.groupIns g).foldl (fun st p => setTin p { st.tin p with run := true, first := real, next := f } st) s

/-- Its stop trigger fires (R366). -/
def groupStop (g t : Nat) (s : State) : State :=
  let f := firstFrame s.fs 0 t
  let x := s.grp g
  let s := setGrp g { x with stop := none, running := false, stopFrame := some f } s
  if ¬ x.running then s
  else if x.startFrame = f then
    -- start and stop select the same frame: the group does not start
    let s := (s.groupOuts g).foldl (fun st p => setDir p { st.dir p with startAt := none } st) s
    (s.groupIns g).foldl (fun st p => setTin p { st.tin p with run := false } st) s
  else
    let s := (s.groupOuts g).foldl (fun st p => if (st.dir p).st = 1 ∨ (st.dir p).st = 2 ∨ (st.dir p).startAt.isSome then
      setDir p { st.dir p with stopAt := some f } st else st) s
    let s := (s.groupIns g).foldl (fun st p => tinStop p (firstIn st.fs (st.tdm p).inOfs t) st) s
    post 0x030A g [] s

/-- GROUP_FIRST_REAL_FRAME (R365). -/
def groupReal (g : Nat) (s : State) : State :=
  let x := s.grp g
  if g < 8 ∧ x.running ∧ ¬ x.real ∧ frameStart s.fs 0 x.firstReal ≤ s.t.now then post 0x0309 g [] (setGrp g { x with real := true } s)
  else s

/-! ### Configuration records (R370, R371) -/

def aesRecord (b : List Byte) : AesCfg :=
  { rxEn := bitOf (byteAt b 1) 0, txEn := bitOf (byteAt b 1) 1, autoCrc := bitOf (byteAt b 1) 2, grpEn := bitOf (byteAt b 1) 3,
    txRate := byteAt b 2, zb := byteAt b 3, ofs := getLE b 4 2, group := byteAt b 6 }

def aesRecordOk (b : List Byte) : Bool :=
  decide (byteAt b 0 < 16) && decide (byteAt b 1 < 16) && decide (byteAt b 2 < 8) && decide (1 ≤ byteAt b 3) && decide (byteAt b 3 < 16) &&
    decide (getLE b 4 2 < 512) && decide (byteAt b 6 < 8) && zeroRange b 7 9

def tdmRecord (b : List Byte) : TdmCfg :=
  let f := byteAt b 1
  { inEn := bitOf f 0, outEn := bitOf f 1, inSlave := bitOf f 2, outSlave := bitOf f 3, fsWidth := bitOf f 4, fsDelay := bitOf f 5,
    fsPol := bitOf f 6, bclkEdge := bitOf f 7, outRate := byteAt b 2, inSrc := byteAt b 3, outSrc := byteAt b 4, group := byteAt b 5 % 8,
    grpIn := bitOf (byteAt b 5) 3, grpOut := bitOf (byteAt b 5) 4, inOfs := getLE b 6 2, outOfs := getLE b 8 2 }

def tdmRecordOk (b : List Byte) : Bool :=
  decide (byteAt b 0 < 8) && decide (byteAt b 2 < 5) && decide (byteAt b 3 < 9) && decide (byteAt b 4 < 9) && decide (byteAt b 5 < 32) &&
    decide (getLE b 6 2 < 512) && decide (getLE b 8 2 < 512) && zeroRange b 10 6

/-- 16-byte records, in order. -/
def records16 (b : List Byte) : List (List Byte) := (List.range (b.length / 16)).map (fun i => (b.drop (16 * i)).take 16)

/-- An output direction whose settings change at frame `m0` (R361–R364, R371). -/
def OutDir.reconfigure (d : OutDir) (was en grp changed : Bool) (m0 : Nat) : OutDir :=
  if en then
    if !was then
      if grp then { d with pending := decide (d.st ≠ 0) }
      else if d.st = 0 then { d with startAt := some m0, stopAt := none, firstReal := 0 }
      else { d with pending := true, firstReal := 0 }
    else if changed ∧ d.st ≠ 0 then { d with stopAt := some m0, pending := true }
    else d
  else
    let d := { d with startAt := none, pending := false }
    if d.st = 1 ∨ d.st = 2 then { d with stopAt := some m0 } else d

/-- An AES_CFG record applied at the start of a pick (R371). -/
def applyAes (b : List Byte) (t : Nat) (s : State) : State :=
  let p := byteAt b 0
  let c := aesRecord b
  let old := s.aes p
  let s := setA (fun a => { a with aes := nset a.aes p c }) s
  let s := if c.rxEn = old.rxEn then s
    else setRx p { AesRx.reset with keptA := (s.rx p).keptA, keptB := (s.rx p).keptB, userA := (s.rx p).userA, userB := (s.rx p).userB,
                                    lastKept := (s.rx p).lastKept, next := firstFrame s.fs 0 t } s
  let m0 := firstFrame (s.outRate (8 + p)) c.ofs t
  setDir (8 + p) ((s.dir (8 + p)).reconfigure old.txEn c.txEn (s.waitsForGroup (8 + p)) (decide (c.txRate ≠ old.txRate) || decide (c.ofs ≠ old.ofs)) m0) s

/-- A TDM_CFG record applied. -/
def applyTdm (b : List Byte) (t : Nat) (s : State) : State :=
  let p := byteAt b 0
  let c := tdmRecord b
  let old := s.tdm p
  let s := setA (fun a => { a with tdm := nset a.tdm p c }) s
  let fmt := decide (c.fsWidth ≠ old.fsWidth) || decide (c.fsDelay ≠ old.fsDelay) || decide (c.fsPol ≠ old.fsPol) || decide (c.bclkEdge ≠ old.bclkEdge)
  let k0 := firstIn s.fs c.inOfs t
  let inChanged := fmt || decide (c.inOfs ≠ old.inOfs) || decide (c.inSlave ≠ old.inSlave) || decide (c.inSrc ≠ old.inSrc)
  let grpI := c.grpIn && !(s.grp c.group).running
  let x := s.tin p
  let s := if c.inEn then
      if !old.inEn then
        if x.run then setTin p { x with pending := !grpI } s
        else if grpI then s
        else setTin p { TdmIn.reset with run := true, first := k0, next := k0 } s
      else if inChanged ∧ x.run ∧ old.inOfs = 0 ∧ x.stopAt.isNone then
        setTin p { TdmIn.reset with run := true, first := max x.first k0, next := k0 } s
      else if inChanged then setTin p { x with unrelated := x.unrelated && c.inSlave } s
      else s
    else tinStop p (firstIn s.fs old.inOfs t) s
  let m0 := firstFrame (s.outRate p) c.outOfs t
  let outChanged := fmt || decide (c.outOfs ≠ old.outOfs) || decide (c.outSlave ≠ old.outSlave) || decide (c.outSrc ≠ old.outSrc) ||
    decide (c.outRate ≠ old.outRate)
  let d := (s.dir p).reconfigure old.outEn c.outEn (s.waitsForGroup p) outChanged m0
  -- a slave direction's check begins anew with its clock (R347)
  let s := if c.inEn ∧ old.inEn ∧ ¬ inChanged then s else setChk (2 * p) SlaveChk.reset s
  let s := if c.outEn ∧ old.outEn ∧ ¬ outChanged then s else setChk (2 * p + 1) SlaveChk.reset s
  setDir p { d with unrelated := d.unrelated && c.outSlave } s

/-- Ports start anew as the data plane starts (R367): receivers acquire lock, outputs start at the grid of the start pick, and group members
wait for their group. -/
def portsStart (t : Nat) (s : State) : State :=
  let k0 := firstFrame s.fs 0 t
  let s := setA (fun a => { a with slave := [], cutNext := [] }) s
  let s := (List.range 16).foldl (fun st p =>
    let c := st.aes p
    let st := setRx p { AesRx.reset with keptA := (st.rx p).keptA, keptB := (st.rx p).keptB, userA := (st.rx p).userA, userB := (st.rx p).userB,
                                         lastKept := (st.rx p).lastKept, next := k0 } st
    setDir (8 + p) (if c.txEn ∧ ¬ st.waitsForGroup (8 + p) then
      { OutDir.reset with startAt := some (firstFrame (st.outRate (8 + p)) c.ofs t) } else OutDir.reset) st) s
  (List.range 8).foldl (fun st p =>
    let c := st.tdm p
    let run := c.inEn && !(c.grpIn && !(st.grp c.group).running)
    let k1 := firstIn st.fs c.inOfs t
    let st := setTin p { TdmIn.reset with run := run, first := k1, next := k1 } st
    setDir p (if c.outEn ∧ ¬ st.waitsForGroup p then
      { OutDir.reset with startAt := some (firstFrame (st.outRate p) c.outOfs t) } else OutDir.reset) st) s

/-- SNAPSHOT of AES_CS_SEL at the end of a pick (R369). -/
def portSnapshot (s : State) : State :=
  if s.a.sel then
    let p := s.field 0xB100 3 0
    let b := if s.field 0xB100 4 4 = 1 then s.csSent p (s.tx p).cs
      else if s.field 0xB100 5 5 = 0 then (s.rx p).keptA.getD (zeros 24) else (s.rx p).keptB.getD (zeros 24)
    let s := (List.range 6).foldl (fun st w => setReg (0xB104 + 4 * w) (BitVec.ofNat 32 (getLE b (4 * w) 4)) st) s
    putField 0xB100 31 31 1 (setA (fun a => { a with sel := false }) s)
  else s

end Sys2Proof.Machine
end

