-- ==== Sys2Proof/Machine/TimeOps.lean ====
section
/-!
DEFINITION. Sys2Proof/Machine/TimeOps.lean: references, holdover and re-lock, and a PTP restart (13_time R409–R421), shared by the
time, network and power families.
-/
namespace Sys2Proof.Machine

def setT (f : TimeS → TimeS) (s : State) : State := { s with t := f s.t }

/-- Reasons as event arguments (log 24). -/
def reasonCode : RefReason → Nat
  | .stopped => 0 | .glitched => 1 | .rate => 2 | .announce => 3 | .master => 4 | .servo => 5

/-- Whether a reference is valid. -/
def State.refValid (s : State) (r : Nat) : Bool := lget false s.t.valid r

/-- The valid reference of highest priority (R418). -/
def State.bestRef (s : State) : Option Nat := s.t.prio.find? (fun r => s.refValid r)

/-- Position in the priority list; its length for a reference that is not in it. -/
def State.refRank (s : State) (r : Nat) : Nat := s.t.prio.findIdx (· == r)

/-- 100 ppm and 200 ppm in 1/1,024 ppb. -/
def ppm (n : Nat) : Int := (n : Int) * 1000 * 1024

/-- The frequency bounds of R406 and R421. -/
def State.clampFreq (s : State) (f : Int) : Int :=
  let f := clampI (-(ppm 200)) (ppm 200) f
  if s.m.dpRun then clampI (s.t.holdFreq - ppm 100) (s.t.holdFreq + ppm 100) f else f

/-- The frequency frozen on entry to holdover: the last checkpoint made at least 2 s before; the running frequency where there
is none, and 0 where no reference was ever locked (R419, R420; log 25). -/
def State.frozenFreq (s : State) : Int :=
  match (s.t.marks.filter (fun x => decide (x.1 + 2 * secU ≤ s.t.now))).getLast? with
  | some (_, f) => f
  | none => s.t.freq

/-- HOLDOVER_ENTRY (R419). -/
def enterHoldover (s : State) : State :=
  let f := s.frozenFreq
  post 0x0202 0 [] (setT (fun x => { x with lock := false, hold := true, holdFreq := f, freq := f, freqAt := x.now }) s)

/-- The frequency of device time set, at most 5 ppm further than it stood for each second since it was last set, while the data plane runs
(R421). -/
def setFreq (f : Int) (s : State) : State :=
  let d := ppm 5 * ((s.t.now - s.t.freqAt : Nat) : Int) / (secU : Int)
  let f := s.clampFreq f
  let f := if s.m.dpRun then clampI (s.t.freq - d) (s.t.freq + d) f else f
  setT (fun x => { x with freq := f, freqAt := x.now }) s

/-- Every stamp that a wait is measured from moves with a step of device time, so that the wait lasts as long as without it (log 90). -/
def shiftStamps (d : Int) (s : State) : State :=
  let m := fun (x : Nat) => ((x : Int) + d).toNat
  let o := fun (x : Option Nat) => x.map m
  let edges := ((s.t.now : Int) + d) / ((40 * nsU : Nat) : Int) - (s.edge : Int)
  let e := fun (x : Nat) => ((x : Int) + edges).toNat
  let ev := fun (r : EvRec) => { r with lastT := m r.lastT, closedAt := m r.closedAt, edge := e r.edge }
  let seq := match s.p.seq with
    | .rising k a => .rising k (m a)
    | .settled a => .settled (m a)
    | .waiting a ms => .waiting (m a) ms
    | x => x
  { s with
    t := { s.t with
      cleanSince := s.t.cleanSince.map o, edges := s.t.edges.map (fun x => (x.1, x.2.map m)), lockAt := m s.t.lockAt, freqAt := m s.t.freqAt,
      portUpSince := o s.t.portUpSince, lastAnnounce := o s.t.lastAnnounce, servoSince := o s.t.servoSince,
      marks := s.t.marks.map (fun x => (m x.1, x.2)) },
    m := { s.m with lastFault := o s.m.lastFault, readyAt := o s.m.readyAt },
    p := { s.p with
      seq := seq, fall := s.p.fall.map (fun f => { f with from_ := m f.from_ }), holdSince := o s.p.holdSince, hotSince := o s.p.hotSince, coolSince := o s.p.coolSince, overSince := o s.p.overSince },
    g := { s.g with
      idleSince := s.g.idleSince.map (fun x => (x.1, m x.2)), levels := s.g.levels.map (fun x => (x.1, { x.2 with bpFrom := o x.2.bpFrom })) },
    h := { s.h with unsigSince := m s.h.unsigSince, wdogFrom := o s.h.wdogFrom },
    l := { s.l with
      flushAt := m s.l.flushAt, lastScrub := o s.l.lastScrub, nonceRead := o s.l.nonceRead, authHold := o s.l.authHold },
    n := { s.n with
      ports := s.n.ports.map (fun x => (x.1, { x.2 with busyTo := m x.2.busyTo })),
      strm := s.n.strm.map (fun x => (x.1, { x.2 with lastAt := m x.2.lastAt })),
      mg := { s.n.mg with windowAt := m s.n.mg.windowAt, emptySince := o s.n.mg.emptySince } },
    w := { s.w with
      listenFrom := m s.w.listenFrom, peerPinAt := m s.w.peerPinAt, bothAt := m s.w.bothAt, lostAt := o s.w.lostAt, beatAt := m s.w.beatAt },
    ev := { s.ev with ram := s.ev.ram.map (fun x => (x.1, ev x.2)), fifo := s.ev.fifo.map ev, lastEdge := s.ev.lastEdge.map e } }

/-- Device time stepped to a value (R407). -/
def setTime (tU : Nat) (s : State) : State :=
  let s := shiftStamps ((tU : Int) - s.t.now) s
  setT (fun x => { x with now := tU }) s

/-- Device time stepped by a number of units (R407). -/
def stepTime (d : Int) (s : State) : State := setTime ((s.t.now : Int) + d).toNat s

/-- An offset from a whole second, in units of 2^-16 ns: the number of the second comes from device time as it stands (R416). -/
def fromSecond (d : Int) : Int :=
  let r := d % (secU : Int)
  if 2 * r < (secU : Int) then r else r - secU

/-- RELOCK (R421): the device locks to reference `r`; `off` is device time minus the reference, in units of 2^-16 ns, for a
reference that gives time. -/
def relock (r : Nat) (off : Int) (s : State) : State :=
  let s := if s.t.sel = some r then s else bump 0xE01C 31 24 s
  let s := setT (fun x => { x with sel := some r, lock := true, hold := false, lockAt := x.now }) s
  if 1 < r then setT (fun x => { x with far := false }) s
  else
    let off := if r = 1 then fromSecond off else off
    let s := setT (fun x => { x with everSet := true, offset := off / (nsU : Int) }) s
    if s.m.dpRun then
      if (msU : Int) < off.natAbs then post 0x0207 0 [] (setT (fun x => { x with far := true }) s)
      else setT (fun x => { x with far := false }) s
    else if (usU : Int) < off.natAbs then
      post 0x0206 0 [] (setT (fun x => { x with offset := 0, far := false }) (stepTime (-off) s))
    else setT (fun x => { x with far := false }) s

/-- A re-lock to a reference whose offset no command has brought: the offset is a free value (log 26). -/
def relockFree (r : Nat) (s : State) : State :=
  let (v, s) := draw s
  relock r v.toInt s

/-- A reference becomes invalid (R417, R418): counted, told, and left for holdover and the next valid one. -/
def markInvalid (r : Nat) (why : RefReason) (s : State) : State :=
  let s := setT (fun x => { x with cleanSince := lset x.cleanSince r (some x.now) }) s
  let s := match why with
    | .stopped => bump 0xE01C 7 0 s
    | .glitched => bump 0xE01C 15 8 s
    | .rate => bump 0xE01C 23 16 s
    | _ => s
  if s.refValid r then
    let s := setT (fun x => { x with valid := lset x.valid r false }) s
    let s := { s with l := { s.l with cnt := { s.l.cnt with refLoss := lset s.l.cnt.refLoss r (satN 0xFFFFFFFF (lget 0 s.l.cnt.refLoss r + 1)) } } }
    let s := post 0x0203 r (a1 r ++ a1 (reasonCode why)) s
    if s.t.sel = some r then
      let s := enterHoldover s
      match s.bestRef with
      | some r' => relockFree r' s
      | none => s
    else s
  else s

/-- The selected reference after a change of the priorities (R418). -/
def reselect (s : State) : State :=
  let s := if s.t.lock ∧ (match s.t.sel with | some r => !s.t.prio.contains r | none => false) = true then enterHoldover s else s
  match s.bestRef with
  | some b => if s.t.lock ∧ (s.t.sel = some b ∨ ¬ s.t.revert) then s else relockFree b s
  | none => s

/-- The time for which an invalid reference must stay clean (R417). -/
def qualifyTime (r : Nat) : Nat := if 1 < r then secU else 10 * secU

/-- The announce receipt timeout: 3 announce intervals of the profile (R410). -/
def State.announceInterval (s : State) : Nat := if s.t.aes67 then 2 * secU else secU / 4

/-- A PTP restart (R433): the port listens anew and its reference must qualify again. -/
def restartPtp (why : RefReason) (s : State) : State :=
  let s := setT (fun x => { x with ptpState := 1, lastAnnounce := some x.now, servoSince := none,
                                   parent := 0, dataset := [], syncCorr := 0,
                                   exch := { t1 := none, t2 := none, t3 := none, t4 := none, syncSeq := 0, delaySeq := 0 } }) s
  markInvalid 0 why s

/-! ### What the rows show of a reference (R415, R417) -/

/-- A Sync message (0) or a PPS_IN edge (1) at a device time. -/
def seeEdge (r tU : Nat) (s : State) : State := setT (fun x => { x with edges := nmod [] x.edges r (fun l => (tU :: l).take 2) }) s

/-- Nominal period of the Sync messages and of PPS_IN. -/
def nominal (r : Nat) : Nat := if r = 0 then secU / 8 else secU

/-- Two consecutive expected edges are missing. -/
def State.edgesStopped (s : State) (r : Nat) : Bool := match nget [] s.t.edges r with
  | a :: _ => decide (a + 2 * nominal r < s.t.now)
  | [] => true

/-- A period of the reference that `f` finds bad. -/
def State.periodBad (s : State) (r : Nat) (f : Nat → Bool) : Bool := match nget [] s.t.edges r with
  | a :: b :: _ => f (a - b)
  | _ => false

/-- The condition of R412 and R417 that a row tells of is borne out by what other rows have shown: Sync messages and Announces, the servo,
PPS_IN edges. No row shows the edges of REF10M_IN and WCLK_IN or the rate of PTP, so there the row itself tells (log 90). -/
def State.showsFault (s : State) (r : Nat) (why : RefReason) : Bool :=
  match why with
  | .stopped => decide (1 < r) || s.edgesStopped r
  | .glitched => decide (1 < r) || s.periodBad r (fun p => decide (5 * p < 4 * nominal r) || decide (6 * nominal r < 5 * p))
  | .rate => decide (r ≠ 1) || s.periodBad r (fun p => decide (100 * secU < ((p : Int) - secU).natAbs * 1000000))
  | .announce => decide (r = 0) && (match s.t.lastAnnounce with
      | some a => decide (a + 3 * s.announceInterval < s.t.now)
      | none => true)
  | .servo => decide (r = 0) && s.t.servoSince.isNone
  -- a change of grandmaster acts where its Announce comes
  | .master => false

/-! ### Outputs of the time base (R408) -/

/-- The level of PPS_OUT: high for 100 µs from each whole second. -/
def State.ppsOut (s : State) : Bool := s.coreUp && decide (s.t.now % secU < 100 * usU)

/-- The level of WCLK_OUT: a square wave at the render rate, rising on the sample instants. -/
def State.wclkOut (s : State) : Bool := s.coreUp && decide (((s.t.now + 1) * s.fs - 1) % (65536 * 1000000000) * 2 < 65536 * 1000000000)

end Sys2Proof.Machine
end

