-- ==== Sys2Proof/Machine/NetOps.lean ====
section
/-!
DEFINITION. Sys2Proof/Machine/NetOps.lean: the media and management network's shared operations (12_media_network): frame sorting and
filters, gate lists, RTP streams and their buffers, claim groups (16_twin R534–R536), and the management MAC.
-/
namespace Sys2Proof.Machine

def State.mac (s : State) (p : Nat) : MacPort := nget MacPort.reset s.n.ports p
def setMac (p : Nat) (x : MacPort) (s : State) : State := setN (fun n => { n with ports := nset n.ports p x }) s
def State.sstat (s : State) (k : Nat) : StreamS := nget StreamS.reset s.n.strm k
def setStrm (k : Nat) (x : StreamS) (s : State) : State := setN (fun n => { n with strm := nset n.strm k x }) s
def setMg (f : MgS → MgS) (s : State) : State := setN (fun n => { n with mg := f n.mg }) s

/-- MAXF in bytes. -/
def maxfBytes (c : Nat) : Nat := if c = 0 then 1522 else if c = 1 then 2048 else 9022

/-! ### Frames (R372, R373) -/

/-- The frame check sequence, the last 4 bytes, is right. -/
def fcsGood (f : List Byte) : Bool := decide (crc32e (f.take (f.length - 4)) = getLE f (f.length - 4) 4)

/-- Sorting by length and FCS (R372). -/
inductive Sorted where
  | runt | trunc | badFcs | good
  deriving DecidableEq, Repr

def sortFrame (maxf : Nat) (f : List Byte) : Sorted :=
  if f.length ≤ 63 then .runt else if maxf < f.length then .trunc else if fcsGood f then .good else .badFcs

def frameDst (f : List Byte) : List Byte := f.take 6
def etherType (f : List Byte) : Nat := getBE f 12 2

/-- Length of the Ethernet header with an optional VLAN tag, and the type behind it. -/
def l2Len (f : List Byte) : Nat := if etherType f = 0x8100 then 18 else 14
def l3Type (f : List Byte) : Nat := getBE f (l2Len f - 2) 2

/-- The multicast address of an IPv4 group. -/
def groupMac (ip : List Byte) : List Byte :=
  [0x01, 0x00, 0x5E, BitVec.ofNat 8 (byteAt ip 1 % 128), BitVec.ofNat 8 (byteAt ip 2), BitVec.ofNat 8 (byteAt ip 3)]

def isMulticast (ip : List Byte) : Bool := decide (224 ≤ byteAt ip 0) && decide (byteAt ip 0 < 240)

/-- The multicast table that firmware writes on a media port (R373): the PTP addresses, with UDP/IPv4 those of 13_time R410 too, and each group once, of the lower streams first, for
which the 32 entries leave room (log 89). -/
def State.mediaGroups (s : State) (p : Nat) : List (List Byte) :=
  let groups := (rxStreams.filter (fun k => (s.strm k).en && decide ((s.strm k).port = p) && isMulticast (s.strm k).ip)).map
    (fun k => groupMac (s.strm k).ip)
  let fixed : List (List Byte) := [[0x01, 0x1B, 0x19, 0, 0, 0], [0x01, 0x80, 0xC2, 0, 0, 0x0E]] ++
    (if s.t.eth then [] else [[0x01, 0x00, 0x5E, 0x00, 0x01, 0x81], [0x01, 0x00, 0x5E, 0x00, 0x00, 0x6B]])
  (fixed ++ groups.eraseDups).take 32

/-- The address filter (R373). -/
def filterAccepts (own : List Byte) (table : List (List Byte)) (promisc : Bool) (f : List Byte) : Bool :=
  decide (etherType f ≠ 0x8808) &&
    (promisc || decide (frameDst f = own) || decide (frameDst f = List.replicate 6 0xFF) || table.contains (frameDst f))

/-! ### Consumers of a media frame (R377) -/

/-- IPv4 header length, protocol, UDP destination port and payload of a frame that carries UDP over IPv4. -/
def udpOf (f : List Byte) : Option (List Byte × Nat × List Byte) :=
  let o := l2Len f
  let ihl := byteAt f o % 16 * 4
  if l3Type f = 0x0800 ∧ byteAt f o / 16 = 4 ∧ byteAt f (o + 9) = 17 then
    let u := o + ihl
    some ((f.drop (o + 16)).take 4, getBE f (u + 2) 2, (f.drop (u + 8)).take (getBE f (u + 4) 2 - 8))
  else none

/-- The receive stream that a frame matches. -/
def State.streamFor (s : State) (p : Nat) (f : List Byte) : Option (Nat × List Byte) :=
  match udpOf f with
  | none => none
  | some (dst, port, pay) =>
    match rxStreams.find? (fun k => (s.strm k).en && decide ((s.strm k).port = p) && decide ((s.strm k).ip = dst) &&
        decide ((s.strm k).udpDst = port) && decide ((s.strm k).pt = byteAt pay 1 % 128)) with
    | some k => some (k, pay)
    | none => none

/-- PTP over Ethernet or UDP; ARP, ICMP and IGMP, which firmware answers. -/
def otherConsumer (f : List Byte) : Bool :=
  decide (l3Type f = 0x88F7) || decide (l3Type f = 0x0806) ||
    (decide (l3Type f = 0x0800) && (decide (byteAt f (l2Len f + 9) = 1) || decide (byteAt f (l2Len f + 9) = 2))) ||
    (match udpOf f with | some (_, port, _) => decide (port = 319) || decide (port = 320) | none => false)

/-- The stamp constants of 13_time R413 in 1/100 ns: ingress, egress. -/
def stampConst (speed25 : Bool) (fec : Nat) : Nat × Nat :=
  if speed25 then (if fec = 0 then (985, 750) else if fec = 1 then (3565, 1024) else (12160, 1408))
  else if fec = 0 then (2240, 1875) else (8960, 2560)

/-- The board corrections of a port, in 0.25 ns: ingress, egress. -/
def State.boardCorr (s : State) (p : Nat) : Int × Int :=
  (signed 16 (s.field (0xE040 + 4 * p) 15 0), signed 16 (s.field (0xE040 + 4 * p) 31 16))

/-- A receive stamp, of resolution 0.25 ns, referred to the board's connector (13_time R413, R414). -/
def State.stampIn (s : State) (p tU : Nat) : Nat :=
  (((tU / 16384 * 16384 : Nat) : Int) - ((stampConst (s.mac p).cfg.speed25 (s.mac p).cfg.fec).1 * nsU / 100 : Nat) -
    (s.boardCorr p).1 * 16384).toNat

/-- A transmit stamp, corrected in the same way. -/
def State.stampOut (s : State) (p tU : Nat) : Nat :=
  (((tU / 16384 * 16384 : Nat) : Int) + ((stampConst (s.mac p).cfg.speed25 (s.mac p).cfg.fec).2 * nsU / 100 : Nat) +
    (s.boardCorr p).2 * 16384).toNat

/-- Bytes of frames that wait in the receive FIFO of a port (02_pick_budget R41). Frames other than stream packets leave it at once. -/
def State.rxFifo (s : State) (p : Nat) : Nat := (s.n.rtpQ.filter (fun x => x.port == p)).foldl (fun a x => a + x.len) 0

/-- MEDIA_FRAME_RX (R372, R373, R377, R378). A frame that finds the FIFO of 4 KiB full is dropped before the MAC sorts it, and counted
(02_pick_budget R41; log 89). -/
def mediaFrameRx (p : Nat) (f : List Byte) (s : State) : State :=
  let m := s.mac p
  if ¬ m.cfg.en ∨ 4 ≤ p ∨ ¬ m.link then s
  else if 4096 ≤ s.rxFifo p then setMac p { m with fifoDrops := m.fifoDrops + 1 } s
  else
    let o := 0xD030 + 4 * p
    let pass := fun (trunc : Bool) (f : List Byte) (s : State) =>
      if filterAccepts m.cfg.addr (s.mediaGroups p) m.cfg.promisc f then
        let s := bump (0xD020 + 4 * p) 31 0 s
        match s.streamFor p f with
        | some (k, pay) =>
          if trunc then setStrm k { s.sstat k with malformed := satN 0xFFFF ((s.sstat k).malformed + 1) } s
          else setN (fun n => { n with
            rtpQ := n.rtpQ ++ [{ port := p, len := f.length, stream := k, at_ := s.stampIn p s.t.now, pay := pay }] }) s
        | none => if otherConsumer f then s else bump o 31 24 s
      else bump (0xD040 + 4 * p) 31 0 s
    match sortFrame (maxfBytes m.cfg.maxf) f with
    | .runt => bump o 7 0 s
    | .trunc => pass true (f.take (maxfBytes m.cfg.maxf)) (bump o 23 16 s)
    | .badFcs => bump o 15 8 s
    | .good => pass false f s

/-! ### Stream receivers (R387, R390–R392; 16_twin R533, R534) -/

/-- The claim of an RTP packet (R387): the first element with the configured ID in a 0xBEDE extension. RFC 8285, which R387 names, ends the
elements at ID 15. -/
def findClaim (id : Nat) : Nat → List Byte → Nat
  | 0, _ => 0
  | n + 1, b =>
    match b with
    | [] => 0
    | h :: r =>
      if h = 0 then findClaim id n r
      else if h.toNat / 16 = 15 then 0
      else if h.toNat / 16 = id then (if h.toNat % 16 = 3 then getBE r 0 4 else 0)
      else findClaim id n (r.drop (h.toNat % 16 + 1))

def hasExt (b : List Byte) : Bool := bitOf (byteAt b 0) 4
def extWords (b : List Byte) : Nat := getBE b 14 2
def rtpClaim (id : Nat) (b : List Byte) : Nat :=
  if hasExt b ∧ getBE b 12 2 = 0xBEDE then findClaim id 256 ((b.drop 16).take (4 * extWords b)) else 0

/-- Payload behind the header and its extension. -/
def rtpPayload (b : List Byte) : List Byte := b.drop (12 + if hasExt b then 4 + 4 * extWords b else 0)

/-- The 64-bit sample index nearest the current one (R390). -/
def extendTs (cur ts : Nat) : Nat :=
  let d := (ts + 2 ^ 32 - cur % 2 ^ 32) % 2 ^ 32
  if d < 2 ^ 31 then cur + d else cur + d - 2 ^ 32

/-- The buffer that a receive stream fills: a pair shares one (R392). -/
def StreamCfg.buffer (c : StreamCfg) (k : Nat) : Nat := if c.pair < 256 then min k c.pair else k

/-- Key of a sample in the buffers. -/
def bufKey (b ch idx : Nat) : Nat := (64 * b + ch) * 2 ^ 64 + idx

/-- A packet's samples placed, the first delivery of each (R390, R392). -/
def placeSamples (b nch pt k : Nat) (pay : List Byte) (buf : NMap Int) : NMap Int :=
  (List.range pt).foldl (fun m i => (List.range nch).foldl (fun m c =>
    let key := bufKey b c (k + i)
    match nfind m key with
    | some _ => m
    | none => nset m key (signed 24 (getBE pay (3 * (i * nch + c)) 3))) m) buf

/-- RTP_PACKET_RX (R383, R387, R390–R392, R533). -/
def rtpPacket (k arrival : Nat) (b : List Byte) (s : State) : State :=
  let c := s.strm k
  let x := s.sstat k
  let pay := rtpPayload b
  if ¬ c.en ∨ 256 ≤ k then s
  else if byteAt b 0 / 64 ≠ 2 ∨ bitOf (byteAt b 0) 5 ∨ byteAt b 0 % 16 ≠ 0 ∨ pay.length ≠ 3 * c.nch * c.ptime ∨ byteAt b 1 % 128 ≠ c.pt ∨
      (c.ssrc ≠ 0 ∧ getBE b 8 4 ≠ c.ssrc) then
    setStrm k { x with malformed := satN 0xFFFF (x.malformed + 1) } s
  else
    let seq := getBE b 2 2
    let gap := match x.seq with
      | some q => let d := (seq + 65536 - q) % 65536; if d < 32768 then d - 1 else 0
      | none => 0
    let newer := match x.seq with
      | some q => decide ((seq + 65536 - q) % 65536 < 32768)
      | none => true
    let claim := rtpClaim c.extId b
    let x := { x with packets := satN 0xFFFFFFFF (x.packets + 1), lost := satN 0xFFFF (x.lost + gap),
                      seq := if newer then some seq else x.seq, claim := claim, lastAt := arrival, eligible := true }
    let s := setStrm k x s
    let s := if c.claimGrp < 64 then seeClaim claim s else s
    let n := s.t.pickLen
    let cur := sampleOf s.fs arrival
    let at_ := extendTs cur (getBE b 4 4) + c.linkOfs
    if s.pickAt (at_ / n + 1) < arrival then setStrm k { x with late := satN 0xFFFF (x.late + 1) } s
    else if cur + 8192 < at_ then setStrm k { x with early := satN 0xFFFF (x.early + 1) } s
    else if at_ < x.first then s
    else setN (fun m => { m with buf := placeSamples (c.buffer k) c.nch c.ptime at_ pay m.buf }) s

/-- STREAM_CLAIM_EXPIRY (16_twin R534). -/
def claimExpiry (k : Nat) (s : State) : State :=
  let x := s.sstat k
  if x.eligible ∧ x.lastAt + 4 * s.t.pickLen * 65536 * 1000000000 / s.fs ≤ s.t.now then setStrm k { x with eligible := false } s else s

/-! ### Claim groups (16_twin R535, R536) -/

def State.cgrp (s : State) (g : Nat) : ClaimGrp := nget ClaimGrp.reset s.w.groups g
def setCgrp (g : Nat) (x : ClaimGrp) (s : State) : State := setW (fun w => { w with groups := nset w.groups g x }) s

/-- Eligible streams of a group, highest claim first, lower index first among equals. -/
def State.eligibles (s : State) (g : Nat) : List Nat :=
  (rxStreams.filter (fun k => (s.strm k).en && decide ((s.strm k).claimGrp = g) && (s.sstat k).eligible)).foldl
    (fun acc k => insertBy (fun j => 2 ^ 32 - 1 - (s.sstat j).claim) k acc) []

/-- The stream that a group should play: the one of highest claim, the one playing among equals. -/
def State.bestStream (s : State) (g : Nat) : Option Nat :=
  match s.eligibles g with
  | [] => none
  | k :: r =>
    match (s.cgrp g).sel with
    | some j => if (k :: r).contains j ∧ (s.sstat j).claim = (s.sstat k).claim then some j else some k
    | none => some k

/-- The first pick at or after `p` at whose start a change of selection can take effect (R535). -/
def switchPick (n p : Nat) (times : List Nat) : Nat :=
  let l := times.foldl Nat.lcm n
  ((List.range (l / n + 1)).find? (fun i => decide ((p + i) * n % l = 0))).getD 0 + p

/-- Selection at the deadline of a capture pick: `p` is the pick that starts (R535). -/
def selectGroup (p g : Nat) (s : State) : State :=
  let x := s.cgrp g
  let best := s.bestStream g
  let q := switchPick s.t.pickLen p ((x.sel.toList ++ best.toList).map (fun k => (s.strm k).ptime))
  let next := if best = x.sel then none
    else match x.next with
      | some (q0, t) => if t = best then some (q0, t) else some (q, best)
      | none => some (q, best)
  setCgrp g { x with next := next } s

/-- A change of selection whose pick is `c`, the capture pick about to be read, takes effect. -/
def switchGroup (c g : Nat) (s : State) : State :=
  let x := s.cgrp g
  match x.next with
  | some (q, t) =>
    if q ≤ c then
      let s := setCgrp g { x with sel := t, next := none, filled := false, switches := satN 0xFFFFFFFF (x.switches + 1) } s
      post 0x0A0C g [] (bump (0x10100 + 4 * g) 31 16 s)
    else s
  | none => s

/-- Groups that some enabled stream belongs to. -/
def State.liveGroups (s : State) : List Nat :=
  (List.range 64).filter (fun g => (s.cgrp g).sel.isSome || rxStreams.any (fun k => (s.strm k).en && decide ((s.strm k).claimGrp = g)))

/-! ### Samples of a capture pick (R390–R394, R536) -/

/-- The value of one channel of one render sample, and whether a lower claim filled it. -/
def State.netSample (s : State) (k ch idx : Nat) : Option Int × Bool :=
  let c := s.strm k
  if c.claimGrp < 64 then
    let g := s.cgrp c.claimGrp
    match g.sel with
    | none => (none, false)
    | some j =>
      match nfind s.n.buf (bufKey ((s.strm j).buffer j) ch idx) with
      | some v => (some v, false)
      | none =>
        if bitOf s.w.fill c.claimGrp then
          match (s.eligibles c.claimGrp).filter (fun i => decide (i ≠ j)) with
          | i :: _ => (match nfind s.n.buf (bufKey ((s.strm i).buffer i) ch idx) with | some v => (some v, true) | none => (none, false))
          | [] => (none, false)
        else (none, false)
  else (nfind s.n.buf (bufKey (c.buffer k) ch idx), false)

/-- The channels of stream `k` for capture pick `c` (R391, R394). -/
def streamCapture (c k : Nat) (s : State) : State :=
  let cfg := s.strm k
  let n := s.t.pickLen
  if (nfind s.d.cap (0x100 + cfg.firstCh)).isSome then s
  else (List.range cfg.nch).foldl (fun st ch =>
    let (vals, last, fill) := (List.range n).foldl (fun (acc : List Int × Int × Bool) i =>
      let idx := c * n + i
      if idx < (st.sstat k).first then (acc.1 ++ [0], acc.2.1, acc.2.2)
      else
        let (v, f) := st.netSample k ch idx
        let v := v.getD acc.2.1
        (acc.1 ++ [v], v, acc.2.2 || f)) ([], nget 0 st.n.lastCh (cfg.firstCh + ch), false)
    let st := setN (fun m => { m with lastCh := nset m.lastCh (cfg.firstCh + ch) last }) st
    let st := if fill then setCgrp cfg.claimGrp { st.cgrp cfg.claimGrp with filled := true } st else st
    setD (fun d => { d with cap := nset d.cap (0x100 + cfg.firstCh + ch) (vals.map (· * 16)) }) st) s

/-- The network's part of capture pick `c`, at its deadline; samples read or past leave the buffers. -/
def netCapture (c : Nat) (s : State) : State :=
  let gs := s.liveGroups
  let s := gs.foldl (fun st g => setCgrp g { st.cgrp g with filled := false } (switchGroup c g st)) s
  let s := (rxStreams.filter (fun k => (s.strm k).en)).foldl (fun st k => streamCapture c k st) s
  let s := gs.foldl (fun st g => selectGroup (c + 1) g st) s
  let edge := (c + 1) * s.t.pickLen
  setN (fun m => { m with buf := m.buf.filter (fun x => decide (edge ≤ x.1 % 2 ^ 64)) }) s

/-! ### Stream transmitters (R387–R389, R394; 16_twin R538) -/

/-- Number of the stream that a record names: 0–255 receive, 256–511 transmit. -/
def streamIndex (b : List Byte) : Nat := getLE b 0 2 + (if bitOf (byteAt b 2) 1 then 256 else 0)

/-- RTP header and payload of a packet (R383, R387). -/
def rtpBytes (c : StreamCfg) (seq ts claim : Nat) (samples : List (List Int)) : List Byte :=
  let pay := (List.range c.ptime).foldr (fun i acc =>
    (List.range c.nch).foldr (fun ch acc => beBytes 3 (unsignedOf 24 (lget 0 (lget [] samples ch) i)) ++ acc) [] ++ acc) []
  [BitVec.ofNat 8 (0x80 + flag 4 c.claimExt), BitVec.ofNat 8 c.pt] ++ beBytes 2 seq ++ beBytes 4 ts ++ beBytes 4 c.ssrc ++
    (if c.claimExt then [0xBE, 0xDE, 0, 2, BitVec.ofNat 8 (c.extId * 16 + 3)] ++ beBytes 4 claim ++ zeros 3 else []) ++ pay

/-- Frame length of a stream's packets (R386). -/
def StreamCfg.frameLen (c : StreamCfg) : Nat := 3 * c.nch * c.ptime + 58 + (if c.claimExt then 12 else 0) + (if c.vlan then 4 else 0)

/-- A frame queued at its transmitter's class; with the link down it is discarded (R379, R389). -/
def queueFrame (p : Nat) (f : TxFrame) (s : State) : State :=
  let m := s.mac p
  if ¬ m.link then bump (0xD060 + 4 * p) 31 16 s
  else if f.stream.isSome then
    let older := m.streamQ.filter (fun x => decide (x.queued < f.queued))
    let now := m.streamQ.filter (fun x => decide (f.queued ≤ x.queued))
    setMac p { m with streamQ := older ++ insertBy (fun x => x.ts) f now } s
  else setMac p { m with otherQ := m.otherQ ++ [f] } s

/-- One packet after another made from what a transmitter of stream `k` holds, up to the frame index `lim` (R388, R389, R394). -/
def makePackets (c : StreamCfg) (k q : Nat) (lim : Option Nat) : Nat → StreamS → State → StreamS × State
  | 0, x, s => (x, s)
  | n + 1, x, s =>
    if (nget [] x.held 0).length < c.ptime ∨ (match lim with | some l => decide (l ≤ x.heldFrom) | none => false) = true then (x, s)
    else
      let (seq, s) := match x.seq with
        | some v => (v, s)
        | none => let (v, s) := draw s; (v.toNat % 65536, s)
      let parts := (List.range c.nch).map (fun ch => (nget [] x.held ch).take c.ptime)
      let rest : NMap (List Int) := (List.range c.nch).map (fun ch => (ch, (nget [] x.held ch).drop c.ptime))
      let idx := x.heldFrom
      let x := { x with held := rest, heldFrom := idx + c.ptime, seq := some ((seq + 1) % 65536), claim := s.w.claim }
      let s := if s.outputsDrive then
          queueFrame c.port { stream := some k, len := c.frameLen, ts := idx % 2 ^ 32,
                              bytes := rtpBytes c seq (idx % 2 ^ 32) s.w.claim parts, queued := q } s
        else s
      makePackets c k q lim n x s

/-- Samples that have become available to a transmitter: index of the first and the words per channel. Channels that no resampler feeds
carry zero at another rate, and one that has started later carries zero before (08_filter_chain R261). -/
def State.txSamples (s : State) (c : StreamCfg) (q : Nat) : Nat × List (List Int) :=
  let chans := (List.range c.nch).map (fun ch => 0x700 + c.firstCh + ch)
  if c.rate = 0 ∧ ¬ chans.any s.isTarget then
    (q * s.t.pickLen + 3, chans.map (fun d => (nget (List.replicate s.t.pickLen 0) s.d.out d).map (· / 16)))
  else
    let outs := (chans.map (fun d => nget (0, []) s.f.rsOut d)).filter (fun o => decide (o.2 ≠ []))
    let b := outs.foldl (fun m o => min m o.1) ((outs.map (·.1)).headD 0)
    let e := outs.foldl (fun m o => max m (o.1 + o.2.length)) 0
    (b, chans.map (fun d =>
      let o := nget (0, []) s.f.rsOut d
      (List.range (e - b)).map (fun i => if o.1 ≤ b + i then (lget (0, false) o.2 (b + i - o.1)).1 / 16 else 0)))

/-- The first index of a packet at or after an index. -/
def packetFrom (p k : Nat) : Nat := if p = 0 then k else (k + p - 1) / p * p

/-- The first frame of a transmit stream at or after the start of pick `q` (R388, R394). -/
def State.frameFrom (s : State) (c : StreamCfg) (q : Nat) : Nat :=
  if c.rate = 0 then q * s.t.pickLen
  else (pickStart s.fs s.t.pickLen q * tdmRate c.rate + 65536 * 1000000000 - 1) / (65536 * 1000000000)

/-- New samples behind those that a transmitter holds. Where they do not follow on, as after a stop of the data plane, the stream goes on with
the next packet boundary (log 89). -/
def holdSamples (c : StreamCfg) (b : Nat) (ws : List (List Int)) (x : StreamS) : StreamS :=
  let have_ := (nget [] x.held 0).length
  let next := if have_ = 0 ∧ x.heldFrom < x.first then x.first else x.heldFrom + have_
  let joins := decide (b ≤ next)
  let from_ := if joins then next else packetFrom c.ptime b
  { x with
    held := (List.range c.nch).map (fun ch => (ch, (if joins then nget [] x.held ch else []) ++ (lget [] ws ch).drop (from_ - b))),
    heldFrom := if joins ∧ have_ ≠ 0 then x.heldFrom else from_ }

/-- Whether a change that is due at pick `q` ends or restarts a stream. -/
def State.streamEnds (s : State) (k q : Nat) : Bool :=
  s.sched.any (fun x => decide (x.pick ≤ q) && (match x.chg with
    | .streams recs => (List.range (recs.length / 48)).any (fun i => streamIndex (recs.drop (48 * i)) == k)
    | _ => false))

/-- The transmitters at the start of pick `q`: the outputs of the pick before are taken and full packets queued (R388, R389). A stream that
ends there, or has ended, sends no packet that begins at or after its last pick's end (R394). -/
def netTransmit (q : Nat) (s : State) : State :=
  let s := (txStreams.filter (fun k => (s.strm k).en)).foldl (fun st k =>
    let c := st.strm k
    let (b, ws) := st.txSamples c q
    let lim := if st.streamEnds k q then some (st.frameFrom c q) else none
    let (x, st) := makePackets c k q lim 64 (holdSamples c b ws (st.sstat k)) st
    setStrm k x st) s
  s.n.tails.foldl (fun st e =>
    let (b, ws) := st.txSamples e.cfg q
    let (x, st) := makePackets e.cfg e.stream q (some e.limit) 64 (holdSamples e.cfg b ws e.st) st
    if x.heldFrom < e.limit then setN (fun n => { n with tails := n.tails ++ [{ e with st := x }] }) st else st)
    (setN (fun n => { n with tails := [] }) s)

/-! ### Gate lists (R380–R382) -/

/-- Device time of a place in 1/65,536 of a pick after the start of pick `cs`. -/
def placeTime (fs n cs u : Nat) : Nat := (cs * 65536 + u) * n * 1000000000 / fs

/-- The entry in force, as its index and the place at which it begins. -/
def entryAt : List (Nat × Bool × Bool) → Nat → Nat → Nat → Nat × Nat
  | [], _, i, b => (i, b)
  | (d, _, _) :: r, u, i, b => if u < b + d ∨ r = [] then (i, b) else entryAt r u (i + 1) (b + d)

/-- Cycle start pick, and the place in the cycle of a device time, in 1/65,536 of a pick, rounded down. -/
def gatePlace (fs n cycle t : Nat) : Nat × Nat :=
  let p := pickOf fs n t
  let cs := p - p % cycle
  (cs, (List.range 3).foldl (fun u _ => if placeTime fs n cs (u + 1) ≤ t then u + 1 else u)
    ((t - pickStart fs n cs) * fs / (n * 1000000000) - 1))

/-- Whether a class's gate is open in an entry: the stream class or the other. -/
def gateOf (stream : Bool) (e : Nat × Bool × Bool) : Bool := if stream then e.2.1 else e.2.2

/-- The open time of a class left from place `u`: up to the end of the run of open entries, which may pass over the cycle's end; none for a
gate that never closes. -/
def openLeft (stream : Bool) (g : GateList) (u : Nat) : Option Nat :=
  if g.ents.all (gateOf stream) then none
  else
    let (i, b) := entryAt g.ents u 0 0
    let ring := (g.ents.drop i) ++ (g.ents.take i)
    let run := (ring.takeWhile (gateOf stream)).foldl (fun a e => a + e.1) 0
    some (if run = 0 then 0 else run - (u - b))

/-- The longest open window of a class (R381); none for a gate that never closes. -/
def longestOpen (stream : Bool) (g : GateList) : Option Nat :=
  if g.ents.all (gateOf stream) then none
  else some ((List.range g.ents.length).foldl (fun m i =>
    let ring := (g.ents.drop i) ++ (g.ents.take i)
    max m ((ring.takeWhile (gateOf stream)).foldl (fun a e => a + e.1) 0)) 0)

/-- Total open time of a class in a cycle, in 1/65,536 of a pick. -/
def totalOpen (stream : Bool) (g : GateList) : Nat := (g.ents.filter (gateOf stream)).foldl (fun a e => a + e.1) 0

/-- Transmission time in units of 2^-16 ns, rounded up (R381). -/
def txTime (speed25 : Bool) (len : Nat) : Nat := ((len + 20) * 8 * 65536 + (if speed25 then 24 else 9)) / (if speed25 then 25 else 10)

/-- A length in 1/65,536 of a pick as device time, rounded down. -/
def placeLen (fs n u : Nat) : Nat := u * n * 1000000000 / fs

/-- What a class can do with its first frame now: nothing, discard it, or send it. -/
inductive TxChoice where
  | wait | drop | send
  deriving DecidableEq, Repr

def State.txChoice (s : State) (p : Nat) (stream : Bool) (f : TxFrame) : TxChoice :=
  let m := s.mac p
  let n := s.t.pickLen
  let need := txTime m.cfg.speed25 f.len
  let (cs, u) := gatePlace s.fs n m.gates.cycle s.t.now
  let fits : Bool := match longestOpen stream m.gates with
    | none => true
    | some w => decide (need ≤ placeLen s.fs n w)
  if ¬ fits then .drop
  else match openLeft stream m.gates u with
    | none => .send
    | some 0 => .wait
    | some l => if s.t.now + need ≤ placeTime s.fs n cs (u + l) then .send else .wait

/-- A packet that has not started within one pick of being queued (R389). -/
def State.isLate (s : State) (f : TxFrame) : Bool := f.stream.isSome && decide (s.pickAt (f.queued + 1) < s.t.now)

/-- Packets at the front of the stream class that are too late are discarded (R389). -/
def dropLate (p : Nat) : Nat → State → State
  | 0, s => s
  | n + 1, s =>
    match (s.mac p).streamQ with
    | f :: r =>
      if s.isLate f then
        let s := setMac p { s.mac p with streamQ := r } s
        let s := match f.stream with
          | some k => setStrm k { s.sstat k with late := satN 0xFFFF ((s.sstat k).late + 1) } s
          | none => s
        dropLate p n (post 0x0407 p [] s)
      else s
    | [] => s

/-- STREAM_TX_LATE (R389). -/
def streamLate (p : Nat) (s : State) : State := dropLate p (s.mac p).streamQ.length s

def MacPort.queue (m : MacPort) (stream : Bool) : List TxFrame := if stream then m.streamQ else m.otherQ
def MacPort.withQueue (m : MacPort) (stream : Bool) (l : List TxFrame) : MacPort :=
  if stream then { m with streamQ := l } else { m with otherQ := l }

/-- Frames at the front of a class that no window of the gate list can hold are discarded (R381). -/
def dropLong (p : Nat) (stream : Bool) : Nat → State → State
  | 0, s => s
  | n + 1, s =>
    match (s.mac p).queue stream with
    | f :: r =>
      if s.txChoice p stream f = .drop then
        dropLong p stream n (post 0x0406 p [] (bump (0xD060 + 4 * p) 15 0 (setMac p ((s.mac p).withQueue stream r) s)))
      else s
    | [] => s

/-- A frame starts. -/
def startFrame (p : Nat) (f : TxFrame) (s : State) : State :=
  let m := s.mac p
  let s := setMac p { m with busyTo := s.t.now + txTime m.cfg.speed25 f.len, last := f.bytes } (bump (0xD050 + 4 * p) 31 0 s)
  match f.stream with
  | some k => setStrm k { s.sstat k with packets := satN 0xFFFFFFFF ((s.sstat k).packets + 1) } s
  | none => s

/-- The first frame of a class starts if its gate lets it; the answer tells whether it did. -/
def tryClass (p : Nat) (stream : Bool) (s : State) : Bool × State :=
  match (s.mac p).queue stream with
  | f :: r => if s.txChoice p stream f = .send then (true, startFrame p f (setMac p ((s.mac p).withQueue stream r) s)) else (false, s)
  | [] => (false, s)

/-- MEDIA_FRAME_TX_START (R381, R389): frames that can no longer go are discarded, then the stream class goes first. -/
def mediaTx (p : Nat) (s : State) : State :=
  let m := s.mac p
  if ¬ m.cfg.en ∨ ¬ m.link ∨ s.t.now < m.busyTo then s
  else
    let s := dropLong p false m.otherQ.length (dropLong p true m.streamQ.length (streamLate p s))
    match tryClass p true s with
    | (true, s) => s
    | (false, s) => (tryClass p false s).2

/-- A gate-list swap at the first cycle start of the new list at or after the pick that it names (R382). -/
def gateSwapDue (pick p : Nat) (s : State) : State :=
  let m := s.mac p
  match m.swap, m.nextGates with
  | some (q, late, w), some g =>
    if q ≤ pick ∧ pick % g.cycle = 0 then
      complete w (.atPick pick late) (post 0x0405 p [] (setMac p { m with gates := g, nextGates := none, swap := none, entry := 0 } s))
    else s
  | _, _ => s

/-- GATE_ENTRY_CHANGE (R380). -/
def gateEntry (p : Nat) (s : State) : State :=
  if 4 ≤ p then s
  else
    let m := s.mac p
    let (_, u) := gatePlace s.fs s.t.pickLen m.gates.cycle s.t.now
    setMac p { m with entry := (entryAt m.gates.ents u 0 0).1 } s

/-! ### Links (R376, R379) -/

/-- Every frame that waits is discarded (R379). -/
def dropQueues (p : Nat) (s : State) : State :=
  let m := s.mac p
  bumpBy (m.streamQ.length + m.otherQ.length) (0xD060 + 4 * p) 31 16 (setMac p { m with streamQ := [], otherQ := [] } s)

/-- The link of a port goes up or down (R379). -/
def setLink (p : Nat) (up : Bool) (s : State) : State :=
  let s := if up then s else dropQueues p s
  let s := if p = s.t.cfgPort then setT (fun t => { t with portUpSince := if up then some t.now else none }) s else s
  let s := if ¬ up ∧ p = s.t.ptpPort ∧ p = s.t.cfgPort ∧ s.t.backupEn ∧ s.t.backup ≠ p then
    post 0x0208 0 [] (setT (fun t => { t with ptpPort := t.backup }) s) else s
  post (if up then 0x0401 else 0x0402) p [] (setMac p { s.mac p with link := up } s)

def mediaLink (p : Nat) (up : Bool) (s : State) : State := if p < 4 ∧ (s.mac p).cfg.en ∧ (s.mac p).link ≠ up then setLink p up s else s

/-! ### Records (R376, R384–R386, R393, R394, R404, R405) -/

def macRecord (b : List Byte) : MacCfg :=
  { en := bitOf (byteAt b 1) 0, speed25 := bitOf (byteAt b 1) 1, promisc := bitOf (byteAt b 1) 2, maxf := byteAt b 2, fec := byteAt b 3,
    addr := (b.drop 4).take 6 }

def macRecordOk (b : List Byte) : Bool :=
  decide (byteAt b 0 < 4) && decide (byteAt b 1 < 8) && decide (byteAt b 2 < 3) && decide (byteAt b 3 < 3) &&
    (decide (byteAt b 3 ≠ 2) || bitOf (byteAt b 1) 1) && !bitOf (byteAt b 4) 0 && zeroRange b 10 6

/-- A MAC_CFG record applied: a change of speed, FEC or MAXF, or of the enable, stops and restarts the port (R376). While it is stopped its link
is down as R379 has it, and what waits is discarded (log 89). -/
def applyMac (b : List Byte) (s : State) : State :=
  let p := byteAt b 0
  let c := macRecord b
  let m := s.mac p
  let restart := decide (c.en ≠ m.cfg.en) || decide (c.speed25 ≠ m.cfg.speed25) || decide (c.fec ≠ m.cfg.fec) || decide (c.maxf ≠ m.cfg.maxf)
  if restart then
    let s := if m.link then setLink p false s else s
    setMac p { s.mac p with cfg := c, busyTo := 0 } s
  else setMac p { m with cfg := c } s

def streamRecord (b : List Byte) : StreamCfg :=
  let f := byteAt b 2
  { en := bitOf f 0, tx := bitOf f 1, claimExt := bitOf f 2, vlan := bitOf f 3, port := byteAt b 3, nch := byteAt b 4, ptime := byteAt b 5,
    pt := byteAt b 6, extId := byteAt b 7, firstCh := getLE b 8 2, rate := byteAt b 10, claimGrp := byteAt b 11, ip := (b.drop 12).take 4,
    udpDst := getLE b 16 2, udpSrc := getLE b 18 2, ssrc := getLE b 20 4, linkOfs := getLE b 24 2, vlanTag := getLE b 26 2,
    dscp := byteAt b 28, ttl := byteAt b 29, pair := getLE b 30 2 }

/-- A stream record within its ranges (R383–R386, R404). -/
def State.streamRecordOk (s : State) (b : List Byte) : Bool :=
  let c := streamRecord b
  decide (getLE b 0 2 < 256) && decide (byteAt b 2 < 16) && decide (c.port < 4) && decide (1 ≤ c.nch) && decide (c.nch ≤ 64) &&
  (decide (c.ptime = 6) || decide (c.ptime = 8) || decide (c.ptime = 16) || decide (c.ptime = 48)) && decide (96 ≤ c.pt) && decide (c.pt ≤ 127) &&
  decide (1 ≤ c.extId) && decide (c.extId ≤ 14) && zeroRange b 32 16 && decide (c.frameLen ≤ maxfBytes (s.mac c.port).cfg.maxf) &&
  (if c.tx then
    decide (c.firstCh + c.nch ≤ 768) && decide (c.rate ≤ 4) && decide (c.claimGrp = 0) && decide (c.linkOfs = 0) && !bitOf c.vlanTag 12 &&
      decide (c.dscp ≤ 63) && decide (1 ≤ c.ttl)
   else
    decide (c.firstCh + c.nch ≤ 1024) && decide (c.rate = 0) && (decide (c.claimGrp < 64) || decide (c.claimGrp = 0xFF)) && decide (c.udpSrc = 0) &&
      decide (1 ≤ c.linkOfs) && decide (c.linkOfs ≤ 8191) && (decide (c.pair < 256) || decide (c.pair = 0xFFFF)))

/-- Records of 48 bytes. -/
def records48 (b : List Byte) : List (List Byte) := (List.range (b.length / 48)).map (fun i => (b.drop (48 * i)).take 48)

/-- The stream settings after a run of records. -/
def withStreams (cfgs : NMap StreamCfg) (recs : List Byte) : NMap StreamCfg :=
  (records48 recs).foldl (fun m b => nset m (streamIndex b) (streamRecord b)) cfgs

/-- Two enabled streams of one direction may share channels (R384). -/
def mayShare (a b : StreamCfg) (i j : Nat) : Bool :=
  ((!a.tx && decide (a.claimGrp < 64) && decide (a.claimGrp = b.claimGrp)) || (!a.tx && (decide (a.pair = j) || decide (b.pair = i)))) &&
    decide (a.firstCh = b.firstCh) && decide (a.nch = b.nch)

/-- Some two enabled streams of one direction overlap against R384, or are partnered with unequal channels. -/
def streamsOverlap (m : NMap StreamCfg) : Bool :=
  let l := m.filter (fun x => x.2.en)
  l.any (fun x => l.any (fun y =>
    decide (x.1 < y.1) && (x.2.tx == y.2.tx) &&
      ((decide (x.2.firstCh < y.2.firstCh + y.2.nch) && decide (y.2.firstCh < x.2.firstCh + x.2.nch) && !mayShare x.2 y.2 x.1 y.1) ||
       (!x.2.tx && ((decide (x.2.claimGrp < 64) && decide (x.2.claimGrp = y.2.claimGrp)) || decide (x.2.pair = y.1) || decide (y.2.pair = x.1)) &&
         !(decide (x.2.firstCh = y.2.firstCh) && decide (x.2.nch = y.2.nch))))))

/-- The transmit streams of a port fit its stream windows (R393). -/
def State.streamsFit (s : State) (m : NMap StreamCfg) (p : Nat) : Bool :=
  let port := s.mac p
  let n := s.t.pickLen
  let l := m.filter (fun x => x.2.en && x.2.tx && decide (x.2.port = p))
  let need := l.foldl (fun a x => a + (port.gates.cycle * n + x.2.ptime - 1) / x.2.ptime * txTime port.cfg.speed25 x.2.frameLen) 0
  decide (need ≤ placeLen s.fs n (totalOpen true port.gates))

/-- An IGMP join or leave queued by firmware (R394): the group address behind the kind, the frame's bytes being firmware's (log 40). -/
def igmp (p : Nat) (join : Bool) (ip : List Byte) (s : State) : State :=
  queueFrame p { stream := none, len := 64, ts := 0, bytes := [if join then 0x16 else 0x17] ++ ip, queued := s.m.pick } s

/-- A stream record applied at pick `q` (R394, R405). -/
def applyStream (q : Nat) (b : List Byte) (s : State) : State :=
  let k := streamIndex b
  let c := streamRecord b
  let old := s.strm k
  let x := s.sstat k
  let lim := s.frameFrom old q
  let s := if old.en ∧ old.tx ∧ nget [] x.held 0 ≠ [] ∧ x.heldFrom < lim then
    setN (fun n => { n with tails := n.tails ++ [{ stream := k, cfg := old, st := x, limit := lim }] }) s else s
  let s := setN (fun n => { n with cfgs := nset n.cfgs k c }) s
  let s := if old.en ∧ ¬ old.tx ∧ isMulticast old.ip then igmp old.port false old.ip s else s
  let s := if c.en ∧ ¬ c.tx ∧ isMulticast c.ip then igmp c.port true c.ip s else s
  let q0 := q * s.t.pickLen
  if c.tx then setStrm k { StreamS.reset with first := packetFrom c.ptime (s.frameFrom c q), claim := s.w.claim } s
  else
    let s := (List.range old.nch).foldl (fun st ch => setN (fun n => { n with lastCh := ndel n.lastCh (old.firstCh + ch) }) st) s
    let s := setN (fun n => { n with buf := n.buf.filter (fun x => decide (x.1 / 2 ^ 64 / 64 ≠ old.buffer k)) }) s
    setStrm k { StreamS.reset with first := q0 } s

/-- One status entry (R402). -/
def State.streamEntry (s : State) (k : Nat) : List Byte :=
  let x := s.sstat k
  leBytes 4 x.packets ++ leBytes 2 x.late ++ leBytes 2 x.lost ++ leBytes 2 x.malformed ++ leBytes 2 x.early ++ leBytes 4 x.claim

/-- SNAPSHOT of MAC_STRM_SEL at the end of a pick (R403). -/
def netSnapshot (s : State) : State :=
  if s.n.sel then
    let b := s.streamEntry (s.field 0xD104 7 0 + 256 * s.field 0xD104 8 8)
    let s := (List.range 4).foldl (fun st w => setReg (0xD108 + 4 * w) (BitVec.ofNat 32 (getLE b (4 * w) 4)) st) s
    putField 0xD104 31 31 1 (setN (fun n => { n with sel := false }) s)
  else s

/-! ### The management MAC (R395–R401) -/

/-- Fields of MAC_MG_CTL as held. -/
def MgS.bit (m : MgS) (i : Nat) : Bool := bitOf m.ctl i
def MgS.maxf (m : MgS) : Nat := maxfBytes (bitsOf m.ctl 6 5)
def MgS.lowPct (m : MgS) : Nat := bitsOf m.ctl 12 7
def MgS.hold (m : MgS) : Nat := bitsOf m.ctl 22 13
def MgS.raiseDepth (m : MgS) : Nat := bitsOf m.ctl 30 23

/-- Entries of a host-produced ring that wait. -/
def Ring.waiting (r : Ring) : Nat := if r.depth = 0 then 0 else (r.tail + r.depth - r.head) % r.depth

/-- An entry of a ring whose head the device moves is written back and passed (R446). -/
def writeBack (q : Nat) (entry : List Byte) (s : State) : State :=
  let r := s.ring q
  let s := writeHost (s.ringBase q + 16 * r.head) entry s
  setRing q (if r.head + 1 < r.depth then { r with head := r.head + 1 }
             else { r with head := 0, gen := (r.gen + 1) % 16, phase := !r.phase }) s

/-- A frame delivered into MQ0 by the descriptor at its head (R461). -/
def deliverMq0 (desc f : List Byte) (trunc bad wake : Bool) (s : State) : State :=
  let r := s.ring 12
  let cap := getLE desc 8 2
  let g := f.take cap
  let s := writeHost (getLE desc 0 8) g s
  let flags := flag 0 r.phase + flag 1 (trunc || decide (cap < f.length)) + flag 2 bad + flag 3 wake
  let s := writeBack 12 (desc.take 8 ++ leBytes 2 g.length ++ leBytes 2 flags ++ fit 4 (desc.drop 12)) s
  signal 3 (bump 0xD208 31 0 s)

def mgDropped (s : State) : State := bump 0xD210 31 24 s

/-- A wake pattern matches a frame (R400). -/
def WakePattern.matches (w : WakePattern) (f : List Byte) : Bool :=
  let sel := (List.range 128).filter (fun i => bitOf (byteAt w.mask (i / 8)) (i % 8))
  w.en && sel.all (fun i => decide (i < f.length)) &&
    decide ((sel.map (fun i => lget 0 f i)).foldl (crcByteM 16 0x1021) 0xFFFF = w.check)

/-- Reception in Dormant (R401). -/
def mgDormantRx (f : List Byte) (s : State) : State :=
  let hits := (List.range 16).filter (fun i => match s.n.mg.wake[i]? with | some w => w.matches f | none => false)
  if hits = [] ∨ s.n.mg.held.isSome then mgDropped s
  else
    let s := setMg (fun m => { m with held := some (f.take 2048) }) s
    post 0x0412 0 [] (setReg 0xD214 (s.reg 0xD214 ||| BitVec.ofNat 32 (hits.foldl (fun a i => a + 2 ^ i) 0)) s)

/-- The held wake frame goes first into MQ0 once the driver has enabled it (R401). Returns the descriptors left. -/
def deliverHeld (descs : List (List Byte)) (s : State) : List (List Byte) × State :=
  match s.n.mg.held, descs with
  | some f, d :: r =>
    if s.ringOn 12 ∧ 0 < (s.ring 12).waiting ∧ ¬ s.inDormant then
      (r, deliverMq0 d f false false true (setMg (fun m => { m with held := none }) s))
    else (descs, s)
  | _, _ => (descs, s)

/-- MG_FRAME_RX (R372, R373, R395, R398, R401). -/
def mgFrameRx (frame : Option (List Byte)) (descs : List (List Byte)) (s : State) : State :=
  let (descs, s) := deliverHeld descs s
  match frame with
  | none => s
  | some f =>
    let m := s.n.mg
    if ¬ m.bit 0 ∨ m.negotiating ∨ ¬ m.link then s
    else
      let s := setMg (fun m => { m with rxBytes := m.rxBytes + f.length }) s
      let accept := fun (trunc bad : Bool) (f : List Byte) (s : State) =>
        if ¬ filterAccepts m.addr ((m.mcast.filter (·.2)).map (·.1)) (m.bit 4) f then (if s.m.retention then mgDropped s else s)
        else if s.m.retention then mgDormantRx f s
        else match descs with
          | d :: _ => if s.ringOn 12 ∧ 0 < (s.ring 12).waiting then deliverMq0 d f trunc bad false s else mgDropped s
          | [] => mgDropped s
      match sortFrame m.maxf f with
      | .runt => bump 0xD210 7 0 s
      | .trunc => accept true false (f.take m.maxf) (bump 0xD210 23 16 s)
      | .badFcs => let s := bump 0xD210 15 8 s; if m.bit 3 then accept false true f s else s
      | .good => accept false false f s

/-- A renegotiation to 1,000 or 100 Mb/s starts (R396, R397). -/
def negotiate (high : Bool) (s : State) : State :=
  post (if high then 0x0411 else 0x0410) 0 [] (setMg (fun m => { m with negotiating := true, toHigh := high, low := 0 }) s)

/-- A raise is called for while more frames wait than RAISE_DEPTH (R397, R398). -/
def raiseCheck (s : State) : State :=
  let m := s.n.mg
  if m.raiseDepth < (s.ring 13).waiting ∧ m.partner1000 then
    if m.negotiating then (if m.toHigh then s else setMg (fun m => { m with pending := true }) s)
    else if m.lowered then negotiate true s
    else s
  else s

/-- A frame is posted to MQ1 (R397, R399). -/
def mq1Posted (s : State) : State := raiseCheck (setMg (fun m => { m with lpi := false, emptySince := none }) s)

/-- MG_FRAME_SENT (R395, R398, R461). -/
def mgFrameSent (desc data : List Byte) (s : State) : State :=
  let r := s.ring 13
  let m := s.n.mg
  if ¬ s.ringOn 13 ∨ r.waiting = 0 ∨ m.negotiating ∨ ¬ m.bit 0 ∨ ¬ m.link then s
  else
    let len := max 60 (getLE desc 8 2) + 4
    let s := writeBack 13 (desc.take 10 ++ leBytes 2 (getLE desc 10 2 / 2 * 2 + b2n r.phase) ++ fit 4 (desc.drop 12)) s
    let s := setMg (fun m => { m with txBytes := m.txBytes + len, emptySince := if (s.ring 13).waiting = 0 then some s.t.now else none }) s
    signal 4 (bump 0xD20C 31 0 (setN (fun n => { n with sentMg := fit (max 60 (getLE desc 8 2)) data }) s))

/-- MG_TRAFFIC_WINDOW (R396, R397): a window of 1 s has passed. -/
def trafficWindow (s : State) : State :=
  let m := s.n.mg
  if s.t.now < m.windowAt + secU then s
  else
  let low := decide (max m.rxBytes m.txBytes * 8 * 100 < m.lowPct * 1000000000)
  let n := if m.bit 1 && decide (m.speed = 2) && m.link && low then m.low + 1 else 0
  let s := setMg (fun m => { m with windowAt := s.t.now, rxBytes := 0, txBytes := 0, low := n, sinceRaise := m.sinceRaise + 1 }) s
  let m := s.n.mg
  if m.bit 1 ∧ m.speed = 2 ∧ m.link ∧ ¬ m.negotiating ∧ m.hold ≤ m.low ∧ m.hold ≤ m.sinceRaise then negotiate false s else s

/-- MG_AUTONEG_DONE (R395, R398). -/
def autonegDone (speed : Nat) (link partner1000 : Bool) (s : State) : State :=
  let m := s.n.mg
  let wasLow := m.negotiating && !m.toHigh
  let s := setMg (fun m => { m with
    negotiating := false, speed := min speed 2, link := link, partner1000 := partner1000, lpi := false,
    lowered := if m.negotiating then !m.toHigh else m.lowered, sinceRaise := if m.negotiating && m.toHigh then 0 else m.sinceRaise }) s
  if wasLow && s.n.mg.pending then negotiate true (setMg (fun m => { m with pending := false }) s) else s

/-- MG_LPI_ENTER (R399). -/
def lpiEnter (s : State) : State :=
  let m := s.n.mg
  match m.emptySince with
  | some t => if m.bit 2 ∧ 1 ≤ m.speed ∧ m.link ∧ ¬ m.lpi ∧ t + m.lpiIdle * usU ≤ s.t.now then setMg (fun m => { m with lpi := true }) s else s
  | none => s

/-- The management link at entry to Dormant (R401). -/
def mgDormant (s : State) : State :=
  if s.n.mg.speed = 2 ∧ ¬ s.n.mg.negotiating then setMg (fun m => { m with negotiating := true, toHigh := false }) s else s

end Sys2Proof.Machine
end

