-- ==== Sys2Proof/Machine/Changes.lean ====
section
/-!
DEFINITION. Sys2Proof/Machine/Changes.lean: what a change that names a render pick does at the first sample of that pick
(01_architecture R19–R22; 18_power_modes R605), parameter set by parameter set.
-/
namespace Sys2Proof.Machine

def setO (f : ObjS → ObjS) (s : State) : State := { s with o := f s.o }
def setB (f : BudgetS → BudgetS) (s : State) : State := { s with b := f s.b }
def setM (f : ModeS → ModeS) (s : State) : State := { s with m := f s.m }

/-! ### Layout and ceilings -/

/-- LAYOUT_SWAP takes effect (04_loom_geometry R126, R129, R133): the former active layout becomes the inactive copy. -/
def swapLayout (recut : Bool) (p : Nat) (s : State) : State :=
  match s.x.inactive with
  | none => s
  | some l => if ¬ s.x.loaded then s else post 0x0510 0 (a4 l.id ++ a8 p)
      (setX (fun x => { x with active := l, inactive := some x.active, loaded := false, swapPick := p, invalid := false, recut := recut }) s)

/-- One input's ceiling: a lower one is kept aside for its pick (05_loom_crosspoints R141). -/
def setCeil (i c : Nat) (s : State) : State :=
  if c < s.ceilOf i then setX (fun x => { x with lower := nset x.lower i c }) s
  else setX (fun x => { x with ceil := nset x.ceil i c, lower := ndel x.lower i }) s

/-- The ceilings lowered in the pick before are in force; RECUT ends with its pick, also where that pick stopped before its geometry was
finished (R138, R141; log 80). -/
def commitCeilings (s : State) : State :=
  setX (fun x => { x with ceil := x.lower.foldl (fun m e => nset m e.1 e.2) x.ceil, lower := [], recut := false }) s

/-- Outputs disabled in the pick before have faded out (06_reed R168). -/
def settleChains (s : State) : State :=
  setR (fun r => { r with chain := r.chain.map (fun x => (x.1, { x.2 with fading := false, oldDelay := none })) }) s

/-! ### Objects (03_objects R90, R95) -/

/-- OBJ_RESET at its pick: the object is as after reset, and the updates released before the command that name this pick or an earlier
one are discarded. -/
def resetObject (p rel i : Nat) (s : State) : State :=
  setO (fun o => { o with
    applied := ndel o.applied i, info := ndel o.info i,
    store := o.store.filter (fun u => !(decide (getLE u.bytes 12 2 % 1024 = i) && decide (u.q ≤ p) && decide (u.rel < rel))) }) s

def glideObject (g i : Nat) (s : State) : State :=
  setO (fun o => { o with applied := nmod ObjState.reset o.applied i (fun x => { x with glide := g }) }) s

/-! ### Reed (06_reed R168–R170, R187–R193, R668) -/

/-- One output's record; a disabled output that the same pick enables again starts at the next one (18_power_modes R609). -/
def applyOut (p o : Nat) (rec : List Byte) (s : State) : State :=
  let ap := getLE rec 12 2
  let fl := getLE rec 0 2
  let c := s.outCfg o
  let en := if bitOf ap 0 then bitOf fl 0 else c.en
  if en && !c.en && (s.chainOf o).fading then
    { s with sched := { pick := p + 1, who := none, chg := .reedCfg o rec, late := false } :: s.sched }
  else
    let c' := { c with
      en := en, limEn := if bitOf ap 0 then bitOf fl 1 else c.limEn, delay := if bitOf ap 1 then getLE rec 2 2 else c.delay,
      trim := if bitOf ap 2 then getLES rec 4 2 else c.trim, thresh := if bitOf ap 3 then getLES rec 6 2 else c.thresh,
      attack := if bitOf ap 3 then getLE rec 8 2 else c.attack, release := if bitOf ap 3 then getLE rec 10 2 else c.release }
    let h := s.chainOf o
    let h := if en && !c.en then { Chain.clear with trim := c'.trim }
      else
        let h := if c.en && !en then { h with fading := true } else h
        if bitOf ap 1 && !bitOf fl 2 && decide (c'.delay ≠ c.delay) then { h with oldDelay := some (h.oldDelay.getD c.delay) } else h
    setR (fun r => { r with cfg := nset r.cfg o c', chain := nset r.chain o h }) s

/-- The banks swap (R188–R193). The answer tells whether a crossfade was made abruptly. -/
def swapBanks (xf ab late : Bool) (p : Nat) (s : State) : State × Bool :=
  let ch := s.reedChanged
  let shed := ab || decide (1 ≤ s.b.shed)
  let cross := xf && !shed
  let id := s.reedInactive.id
  let s := setR (fun r => { r with active := 1 - r.active, loaded := false, swapPick := p, xfade := if cross then ch else [] }) s
  let s := post 0x0602 0 (a8 p ++ a4 id ++ a2 ch.length ++ a1 (b2n cross)) s
  (if late then post 0x0603 0 [] s else s, xf && shed)

/-! ### Heddle (07_heddle R214, R229, R231, R669) -/

/-- ROUTE_SWAP takes effect: the former active set becomes the inactive copy (R229), and the cut-through entries before it serve the input
frames before the pick's first sample (R243). -/
def swapRouteSets (late : Bool) (p : Nat) (s : State) : State × Bool :=
  match s.d.inactive with
  | none => (s, false)
  | some n => if ¬ s.d.loaded then (s, false) else
    let (rs, cut) := swapRoutes s.fs s.d.routes n
    let (add, rem) := swapCounts s.d.active n
    let s := setD (fun d => { d with
      active := n, inactive := some d.active, loaded := false, swapPick := p, invalid := false, routes := rs,
      cutWas := s.cutsAt (p * s.t.pickLen), cutFrom := p * s.t.pickLen }) s
    let s := post 0x0340 0 (a8 p ++ a4 n.id ++ a2 add ++ a2 rem) s
    (if late then post 0x0341 0 [] s else s, cut)

/-! ### Filter chain (08_filter_chain R283) -/

/-- FCH_PDM_SET at pick p: outputs that it enables or changes start as after a reset of their own. -/
def applyPdm (p lines opt modes : Nat) (s : State) : State :=
  let f := s.f
  let clk := decide (f.clk6m ≠ bitOf opt 0)
  let skew := decide (f.skew ≠ bitOf opt 1)
  let changed := fun (m : Nat) =>
    decide (outMode f.modes m ≠ outMode modes m) || decide (bitOf f.lines (m / 2) ≠ bitOf lines (m / 2)) ||
      (decide (outMode modes m = 1) && (clk || (skew && decide (m % 2 = 0))))
  let s := setF (fun f => { f with lines := lines, clk6m := bitOf opt 0, skew := bitOf opt 1, modes := modes }) s
  let z := p * s.t.pickLen + s.settleLen
  setF (fun f => { f with mics := (List.range 16).foldl (fun a m =>
    if outMode modes m = 0 then ndel a m else if changed m then nset a m (Mic.clear z) else a) f.mics }) s

/-- L and M in lowest terms (R260). -/
def reduced (l m : Nat) : Nat × Nat := (l / Nat.gcd l m, m / Nat.gcd l m)

/-- The channel of a record as it starts at pick p: as after a reset of its own (R271, R272, R283). -/
def rsFresh (n p : Nat) (b : List Byte) : RsChan :=
  let (l, m) := reduced (getLE b 2 2) (getLE b 4 2)
  let c : RsChan := { l := l, m := m, dst := getLE b 6 2, hist := [], since := p * n, zeroTo := 0 }
  { c with zeroTo := c.firstAt (p * n) + rsSettle c }

/-- One resampler record at pick p: a channel that it enables or changes starts anew, its outputs of that pick zero (R272). -/
def applyRs (p : Nat) (b : List Byte) (s : State) : State :=
  let j := byteAt b 0
  let c := rsFresh s.t.pickLen p b
  let old := nfind s.f.rs j
  let same := match old with
    | some o => bitOf (byteAt b 1) 0 && decide (o.l = c.l) && decide (o.m = c.m) && decide (o.dst = c.dst)
    | none => false
  if same then s
  else
    let s := match old with
      | some o => setF (fun f => { f with rs := ndel f.rs j, rsOut := ndel f.rsOut o.dst }) s
      | none => s
    if bitOf (byteAt b 1) 0 then
      let n := s.t.pickLen
      let a := rsFirst n c.l c.m p
      let zeros := List.replicate (rsFirst n c.l c.m (p + 1) - a) ((0 : Int), false)
      setF (fun f => { f with rs := nset f.rs j c, rsOut := nset f.rsOut c.dst (a, zeros) }) s
    else s

/-! ### Modes (18_power_modes R601, R605) -/

/-- The mode of the data plane, under Maintain too. -/
def setDataMode (m : Mode) (s : State) : State :=
  setM (fun x => if x.mode = .maintain then { x with under := m } else { x with mode := m }) s

/-- The stimulus ends (08_filter_chain R275, R278). -/
def stopStimulus (s : State) : State :=
  if s.f.stimOn then post 0x0356 0 [] (setF (fun f => { f with stimOn := false, stimAt := none }) s)
  else setF (fun f => { f with stimAt := none }) s

/-- Leaving Measure (06_reed R201; 08_filter_chain R278). -/
def leaveMeasure (s : State) : State := if s.dataMode = .measure then endMeas stMode (stopStimulus s) else s

/-- The Loom, Reed and Batten cores stop (R605, 09_batten_cores R310). -/
def stopRender (s : State) : State := battenStop (setR (fun r => { r with outs := [] }) (setX (fun x => { x with sums := [] }) s))

/-- They start (05_loom_crosspoints R136, 06_reed R202, 09_batten_cores R310). -/
def startRender (s : State) : State := battenStart (reedStart (loomStart s))

/-- A lead that enters Pass while its shadow is ready asks for a handover at the pick after next (16_twin R540). -/
def passHandover (p : Nat) (s : State) : State :=
  if s.w.en ∧ s.w.role = 1 ∧ s.peerUp ∧ s.w.peerReady ∧ s.w.swap.isNone then setW (fun w => { w with swap := some (p + 2, none) }) s else s

/-- The device enters Pass at render pick p. -/
def enterPass (p : Nat) (s : State) : State :=
  if s.rendering then passHandover p (setDataMode .pass (stopRender (leaveMeasure s))) else setDataMode .pass s

/-- A unit that enters Lead or Shadow without a role listens (16_twin R541); one that kept its role through Pass resumes in it. -/
def takeRole (m : Mode) (s : State) : State :=
  if ¬ s.w.en ∨ (m ≠ .lead ∧ m ≠ .shadow) then s
  else if s.w.role = 0 then startListening s
  else if s.w.role = 1 then setDataMode .lead s
  else if s.w.role = 2 then setDataMode .shadow s
  else s

/-- The data plane goes over to a running mode at render pick p. -/
def enterMode (m : Mode) (p : Nat) (s : State) : State :=
  if m = .pass then enterPass p s
  else
    let was := s.rendering
    let s := if m = .measure then s else leaveMeasure s
    let s := setB (fun b => { b with shedRender := false }) (if was then s else startRender s)
    takeRole m (setDataMode m s)

/-- Entry to Dormant at render pick p (R607): nothing renders any more, outputs carry zero, transmitters run their lead-out. -/
def beginLeadOut (p : Nat) (s : State) : State :=
  let t := s.pickAt p
  let s := heddleHalt (stopRender (leaveMeasure s))
  let s := (List.range 24).foldl (fun st q =>
    let d := st.dir q
    let d := { d with startAt := none, pending := false }
    setDir q (if d.st = 1 ∨ d.st = 2 then { d with stopAt := some (firstFrame (st.outRate q) (st.outOfs q) t) } else d) st) s
  setM (fun m => { m with leadOut := true }) s

/-- Shedding step n takes effect at render pick p (02_pick_budget R59, R60, R62). -/
def takeShed (n p : Nat) (s : State) : State :=
  let s := post 0x0121 0 (a1 n) s
  if n = 2 then endMeas stBudget (stopStimulus (setB (fun b => { b with shed := 2 }) s))
  else if n = 4 then enterPass p (setB (fun b => { b with shedRender := true }) s)
  else setB (fun b => { b with shed := n }) s

/-- Steps 1 to 3 reinstated (R60, R61). -/
def restoreSteps (s : State) : State :=
  if s.b.shed = 0 then s
  else
    let s := setB (fun b => { b with shed := 0 }) s
    post 0x0122 0 (a1 s.shedStep) s

/-! ### One change -/

/-- Records of a list applied in order. -/
def eachRecord (f : List Byte → State → State) (rs : List (List Byte)) (s : State) : State := rs.foldl (fun st r => f r st) s

/-- The change takes effect at render pick p; the answer tells whether a crossfade was made abruptly. -/
def applyChange (p : Nat) (x : Sched) (s : State) : State × Bool :=
  let t := s.pickAt p
  match x.chg with
  | .budget tgt xf => (setB (fun b => { b with target := tgt.getD b.target, xfade := xf.getD b.xfade }) s, false)
  | .restore => (restoreSteps s, false)
  | .shed n => (takeShed n p s, false)
  | .layoutSwap recut => (swapLayout recut p s, false)
  | .speed v => (setX (fun y => { y with sos := v }) s, false)
  | .ceil first count c => ((List.range count).foldl (fun st i => setCeil (first + i) c st) s, false)
  | .objGlide first count g => ((List.range count).foldl (fun st i => glideObject g (first + i) st) s, false)
  | .objReset first count rel => ((List.range count).foldl (fun st i => resetObject p rel (first + i) st) s, false)
  | .reedCfg first recs => (((records16 recs).zipIdx).foldl (fun st r => applyOut p (first + r.2) r.1 st) s, false)
  | .bankSwap xf ab => swapBanks xf ab x.late p s
  | .routeSwap => swapRouteSets x.late p s
  | .infilt first count h => (setD (fun d => { d with hpf := (List.range count).foldl (fun m i => nset m (first + i) h) d.hpf }) s, false)
  | .pdm lines opt modes => (applyPdm p lines opt modes s, false)
  | .resample recs => (eachRecord (applyRs p) (records16 recs) (setF (fun f => { f with rsDisabled := false }) s), false)
  | .aesCfg recs => (eachRecord (fun r => applyAes r t) (records16 recs) s, false)
  | .tdmCfg recs => (eachRecord (fun r => applyTdm r t) (records16 recs) s, false)
  | .macCfg recs => (eachRecord applyMac (records16 recs) s, false)
  | .streams recs => (eachRecord (applyStream p) (records48 recs) s, false)
  | .batStart l => (startBatten l p s, false)
  | .batStop l => (stopBatten l s, false)
  | .mode req => (if req.target = .dormant then beginLeadOut p s else if req.target = .maintain then s
    else enterMode req.target p (setM (fun m => { m with mode := if m.mode = .maintain then m.under else m.mode }) s), false)

/-- Changes whose completion reports the render pick used (R133, R209, R229, R314; 14_host_interface R453). -/
def Change.reports : Change → Bool
  | .layoutSwap _ => true | .bankSwap _ _ => true | .routeSwap => true | .batStart _ => true | .batStop _ => true | _ => false

/-- The parameter set that a swap waits for. -/
def Change.loads : Change → Option ParamSet
  | .layoutSwap _ => some .layout | .routeSwap => some .route | .bankSwap _ _ => some .reed | .batStart l => some (.bat l) | _ => none

/-- Two changes are swaps of the same set (R665). -/
def Change.sameSwap (a b : Change) : Bool := a.loads.isSome && decide (a.loads = b.loads)

/-- A load of a set is in progress (R666). -/
def State.loading (s : State) (p : ParamSet) : Bool := s.h.loads.any (fun l => decide (l.set = p))

/-- Changes of object settings, which wait while the control plane is off and objects are frozen (03_objects R91, R95). -/
def Change.ofObjects : Change → Bool
  | .objGlide _ _ _ => true | .objReset _ _ _ => true | _ => false

/-- The change cannot take effect yet: a swap that waits for a load (R666), or a change of frozen objects. -/
def State.mustWait (s : State) (c : Change) : Bool :=
  (match c.loads with
    | some p => s.loading p
    | none => false) || (c.ofObjects && !s.m.fwReady)

/-- A change takes effect at p and its command completes (R667). -/
def takeEffect (p : Nat) (x : Sched) (s : State) : State :=
  let (s, ab) := applyChange p x s
  match x.chg with
  -- entry to Dormant and the modes' other ends complete by their own rules (18_power_modes R605, R607)
  | .mode _ => s
  | _ =>
    let e := if x.chg.reports then Ending.atPick p x.late else Ending.of stOK
    completeOpt x.who { e with late := x.late, abrupt := ab } s

/-- The changes that are due at render pick p, in order of acceptance; the others stay. -/
def applyDue (p : Nat) (s : State) : State :=
  let due := s.sched.filter (fun x => decide (x.pick ≤ p) && !s.mustWait x.chg)
  let rest := s.sched.filter (fun x => !(decide (x.pick ≤ p) && !s.mustWait x.chg))
  due.foldl (fun st x => takeEffect p { x with late := x.late || decide (x.pick < p) } st) { s with sched := rest }

/-- What comes at the very instant at which the pick in progress began counts as made by its start, also after the mark (R20; 03_objects
R77). -/
def State.atStart (s : State) : Bool := s.m.dpRun && decide (s.t.now = s.pickAt s.m.pick)

/-- The first pick of a start of the data plane: what names an earlier one takes effect at it, and not late (18_power_modes R604). -/
def meetStart (p : Nat) (s : State) : State := { s with sched := s.sched.map (fun x => { x with pick := max p x.pick }) }

/-- Changes put in order of their picks, those of one pick in order of acceptance. -/
def byPick (l : List Sched) : List Sched := l.foldl (fun acc x => insertBy (fun y => y.pick) x acc) []

/-- The configuration as it will stand at render pick q, every change for that pick or an earlier one applied (02_pick_budget R47).
Ceilings lowered at earlier picks have fallen; those lowered at q itself have not (05_loom_crosspoints R141). -/
def State.configAt (s : State) (q : Nat) : State :=
  let l := byPick (s.sched.filter (fun x => decide (x.pick ≤ q)))
  let go := fun (st : State) (x : Sched) => (applyChange q x st).1
  (l.filter (fun x => decide (q ≤ x.pick))).foldl go (settleChains (commitCeilings ((l.filter (fun x => decide (x.pick < q))).foldl go s)))

end Sys2Proof.Machine
end

