-- ==== Sys2Proof/Machine/Admission.lean ====
section
/-!
DEFINITION. Sys2Proof/Machine/Admission.lean: what admission counts and decides (02_pick_budget R43–R49; 16_twin R523), and how a change of
render rate or pick length is taken up when the data plane starts (18_power_modes R603).
-/
namespace Sys2Proof.Machine

/-! ### Reservations (R44) -/

/-- Entries of two sets, a route of both counted once (07_heddle R229, R231). -/
def unionEnts (a b : List RouteEnt) : List RouteEnt := b ++ a.filter (fun x => !b.any (fun y => y.same x))

/-- The long formulas apply at a pick (06_reed R175, R190): a long bank is active, or the lead-in of a swap between the kinds runs. -/
def State.longAt (now at_ : State) (q : Nat) : Bool :=
  at_.reedActive.long || now.sched.any (fun x => match x.chg with
    | .bankSwap _ _ => decide (q < x.pick) && decide (x.pick ≤ q + leadPicks now.t.pickLen) && (now.reedInactive.long != now.reedActive.long)
    | _ => false)

/-- Reservations E0 to E7 (R44) of a configuration with the given routes and length of bank. -/
def reservations (c : State) (ents : List RouteEnt) (long : Bool) : List Nat :=
  let n := c.t.pickLen
  let (ri, ro) := passCounts ents
  let k := c.outsEnabled + c.xAllow
  let cs := c.ceilSum
  [c.countSources * n + 2 * ri * n, cs, cs * n,
   k * (if long then 1040 * n + 288 else 520 * n + 144) + (if c.r.meas.isSome then 2048 * n else 0),
   2 * ro * n, c.fchSteps, sumTo 32 c.batResv, k * (if long then 80 * n else 40 * n)]

/-- In Pass only E0, E4 and E5 count; in Dormant nothing does (R49). In start-up a configuration counts as in Lead (18_power_modes
R604). -/
def countedIn (c : State) (r : List Nat) : List Nat :=
  if c.inDormant then List.replicate 8 0
  else if c.rendering ∨ c.m.start then r
  else [lget 0 r 0, 0, 0, 0, lget 0 r 4, lget 0 r 5, 0, 0]

/-! ### The three inequalities (R45). Times are in units of 1/40,800 µs, which every rate of R43 divides. -/

/-- 32 times T_adm. -/
def admitted32 (r : List Nat) : Nat :=
  let t1 := 6 * lget 0 r 1
  let t2 := lget 0 r 2
  let tr := max (2 * lget 0 r 3) (6 * lget 0 r 7)
  let t4 := 6 * lget 0 r 4
  32 * 6 * lget 0 r 0 + 31 * max (max t1 t2) (max tr t4) + (t1 + t2 + tr + t4)

/-- A time of `x` units is at most (1 − s) × P, s in percent. -/
def within (x target n fs : Nat) : Bool := decide (x * 100 * fs ≤ (100 - target) * 40800 * n * 1000000)

/-- Admission of a counted configuration (R45). -/
def admits (c : State) (r : List Nat) : Bool :=
  let n := c.t.pickLen
  let ok := fun x => within x c.b.target n c.fs
  decide (admitted32 r * 100 * c.fs ≤ (100 - c.b.target) * 32 * 40800 * n * 1000000) && ok (48 * lget 0 r 5) &&
    (lget 0 r 6 == 0 || (List.range 32).all (fun l => ok (6 * lget 0 r 0 + 51 * c.batResv l)))

/-- The entries that count at render pick q: those in force just before it and those in force in it. -/
def State.entsAt (s : State) (q : Nat) : List RouteEnt :=
  unionEnts ((s.configAt (q - 1)).d.active.ents.map (·.2)) ((s.configAt q).d.active.ents.map (·.2))

/-- Admission of what `s` has scheduled, as it will stand at render pick q (R47). -/
def State.admitsAt (s : State) (q : Nat) : Bool :=
  let c := s.configAt q
  c.inDormant || admits c (countedIn c (reservations c (s.entsAt q) (s.longAt c q)))

/-! ### Reports (R63–R65) -/

/-- The reservations of the active configuration; with the data plane stopped nothing runs, and the registers read their reset values, 0
(R49, R64). -/
def State.resvNow (s : State) : List Nat :=
  if s.m.dpRun then countedIn s (reservations s s.routesNow (s.longAt s s.m.pick)) else List.replicate 8 0

/-- T_adm ÷ P in 1/65,536, between the two neighbouring whole numbers (log 29). -/
def State.fraction (s : State) : Nat :=
  let a := admitted32 s.resvNow * s.fs * 65536
  let d := 32 * 40800 * s.t.pickLen * 1000000
  if d = 0 then 0 else satN 0xFFFF (a / d + (if a % d = 0 then 0 else b2n (Config.roundBit [(a : Int), (d : Int)])))

/-! ### Changes of rate and pick length (R128, R203, R225, R279, R311; 05_loom_crosspoints R137) -/

/-- A pending swap of a set whose inactive copy has been emptied is cancelled (01_architecture R667). -/
def cancelSwaps (set : ParamSet) (s : State) : State :=
  let gone := s.sched.filter (fun x => decide (x.chg.loads = some set))
  gone.foldl (fun st x => completeOpt x.who (.of stAborted) st) { s with sched := s.sched.filter (fun x => !decide (x.chg.loads = some set)) }

/-- A layout names outputs that exist (R128). -/
def Layout.exists_ (l : Layout) (n : Nat) : Bool := l.verts.all (fun v => decide (v.out < n)) && l.ents.all (fun e => decide (e.1 < n))

/-- The Loom's recheck (R128, R137). -/
def recheckLayout (s : State) : State :=
  let n := s.outputs
  let s := setX (fun x => { x with ceilDef := min n x.ceilDef, ceil := x.ceil.map (fun e => (e.1, min n e.2)) }) s
  if ¬ s.x.active.exists_ n then
    let id := s.x.active.id
    cancelSwaps .layout (post 0x0511 0 (a4 id) (setX (fun x => { x with active := Layout.empty, inactive := none, loaded := false, invalid := true }) s))
  else match s.x.inactive with
    | some l =>
      if l.exists_ n then s
      else cancelSwaps .layout (post 0x0511 0 (a4 l.id) (setX (fun x => { x with inactive := none, loaded := false }) s))
    | none => s

/-- A route whose ends exist and share the render rate (R225). -/
def State.routeStands (s : State) (e : RouteEnt) : Bool := srcCode s.t.rate96 e.src && dstCode s.t.rate96 e.dst && decide (s.dstRate e.dst = s.fs)

/-- The Heddle's recheck (R225). -/
def recheckRoutes (s : State) : State :=
  let keep := s.d.active.ents.filter (fun x => s.routeStands x.2)
  let gone := s.d.active.ents.length - keep.length
  let drop := match s.d.inactive with
    | some r => r.ents.any (fun x => !s.routeStands x.2)
    | none => false
  let s := setD (fun d => { d with active := { d.active with ents := keep }, inactive := if drop then none else d.inactive,
                                   loaded := d.loaded && !drop,
                                   invalid := d.invalid || decide (gone ≠ 0) || drop }) s
  let s := if drop then cancelSwaps .route s else s
  if gone ≠ 0 ∨ drop then post 0x0345 0 (a2 gone ++ a1 (b2n drop)) s else s

/-- The Reed's recheck (06_reed R203). -/
def recheckOutputs (s : State) : State :=
  let gone := (fromTo s.outputs 511).filter (fun o => (s.outCfg o).en)
  let s := setR (fun r => { r with cfg := gone.foldl (fun m o => nset m o { nget OutCfg.reset m o with en := false }) r.cfg }) s
  if gone = [] then s else post 0x0608 0 (a2 gone.length) s

/-- The filter chain's recheck (08_filter_chain R279). -/
def recheckFilterChain (s : State) : State :=
  let bad := s.f.rs.filter (fun x => !s.targetRuns x.2.dst x.2.l x.2.m)
  let noChain := (chainOf s.f.clk6m s.t.rate96).isNone && decide (s.f.lines ≠ 0)
  let lines := if noChain then sumTo 8 (fun k => b2n (bitOf s.f.lines k)) else 0
  let s := setF (fun f => { f with
    lines := if noChain then 0 else f.lines, rs := f.rs.filter (fun x => s.targetRuns x.2.dst x.2.l x.2.m),
    rsDisabled := f.rsDisabled || decide (bad ≠ []) }) s
  if noChain ∨ bad ≠ [] then post 0x0358 0 (a2 lines ++ a2 bad.length) s else s

/-- The pending render rate and pick length are taken up, with every recheck (R32, R603). -/
def takeRate (s : State) : State :=
  match s.t.pendRate with
  | none => s
  | some (r96, n) =>
    let rate := decide (s.t.rate96 ≠ r96)
    let len := decide (s.t.pickLen ≠ n)
    let s := { s with t := { s.t with rate96 := r96, pickLen := n, pendRate := none } }
    let s := if rate then recheckFilterChain (recheckRoutes (recheckOutputs (recheckLayout s))) else s
    if len then battenRecheck s else s

/-- The state that admission of a command looks at: in start-up, as at the first pick of the start (18_power_modes R604). -/
def State.planned (s : State) : State := if s.m.start then takeRate s else s

/-- The pick at which a command's change is judged: in start-up no earlier than the first pick of the start (18_power_modes R604). -/
def State.judgePick (s : State) (q : Nat) : Nat := if s.m.start then max q s.planned.nextPick else q

/-- A command that changes reservations passes admission at render pick q. -/
def State.inBudget (s : State) (q : Nat) : Bool := s.planned.admitsAt (s.judgePick q)

end Sys2Proof.Machine
end

