-- ==== Sys2Proof/Machine/RegViews.lean ====
section
/-!
DEFINITION. Sys2Proof/Machine/RegViews.lean: the fields of the core domain's blocks that report typed state (19_register_map R624),
block by block, and the value of any register. Offsets are relative to the block.
-/
namespace Sys2Proof.Machine

/-- A list of numbers as one number, `w` bits each, the first one lowest. -/
def pack (w : Nat) (l : List Nat) : Nat := l.foldr (fun x acc => x % 2 ^ w + 2 ^ w * acc) 0

/-- Records that are accepted and not released, of every ring. -/
def State.checkedCount (s : State) : Nat := s.o.checked.foldl (fun n x => n + x.2.length) 0

/-- Entries of the pending store (03_objects R79): every accepted update that has not been applied, released or not (log 55). -/
def State.pendCount (s : State) : Nat := s.o.store.length + s.checkedCount

/-! ### Management blocks -/

/-- SYS: the live reservations and the admitted fraction (R64). -/
def sysView2 (s : State) (o : Nat) : List FieldView :=
  if o = 0x10C then [(15, 0, s.fraction)]
  else if 0x120 ≤ o ∧ o < 0x140 then [(31, 0, lget 0 s.resvNow ((o - 0x120) / 4))]
  else sysView s o

/-- A held enable of a port or stream, of a Reed output, of a logical core (18_power_modes R609). -/
def State.portHeld (s : State) : Bool := s.a.out.any (fun x => x.2.pending) || s.a.tin.any (fun x => x.2.pending)
def State.engineHeld (s : State) : Bool := s.sched.any (fun x => match x.chg with
  | .reedCfg _ _ => x.who.isNone
  | _ => false)
def State.battenHeld (s : State) : Bool := s.sched.any (fun x => match x.chg with
  | .batStart l => (s.lcore l).runs && s.sched.any (fun y => decide (y.chg = .batStop l))
  | _ => false)

/-- TRD with the held enables of TRD_PEND. -/
def trdView2 (s : State) (o : Nat) : List FieldView :=
  if o = 0x40 then [(0, 0, b2n s.portHeld), (1, 1, b2n s.engineHeld), (2, 2, b2n s.battenHeld), (3, 3, b2n s.railHeld)]
  else trdView s o

/-- MBX: notices in the host mailboxes and on chip, and the epochs (14_host_interface R470; 15_fabric R508). -/
def mbxView (s : State) (o : Nat) : List FieldView :=
  if o = 0x40 then [(31, 0, pack 4 ((List.range 8).map (fun k => (s.mbox k).length)))]
  else if 0x100 ≤ o ∧ o < 0x110 then
    [(31, 0, pack 4 ((List.range 8).map (fun k => (s.ocBox (8 * ((o - 0x100) / 4) + k)).length)))]
  else if 0x120 ≤ o ∧ o < 0x130 then
    [(31, 0, pack 8 ((List.range 4).map (fun k => nget 0 s.g.epochs (4 * ((o - 0x120) / 4) + k))))]
  else []

/-! ### Fabric (15_fabric R508) -/

def shtView (s : State) (o : Nat) : List FieldView :=
  if o = 0 then [(8, 0, s.g.slots.length), (9, 9, b2n (s.g.levels.any (fun x => x.2.bpFrom.isSome)))]
  else if o = 0xC then [(0, 0, b2n s.g.traceEn), (24, 16, s.g.kinds)]
  else if 0x100 ≤ o ∧ o < 0x180 then
    let l := s.level ((o - 0x100) / 4)
    [(4, 0, l.hwq.length), (20, 8, l.spill.length)]
  else if 0x200 ≤ o ∧ o < 0x240 then
    let f := s.flow ((o - 0x200) / 4)
    [(6, 0, f.opened.length), (7, 7, b2n (decide (64 ≤ f.opened.length))), (14, 8, f.done.length)]
  else []

def bobView (s : State) (o : Nat) : List FieldView :=
  if o < 0x200 then
    let c := s.bob (o / 0x20)
    let k := o % 0x20
    if k = 0 then [(0, 0, b2n c.en), (2, 1, c.trig), (6, 3, c.src), (31, 16, c.haq)]
    else if k = 4 then [(18, 0, c.head)]
    else if k = 8 then [(18, 0, c.cur), (24, 24, b2n c.run), (25, 25, b2n c.parked), (26, 26, b2n c.pend), (27, 27, b2n c.halt)]
    else if k = 0xC then [(7, 0, c.last)]
    else []
  else []

def xbrView (s : State) (o : Nat) : List FieldView :=
  if o = 0x10 then [(31, 0, sumTo 32 (fun k => flag k (nfind s.g.sems k).isSome))]
  else if o = 0x14 then [(31, 0, sumTo 32 (fun k => flag k (nfind s.g.sems (32 + k)).isSome))]
  else []

/-! ### Objects and Loom (03_objects R93; 04_loom_geometry R130; 05_loom_crosspoints R162) -/

def State.layoutPending (s : State) : Bool := s.sched.any (fun x => match x.chg with
  | .layoutSwap _ => true
  | _ => false)

def loomView (s : State) (o : Nat) : List FieldView :=
  if o = 0 then
    [(0, 0, b2n (s.m.dpRun && s.rendering && !s.m.leadOut)), (1, 1, b2n s.t.rate96), (3, 2, if s.t.pickLen = 8 then 0 else if s.t.pickLen = 16 then 1 else 2)]
  else if o = 4 then [(19, 0, s.ceilSum)]
  else if o = 0x884 then [(15, 0, satN 0xFFFF s.o.shown)]
  else if o = 0x888 then [(16, 0, s.pendCount)]
  else if o = 0x900 then [(31, 0, s.x.active.id)]
  else if o = 0x904 then
    [(9, 0, s.x.active.verts.length), (20, 10, s.x.active.facets.length), (21, 21, b2n s.x.loaded),
     (22, 22, b2n s.layoutPending), (23, 23, b2n s.x.invalid)]
  else if o = 0x908 then [(31, 0, lo32 s.x.swapPick)]
  else if o = 0x90C then [(31, 0, hi32 s.x.swapPick)]
  else if o = 0x910 then [(18, 0, s.x.sos)]
  else []

/-! ### Reed (06_reed R206) -/

def State.reedSwapPick (s : State) : Nat := match s.bankPending with
  | some (q, _) => q
  | none => s.r.swapPick

def reedView (s : State) (o : Nat) : List FieldView :=
  if o = 0 then
    [(0, 0, b2n (s.m.dpRun && s.rendering && !s.m.leadOut)), (1, 1, s.r.active), (2, 2, b2n s.reedActive.long), (3, 3, b2n s.r.loaded), (4, 4, b2n s.bankPending.isSome),
     (5, 5, b2n s.leadIn), (6, 6, b2n s.r.xfadeRan), (7, 7, b2n s.r.meas.isSome),
     (9, 8, match s.r.meas with | some m => if m.decon.isSome then 2 else 1 | none => 0)]
  else if o = 4 then [(9, 0, s.outsEnabled)]
  else if o = 8 then [(31, 0, s.r.bankA.id)]
  else if o = 0xC then [(31, 0, s.r.bankB.id)]
  else if o = 0x10 then [(31, 0, lo32 s.reedSwapPick)]
  else if o = 0x14 then [(31, 0, hi32 s.reedSwapPick)]
  else if o = 0x18 then [(7, 0, leadPicks s.t.pickLen)]
  else if o = 0x2C then [(3, 0, s.measWord.1), (14, 8, s.measWord.2)]
  else []

/-! ### Heddle (07_heddle R247) -/

def State.routePending (s : State) : Option Nat :=
  (s.sched.find? (fun x => decide (x.chg = .routeSwap))).map (·.pick)

def hedView (s : State) (o : Nat) : List FieldView :=
  if o = 0 then
    [(0, 0, b2n (s.m.dpRun && !s.m.leadOut)), (1, 1, b2n s.d.loaded), (2, 2, b2n s.routePending.isSome), (3, 3, b2n s.d.invalid)]
  else if o = 4 then [(31, 0, s.d.active.id)]
  else if o = 8 then [(31, 0, lo32 (s.routePending.getD s.d.swapPick))]
  else if o = 0xC then [(31, 0, hi32 (s.routePending.getD s.d.swapPick))]
  else if o = 0x10 then [(12, 0, (passCounts s.routesNow).1), (25, 13, (passCounts s.routesNow).2)]
  else if o = 0x14 then [(8, 0, (s.routesNow.filter (fun r => r.cut)).length)]
  else if o = 0x18 then [(10, 0, s.countSources)]
  else []

/-! ### Filter chain (08_filter_chain R280) -/

/-- Outputs and channels that settle, as bits: until the instant of their first output that need not be zero (R272). -/
def State.fchSettle (s : State) : Nat := sumTo 16 (fun m => flag m (match nfind s.f.mics m with
  | some x => s.m.dpRun && decide (s.t.now < sampleStart s.fs x.zeroTo)
  | none => false))
def State.rsSettling (s : State) : Nat := sumTo 64 (fun j => flag j (match nfind s.f.rs j with
  | some x => s.m.dpRun && decide (s.t.now * s.fs * x.l < x.zeroTo * x.m * (65536 * 1000000000))
  | none => false))

def fchView (s : State) (o : Nat) : List FieldView :=
  if o = 0 then
    [(0, 0, b2n (s.m.dpRun && !s.m.leadOut)), (1, 1, s.f.active), (2, 2, b2n s.f.loaded), (3, 3, b2n s.f.swap.isSome), (4, 4, b2n s.f.stimOn),
     (6, 5, (chainOf s.f.clk6m s.t.rate96).getD 0), (7, 7, b2n (decide (s.fchSettle ≠ 0) || decide (s.rsSettling ≠ 0))), (8, 8, b2n s.f.rsDisabled)]
  else if o = 4 then [(7, 0, s.f.lines), (8, 8, b2n s.f.clk6m), (9, 9, b2n s.f.skew), (22, 16, s.settleLen)]
  else if o = 8 then [(31, 0, s.f.modes)]
  else if o = 0xC then [(31, 0, match s.f.bankA with | some b => b.id | none => 0)]
  else if o = 0x10 then [(31, 0, match s.f.bankB with | some b => b.id | none => 0)]
  else if o = 0x14 then [(15, 0, s.fchSettle)]
  else if o = 0x18 then [(31, 0, lo32 s.rsSettling)]
  else if o = 0x1C then [(31, 0, hi32 s.rsSettling)]
  else if o = 0x20 then [(31, 0, lo32 s.f.syncTime)]
  else if o = 0x24 then [(31, 0, hi32 s.f.syncTime)]
  else if o = 0x30 then [(15, 0, s.groupDelay)]
  else if o = 0x34 then [(15, 0, sumTo 16 (fun m => flag m (match nfind s.f.mics m with
      | some x => x.stuck
      | none => false)))]
  else []

/-! ### Ports (11_audio_ports R368) -/

def aesView (s : State) (o : Nat) : List FieldView :=
  if o < 0x40 then
    let c := s.aes (o / 4)
    [(0, 0, b2n c.rxEn), (1, 1, b2n c.txEn), (4, 2, c.txRate), (8, 5, c.zb), (17, 9, c.ofs), (20, 18, c.group), (21, 21, b2n c.grpEn),
     (22, 22, b2n c.autoCrc)]
  else if o < 0x80 then
    let p := (o - 0x40) / 4
    let x := s.rx p
    let d := s.dir (8 + p)
    [(0, 0, b2n x.lock), (1, 1, b2n x.nonaudio), (2, 2, b2n x.muted),
     (3, 3, match x.lastKept with | some b => byteAt b 0 % 2 | none => 0), (5, 4, d.st), (6, 6, b2n d.pending), (16, 8, x.ofs),
     (31, 24, unsignedOf 8 (clampI (-127) 127 x.ppm))]
  else []

def tdmView (s : State) (o : Nat) : List FieldView :=
  if o < 0x20 then
    let c := s.tdm (o / 4)
    [(0, 0, b2n c.inEn), (1, 1, b2n c.outEn), (2, 2, b2n c.inSlave), (3, 3, b2n c.outSlave), (6, 4, c.outRate), (7, 7, b2n c.fsWidth),
     (8, 8, b2n c.fsDelay), (9, 9, b2n c.fsPol), (10, 10, b2n c.bclkEdge), (14, 11, c.inSrc), (18, 15, c.outSrc), (21, 19, c.group),
     (22, 22, b2n c.grpIn), (23, 23, b2n c.grpOut)]
  else if o < 0x40 then
    let c := s.tdm ((o - 0x20) / 4)
    [(8, 0, c.inOfs), (24, 16, c.outOfs)]
  else if o < 0x60 then
    let p := (o - 0x40) / 4
    [(0, 0, b2n (s.tin p).run), (1, 1, b2n (decide ((s.dir p).st = 2))), (2, 2, b2n ((s.tin p).unrelated || (s.dir p).unrelated)),
     (3, 3, b2n ((s.tin p).pending || (s.dir p).pending))]
  else if o < 0x80 then
    let g := s.grp ((o - 0x60) / 4)
    let armed := fun (t : Option Nat) => match t with
      | some k => (nget Trig.off s.t.trigs k).armed
      | none => false
    [(5, 0, g.start.getD 0), (6, 6, b2n (armed g.start)), (13, 8, g.stop.getD 0), (14, 14, b2n (armed g.stop)), (15, 15, b2n g.running)]
  else []

/-! ### Network (12_media_network R402) -/

/-- An address as a number, its last byte lowest. -/
def addrNat (b : List Byte) : Nat := getBE b 0 6

def macView (s : State) (o : Nat) : List FieldView :=
  if o < 0x10 then
    let c := (s.mac (o / 4)).cfg
    [(0, 0, b2n c.en), (1, 1, b2n c.speed25), (3, 2, c.maxf), (5, 4, c.fec), (6, 6, b2n c.promisc)]
  else if o < 0x20 then
    let p := s.mac ((o - 0x10) / 4)
    [(0, 0, b2n p.link), (1, 1, b2n p.swap.isSome), (8, 2, p.entry), (15, 9, p.gates.cycle), (23, 16, p.gates.ents.length)]
  else if 0x70 ≤ o ∧ o < 0x90 then
    let a := addrNat (s.mac ((o - 0x70) / 8)).cfg.addr
    [(31, 0, if (o - 0x70) % 8 = 0 then lo32 a else hi32 a)]
  else if o = 0x100 then
    [(8, 0, (s.n.cfgs.filter (fun x => x.2.en && !x.2.tx)).length), (24, 16, (s.n.cfgs.filter (fun x => x.2.en && x.2.tx)).length)]
  else if o = 0x200 then [(31, 0, s.n.mg.ctl)]
  else if o = 0x204 then
    let m := s.n.mg
    [(1, 0, m.speed), (2, 2, b2n m.link), (3, 3, b2n m.lowered), (4, 4, b2n m.negotiating), (5, 5, b2n m.pending), (6, 6, b2n m.lpi)]
  else if o = 0x214 then [(16, 16, b2n s.n.mg.held.isSome)]
  else []

/-! ### Batten cores (09_batten_cores R312) -/

def batView (s : State) (o : Nat) : List FieldView :=
  if o = 0 then [(1, 0, s.spares.length), (13, 8, lget 0x3F s.spares 0), (21, 16, lget 0x3F s.spares 1)]
  else if 0x100 ≤ o ∧ o < 0x188 then
    let c := s.pcore ((o - 0x100) / 4)
    [(1, 0, c.st), (12, 8, c.lcore), (17, 16, c.cause)]
  else if 0x200 ≤ o ∧ o < 0x280 then
    let l := (o - 0x200) / 4
    [(5, 0, (s.lcore l).phys), (10, 8, s.batState l), (20, 16, s.instCount l)]
  else if 0x280 ≤ o ∧ o < 0x300 then [(31, 0, s.progId ((o - 0x280) / 4))]
  else if 0x300 ≤ o ∧ o < 0x380 then [(23, 0, s.batResv ((o - 0x300) / 4))]
  else if 0x380 ≤ o ∧ o < 0x400 then [(23, 0, (s.lcore ((o - 0x380) / 4)).used)]
  else []

/-! ### Twin (16_twin R544) -/

def twnView (s : State) (o : Nat) : List FieldView :=
  if o = 0 then
    let w := s.w
    [(1, 0, w.role), (2, 2, b2n s.peerUp), (3, 3, b2n (if w.role = 1 then w.peerReady else s.twinReady)), (4, 4, b2n w.drift), (5, 5, b2n w.diverged),
     (6, 6, b2n w.linkHb), (7, 7, b2n w.pinHb), (9, 8, flag 0 (lget false w.lanes 0) + flag 1 (lget false w.lanes 1)), (10, 10, b2n w.own),
     (11, 11, b2n w.peerPin), (12, 12, b2n w.dual), (13, 13, b2n w.incompat)]
  else if o = 4 then [(31, 0, s.w.claim)]
  else if o = 8 then [(31, 0, s.w.peerClaim)]
  else if o = 0x1C then [(31, 0, lo32 s.w.takePick)]
  else if o = 0x20 then [(31, 0, hi32 s.w.takePick)]
  else if 0x100 ≤ o ∧ o < 0x200 then
    let g := s.cgrp ((o - 0x100) / 4)
    [(7, 0, g.sel.getD 0), (8, 8, b2n g.sel.isSome), (9, 9, b2n g.filled)]
  else []

/-! ### Any register -/

/-- The typed fields of the register at a BAR0 offset. -/
def viewOf (s : State) (off : Nat) : List FieldView :=
  match off / 0x1000 with
  | 0 => sysView2 s off
  | 1 => trdView2 s (off - 0x1000)
  | 2 => hifView s (off - 0x2000)
  | 3 => mbxView s (off - 0x3000)
  | 4 => shtView s (off - 0x4000)
  | 5 => bobView s (off - 0x5000)
  | 6 => xbrView s (off - 0x6000)
  | 7 => loomView s (off - 0x7000)
  | 8 => reedView s (off - 0x8000)
  | 9 => hedView s (off - 0x9000)
  | 10 => fchView s (off - 0xA000)
  | 11 => aesView s (off - 0xB000)
  | 12 => tdmView s (off - 0xC000)
  | 13 => macView s (off - 0xD000)
  | 14 => timeView s (off - 0xE000)
  | 15 => batView s (off - 0xF000)
  | 16 => twnView s (off - 0x10000)
  | 17 => ldgView s (off - 0x11000)
  | 18 => evrView s (off - 0x12000)
  | 19 => memView s (off - 0x13000)
  | _ => []

/-- The value that a register holds: its stored bits, and the fields that report state. Reserved bits are 0 (R7). -/
def State.regValue (s : State) (off : Nat) : Word :=
  match regDef? off with
  | none => 0
  | some d => viewed (s.reg off) (viewOf s off) &&& d.used

end Sys2Proof.Machine
end

