-- ==== Sys2Proof/Machine/Requests.lean ====
section
/-!
DEFINITION. Sys2Proof/Machine/Requests.lean: what the commands that name a render pick have in common (01_architecture R19–R23, R665–R667;
02_pick_budget R47, R48; 18_power_modes R604), and the budget commands (02_pick_budget R65).
-/
namespace Sys2Proof.Machine

/-- The pick that a pick named in start-up stands for: 0, and one that has passed, mean the first pick of the start, which 0 writes (R604). -/
def State.standsFor (s : State) (p : Nat) : Nat := if s.m.start && decide (p < s.planned.nextPick) then 0 else p

/-- The pick at which a change that names pick `p` takes effect, and whether that is later than named: none for a pick out of range (R23).
A pick that has started already gives way to the next one; in start-up the first pick of the start serves (R604). -/
def State.slotAt (s : State) (p : Nat) : Option (Nat × Bool) :=
  match s.planned.named p with
  | none => none
  | some q =>
    if s.m.dpRun && decide (q < s.nextPick) then some (s.nextPick, true)
    else if s.m.start then some (s.standsFor p, false) else some (q, false)

/-- A change put on the list. -/
def pushSched (q : Nat) (late : Bool) (w : Option Waiter) (chg : Change) (s : State) : State :=
  { s with sched := s.sched ++ [{ pick := q, who := w, chg := chg, late := late }] }

/-- A command asks for a change at pick `p`; with `adm` it has to pass admission (R47, R48). -/
def request (p : Nat) (w : Waiter) (chg : Change) (adm : Bool) (s : State) : State :=
  match s.slotAt p with
  | none => complete w (.of stParam) s
  | some (q, late) =>
    let s1 := pushSched q late (some w) chg s
    if adm && !s1.inBudget q then complete w (.of stBudget) s else s1

/-- The swap of the same set that waits (R665). -/
def State.rival (s : State) (chg : Change) : Option Sched := s.sched.find? (fun x => x.chg.sameSwap chg)

/-- A swap is asked for (R20, R21, R665, R666): one for the pick of a pending swap of its set supersedes that, one for another pick is
BUSY. `have` tells that a committed copy waits. -/
def requestSwap (p : Nat) (w : Waiter) (chg : Change) (have_ adm : Bool) (s : State) : State :=
  match s.slotAt p with
  | none => complete w (.of stParam) s
  | some (q, late) =>
    let adm := adm && have_ && !(s.mustWait chg)
    if !have_ && !(s.mustWait chg) then complete w (.of stParam) s
    else match s.rival chg with
      | some old =>
        if s.standsFor old.pick ≠ s.standsFor q then complete w (.of stBusy) s
        else
          let s0 := { s with sched := s.sched.filter (fun x => !decide (x = old)) }
          let s1 := pushSched q late (some w) chg s0
          if adm && !s1.inBudget q then complete w (.of stBudget) s
          else completeOpt old.who { Ending.atPick q with superseded := true } s1
      | none =>
        let s1 := pushSched q late (some w) chg s
        if adm && !s1.inBudget q then complete w (.of stBudget) s else s1

/-- A command that some modes refuse. -/
def refusing (refused : Bool) (w : Waiter) (s : State) (k : State) : State := if refused then complete w (.of stMode) s else k

/-! ### Loads (01_architecture R666; 14_host_interface R439) -/

/-- A load begins: the command has been read and is not accepted until the image has come. `busy` tells that a swap of the set waits. -/
def startLoad (set : ParamSet) (busy : Bool) (c : HostCmd) (arg : Nat) (w : Waiter) (s : State) : State :=
  if busy then complete w (.of stBusy) s
  else { s with h := { s.h with accepted := s.h.accepted.filter (fun x => x.id != w.id),
                                loads := s.h.loads ++ [{ set := set, w := w, img := c.data, tbl := c.tbl, arg := arg }] } }

/-- A swap of the set waits (R666). -/
def State.swapPending (s : State) (set : ParamSet) : Bool := s.sched.any (fun x => decide (x.chg.loads = some set))

/-- The load's command is accepted as its image has come, and ends. -/
def endLoad (l : Load) (e : Ending) (s : State) : State :=
  complete l.w e { s with h := { s.h with loads := s.h.loads.filter (fun x => x.w.id != l.w.id), accepted := s.h.accepted ++ [l.w] } }

/-- The waiting swaps of a set whose load has failed complete with BAD_PARAM (R666); one whose copy is there passes admission now, and takes
effect now if the commit comes at the very instant of its pick's start (R20). -/
def settleSwaps (set : ParamSet) (ok : Bool) (s : State) : State :=
  (s.sched.filter (fun x => decide (x.chg.loads = some set))).foldl (fun st x =>
    let drop := fun (e : Nat) => completeOpt x.who (.of e) { st with sched := st.sched.filter (fun y => !decide (y = x)) }
    if !ok then drop stParam
    else if st.inBudget (max x.pick st.nextPick) then
      if st.atStart ∧ x.pick ≤ st.m.pick ∧ ¬ st.mustWait x.chg then
        takeEffect st.m.pick { x with late := x.late || decide (x.pick < st.m.pick) } { st with sched := st.sched.filter (fun y => !decide (y = x)) }
      else st
    else drop stBudget) s

/-! ### Budget commands (R65) -/

def words4 (l : List Nat) : List Byte := l.foldr (fun v acc => leBytes 4 v ++ acc) []

/-- The budget report. -/
def State.budgetReport (s : State) : List Byte :=
  fit 128 (leBytes 8 (s.m.pick - 1) ++ leBytes 2 (s.b.target * 65536 / 100) ++ leBytes 2 s.b.lastSlack ++ leBytes 2 s.b.qMin ++ leBytes 2 s.fraction ++
    leBytes 4 s.b.overruns ++ leBytes 1 s.shedStep ++ leBytes 1 s.b.cause ++ leBytes 2 s.xAllow ++ words4 s.resvNow ++
    words4 ((List.range 8).map (fun e => (lget EngineUse.none s.b.last e).used)) ++
    (List.range 8).foldr (fun e acc => leBytes 2 (lget EngineUse.none s.b.last e).fin ++ acc) [] ++ leBytes 2 s.p.vset)

def budgetQueryBody : Body := fun c w s =>
  if ¬ parZero c 8 56 then complete w (.of stParam) s
  else if ¬ aligned8 (par c 0 8) then complete w (.of stAlign) s
  else complete w (.of stOK) (setB (fun b => { b with qMin := 0xFFFF }) (writeHost (par c 0 8) s.budgetReport s))

def budgetQueryInfo : CmdInfo := ⟨0x08, .hold⟩

/-- BUDGET_QUERY. -/
def execBudgetQuery (c : HostCmd) (s : State) : Host.Outcome State Fault Refusal :=
  .next (hostCommand budgetQueryInfo (.budgetQuery c) c budgetQueryBody s)

def budgetSetBody : Body := fun c w s =>
  let tgt := par c 0 1
  let ap := par c 1 1
  let xf := par c 2 2
  if ¬ parZero c 4 4 ∨ ¬ parZero c 16 48 ∨ 4 ≤ ap ∨ (bitOf ap 0 ∧ (tgt < 10 ∨ 50 < tgt)) ∨ (bitOf ap 1 ∧ 512 < xf) then complete w (.of stParam) s
  else if ap = 0 then complete w (.of stOK) s
  else request (par c 8 8) w (.budget (if bitOf ap 0 then some tgt else none) (if bitOf ap 1 then some xf else none)) true s

def budgetSetInfo : CmdInfo := ⟨0x09, .hold⟩

/-- BUDGET_SET. -/
def execBudgetSet (c : HostCmd) (s : State) : Host.Outcome State Fault Refusal :=
  .next (hostCommand budgetSetInfo (.budgetSet c) c budgetSetBody s)

def budgetRestoreBody : Body := fun c w s =>
  if ¬ parZero c 4 4 ∨ ¬ parZero c 16 48 then complete w (.of stParam) s
  else if s.dataMode = .pass ∧ s.m.dpRun then complete w (.of stMode) s
  else if s.b.shed = 0 then complete w (.of stOK) s
  else request (par c 8 8) w .restore true s

def budgetRestoreInfo : CmdInfo := ⟨0x0A, .hold⟩

/-- BUDGET_RESTORE (R60, R61). -/
def execBudgetRestore (c : HostCmd) (s : State) : Host.Outcome State Fault Refusal :=
  .next (hostCommand budgetRestoreInfo (.budgetRestore c) c budgetRestoreBody s)

/-- The highest step in force or due (R59). -/
def State.shedAhead (s : State) : Nat := s.sched.foldl (fun m x => match x.chg with
  | .shed n => max m n
  | _ => m) s.shedStep

/-- The transition in progress is given up: its change is taken off the list, and its MODE_SET completes with a status. -/
def dropTransition (status : Nat) (s : State) : State :=
  match s.m.trans with
  | none => s
  | some r =>
    let s := { s with sched := s.sched.filter (fun x => match x.chg with
      | .mode _ => false
      | _ => true) }
    completeOpt r.who (.of status) (setM (fun m => { m with trans := none, transPick := none, startPick := none, afterReady := none }) s)

/-- The MODE_SET that waits is given up. -/
def dropHeld (status : Nat) (s : State) : State :=
  match s.m.held with
  | none => s
  | some r => completeOpt r.who (.of status) (setM (fun m => { m with held := none }) s)

/-- An automatic entry into Pass at pick `q` takes precedence over each pending MODE_SET whose pick is at or after it
(18_power_modes R606); a waiting one that names the next pick has its pick after it. -/
def passPrecedes (q : Nat) (s : State) : State :=
  let s := match s.m.trans with
    | some r => if q ≤ s.m.transPick.getD r.pick ∧ ¬ s.m.leadOut then dropTransition stBudget s else s
    | none => s
  match s.m.held with
  | some r => if r.pick = 0 ∨ q ≤ r.pick then dropHeld stBudget s else s
  | none => s

/-- The next shedding step is called for at pick `q` (R59, R62); `none_` is what happens where there is no further step. -/
def callShed (q : Nat) (none_ : State → State) (s : State) : State :=
  if 4 ≤ s.shedAhead ∨ s.dataMode = .pass then none_ s
  else
    let n := s.shedAhead + 1
    pushSched q false none (.shed n) (if n = 4 then passPrecedes q s else s)

/-- SHEDDING_STEP (R59, R62): the step that a third overrun calls for takes effect two picks after it. -/
def sheddingStep (s : State) : State :=
  match s.b.due with
  | none => s
  | some p => callShed (p + 2) (post 0x0123 0 []) (setB (fun b => { b with due := none }) s)

def execSheddingStep (t : Nat) (s : State) : Host.Outcome State Fault Refusal := .next (sheddingStep (advance t s))

end Sys2Proof.Machine
end

