-- ==== Sys2Proof/Machine/Objects.lean ====
section
/-!
DEFINITION. Sys2Proof/Machine/Objects.lean: object update records, their release and application, control lag, and the object commands
(03_objects; 16_twin R520, R521).
-/
namespace Sys2Proof.Machine

/-! ### Records (R69–R79) -/

/-- Fields of a record. -/
def recTime (b : List Byte) : Nat := getLE b 0 8
def recSeq (b : List Byte) : Nat := getLE b 8 4
def recObj (b : List Byte) : Nat := getLE b 12 2 % 1024
def recLaw (b : List Byte) : Nat := byteAt b 27 % 4
def recFlags (b : List Byte) : Nat := getLE b 30 2

/-- The law in force after the record. -/
def lawAfter (b : List Byte) (o : ObjState) : Nat := if bitOf (recFlags b) 3 then recLaw b else o.law

/-- The record is sound by R70–R72. -/
def State.recordOk (s : State) (b : List Byte) : Bool :=
  let f := recFlags b
  let i := recObj b
  let pinned := bitOf f 0 && lawAfter b (s.obj i) == 2
  let pin := getLE b 16 2
  decide (getLE b 12 2 < 1024) && decide (getLE b 25 2 < 4096) && decide (byteAt b 27 < 4) && decide (f < 256) && decide (f % 64 ≠ 0) &&
    decide (i < s.inputs) && !(bitOf f 1 && decide (0x600 < getLES b 14 2)) && !(bitOf f 2 && decide (2880 < getLE b 25 2)) &&
    !(bitOf f 3 && recLaw b == 3) &&
    !(pinned && ((if bitOf pin 15 then decide (s.x.active.rows.length ≤ pin % 64) else decide (s.outputs ≤ pin % 512)) ||
      !zeroRange b 18 7))

/-- The input sample, its position, and the render pick of a record (R74). -/
def State.place (s : State) (b : List Byte) : Nat × Nat × Nat :=
  let k := recTime b * s.fs / 1000000000
  (k, k % s.t.pickLen, k / s.t.pickLen + 1)

/-- The control cores process records (R91). -/
def State.objectsRun (s : State) : Bool :=
  s.coreUp && s.m.fwReady && s.dataMode != .dormant

/-- A unit whose object sets close one pick early (16_twin R520). -/
def State.closesEarly (s : State) : Bool := s.isLead && s.peerUp

def regOq (q o : Nat) : Nat := 0x7800 + 0x10 * q + o

/-- A rejected record (R72). -/
def rejectRecord (q reason : Nat) (b : List Byte) (s : State) : State :=
  post 0x0502 q (a1 q ++ a4 (recSeq b) ++ a2 (recObj b) ++ a1 reason) (putField (regOq q 8) 23 16 reason (bump (regOq q 8) 15 0 s))

/-- The SEQ rule (R73). -/
def checkSeq (q : Nat) (b : List Byte) (s : State) : State :=
  let n := recSeq b
  let s1 := match nfind s.o.expect q with
    | some e => if e = n then s else post 0x0505 q (a4 e ++ a4 n) (bump (regOq q 0xC) 15 0 s)
    | none => s
  setO (fun o => { o with expect := nset o.expect q ((n + 1) % 2 ^ 32) }) s1

/-- An accepted record waits for its release (R76, R79, R81): `n` is its sequence number in its flow. -/
def acceptRecord (q stamp n : Nat) (b : List Byte) (s : State) : State :=
  let (k, pos, p) := s.place b
  let now := bitOf (recFlags b) 7
  let dead := s.pickAt (p - 1)
  let u : ObjUpdate := { ring := q, seq := n, bytes := fit 32 b, k := if now then 0 else k, pos := if now then 0 else pos, q := if now then 0 else p,
                         now := now, inTime := decide (stamp ≤ dead), rel := 0, relAt := 0 }
  setO (fun o => { o with checked := nmod [] o.checked q (· ++ [u]) }) (bump (regOq q 0) 31 0 s)

/-- OBJECT_UPDATE_RECORD: the control cores take the next record of object ring q into the window of its flow (R81; 15_fabric R505). A
rejected record is released as void. -/
def objectRecord (q : Nat) (b : List Byte) (s : State) : State :=
  let r := s.ring (2 + q)
  if 8 ≤ q ∨ ¬ s.objectsRun ∨ ¬ s.ringOn (2 + q) ∨ r.head = r.tail ∨ ¬ s.flowRoom q then s
  else
    let stamp := s.headStamp (2 + q)
    let s := popRing (2 + q) s
    let n := (s.flow q).next
    let s := checkSeq q b (flowTake q (writeIndex (2 + q) (s.ring (2 + q)).head s))
    if ¬ s.recordOk b then flowEnd q n none (rejectRecord q stParam b s)
    else
      let (_, _, p) := s.place b
      let now := bitOf (recFlags b) 7
      if ¬ now ∧ s.pickNow + 2 ^ 20 < p then flowEnd q n none (rejectRecord q stParam b s)
      else if 65536 ≤ s.pendCount then flowEnd q n none (rejectRecord q stResource b s)
      else acceptRecord q stamp n b s

def execObjectUpdateRecord (t q : Nat) (rec : List Byte) (s : State) : Host.Outcome State Fault Refusal :=
  .next (objectRecord q rec (advance t s))

/-! ### Application (R75, R77, R83, R84, R91) -/

/-- The applied state with the fields of one record (R70, R71). Whether bytes 16–24 of a record without A_LAW are PIN or X, Y and Z, the law
in force when it is applied decides (log 79). -/
def applyRecord (b : List Byte) (o : ObjState) : ObjState :=
  let f := recFlags b
  let law := lawAfter b o
  let o := { o with law := law }
  let o := if bitOf f 0 then
      (if law = 2 then { o with pin := getLE b 16 2 } else { o with x := getLES b 16 3, y := getLES b 19 3, z := getLES b 22 3 }) else o
  { o with
    gain := if bitOf f 1 then getLES b 14 2 else o.gain, spread := if bitOf f 2 then getLE b 25 2 % 4096 else o.spread,
    zones := if bitOf f 4 then getLE b 28 2 else o.zones, air := if bitOf f 5 then bitOf f 6 else o.air }

/-- The key of the order of R83 at render pick p: k, then the ring, then the order of release. -/
def ObjUpdate.order (n p : Nat) (u : ObjUpdate) : Nat := ((if u.now then (p - 1) * n else u.k) * 8 + u.ring) * 2 ^ 64 + u.rel

/-- The update is one that this pick takes in: released in time for it (R77; 16_twin R520). -/
def State.takesIn (s : State) (p : Nat) (u : ObjUpdate) : Bool :=
  decide (u.q ≤ p) && (!s.closesEarly || decide (u.relAt ≤ s.pickAt (p - 1)))

/-- The update is late at render pick p, and also lagged (R77). -/
def ObjUpdate.late (u : ObjUpdate) (p : Nat) : Bool := !u.now && decide (u.q < p)
def State.lagged (s : State) (p : Nat) (u : ObjUpdate) : Bool := u.late p && u.inTime && decide (s.o.freezeEnd < u.q)

/-- The fields of one update, and what OBJ_QUERY reports of it. -/
def mergeUpdate (p : Nat) (u : ObjUpdate) (s : State) : State :=
  let i := recObj u.bytes
  let info : ObjInfo := { pick := p, seq := recSeq u.bytes, ring := u.ring, late := u.late p, lagged := s.lagged p u, sample := u.pos }
  setO (fun o => { o with applied := nmod ObjState.reset o.applied i (applyRecord u.bytes), info := nset o.info i info }) s

/-- The counts of one update: `first` tells that it is the first of its object in this pick. -/
def countUpdate (p : Nat) (first : Bool) (u : ObjUpdate) (s : State) : State :=
  let s := if u.late p then bump (regOq u.ring 4) 15 0 s else s
  let s := if s.lagged p u then bump (regOq u.ring 4) 31 16 s else s
  if first then s else bump 0x7880 31 0 s

/-- One update takes effect at render pick p. -/
def applyUpdate (p : Nat) (first : Bool) (u : ObjUpdate) (s : State) : State := countUpdate p first u (mergeUpdate p u s)

/-- Every update that render pick p takes in, merged (R83, R84). -/
def applyUpdates (p : Nat) (s : State) : State :=
  let (now, rest) := s.o.store.partition (fun u => s.takesIn p u)
  let ord := now.foldl (fun acc u => insertBy (fun x => x.order s.t.pickLen p) u acc) ([] : List ObjUpdate)
  let s := setO (fun o => { o with store := rest, taken := ord, prior := o.applied }) s
  (ord.foldl (fun (a : List Nat × State) u =>
    let i := recObj u.bytes
    (i :: a.1, applyUpdate p (!a.1.contains i) u a.2)) (([] : List Nat), s)).2

/-- A release at the instant at which the pick in progress began joins the updates of that pick (R77): its object is merged anew. -/
def joinPick (u : ObjUpdate) (s : State) : State :=
  let p := s.m.pick
  let i := recObj u.bytes
  let first := !s.o.taken.any (fun v => recObj v.bytes == i)
  let l := insertBy (fun x => x.order s.t.pickLen p) u s.o.taken
  let s := setO (fun o => { o with taken := l, applied := nset o.applied i (nget ObjState.reset o.prior i) }) s
  countUpdate p first u ((l.filter (fun v => recObj v.bytes == i)).foldl (fun st v => mergeUpdate p v st) s)

/-- What is released now is in time for the pick in progress (R77). -/
def State.meetsPick (s : State) (u : ObjUpdate) : Bool :=
  s.atStart && !s.closesEarly && s.dataMode != .shadow && decide (u.q ≤ s.m.pick)

/-- OBJECT_UPDATE_RELEASE (R81, R82): the oldest checked record of ring q is released, once its flow has released every entry before it
(15_fabric R505), and waits in the pending store for its pick. A flow that a reset of the Shuttle has emptied holds nothing back. -/
def objectRelease (q : Nat) (s : State) : State :=
  match nget [] s.o.checked q with
  | [] => s
  | u :: r =>
    let x := s.flow q
    if ¬ s.objectsRun ∨ (x.opened.contains u.seq ∧ x.base ≠ u.seq) then s
    else
      let u := { u with rel := s.o.relCtr, relAt := s.t.now }
      let s := setO (fun o => { o with checked := if r = [] then ndel o.checked q else nset o.checked q r, relCtr := o.relCtr + 1 }) s
      let s := if x.opened.contains u.seq then flowEnd q u.seq none s else s
      if s.meetsPick u then joinPick u s else setO (fun o => { o with store := o.store ++ [u] }) s

def execObjectUpdateRelease (t q : Nat) (s : State) : Host.Outcome State Fault Refusal := .next (objectRelease q (advance t s))

/-- An entry of a report or state frame read back as an applied state (R96; 16_twin R521). The glide limit stays the unit's own. -/
def adoptEntry (b : List Byte) (s : State) : State :=
  let i := getLE b 12 2 % 1024
  let law := byteAt b 27 % 4
  let o := s.obj i
  let o' : ObjState := { o with
    gain := getLES b 14 2, spread := getLE b 25 2 % 4096, law := law, zones := getLE b 28 2, air := bitOf (byteAt b 27) 7,
    x := if law = 2 then o.x else getLES b 16 3, y := if law = 2 then o.y else getLES b 19 3, z := if law = 2 then o.z else getLES b 22 3,
    pin := if law = 2 then getLE b 16 2 else o.pin }
  let info : ObjInfo := { pick := getLE b 0 8, seq := getLE b 8 4, ring := getLE b 12 2 / 1024 % 8, late := bitOf (byteAt b 30) 0,
                          lagged := bitOf (byteAt b 30) 1, sample := byteAt b 31 }
  setO (fun p => { p with applied := nset p.applied i o', info := if info.pick = 0 then ndel p.info i else nset p.info i info }) s

/-- The objects of render pick p (R75, R91; 16_twin R521). -/
def objectsAtPick (p : Nat) (s : State) : State :=
  if s.dataMode = .shadow then
    match nfind s.w.adopt p with
    | some es => setO (fun o => { o with store := o.store.filter (fun u => decide (p < u.q)) }) (es.foldl (fun st e => adoptEntry e st) s)
    | none => if s.m.fwReady then applyUpdates p s else s
  else if ¬ s.m.fwReady ∨ s.inDormant then s
  else applyUpdates p s

/-! ### Control lag (R86) -/

/-- The earliest render pick of a lagged update that is not released, among the records that the control cores have read (log 55). -/
def State.oldestLagged (s : State) (p : Nat) : Option Nat :=
  s.o.checked.foldl (fun m x => x.2.foldl (fun m u =>
    if u.inTime && !u.now && decide (u.q < p) && decide (s.o.freezeEnd < u.q) then some (min u.q (m.getD u.q)) else m) m) none

/-- Control lag at the start of render pick p. -/
def controlLag (p : Nat) (s : State) : State :=
  if ¬ s.objectsRun then s
  else
    let l := match s.oldestLagged p with
      | some q => p - q
      | none => 0
    if 0 < l then
      let s1 := if s.o.lag = 0 then post 0x0503 0 [] s else s
      raiseTo 0x7884 31 16 l (setO (fun o => { o with lag := l, shown := l, raised := true, peak := max o.peak l, quiet := 0 }) s1)
    else if s.o.raised then
      if s.o.quiet + 1 < 16 then setO (fun o => { o with lag := 0, quiet := o.quiet + 1 }) s
      else post 0x0504 0 (a2 (satN 0xFFFF s.o.peak)) (setO (fun o => { o with lag := 0, shown := 0, raised := false, peak := 0, quiet := 0 }) s)
    else s

/-! ### Reports (R96) -/

/-- An applied-state report entry. -/
def State.objEntry (s : State) (i : Nat) : List Byte :=
  let o := s.obj i
  let f := nget ObjInfo.none s.o.info i
  leBytes 8 f.pick ++ leBytes 4 f.seq ++ leBytes 2 (i + f.ring * 1024) ++ leBytes 2 (unsignedOf 16 o.gain) ++
    (if o.law = 2 then leBytes 9 o.pin else leBytes 3 (unsignedOf 24 o.x) ++ leBytes 3 (unsignedOf 24 o.y) ++ leBytes 3 (unsignedOf 24 o.z)) ++
    leBytes 2 o.spread ++ leBytes 1 (o.law + flag 7 o.air) ++ leBytes 2 o.zones ++
    leBytes 1 (flag 0 f.late + flag 1 f.lagged + flag 2 (s.gliding i) + flag 3 (s.noWave && o.law == 1)) ++ leBytes 1 f.sample

/-- The object section of the state frame that the lead closes at the start of pick p: the set for pick p + 1 (16_twin R520). -/
def State.closedSet (s : State) (p : Nat) : List (List Byte) :=
  let s1 := applyUpdates (p + 1) ((s.sched.filter (fun x => x.chg.ofObjects && decide (x.pick = p + 1))).foldl (fun st x => (applyChange (p + 1) x st).1) s)
  (List.range s.inputs).map (fun i => s1.objEntry i)

/-! ### Commands (R94, R95) -/

/-- The range of objects of a command is sound. -/
def objRangeOk (c : HostCmd) (s : State) : Bool :=
  decide (1 ≤ par c 10 2) && decide (par c 10 2 ≤ 1024) && decide (par c 8 2 + par c 10 2 ≤ s.inputs) && parZero c 13 3 && parZero c 24 40

def objQueryBody : Body := fun c w s =>
  if ¬ objRangeOk c s then complete w (.of stParam) s
  else if par c 0 8 % 32 ≠ 0 then complete w (.of stAlign) s
  else complete w (.of stOK) (writeHost (par c 0 8) ((List.range (par c 10 2)).foldr (fun i acc => s.objEntry (par c 8 2 + i) ++ acc) []) s)

def objQueryInfo : CmdInfo := ⟨0x10, .hold⟩

/-- OBJ_QUERY. -/
def execObjQuery (c : HostCmd) (s : State) : Host.Outcome State Fault Refusal :=
  .next (hostCommand objQueryInfo (.objQuery c) c objQueryBody s)

def objGlideBody : Body := fun c w s =>
  if ¬ objRangeOk c s ∨ par c 12 1 < 1 ∨ 128 < par c 12 1 then complete w (.of stParam) s
  else request (par c 16 8) w (.objGlide (par c 8 2) (par c 10 2) (par c 12 1)) false s

def objGlideInfo : CmdInfo := ⟨0x11, .hold⟩

/-- OBJ_GLIDE (R90). -/
def execObjGlide (c : HostCmd) (s : State) : Host.Outcome State Fault Refusal :=
  .next (hostCommand objGlideInfo (.objGlide c) c objGlideBody s)

def objResetBody : Body := fun c w s =>
  if ¬ objRangeOk c s then complete w (.of stParam) s
  else request (par c 16 8) w (.objReset (par c 8 2) (par c 10 2) s.o.relCtr) false s

def objResetInfo : CmdInfo := ⟨0x12, .hold⟩

/-- OBJ_RESET (R95). -/
def execObjReset (c : HostCmd) (s : State) : Host.Outcome State Fault Refusal :=
  .next (hostCommand objResetInfo (.objReset c) c objResetBody s)

def objFlushBody : Body := fun c w s =>
  if ¬ objRangeOk c s then complete w (.of stParam) s
  else atNamed (par c 16 8) w s (fun q =>
    let gone := fun (u : ObjUpdate) => decide (par c 8 2 ≤ recObj u.bytes) && decide (recObj u.bytes < par c 8 2 + par c 10 2) && decide (q ≤ u.q)
    complete w (.of stOK (s.o.store.filter gone).length) (setO (fun o => { o with store := o.store.filter (fun u => !gone u) }) s))

def objFlushInfo : CmdInfo := ⟨0x13, .hold⟩

/-- OBJ_FLUSH (R95). -/
def execObjFlush (c : HostCmd) (s : State) : Host.Outcome State Fault Refusal :=
  .next (hostCommand objFlushInfo (.objFlush c) c objFlushBody s)

end Sys2Proof.Machine
end

