-- ==== Sys2Proof/Machine/LoomCmds.lean ====
section
/-!
DEFINITION. Sys2Proof/Machine/LoomCmds.lean: the layout commands (04_loom_geometry R131–R134) and the Loom execution commands
(05_loom_crosspoints R164, R165).
-/
namespace Sys2Proof.Machine

/-- Parameter bytes that no layout command uses outside the probe. -/
def layoutRsv (c : HostCmd) : Bool := parZero c 13 3 && parZero c 28 36

def layoutLoadBody : Body := fun c w s => refusing s.inDormant w s <|
  if ¬ layoutRsv c then complete w (.of stParam) s
  else if ¬ aligned8 (par c 0 8) then complete w (.of stAlign) s
  else startLoad .layout (s.swapPending .layout) c (par c 8 4) w s

def layoutLoadInfo : CmdInfo := ⟨0x14, .refuse⟩

/-- LAYOUT_LOAD (R131, R132). -/
def execLayoutLoad (c : HostCmd) (s : State) : Host.Outcome State Fault Refusal :=
  .next (hostCommand layoutLoadInfo (.layoutLoad c) c layoutLoadBody s)

/-- A layout image is checked and becomes the inactive copy (R101). -/
def takeLayout (img : List Byte) (len : Nat) (s : State) : Ending × State :=
  match layoutFault img len s.outputs with
  | some (r, i) => (.of stParam (r + i * 2 ^ 16), setX (fun x => { x with inactive := none, loaded := false }) s)
  | none => (.of stOK, setX (fun x => { x with inactive := some (readLayout img), loaded := true }) s)

/-- The image of a LAYOUT_LOAD has come. -/
def commitLayout (l : Load) (s : State) : State := let r := takeLayout l.img l.arg s; endLoad l r.1 r.2

def layoutSwapBody : Body := fun c w s => refusing s.inDormant w s <|
  if ¬ layoutRsv c ∨ 2 ≤ par c 12 1 then complete w (.of stParam) s
  else requestSwap (par c 16 8) w (.layoutSwap (bitOf (par c 12 1) 0)) s.x.loaded true s

def layoutSwapInfo : CmdInfo := ⟨0x15, .refuse⟩

/-- LAYOUT_SWAP (R133). -/
def execLayoutSwap (c : HostCmd) (s : State) : Host.Outcome State Fault Refusal :=
  .next (hostCommand layoutSwapInfo (.layoutSwap c) c layoutSwapBody s)

def layoutQueryBody : Body := fun c w s => refusing s.inDormant w s <|
  let img := s.x.active.image
  if ¬ layoutRsv c ∨ par c 8 4 < img.length then complete w (.of stParam) s
  else if ¬ aligned8 (par c 0 8) then complete w (.of stAlign) s
  else complete w (.of stOK) (writeHost (par c 0 8) img s)

def layoutQueryInfo : CmdInfo := ⟨0x16, .refuse⟩

/-- LAYOUT_QUERY (R131). -/
def execLayoutQuery (c : HostCmd) (s : State) : Host.Outcome State Fault Refusal :=
  .next (hostCommand layoutQueryInfo (.layoutQuery c) c layoutQueryBody s)

def soundSpeedSetBody : Body := fun c w s => refusing s.inDormant w s <|
  let v := par c 24 4
  if ¬ layoutRsv c ∨ v < 300000 ∨ 400000 < v then complete w (.of stParam) s
  else request (par c 16 8) w (.speed v) false s

def soundSpeedSetInfo : CmdInfo := ⟨0x17, .refuse⟩

/-- SOUND_SPEED_SET (R127). -/
def execSoundSpeedSet (c : HostCmd) (s : State) : Host.Outcome State Fault Refusal :=
  .next (hostCommand soundSpeedSetInfo (.soundSpeedSet c) c soundSpeedSetBody s)

/-- The object state that a probe gives: record bytes 8–31, with every field applied (R131). -/
def probeRecord (c : HostCmd) : List Byte := zeros 8 ++ zeros 4 ++ parBytes c 32 18 ++ leBytes 2 0x3F

/-- The probe's entries (R134). -/
def State.probe (s : State) (o : ObjState) : List Byte :=
  let g := s.x.active.geometry o s.noWave s.fs s.x.sos
  let ts := targets g o
  let shed := decide (o.law = 1) && s.noWave
  s.x.active.verts.foldr (fun v acc =>
    let e := ts.find? (fun x => x.1 == v.out)
    let fl := flag 0 e.isSome + flag 1 (match e with | some x => x.2.2.2.2 | none => false) + flag 2 g.projected + flag 3 g.fallback + flag 4 shed
    leBytes 2 v.out ++ leBytes 2 fl ++ leBytes 4 (match e with | some x => x.2.1 | none => 0) ++
      leBytes 4 (match e with | some x => if g.law = 1 then x.2.2.1 else 0 | none => 0) ++ zeros 4 ++ acc) []

def geomProbeBody : Body := fun c w s => refusing s.inDormant w s <|
  let b := probeRecord c
  if ¬ parZero c 13 3 ∨ ¬ parZero c 52 12 ∨ ¬ s.recordOk b then complete w (.of stParam) s
  else if ¬ aligned8 (par c 0 8) then complete w (.of stAlign) s
  else complete w (.of stOK) (writeHost (par c 0 8) (s.probe (applyRecord b ObjState.reset)) s)

def geomProbeInfo : CmdInfo := ⟨0x18, .refuse⟩

/-- GEOM_PROBE (R134). -/
def execGeomProbe (c : HostCmd) (s : State) : Host.Outcome State Fault Refusal :=
  .next (hostCommand geomProbeInfo (.geomProbe c) c geomProbeBody s)

/-! ### Loom execution commands -/

def inputRangeOk (c : HostCmd) (s : State) : Bool :=
  decide (1 ≤ par c 10 2) && decide (par c 10 2 ≤ 1024) && decide (par c 8 2 + par c 10 2 ≤ s.inputs) && parZero c 14 2 && parZero c 24 40

def loomCeilSetBody : Body := fun c w s =>
  if ¬ inputRangeOk c s ∨ s.outputs < par c 12 2 then complete w (.of stParam) s
  else request (par c 16 8) w (.ceil (par c 8 2) (par c 10 2) (par c 12 2)) true s

def loomCeilSetInfo : CmdInfo := ⟨0x20, .hold⟩

/-- LOOM_CEIL_SET (R137, R141). -/
def execLoomCeilSet (c : HostCmd) (s : State) : Host.Outcome State Fault Refusal :=
  .next (hostCommand loomCeilSetInfo (.loomCeilSet c) c loomCeilSetBody s)

def loomCeilQueryBody : Body := fun c w s =>
  if ¬ inputRangeOk c s then complete w (.of stParam) s
  else if par c 0 8 % 16 ≠ 0 then complete w (.of stAlign) s
  else complete w (.of stOK) (writeHost (par c 0 8) ((List.range (par c 10 2)).foldr (fun i acc => leBytes 2 (s.ceilOf (par c 8 2 + i)) ++ acc) []) s)

def loomCeilQueryInfo : CmdInfo := ⟨0x21, .hold⟩

/-- LOOM_CEIL_QUERY. -/
def execLoomCeilQuery (c : HostCmd) (s : State) : Host.Outcome State Fault Refusal :=
  .next (hostCommand loomCeilQueryInfo (.loomCeilQuery c) c loomCeilQueryBody s)

def loomXpDumpBody : Body := fun c w s =>
  if ¬ inputRangeOk c s then complete w (.of stParam) s
  else if par c 0 8 % 16 ≠ 0 then complete w (.of stAlign) s
  else setX (fun x => { x with dumps := x.dumps ++ [(w, par c 0 8, par c 8 2, par c 10 2)] }) s

def loomXpDumpInfo : CmdInfo := ⟨0x22, .hold⟩

/-- LOOM_XP_DUMP (R165): completes at the end of the render pick. -/
def execLoomXpDump (c : HostCmd) (s : State) : Host.Outcome State Fault Refusal :=
  .next (hostCommand loomXpDumpInfo (.loomXpDump c) c loomXpDumpBody s)

end Sys2Proof.Machine
end

