-- ==== Sys2Proof/Machine/ReedCmds.lean ====
section
/-!
DEFINITION. Sys2Proof/Machine/ReedCmds.lean: the Reed commands (06_reed R183–R193, R197–R201, R205, R208, R209, R668).
-/
namespace Sys2Proof.Machine

/-- Parameter bytes that every Reed command but REED_MEAS_RUN reserves; `len` tells that LEN is used. -/
def reedRsv (c : HostCmd) (len : Bool) : Bool := parZero c 13 3 && (len || parZero c 24 4) && parZero c 28 36

def aligned16 (a : Nat) : Bool := decide (a % 16 = 0)

/-! ### Configuration (R167, R175, R190, R668) -/

/-- One record is sound (R668). -/
def outRecordOk (b : List Byte) : Bool :=
  let ap := getLE b 12 2
  decide (getLE b 0 2 < 8) && decide (ap < 16) && zeroRange b 14 2 && !(bitOf ap 1 && decide (4095 < getLE b 2 2)) &&
    !(bitOf ap 2 && decide (3072 < getLES b 4 2)) &&
    !(bitOf ap 3 && (decide (getLES b 6 2 < -10240) || decide (0 < getLES b 6 2) || decide (10000 < getLE b 8 2) ||
      decide (getLE b 10 2 < 1) || decide (5000 < getLE b 10 2)))

/-- The records of the command, in output order. -/
def outRecords (c : HostCmd) : List (List Byte) := records16 (fit (16 * par c 10 2) c.data)

/-- A record enables its output. -/
def enables (b : List Byte) : Bool := bitOf (getLE b 12 2) 0 && bitOf (getLE b 0 2) 0

/-- A long bank is active, or a swap to one waits (R175, R190). -/
def State.longBank (s : State) : Bool := s.reedActive.long || (s.bankPending.isSome && s.reedInactive.long)

def reedOutCfgBody : Body := fun c w s => refusing s.inDormant w s <|
  let recs := outRecords c
  let first := par c 8 2
  let changes := recs.zipIdx.any (fun x => bitOf (getLE x.1 12 2) 0 && decide (bitOf (getLE x.1 0 2) 0 ≠ (s.outCfg (first + x.2)).en))
  if ¬ reedRsv c false ∨ par c 10 2 < 1 ∨ s.outputs < first + par c 10 2 ∨ ¬ recs.all outRecordOk ∨
      (s.longBank ∧ recs.zipIdx.any (fun x => decide (256 ≤ first + x.2) && enables x.1)) then complete w (.of stParam) s
  else if ¬ aligned16 (par c 0 8) then complete w (.of stAlign) s
  else request (par c 16 8) w (.reedCfg first (fit (16 * par c 10 2) c.data)) (changes || s.sched.any (fun x => match x.chg with
    | .reedCfg _ _ => true
    | _ => false)) s

def reedOutCfgInfo : CmdInfo := ⟨0x30, .refuse⟩

/-- REED_OUT_CFG. -/
def execReedOutCfg (c : HostCmd) (s : State) : Host.Outcome State Fault Refusal :=
  .next (hostCommand reedOutCfgInfo (.reedOutCfg c) c reedOutCfgBody s)

/-! ### Bank loads (R182–R184) -/

/-- The inactive bank cannot be written: a swap waits, or a measurement run holds it. -/
def State.bankBusy (s : State) : Bool := s.swapPending .reed || s.r.meas.isSome

def reedBankLoadBody : Body := fun c w s => refusing s.inDormant w s <|
  if ¬ reedRsv c true then complete w (.of stParam) s
  else if ¬ aligned16 (par c 0 8) then complete w (.of stAlign) s
  else startLoad .reed s.bankBusy c (par c 24 4) w s

def reedBankLoadInfo : CmdInfo := ⟨0x31, .refuse⟩

/-- REED_BANK_LOAD. -/
def execReedBankLoad (c : HostCmd) (s : State) : Host.Outcome State Fault Refusal :=
  .next (hostCommand reedBankLoadInfo (.reedBankLoad c) c reedBankLoadBody s)

def reedBankCopyBody : Body := fun c w s => refusing s.inDormant w s <|
  if ¬ reedRsv c false then complete w (.of stParam) s
  else if s.bankBusy then complete w (.of stBusy) s
  else complete w (.of stOK) (setR (fun r => { r with loaded := true }) (putReedInactive s.reedActive s))

def reedBankCopyInfo : CmdInfo := ⟨0x32, .refuse⟩

/-- REED_BANK_COPY. -/
def execReedBankCopy (c : HostCmd) (s : State) : Host.Outcome State Fault Refusal :=
  .next (hostCommand reedBankCopyInfo (.reedBankCopy c) c reedBankCopyBody s)

def reedOutLoadBody : Body := fun c w s => refusing s.inDormant w s <|
  if ¬ reedRsv c true ∨ (¬ s.r.loaded ∧ ¬ s.loading .reed ∧ ¬ s.bankBusy) then complete w (.of stParam) s
  else if ¬ aligned16 (par c 0 8) then complete w (.of stAlign) s
  else startLoad .reed s.bankBusy c (par c 24 4) w s

def reedOutLoadInfo : CmdInfo := ⟨0x33, .refuse⟩

/-- REED_OUT_LOAD. -/
def execReedOutLoad (c : HostCmd) (s : State) : Host.Outcome State Fault Refusal :=
  .next (hostCommand reedOutLoadInfo (.reedOutLoad c) c reedOutLoadBody s)

/-- A bank image is checked and becomes the inactive bank (R182, R183). -/
def takeReed (img : List Byte) (len : Nat) (s : State) : Ending × State :=
  match reedBankFault img len s.outputs false with
  | some (r, i) => (.of stParam (r + i * 2 ^ 16), setR (fun r => { r with loaded := false }) (putReedInactive ReedBank.empty s))
  | none => (.of stOK, setR (fun r => { r with loaded := true }) (putReedInactive (readBank img) s))

/-- The image of one output is checked and joins the committed inactive bank (R183). -/
def takeOutput (img : List Byte) (len : Nat) (s : State) : Ending × State :=
  match reedBankFault img len s.outputs true with
  | some (r, i) => (.of stParam (r + i * 2 ^ 16), s)
  | none =>
    let b := readBank img
    let old := s.reedInactive
    if ¬ s.r.loaded ∨ old.long ≠ b.long then (.of stParam, s)
    else (.of stOK, putReedInactive { old with id := b.id, dir := b.dir.foldl (fun m e => nset m e.1 e.2) old.dir } s)

/-- The image of a REED_BANK_LOAD or REED_OUT_LOAD has come. The answer tells whether a committed bank waits because of it. -/
def commitReed (l : Load) (s : State) : State × Bool :=
  let r := if l.w.opcode == 0x33 then takeOutput l.img l.arg s else takeReed l.img l.arg s
  (endLoad l r.1 r.2, decide (r.1.status = stOK))

/-! ### Bank swaps (R185–R191) -/

/-- The first pick of R185 whose lead-in starts after now. -/
def State.bankPick (s : State) : Nat :=
  let l := leadPicks s.t.pickLen
  (s.nextPick + l + l - 1) / l * l

/-- Why a swap to the committed inactive bank is refused: its status (R175, R190). -/
def State.bankSwapFault (s : State) (xf : Bool) (q : Nat) : Option Nat :=
  let new := s.reedInactive
  let kinds := new.long != s.reedActive.long
  if xf && kinds then some stParam
  else if xf && decide (s.b.shed = 0) && decide (s.xAllow < s.reedChanged.length) then some stBudget
  else if new.long && (s.r.cfg.any (fun x => decide (256 ≤ x.1) && x.2.en) || s.sched.any (fun x => match x.chg with
      | .reedCfg first recs => (records16 recs).zipIdx.any (fun y => decide (256 ≤ first + y.2) && enables y.1)
      | _ => false)) then some stParam
  else if kinds && !(s.inBudget (q - leadPicks s.t.pickLen) && s.inBudget q) then some stBudget
  else none

/-- The first pick whose lead-in a command taken now is in time for: one that starts at this very instant counts (R186; 13_time R422). -/
def State.leadFrom (s : State) : Nat := if s.atStart then s.m.pick else s.nextPick

/-- The pick of a swap that names p: none when p is not a pick of R185 or out of range. -/
def State.bankSlot (s : State) (p : Nat) : Option (Nat × Bool) :=
  let l := leadPicks s.planned.t.pickLen
  if s.m.start then (if p % l = 0 ∧ (s.planned.named p).isSome then some (s.standsFor p, false) else none)
  else if p = 0 then some (s.bankPick, false)
  else if p % l ≠ 0 ∨ s.pickNow + 2 ^ 20 < p then none
  else if p < s.leadFrom + l then some (s.bankPick, true)
  else some (p, false)

def reedBankSwapBody : Body := fun c w s => refusing (s.inDormant || (s.m.dpRun && s.dataMode == .pass)) w s <|
  let xf := bitOf (par c 12 1) 0
  if ¬ reedRsv c false ∨ 2 ≤ par c 12 1 then complete w (.of stParam) s
  else match s.bankSlot (par c 16 8) with
    | none => complete w (.of stParam) s
    | some (q, late) =>
      let chg := Change.bankSwap xf (decide (1 ≤ s.b.shed))
      if s.r.meas.isSome then complete w (.of stBusy) s
      else if ¬ s.r.loaded ∧ ¬ s.loading .reed then complete w (.of stParam) s
      else
        let s0 := match s.rival chg with
          | some old => if s.standsFor old.pick = s.standsFor q then some (old.who, { s with sched := s.sched.filter (fun x => !decide (x = old)) }) else none
          | none => some (none, s)
        match s0 with
        | none => complete w (.of stBusy) s
        | some (who, s0) =>
          let s1 := pushSched q late (some w) chg s0
          match (if s.loading .reed then none else s1.bankSwapFault xf q) with
          | some e => complete w (.of e) s
          | none => completeOpt who { Ending.atPick q with superseded := true } s1

def reedBankSwapInfo : CmdInfo := ⟨0x34, .refuse⟩

/-- REED_BANK_SWAP. -/
def execReedBankSwap (c : HostCmd) (s : State) : Host.Outcome State Fault Refusal :=
  .next (hostCommand reedBankSwapInfo (.reedBankSwap c) c reedBankSwapBody s)

/-- A swap that waited for a bank load (R186, R666): it fails with it; otherwise it is judged now, and a lead-in that has started puts it off
to the first pick of R185 that can serve. -/
def settleBankSwap (ok : Bool) (s : State) : State :=
  match s.sched.find? (fun x => decide (x.chg.loads = some .reed)) with
  | none => s
  | some x =>
    let s0 := { s with sched := s.sched.filter (fun y => !decide (y = x)) }
    let xf := match x.chg with
      | .bankSwap f _ => f
      | _ => false
    if !ok then completeOpt x.who (.of stParam) s0
    else
      let moved := !s.m.start && decide (x.pick < s.leadFrom + leadPicks s.t.pickLen)
      let q := if moved then s.bankPick else x.pick
      let s1 := { s with sched := s.sched.map (fun y => if y = x then { x with pick := q, late := x.late || moved } else y) }
      match s1.bankSwapFault xf q with
      | some e => completeOpt x.who (.of e) s0
      | none => s1

def reedBankQueryBody : Body := fun c w s => refusing s.inDormant w s <|
  if ¬ reedRsv c false then complete w (.of stParam) s
  else if ¬ aligned16 (par c 0 8) then complete w (.of stAlign) s
  else complete w (.of stOK) (writeHost (par c 0 8) s.reedActive.directory s)

def reedBankQueryInfo : CmdInfo := ⟨0x35, .refuse⟩

/-- REED_BANK_QUERY. -/
def execReedBankQuery (c : HostCmd) (s : State) : Host.Outcome State Fault Refusal :=
  .next (hostCommand reedBankQueryInfo (.reedBankQuery c) c reedBankQueryBody s)

/-! ### Measurement (R197–R201) -/

/-- The run that a command describes. -/
def measRun (c : HostCmd) (w : Waiter) : MeasRun :=
  { w := w, addr := par c 0 8, chans := par c 28 1, len := par c 16 4, irLen := par c 20 4, reg := if par c 29 1 = 0 then 60 else par c 29 1,
    trig := par c 30 2, srcs := (List.range (par c 28 1)).map (fun i => par c (32 + 2 * i) 2), start := none, caps := [], decon := none }

/-- The limits of R197 and the run block; L of 0, to which the spec sets no lower limit, is refused (log 86). -/
def measOk (c : HostCmd) (s : State) : Bool :=
  let m := par c 28 1
  let l := par c 16 4
  let ir := par c 20 4
  let rg := par c 29 1
  parZero c 13 3 && parZero c 24 4 && decide (2 ≤ m) && decide (m ≤ 16) && decide (1 ≤ l) && decide (m * l ≤ 4194304) && decide (l + ir ≤ 1048576) &&
    decide (1 ≤ ir) && decide (ir ≤ 65536) && (decide (rg = 0) || (decide (20 ≤ rg) && decide (rg ≤ 120))) && decide (par c 30 2 ≤ 63) &&
    (List.range 16).all (fun i => if i < m then srcCode s.t.rate96 (par c (32 + 2 * i) 2) else decide (par c (32 + 2 * i) 2 = 0))

def reedMeasRunBody : Body := fun c w s => refusing (s.m.mode != .measure) w s <|
  if ¬ measOk c s then complete w (.of stParam) s
  else if ¬ aligned16 (par c 0 8) then complete w (.of stAlign) s
  else if s.bankBusy ∨ s.loading .reed then complete w (.of stBusy) s
  else if 2 ≤ s.b.shed then complete w (.of stBudget) s
  else
    let s1 := setR (fun r => { r with meas := some (measRun c w), loaded := false }) (putReedInactive ReedBank.empty s)
    if s1.inBudget s1.nextPick then post 0x0610 0 [] s1 else complete w (.of stBudget) s

def reedMeasRunInfo : CmdInfo := ⟨0x36, .refuse⟩

/-- REED_MEAS_RUN. -/
def execReedMeasRun (c : HostCmd) (s : State) : Host.Outcome State Fault Refusal :=
  .next (hostCommand reedMeasRunInfo (.reedMeasRun c) c reedMeasRunBody s)

def reedMeasAbortBody : Body := fun c w s => refusing s.inDormant w s <|
  if ¬ reedRsv c false then complete w (.of stParam) s
  else complete w (.of stOK) (endMeas stAborted (stopStimulus s))

def reedMeasAbortInfo : CmdInfo := ⟨0x37, .refuse⟩

/-- REED_MEAS_ABORT. -/
def execReedMeasAbort (c : HostCmd) (s : State) : Host.Outcome State Fault Refusal :=
  .next (hostCommand reedMeasAbortInfo (.reedMeasAbort c) c reedMeasAbortBody s)

/-- The capture has all its samples: the deconvolution begins with the next render pick (R199, R200). -/
def measCaptureEnd (s : State) : State :=
  match s.r.meas with
  | some m =>
    if m.start.isSome ∧ m.decon.isNone ∧ m.len ≤ m.captured then setR (fun r => { r with meas := some { m with decon := some (s.m.pick + 1) } }) s else s
  | none => s

def execMeasCaptureEnd (t : Nat) (s : State) : Host.Outcome State Fault Refusal := .next (measCaptureEnd (advance t s))

/-- MEAS_RUN_COMPLETE (R199, R209): the deconvolution has had its steps; the impulse responses are written and the command completes with
the run's start pick. -/
def measRunComplete (s : State) : State :=
  match s.r.meas with
  | some m =>
    match m.decon with
    | some d =>
      if d + m.deconPicks s.t.pickLen ≤ s.m.pick then endMeas stOK (writeHost m.addr m.results s) else s
    | none => s
  | none => s

def execMeasRunComplete (t : Nat) (s : State) : Host.Outcome State Fault Refusal := .next (measRunComplete (advance t s))

end Sys2Proof.Machine
end

