-- ==== Sys2Proof/Machine/HeddleCmds.lean ====
section
/-!
DEFINITION. Sys2Proof/Machine/HeddleCmds.lean: the Heddle commands (07_heddle R226–R229, R249–R251).
-/
namespace Sys2Proof.Machine

/-- Reserved bytes: those of the block, and FIRST and COUNT outside INFILT_SET. -/
def routeRsv (c : HostCmd) : Bool := parZero c 13 3 && parZero c 28 36

def routeLoadBody : Body := fun c w s => refusing s.inDormant w s <|
  if ¬ routeRsv c then complete w (.of stParam) s
  else if ¬ aligned16 (par c 0 8) then complete w (.of stAlign) s
  else startLoad .route (s.swapPending .route) c (par c 8 4) w s

def routeLoadInfo : CmdInfo := ⟨0x40, .refuse⟩

/-- ROUTE_LOAD (R228). -/
def execRouteLoad (c : HostCmd) (s : State) : Host.Outcome State Fault Refusal :=
  .next (hostCommand routeLoadInfo (.routeLoad c) c routeLoadBody s)

/-- A route-set image is checked and becomes the inactive copy (R226, R227). -/
def takeRoutes (img : List Byte) (len : Nat) (s : State) : Ending × State :=
  match s.routeFault img len with
  | some (st, r, i) => (.of st (r + i * 2 ^ 16), setD (fun d => { d with inactive := none, loaded := false }) s)
  | none => (.of stOK, setD (fun d => { d with inactive := some (loadRoutes d.active img), loaded := true }) s)

/-- The image of a ROUTE_LOAD has come. -/
def commitRoutes (l : Load) (s : State) : State := let r := takeRoutes l.img l.arg s; endLoad l r.1 r.2

def routeSwapBody : Body := fun c w s => refusing s.inDormant w s <|
  if ¬ routeRsv c then complete w (.of stParam) s
  else requestSwap (par c 16 8) w .routeSwap s.d.loaded true s

def routeSwapInfo : CmdInfo := ⟨0x41, .refuse⟩

/-- ROUTE_SWAP (R229). -/
def execRouteSwap (c : HostCmd) (s : State) : Host.Outcome State Fault Refusal :=
  .next (hostCommand routeSwapInfo (.routeSwap c) c routeSwapBody s)

def routeQueryBody : Body := fun c w s => refusing s.inDormant w s <|
  let img := s.d.active.image
  if ¬ routeRsv c ∨ par c 8 4 < img.length then complete w (.of stParam) s
  else if ¬ aligned16 (par c 0 8) then complete w (.of stAlign) s
  else complete w (.of stOK) (writeHost (par c 0 8) img s)

def routeQueryInfo : CmdInfo := ⟨0x42, .refuse⟩

/-- ROUTE_QUERY. -/
def execRouteQuery (c : HostCmd) (s : State) : Host.Outcome State Fault Refusal :=
  .next (hostCommand routeQueryInfo (.routeQuery c) c routeQueryBody s)

def infiltSetBody : Body := fun c w s => refusing s.inDormant w s <|
  let first := par c 24 2
  let n := par c 26 2
  if ¬ routeRsv c ∨ 4 < par c 12 1 ∨ n < 1 ∨ 1280 < n ∨ ¬ allTo n (fun i => srcFiltered s.t.rate96 (first + i)) then complete w (.of stParam) s
  else request (par c 16 8) w (.infilt first n (par c 12 1)) false s

def infiltSetInfo : CmdInfo := ⟨0x43, .refuse⟩

/-- INFILT_SET (R214, R250). -/
def execInfiltSet (c : HostCmd) (s : State) : Host.Outcome State Fault Refusal :=
  .next (hostCommand infiltSetInfo (.infiltSet c) c infiltSetBody s)

/-- The inactive copy is emptied. -/
def emptyInactive (s : State) : State := setD (fun d => { d with inactive := none, loaded := false }) s

/-- The abort completes before the swap that it cancels (R251). -/
def routeAbortBody : Body := fun c w s => refusing s.inDormant w s <|
  if ¬ routeRsv c then complete w (.of stParam) s
  else match s.sched.find? (fun x => decide (x.chg = .routeSwap)) with
    | none => complete w (.of stOK) (emptyInactive s)
    | some x =>
      if s.m.dpRun ∧ (x.late ∨ x.pick ≤ s.pickNow) then complete w (.of stParam) s
      else cancelSwaps .route (complete w (.of stOK) (emptyInactive s))

def routeAbortInfo : CmdInfo := ⟨0x44, .refuse⟩

/-- ROUTE_ABORT (R251). -/
def execRouteAbort (c : HostCmd) (s : State) : Host.Outcome State Fault Refusal :=
  .next (hostCommand routeAbortInfo (.routeAbort c) c routeAbortBody s)

/-- ZC_DEADLINE (R235, R236): the step of the route at a table position has waited to its deadline. -/
def zcDeadlineHit (idx : Nat) (s : State) : State :=
  settleSteps (fun r => decide (r.idx = idx) && (match r.move with
    | .stepped _ => true
    | _ => false)) s

def execZcDeadline (t idx : Nat) (s : State) : Host.Outcome State Fault Refusal := .next (zcDeadlineHit idx (advance t s))

/-! ### Snapshots -/

/-- Any source is active (R219, R247): one with filters by its own block; a render output in a rendering mode while the output is enabled,
a Batten output while a running program writes it, and a bus while a route feeds it (log 92). -/
def State.sourceLive (s : State) (c : Nat) : Bool :=
  if srcRender c then s.rendering && (s.outCfg (c - 0x600)).en
  else if 0x800 ≤ c ∧ c < 0x900 then s.rendering && anyTo 32 (fun l => (s.lcore l).runs && (match s.lprog l with | some p => p.outChans.contains (c - 0x800) | none => false))
  else match srcBus c with
    | some b => s.routesNow.any (fun r => !r.cut && r.dst == 0x500 + b)
    | none => s.srcActive c

/-- SNAPSHOT_LATCH of HED_SRC_SEL and HED_ROUTE_SEL (R248). -/
def heddleSnapshot (s : State) : State :=
  let s := if s.d.selSrc then
      let c := s.field 0x902C 11 0
      let w := nget 0 s.d.hpf c + flag 3 (s.sourceLive c) + flag 4 s.t.rate96 + flag 5 (s.routesNow.any (fun r => r.cut && r.src == c)) +
        fld 16 13 (s.routesNow.filter (fun r => r.src == c)).length
      putField 0x902C 31 31 1 (setReg 0x9030 (BitVec.ofNat 32 w) (setD (fun d => { d with selSrc := false }) s))
    else s
  if s.d.selRoute then
    let i := s.field 0x9034 11 0
    let bad := s.d.routes.any (fun r => decide (r.idx = i) && (r.poison.isSome || r.lost))
    let b := match nfind s.d.active.ents i with
      | some e => if bad then zeros 16 else e.bytes i
      | none => zeros 16
    let s := (List.range 4).foldl (fun st w => setReg (0x9038 + 4 * w) (BitVec.ofNat 32 (getLE b (4 * w) 4)) st) s
    putField 0x9034 31 31 1 (setD (fun d => { d with selRoute := false }) s)
  else s

end Sys2Proof.Machine
end

