-- ==== Sys2Proof/Machine/FchCmds.lean ====
section
/-!
DEFINITION. Sys2Proof/Machine/FchCmds.lean: the filter-chain commands (08_filter_chain R256, R260, R261, R265–R275, R282, R283), stuck
microphones (R255) and the end of a stimulus or a settling.
-/
namespace Sys2Proof.Machine

/-- Reserved bytes of the block. -/
def fchRsv (c : HostCmd) : Bool := parZero c 14 2 && parZero c 48 16

def fchPdmSetBody : Body := fun c w s => refusing s.inDormant w s <|
  let modes := par c 24 4
  if ¬ fchRsv c ∨ 4 ≤ par c 13 1 ∨ anyTo 16 (fun m => decide (outMode modes m = 3)) ∨
      (chainOf (bitOf (par c 13 1) 0) s.planned.t.rate96).isNone then complete w (.of stParam) s
  else request (par c 16 8) w (.pdm (par c 12 1) (par c 13 1) modes) true s

def fchPdmSetInfo : CmdInfo := ⟨0x50, .refuse⟩

/-- FCH_PDM_SET (R256, R283). -/
def execFchPdmSet (c : HostCmd) (s : State) : Host.Outcome State Fault Refusal :=
  .next (hostCommand fchPdmSetInfo (.fchPdmSet c) c fchPdmSetBody s)

/-- One resampler record is in range (R260, R282): L, M and DST whether or not it enables its channel. -/
def rsRecordOk (rate96 : Bool) (fs : Nat) (b : List Byte) : Bool :=
  let l := getLE b 2 2
  let m := getLE b 4 2
  decide (byteAt b 0 < 64) && decide (byteAt b 1 < 2) && zeroRange b 8 8 &&
    decide (1 ≤ l) && decide (l ≤ 1024) && decide (1 ≤ m) && decide (m ≤ 1024) && dstGrid (getLE b 6 2) && dstCode rate96 (getLE b 6 2) &&
    (!bitOf (byteAt b 1) 0 || (decide (32000 * m ≤ fs * l) && decide (fs * l ≤ 192000 * m)))

/-- Targets of the channels that stand after some records. -/
def rsTargets (m : NMap RsChan) (recs : List (List Byte)) : List Nat :=
  (recs.foldl (fun (a : NMap Nat) b => if bitOf (byteAt b 1) 0 then nset a (byteAt b 0) (getLE b 6 2) else ndel a (byteAt b 0))
    (m.map (fun x => (x.1, x.2.dst)))).map (·.2)

def fchRsSetBody : Body := fun c w s => refusing s.inDormant w s <|
  let n := par c 8 4
  if ¬ fchRsv c ∨ n < 1 ∨ 64 < n then complete w (.of stParam) s
  else if ¬ aligned8 (par c 0 8) then complete w (.of stAlign) s
  else match s.slotAt (par c 16 8) with
    | none => complete w (.of stParam) s
    | some (q, _) =>
      let raw := fit (16 * n) c.data
      let recs := records16 raw
      let cfg := s.planned.configAt (s.judgePick q)
      if ¬ recs.all (rsRecordOk cfg.t.rate96 cfg.fs) ∨ hasTwice (rsTargets cfg.f.rs recs) then complete w (.of stParam) s
      else if ¬ recs.all (fun b => !bitOf (byteAt b 1) 0 || cfg.targetRuns (getLE b 6 2) (getLE b 2 2) (getLE b 4 2)) then
        complete w (.of stRate) s
      else request (par c 16 8) w (.resample raw) true s

def fchRsSetInfo : CmdInfo := ⟨0x51, .refuse⟩

/-- FCH_RS_SET (R260, R261). -/
def execFchRsSet (c : HostCmd) (s : State) : Host.Outcome State Fault Refusal :=
  .next (hostCommand fchRsSetInfo (.fchRsSet c) c fchRsSetBody s)

def fchBankLoadBody : Body := fun c w s => refusing s.inDormant w s <|
  if ¬ fchRsv c then complete w (.of stParam) s
  else if ¬ aligned8 (par c 0 8) then complete w (.of stAlign) s
  else startLoad .fch s.f.swap.isSome c (par c 8 4) w s

def fchBankLoadInfo : CmdInfo := ⟨0x52, .refuse⟩

/-- FCH_BANK_LOAD (R267). -/
def execFchBankLoad (c : HostCmd) (s : State) : Host.Outcome State Fault Refusal :=
  .next (hostCommand fchBankLoadInfo (.fchBankLoad c) c fchBankLoadBody s)

/-- A filter-bank image is checked and becomes the inactive bank (R267). -/
def takeFch (img : List Byte) (len : Nat) (s : State) : Ending × State :=
  match fchBankFault img len with
  | none => (.of stOK, setF (fun f => { f with loaded := true }) (putFchIdle (some (readFchBank img len)) s))
  | some r => (.of stParam r, setF (fun f => { f with loaded := false }) (putFchIdle none s))

/-- The image of an FCH_BANK_LOAD has come; a swap that waited for it fails with it (R666). -/
def commitFch (l : Load) (s : State) : State :=
  let r := takeFch l.img l.arg s
  let s := endLoad l r.1 r.2
  match s.f.loaded, s.f.swap with
  | false, some (_, w) => complete w (.of stParam) (setF (fun f => { f with swap := none }) s)
  | _, _ => s

def fchBankSwapBody : Body := fun c w s => refusing s.inDormant w s <|
  if ¬ fchRsv c ∨ (¬ s.f.loaded ∧ ¬ s.loading .fch) then complete w (.of stParam) s
  else if s.f.swap.isSome then complete w (.of stBusy) s
  else setF (fun f => { f with swap := some (sampleOf s.fs s.t.now + 1, w) }) s

def fchBankSwapInfo : CmdInfo := ⟨0x53, .refuse⟩

/-- FCH_BANK_SWAP (R269): completes at its render sample. -/
def execFchBankSwap (c : HostCmd) (s : State) : Host.Outcome State Fault Refusal :=
  .next (hostCommand fchBankSwapInfo (.fchBankSwap c) c fchBankSwapBody s)

def fchBankQueryBody : Body := fun c w s => refusing s.inDormant w s <|
  let img := s.fchBank.image
  if ¬ fchRsv c ∨ par c 8 4 < img.length then complete w (.of stParam) s
  else if ¬ aligned8 (par c 0 8) then complete w (.of stAlign) s
  else complete w (.of stOK) (writeHost (par c 0 8) img s)

def fchBankQueryInfo : CmdInfo := ⟨0x54, .refuse⟩

/-- FCH_BANK_QUERY. -/
def execFchBankQuery (c : HostCmd) (s : State) : Host.Outcome State Fault Refusal :=
  .next (hostCommand fchBankQueryInfo (.fchBankQuery c) c fchBankQueryBody s)

/-- A synchronising reset at the first render-rate sample instant at or after device time `t` (R270). -/
def askReset (t : Nat) (s : State) : State :=
  let k := sampleOf s.fs t
  let k := if sampleStart s.fs k = t then k else k + 1
  setF (fun f => { f with resets := f.resets ++ [k] }) s

def fchSyncResetBody : Body := fun c w s => refusing s.inDormant w s <|
  if ¬ fchRsv c then complete w (.of stParam) s else complete w (.of stOK) (askReset s.t.now s)

def fchSyncResetInfo : CmdInfo := ⟨0x55, .refuse⟩

/-- FCH_SYNC_RESET (R270). -/
def execFchSyncReset (c : HostCmd) (s : State) : Host.Outcome State Fault Refusal :=
  .next (hostCommand fchSyncResetInfo (.fchSyncReset c) c fchSyncResetBody s)

/-- The stimulus that a command describes, if its values are in range (R274). -/
def stimOf (c : HostCmd) (fs : Nat) : Option Stimulus :=
  let ty := par c 28 1
  let order := par c 29 1
  let lev := parS c 30 2
  let f1 := par c 32 4
  let f2 := par c 36 4
  let slen := par c 40 4
  let ok := decide (ty ≤ 3) && (if ty = 2 then [12, 14, 16, 18, 20].contains order else order == 0) &&
    (ty == 0 || (decide (-32767 ≤ lev) && decide (lev ≤ 0) && decide (1 ≤ slen) && decide (slen ≤ 4194304))) &&
    (ty != 1 || (decide (10 ≤ f1) && decide (f1 < f2) && decide (2 * f2 ≤ fs))) && (ty != 3 || par c 44 4 != 0)
  if ok then some { typ := ty, order := order, level := lev, f1 := f1, f2 := f2, slen := slen, seed := par c 44 4 } else none

def fchStimSetBody : Body := fun c w s => refusing (s.m.mode != .measure) w s <|
  match stimOf c s.fs with
  | none => complete w (.of stParam) s
  | some st =>
    if ¬ fchRsv c then complete w (.of stParam) s
    else
      let s1 := setF (fun f => { f with stim := st }) s
      if s1.inBudget s1.nextPick then complete w (.of stOK) s1 else complete w (.of stBudget) s

def fchStimSetInfo : CmdInfo := ⟨0x56, .refuse⟩

/-- FCH_STIM_SET (R274, R278). -/
def execFchStimSet (c : HostCmd) (s : State) : Host.Outcome State Fault Refusal :=
  .next (hostCommand fchStimSetInfo (.fchStimSet c) c fchStimSetBody s)

/-! ### Rows of the filter chain -/

/-- PDM_STUCK (R255): 4,096 clocks of one value. -/
def pdmStuck (m : Nat) (s : State) : State :=
  match nfind s.f.mics m with
  | some x =>
    if outMode s.f.modes m = 1 ∧ 4096 ≤ x.run ∧ ¬ x.stuck then post 0x0357 m [] (setF (fun f => { f with mics := nset f.mics m { x with stuck := true } }) s)
    else s
  | none => s

def execPdmStuck (t mic : Nat) (s : State) : Host.Outcome State Fault Refusal := .next (pdmStuck mic (advance t s))

/-- PDM_UNSTUCK (R255): the stream has changed, and the output restarts as after a reset of its own. -/
def pdmUnstuck (m : Nat) (s : State) : State :=
  match nfind s.f.mics m with
  | some x => if x.stuck ∧ x.run < 4096 then
      setF (fun f => { f with mics := nset f.mics m { x.restart (s.fchNext + s.settleLen) with stuck := false } }) s else s
  | none => s

def execPdmUnstuck (t mic : Nat) (s : State) : Host.Outcome State Fault Refusal := .next (pdmUnstuck mic (advance t s))

/-- STIMULUS_END (R275): SLEN samples have been played, or all that fall into the run. -/
def stimulusEnd (s : State) : State := if s.f.stimOn ∧ s.f.stimEnd ≤ s.f.stimN then stopStimulus s else s

def execStimulusEnd (t : Nat) (s : State) : Host.Outcome State Fault Refusal := .next (stimulusEnd (advance t s))

/-- FCH_SETTLE_END (R272): the settle bits follow from the outputs that are left to settle, so time alone passes here. -/
def execFchSettleEnd (t : Nat) (s : State) : Host.Outcome State Fault Refusal := .next (advance t s)

end Sys2Proof.Machine
end

