-- ==== Sys2Proof/Machine/BattenCmds.lean ====
section
/-!
DEFINITION. Sys2Proof/Machine/BattenCmds.lean: the Batten commands (09_batten_cores R298, R306–R309, R313, R314), the rows of a program's
pick, and the commit of every parameter set's load (01_architecture R666).
-/
namespace Sys2Proof.Machine

/-- Reserved bytes of the block. -/
def batRsv (c : HostCmd) : Bool := parZero c 14 2 && parZero c 36 28

/-- A load or a start is pending on a logical core (R309). -/
def State.batBusy (s : State) (l : Nat) : Bool := s.loading (.bat l) || s.sched.any (fun x => decide (x.chg = .batStart l))

/-- The lengths of a BAT_LOAD as its load keeps them. -/
def batLoadArg (len tlen : Nat) : Nat := len + 2 ^ 32 * tlen

def batLoadBody : Body := fun c w s => refusing s.inDormant w s <|
  let l := par c 12 1
  if ¬ batRsv c ∨ 32 ≤ l then complete w (.of stParam) s
  else if ¬ aligned8 (par c 0 8) ∨ ¬ aligned8 (par c 24 8) then complete w (.of stAlign) s
  else startLoad (.bat l) (s.batBusy l) c (batLoadArg (par c 8 4) (par c 32 4)) w s

def batLoadInfo : CmdInfo := ⟨0x60, .refuse⟩

/-- BAT_LOAD (R306, R309). -/
def execBatLoad (c : HostCmd) (s : State) : Host.Outcome State Fault Refusal :=
  .next (hostCommand batLoadInfo (.batLoad c) c batLoadBody s)

/-- A program image and its instance table have come (R298, R306). -/
def commitBatten (lc : Nat) (l : Load) (s : State) : State × Bool :=
  match s.batFault lc l.img l.tbl (l.arg % 2 ^ 32) (l.arg / 2 ^ 32) with
  | some (st, r, i) => (endLoad l (.of st (r + i * 2 ^ 16)) s, false)
  | none =>
    match loadBatten lc (readProg l.img l.tbl) s with
    | none => (endLoad l (.of stResource) s, false)
    | some s1 => (endLoad l (.of stOK) s1, true)

def batStartBody : Body := fun c w s => refusing s.inDormant w s <|
  let l := par c 12 1
  if ¬ batRsv c ∨ 32 ≤ l then complete w (.of stParam) s
  else if s.batBusy l then complete w (.of stBusy) s
  else if (s.startable l).isNone then complete w (.of stParam) s
  else request (par c 16 8) w (.batStart l) true s

def batStartInfo : CmdInfo := ⟨0x61, .refuse⟩

/-- BAT_START (R307, R314). -/
def execBatStart (c : HostCmd) (s : State) : Host.Outcome State Fault Refusal :=
  .next (hostCommand batStartInfo (.batStart c) c batStartBody s)

def batStopBody : Body := fun c w s => refusing s.inDormant w s <|
  let l := par c 12 1
  if ¬ batRsv c ∨ 32 ≤ l ∨ ¬ (s.lcore l).runs then complete w (.of stParam) s
  else request (par c 16 8) w (.batStop l) true s

def batStopInfo : CmdInfo := ⟨0x62, .refuse⟩

/-- BAT_STOP (R308, R314): it ends a reservation, and so passes admission as well (02_pick_budget R47). -/
def execBatStop (c : HostCmd) (s : State) : Host.Outcome State Fault Refusal :=
  .next (hostCommand batStopInfo (.batStop c) c batStopBody s)

def batQueryBody : Body := fun c w s => refusing s.inDormant w s <|
  if ¬ batRsv c ∨ par c 8 4 < 2048 then complete w (.of stParam) s
  else if ¬ aligned8 (par c 0 8) then complete w (.of stAlign) s
  else complete w (.of stOK) (writeHost (par c 0 8) ((List.range 32).foldr (fun l acc => s.batReport l ++ acc) []) s)

def batQueryInfo : CmdInfo := ⟨0x63, .refuse⟩

/-- BAT_QUERY. -/
def execBatQuery (c : HostCmd) (s : State) : Host.Outcome State Fault Refusal :=
  .next (hostCommand batQueryInfo (.batQuery c) c batQueryBody s)

def batCkptReadBody : Body := fun c w s => refusing s.inDormant w s <|
  let l := par c 12 1
  let i := par c 13 1
  if ¬ batRsv c ∨ 32 ≤ l ∨ s.instCount l ≤ i then complete w (.of stParam) s
  else match (s.lcore l).newest i with
    | none => complete w (.of stParam) s
    | some k =>
      let rep := leBytes 8 k.tag ++ k.words.foldr (fun v acc => leBytes 8 v ++ acc) []
      if par c 8 4 < rep.length then complete w (.of stParam) s
      else if ¬ aligned8 (par c 0 8) then complete w (.of stAlign) s
      else complete w (.of stOK) (writeHost (par c 0 8) rep s)

def batCkptReadInfo : CmdInfo := ⟨0x64, .refuse⟩

/-- BAT_CKPT_READ. -/
def execBatCkptRead (c : HostCmd) (s : State) : Host.Outcome State Fault Refusal :=
  .next (hostCommand batCkptReadInfo (.batCkptRead c) c batCkptReadBody s)

/-! ### The rows of a pick -/

/-- A logical core can enter its next instance (R289): it runs in this pick, an instance is left that is not yet entered, and for the first
one the Heddle's input pass is complete. -/
def State.canEnter (s : State) (l : Nat) : Bool :=
  let x := s.lcore l
  s.m.dpRun && s.rendering && !s.m.leadOut && x.active s.m.pick && decide (x.phase = .waiting) && decide (x.inst < s.instCount l) &&
    (decide (x.inst ≠ 0) || (lget EngineUse.none s.b.cur 0).finished)

/-- The next instance is entered where it can be. -/
def instanceEntry (l : Nat) (errs : List EccError) (s : State) : State := if s.canEnter l then enterInstance l errs s else s

/-- BATTEN_INSTANCE_ENTRY (R289, R290, R292, R305). -/
def execBattenInstanceEntry (t l : Nat) (errs : List EccError) (s : State) : Host.Outcome State Fault Refusal :=
  .next (instanceEntry l errs (advance t s))

/-- BATTEN_STEP (R316–R339). -/
def execBattenStep (t l : Nat) (errs : List EccError) (s : State) : Host.Outcome State Fault Refusal := .next (batStep l errs (advance t s))

/-- CHECKPOINT_DONE (R293, R299). -/
def execCheckpointDone (t l : Nat) (errs : List EccError) (s : State) : Host.Outcome State Fault Refusal :=
  .next (checkpointDone l errs (advance t s))

/-- A logical core waits for its move: its mapped core has failed and holds its program, and R304 has not stopped it. -/
def State.awaitsMove (s : State) (l : Nat) : Bool :=
  let x := s.lcore l
  decide ((s.pcore x.phys).st = 2) && (s.lprog l).isSome && decide (x.st ≠ 4)

/-- A logical core whose physical core has faulted moves (R302, R304). Of several that faulted in one pick the lowest moves first. -/
def spareMove (l : Nat) (errs : List EccError) (s : State) : State :=
  if s.awaitsMove l ∧ ¬ anyTo l (fun k => s.awaitsMove k && decide ((s.lcore k).faultAt = (s.lcore l).faultAt)) then batMove l errs s else s

/-- BATTEN_SPARE_MOVE (R302–R304). -/
def execBattenSpareMove (t l : Nat) (errs : List EccError) (s : State) : Host.Outcome State Fault Refusal :=
  .next (spareMove l errs (advance t s))

/-! ### Commits (01_architecture R18, R666) -/

/-- The parameter set of a code: 0 layout, 1 route set, 2 Reed bank, 3 filter bank, 4 + l the program of logical core l. -/
def setOfCode : Nat → ParamSet
  | 0 => .layout | 1 => .route | 2 => .reed | 3 => .fch | n + 4 => .bat n

/-- IMAGE_LOAD_COMMIT: the image of the set's load has come and is checked; the load completes, and a swap that waits for it goes on. -/
def imageCommit (set : Nat) (s : State) : State :=
  let ps := setOfCode set
  match s.h.loads.find? (fun l => decide (l.set = ps)) with
  | none => s
  | some l =>
    match ps with
    | .layout => let s1 := commitLayout l s; settleSwaps .layout s1.x.loaded s1
    | .route => let s1 := commitRoutes l s; settleSwaps .route s1.d.loaded s1
    | .reed => let r := commitReed l s; settleBankSwap r.2 r.1
    | .fch => commitFch l s
    | .bat lc => (commitBatten lc l s).1

def execImageLoadCommit (t set : Nat) (s : State) : Host.Outcome State Fault Refusal := .next (imageCommit set (advance t s))

end Sys2Proof.Machine
end

