-- ==== Sys2Proof/Machine/Recorder.lean ====
section
/-!
DEFINITION. Sys2Proof/Machine/Recorder.lean: the event recorder's rows and commands (17_ledger_recorder R570–R579).
-/
namespace Sys2Proof.Machine

/-- EVENT_POST (R570): a block posts an event; its source's class is the code's. -/
def execEventPost (t code source : Nat) (args : List Byte) (s : State) : Host.Outcome State Fault Refusal :=
  .next (post (code % 65536) source args (advance t s))

/-- RECORD_CLOSE_TIMER (R571). -/
def execRecordCloseTimer (t : Nat) (s : State) : Host.Outcome State Fault Refusal := .next (closeTimer (advance t s))

/-- The lost-events record of R572. -/
def lostRecord (s : State) : EvRec :=
  { time := s.ns, code := 0x0C01, source := 0x0C00, rep := 1, sev := severity 0x0C01, closed := false, staged := false,
    archived := false,
    args := fit 16 (leBytes 2 (satN 0xFFFF s.ev.lost) ++ leBytes 8 s.ev.lostFirst ++
      leBytes 4 (satN 0xFFFFFFFF ((s.ev.lostLast - s.ev.lostFirst) / 1000))),
    lastT := s.t.now, closedAt := 0, edge := s.edge, told := false }

/-- RECORDER_FIFO_DRAIN (R572, R573): one staged record is written at this edge; when the FIFO has drained, the lost-events record
takes the next edge. -/
def fifoDrain (s : State) : State :=
  match s.ev.fifo with
  | [] => s
  | r :: rest =>
    if s.ev.lastEdge = some s.edge ∨ (s.l.mounted && s.ramFull) = true then s
    else
      let s := writeRecord r { s with ev := { s.ev with fifo := rest } }
      if rest = [] ∧ s.ev.lost ≠ 0 then { s with ev := { s.ev with fifo := [lostRecord s], lost := 0 } } else s

def execRecorderFifoDrain (t : Nat) (s : State) : Host.Outcome State Fault Refusal := .next (fifoDrain (advance t s))

/-- The recorder commands' checks of R582: alignment, the reserved bytes, COUNT and the buffer. -/
def evrCheck (c : HostCmd) : Option Nat :=
  let n := par c 24 4
  if ¬ aligned8 (par c 0 8) then some stAlign
  else if n = 0 ∨ 4096 < n ∨ ¬ parZero c 28 4 ∨ par c 8 4 < 32 * n then some stParam
  else none

/-- Records `first`, `first` + 1, … as bytes, 32 zero bytes for one that does not exist, and how many exist (R583). -/
def recordRun (get : Nat → Option (List Byte)) (first n : Nat) : List Byte × Nat :=
  (List.range n).foldl (fun acc i => match get (first + i) with
    | some b => (acc.1 ++ fit 32 b, acc.2 + 1)
    | none => (acc.1 ++ zeros 32, acc.2)) ([], 0)

def evrReadBody : Body := fun c w s =>
  match evrCheck c with
  | some e => complete w (.of e) s
  | none =>
    let (bytes, k) := recordRun (fun q => (s.record? q).map (fun r => r.bytes false)) (par c 16 8) (par c 24 4)
    complete w (.of stOK k) (writeHost (par c 0 8) bytes s)

def evrReadInfo : CmdInfo := ⟨0xC0, .serve⟩

/-- EVR_READ (R583). -/
def execEvrRead (c : HostCmd) (s : State) : Host.Outcome State Fault Refusal :=
  .next (hostCommand evrReadInfo (.evrRead c) c evrReadBody s)

/-- A ledger command waits while the mount runs (R556), and completes with NO_RESOURCE when both channels have failed (R550). -/
def ledgerBody (i : Instr) (body : Body) : Body := fun c w s =>
  if s.ledgerMounting then setL (fun l => { l with waiting := l.waiting ++ [(i, w)] }) s
  else if ¬ s.ledgerUp then complete w (.of stResource) s
  else body c w s

def evrArchiveReadWork : Body := fun c w s =>
  match evrCheck c with
  | some e => complete w (.of e) s
  | none =>
    let (bytes, k) := recordRun s.archivedRecord (par c 16 8) (par c 24 4)
    complete w (.of stOK k) (writeHost (par c 0 8) bytes s)

def evrArchiveReadInfo : CmdInfo := ⟨0xC3, .serve⟩

/-- EVR_ARCHIVE_READ (R583). -/
def execEvrArchiveRead (c : HostCmd) (s : State) : Host.Outcome State Fault Refusal :=
  .next (hostCommand evrArchiveReadInfo (.evrArchiveRead c) c (ledgerBody (.evrArchiveRead c) evrArchiveReadWork) s)

def evrArchiveWork : Body := fun c w s =>
  if ¬ parZero c 28 4 then complete w (.of stParam) s
  else queueAll (chunks16 256 s.toArchive) (complete w (.of stOK)) (some w) s

def evrArchiveInfo : CmdInfo := ⟨0xC2, .serve⟩

/-- EVR_ARCHIVE (R574, R582): completes after the last commit. -/
def execEvrArchive (c : HostCmd) (s : State) : Host.Outcome State Fault Refusal :=
  .next (hostCommand evrArchiveInfo (.evrArchive c) c (ledgerBody (.evrArchive c) evrArchiveWork) s)

/-- EVR_CLEAR (R577–R579): the token, then every unarchived record on its way to the archive, then the clearing. -/
def evrClearWork : Body := fun c w s =>
  if ¬ parZero c 28 4 then complete w (.of stParam) s
  else
    let nonce := s.l.nonce
    let (ok, s) := presentToken 0x01 0 (parBytes c 32 32) s
    if ok then
      let s := closeRecord s
      let s := queueAll (chunks16 256 s.toArchive) id none s
      startJob { ops := [], after := .cleared w nonce, write := false } s
    else complete w (.of stAuth) s

def evrClearInfo : CmdInfo := ⟨0xC1, .serve⟩

def execEvrClear (c : HostCmd) (s : State) : Host.Outcome State Fault Refusal :=
  .next (hostCommand evrClearInfo (.evrClear c) c (ledgerBody (.evrClear c) evrClearWork) s)

/-- ARCHIVE_BATCH (R574): 16 closed records wait, or the oldest of them closed 1 s ago. -/
def archiveBatch (s : State) : State :=
  let l := s.toArchive
  let due := match l with
    | [] => false
    | (_, r) :: _ => decide (16 ≤ l.length) || decide (r.closedAt + secU ≤ s.t.now)
  if due && s.ledgerUp then queueBatch (l.take 16) none s else s

def execArchiveBatch (t : Nat) (s : State) : Host.Outcome State Fault Refusal := .next (archiveBatch (advance t s))

end Sys2Proof.Machine
end

