-- ==== Sys2Proof/Machine/Rings.lean ====
section
/-!
DEFINITION. Sys2Proof/Machine/Rings.lean: doorbells, ring enables, the MSI-X table and BAR2 writes (14_host_interface R435–R437,
R442–R448).
-/
namespace Sys2Proof.Machine

/-- A BAR4 or BAR2 write reaches the function: core domain powered, link not in L2, function in D0. -/
def State.hostReaches (s : State) : Bool := s.coreUp && !s.h.l2 && !s.h.d3hot

/-- Rings whose consumer index the host moves; the host produces the others (R442). -/
def hostConsumes (q : Nat) : Bool := q == 10 || q == 11 || q == 30

/-- A doorbell discarded and told (R445). -/
def doorbellBad (q hi lo : Nat) (s : State) : State := post 0x0906 q [] (signal 0 (bump 0x2008 hi lo s))

/-- A doorbell of an enabled ring takes effect (R445): entries become visible with its stamp, or space frees. -/
def ringDoorbell (q v : Nat) (s : State) : State :=
  let r := s.ring q
  if hostConsumes q then
    let s := setRing q { r with head := v } s
    if q = 10 then releaseHeld s.h.heldCpl s else if q = 11 then tellLost s else s
  else
    let n := (v + r.depth - r.tail) % r.depth
    let s := setRing q { r with tail := v, gen := if v < r.tail then (r.gen + 1) % 16 else r.gen,
                                stamps := r.stamps ++ List.replicate n s.t.now } s
    if q = 13 then mq1Posted s else s

/-- A write of the MSI-X table (R435): a vector that is unmasked while pending is signalled. -/
def msixWrite (i : Nat) (v : Word) (s : State) : State :=
  let s := setH (fun h => { h with msix := nset h.msix i (if i % 4 = 3 then v &&& 1 else v) }) s
  if i % 4 = 3 ∧ nget false s.h.msixPend (i / 4) then signal (i / 4) s else s

/-- DOORBELL_WRITE: a write to BAR4 (R435, R436, R445). -/
def doorbellWrite (off width : Nat) (v : Word) (s : State) : State :=
  if ¬ s.hostReaches ∨ width ≠ 4 ∨ off % 4 ≠ 0 then s
  else if off < 8 * 31 ∧ off % 8 = 0 then
    let q := off / 8
    let r := s.ring q
    if ¬ r.en then doorbellBad q 15 8 s
    else if r.depth ≤ v.toNat then doorbellBad q 7 0 s
    else ringDoorbell q v.toNat s
  else if 0x800 ≤ off ∧ off < 0xC00 then msixWrite ((off - 0x800) / 4) v s
  else s

def execDoorbellWrite (t off width : Nat) (v : Word) (s : State) : Host.Outcome State Fault Refusal :=
  .next (doorbellWrite off width v (advance t s))

/-- A DEPTH that R443 allows. -/
def depthOk (d : Nat) : Bool := (List.range 11).any (fun k => decide (d = 2 ^ (k + 2)))

/-- A ring is enabled (R443): its indices and GEN are 0 and its phase is 1. What waited for it goes into it (R448). -/
def enableRing (q d nch : Nat) (s : State) : State :=
  let s := setRing q { Ring.off with en := true, depth := d, nch := nch } s
  if q = 10 then releaseHeld s.h.heldCpl s else if q = 11 then tellLost s else s

/-- HIF_RING_CFG_WRITE (R443, R470): while the ring is enabled, only a write that clears EN takes effect. -/
def ringCfgWrite (q : Nat) (v : Word) (s : State) : State :=
  let r := s.ring q
  let d := wbits v 12 0
  let nch := wbits v 18 14
  if 31 ≤ q then s
  else if wbits v 13 13 = 0 then setRing q { r with en := false, depth := d, nch := nch } s
  else if r.en then s
  else if depthOk d ∧ s.ringBase q % 4096 = 0 then enableRing q d nch s
  else setRing q { r with depth := d, nch := nch, cfgErr := true } s

/-- A BAR2 write outside Maintain is discarded, counted and told (R437). -/
def bar2Discard (s : State) : State := post 0x0907 0 [] (signal 0 (bump 0x2008 23 16 s))

/-- BAR2_WRITE (R437): performed in Maintain, otherwise discarded. -/
def bar2Write (off : Nat) (bytes : List Byte) (s : State) : State :=
  if ¬ s.hostReaches then s
  else if s.inMaintain then (if off + bytes.length ≤ 0x1000000 then writeOnChip off bytes s else s)
  else bar2Discard s

def execBar2Write (t off : Nat) (bytes : List Byte) (s : State) : Host.Outcome State Fault Refusal :=
  .next (bar2Write off bytes (advance t s))

end Sys2Proof.Machine
end

