-- ==== Sys2Proof/Machine/Regs.lean ====
section
/-!
DEFINITION. Sys2Proof/Machine/Regs.lean: reads and writes of the set-up registers by any master (00_scope R6–R10; 19_register_map
R619–R624), with the registers whose access has an effect of its own.
-/
namespace Sys2Proof.Machine

/-- Registers of the always-on domain (19_register_map R618). -/
def alwaysOn (off : Nat) : Bool :=
  (decide (0x800 ≤ off) && decide (off < 0xA00)) || decide (off / 0x1000 = 1) || (decide (0xD200 ≤ off) && decide (off < 0xE000)) ||
    decide (off / 0x1000 = 14) || decide (off / 0x1000 = 17) || decide (off / 0x1000 = 18)

/-- A register access by master `m` is served: the core domain is up, or the register is always on (R619). The host needs its link. -/
def State.regServed (s : State) (m off : Nat) : Bool :=
  if m = 0 then s.coreUp && !s.h.l2 else s.coreUp || alwaysOn off

/-- An access that is not served: nothing reaches the host's side of a dead link; another master has a bus error (R478, R619). -/
def regRefused (m off : Nat) (s : State) : State := if m = 0 then s else busError m 8 off s

/-- The high half that goes with a low half (R8); XBR_PARK holds two registers of their own. -/
def highOf (off : Nat) : Option Nat :=
  if off ∈ [0x4, 0x10, 0x6010, 0x7908, 0x8010, 0x9008, 0xA018, 0xA020, 0xE004, 0xE020, 0x1001C, 0x11020, 0x12004, 0x1200C] then some (off + 4)
  else if (decide (0x2100 ≤ off) && decide (off < 0x24E0) && (decide (off % 0x20 = 0) || decide (off % 0x20 = 8))) ||
      (decide (0xD070 ≤ off) && decide (off < 0xD090) && decide (off % 8 = 0)) ||
      (decide (0xE060 ≤ off) && decide (off < 0xE080) && decide (off % 8 = 0)) ||
      (decide (0x14000 ≤ off) && decide (off < 0x15000) && decide (off % 16 = 0)) then some (off + 4)
  else none

/-- The register is the high half of a quantity. -/
def isHigh (off : Nat) : Bool := decide (4 ≤ off) && decide (highOf (off - 4) = some off)

/-- A latched high half (R8). -/
def latchHalf (m off : Nat) (v : Word) (s : State) : State :=
  setH (fun h => { h with latches := nset h.latches (halfKey m off) v }) s

/-- The read-clear fields of a register return to their Reset value (R10). -/
def clearRc (off : Nat) (s : State) : State :=
  match regDef? off with
  | none => s
  | some d =>
    if d.maskOf [.rc] = 0 then s
    else setReg off ((s.reg off &&& ~~~(d.maskOf [.rc])) ||| (d.resetWord &&& d.maskOf [.rc])) s

/-- Effects of reads that are the register's own. -/
def readEffect (off : Nat) (s : State) : State :=
  if off = 0x104 then setB (fun b => { b with latched := b.last, latchedSlack := b.lastSlack, latchedEng := b.lastEng }) s
  else if off = 0x11020 ∧ s.l.nonceRead.isNone then setL (fun l => { l with nonceRead := some s.t.now }) s
  else if 0xE060 ≤ off ∧ off < 0xE080 ∧ off % 8 = 0 then
    setT (fun t => { t with caps := nmod Capture.none t.caps ((off - 0xE060) / 8) (fun c => { c with valid := false, missed := false }) }) s
  else s

/-- A register read by master `m`: the value, its latched half (R8), and what the read clears (R10). -/
def regRead (m off : Nat) (s : State) : State :=
  if ¬ s.regServed m off then answer m 0 (regRefused m off s)
  else if 0x3000 ≤ off ∧ off < 0x3040 then mbxDataRead m ((off - 0x3000) / 8) (decide (off % 8 = 4)) s
  else if isHigh off then answer m (nget 0 s.h.latches (halfKey m off)) s
  else if off = 0xE00C then answer m (nget 0 s.h.latches (halfKey m off)) s
  else match regDef? off with
    | none => answer m 0 s
    | some d =>
      let v := s.regValue off &&& ~~~(d.maskOf [.wo])
      let s := answer m v s
      let s := match highOf off with
        | some h => latchHalf m h (s.regValue h) s
        | none => s
      let s := if off = 0xE004 then latchHalf m 0xE00C (s.regValue 0xE00C) s else s
      clearRc off (readEffect off s)

/-- The select registers with a snapshot (R163, R207, R248, R281, R369, R403): a write stores the selection, clears VALID and awaits the
snapshot. -/
def selWrite (off : Nat) (v : Word) (s : State) : State :=
  match regDef? off with
  | none => s
  | some d =>
    let s := setReg off (v &&& d.maskOf [.rw]) s
    if off = 0x7028 then setX (fun x => { x with sel := true }) s
    else if off = 0x8030 then setR (fun r => { r with sel := true }) s
    else if off = 0x902C then setD (fun x => { x with selSrc := true }) s
    else if off = 0x9034 then setD (fun x => { x with selRoute := true }) s
    else if off = 0xA038 then setF (fun f => { f with sel := true }) s
    else if off = 0xB100 then setA (fun a => { a with sel := true }) s
    else setN (fun n => { n with sel := true }) s

def isSelect (off : Nat) : Bool :=
  off == 0x7028 || off == 0x8030 || off == 0x902C || off == 0x9034 || off == 0xA038 || off == 0xB100 || off == 0xD104

/-- MEM_INJ (19_register_map R628). -/
def memInjWrite (v : Word) (s : State) : State :=
  if wbits v 8 8 = 1 ∧ 146 < wbits v 7 0 then s else setReg 0x1300C (v &&& 0x3FF) s

/-- XBR_LATCH_M0–M15 (R10, R620): once per start of the core domain, by the management processor. -/
def latchWrite (m k : Nat) (v : Word) (s : State) : State :=
  if m ≠ 3 ∨ 16 ≤ k ∨ s.g.latched.contains k then s
  else setG (fun g => { g with latched := k :: g.latched }) (setReg (0x6040 + 4 * k) (v &&& 0x3FFF) s)

/-- W1C fields. -/
def clearOnes (off : Nat) (v : Word) (s : State) : State :=
  match regDef? off with
  | none => s
  | some d => setReg off (s.reg off &&& ~~~(v &&& d.maskOf [.w1c])) s

/-- What follows from the new value of a plain register: moderation (R464), MBX_IRQ (R463) and the watchdog (R469). -/
def writeEffect (off : Nat) (old : Word) (s : State) : State :=
  if off = 0x2010 then
    if s.h.unsig ≠ 0 ∧ s.field 0x2010 7 0 ≤ s.h.unsig then signal 1 (setH (fun h => { h with unsig := 0 }) s) else s
  else if off = 0x3048 then
    if (List.range 4).any (fun k => bitOf (s.field 0x3048 3 0) k && !bitOf old.toNat k && decide (0 < (s.mbox (4 + k)).length)) then signal 6 s else s
  else if off = 0x2020 then
    setH (fun h => { h with wdogFrom := if s.field 0x2020 15 0 = 0 then none else some s.t.now }) s
  else s

/-- The RW and RWS fields of a register written (R10). -/
def plainWrite (off : Nat) (v : Word) (s : State) : State :=
  match regDef? off with
  | none => s
  | some d =>
    let k := d.maskOf [.rw, .rws]
    let old := s.reg off
    if k = 0 then s else writeEffect off old (setReg off ((old &&& ~~~k) ||| (v &&& k)) s)

/-- The low half of a writable quantity is held for its master; the high half applies both (R9, R622). -/
def lowWrite (m off : Nat) (v : Word) (s : State) : State :=
  setH (fun h => { h with holds := nset h.holds (halfKey m off) v }) s

def highWrite (m off : Nat) (v : Word) (s : State) : State :=
  match nfind s.h.holds (halfKey m (off - 4)) with
  | none => s
  | some lo => plainWrite off v (plainWrite (off - 4) lo (setH (fun h => { h with holds := ndel h.holds (halfKey m (off - 4)) }) s))

/-- The register has a writable field. -/
def writable (off : Nat) : Bool := match regDef? off with
  | some d => d.maskOf [.rw, .rws] != 0
  | none => false

/-- A register written by master `m`. -/
def regWrite (m off : Nat) (v : Word) (s : State) : State :=
  if ¬ s.regServed m off then regRefused m off s
  else if 0x3000 ≤ off ∧ off < 0x3040 then mbxDataWrite m ((off - 0x3000) / 8) (decide (off % 8 = 4)) v s
  else if isSelect off then selWrite off v s
  else if off = 0x1300C then memInjWrite v s
  else if 0x6040 ≤ off ∧ off < 0x6080 ∧ off % 4 = 0 then latchWrite m ((off - 0x6040) / 4) v s
  else if 0x5000 ≤ off ∧ off < 0x5200 ∧ off % 0x20 = 0x18 then bobRing m ((off - 0x5000) / 0x20) s
  else if 0x2100 ≤ off ∧ off < 0x24E0 ∧ off % 0x20 = 0x10 then ringCfgWrite ((off - 0x2100) / 0x20) v s
  else if off = 0xD214 then clearOnes off v s
  else if ¬ writable off then s
  else if (highOf off).isSome then lowWrite m off v s
  else if isHigh off then highWrite m off v s
  else plainWrite off v s

/-! ### Rows -/

/-- REGISTER_WRITE (R7). -/
def execRegisterWrite (t m off : Nat) (v : Word) (s : State) : Host.Outcome State Fault Refusal := .next (regWrite m off v (advance t s))

/-- REGISTER_LOW_HALF_READ (R8). -/
def execRegisterLowHalfRead (t m off : Nat) (s : State) : Host.Outcome State Fault Refusal := .next (regRead m off (advance t s))

/-- REGISTER_LOW_HALF_WRITE and REGISTER_HIGH_HALF_WRITE (R9). -/
def execRegisterLowHalfWrite (t m off : Nat) (v : Word) (s : State) : Host.Outcome State Fault Refusal := .next (regWrite m off v (advance t s))

def execRegisterHighHalfWrite (t m off : Nat) (v : Word) (s : State) : Host.Outcome State Fault Refusal := .next (regWrite m off v (advance t s))

/-- RC_FIELD_READ (R10). -/
def execRcFieldRead (t m off : Nat) (s : State) : Host.Outcome State Fault Refusal := .next (regRead m off (advance t s))

/-- MAC_MG_WAKE_WRITE (R10, 12_media_network R402). -/
def execMacMgWakeWrite (t m : Nat) (v : Word) (s : State) : Host.Outcome State Fault Refusal := .next (regWrite m 0xD214 v (advance t s))

/-- SYS_SLACK_LAST_READ (02_pick_budget R63). -/
def execSysSlackLastRead (t m : Nat) (s : State) : Host.Outcome State Fault Refusal := .next (regRead m 0x104 (advance t s))

def execLoomXpSelWrite (t m : Nat) (v : Word) (s : State) : Host.Outcome State Fault Refusal := .next (regWrite m 0x7028 v (advance t s))

def execReedOutSelWrite (t m : Nat) (v : Word) (s : State) : Host.Outcome State Fault Refusal := .next (regWrite m 0x8030 v (advance t s))

def execHedSrcSelWrite (t m : Nat) (v : Word) (s : State) : Host.Outcome State Fault Refusal := .next (regWrite m 0x902C v (advance t s))

def execHedRouteSelWrite (t m : Nat) (v : Word) (s : State) : Host.Outcome State Fault Refusal := .next (regWrite m 0x9034 v (advance t s))

def execFchRsSelWrite (t m : Nat) (v : Word) (s : State) : Host.Outcome State Fault Refusal := .next (regWrite m 0xA038 v (advance t s))

def execAesCsSelWrite (t m : Nat) (v : Word) (s : State) : Host.Outcome State Fault Refusal := .next (regWrite m 0xB100 v (advance t s))

def execMacStrmSelWrite (t m : Nat) (v : Word) (s : State) : Host.Outcome State Fault Refusal := .next (regWrite m 0xD104 v (advance t s))

/-- TIME_CAP_LO_READ (13_time R431). -/
def execTimeCapLoRead (t m k : Nat) (s : State) : Host.Outcome State Fault Refusal := .next (regRead m (0xE060 + 8 * (k % 4)) (advance t s))

def execMemInjWrite (t m : Nat) (v : Word) (s : State) : Host.Outcome State Fault Refusal := .next (regWrite m 0x1300C v (advance t s))

def execXbrLatchWrite (t m k : Nat) (v : Word) (s : State) : Host.Outcome State Fault Refusal :=
  .next (if k < 16 then regWrite m (0x6040 + 4 * k) v (advance t s) else advance t s)

def execHifRingCfgWrite (t m q : Nat) (v : Word) (s : State) : Host.Outcome State Fault Refusal :=
  .next (if q < 31 then regWrite m (0x2110 + 0x20 * q) v (advance t s) else advance t s)

end Sys2Proof.Machine
end

