-- ==== Sys2Proof/Machine/Ports.lean ====
section
/-!
DEFINITION. Sys2Proof/Machine/Ports.lean: the port commands and the rows of the ports (11_audio_ports).
-/
namespace Sys2Proof.Machine

/-- Some route of the active set, or of the committed inactive one, joins different rates in a configuration (07_heddle R224). -/
def State.rateBroken (s c : State) : Bool :=
  ratesClash c.fs c.dstRate s.d.active || (s.d.loaded && (match s.d.inactive with
    | some r => ratesClash c.fs c.dstRate r
    | none => false))

/-- A change of port or stream settings is asked for at pick `p`: refused where a route would then join different rates (R224, R370) or where
`bad` holds of the configuration it leaves, and admitted, since the inputs in use count in E0 (02_pick_budget R44, R47). -/
def requestPorts (p : Nat) (w : Waiter) (chg : Change) (bad : State → Bool) (s : State) : State :=
  match s.slotAt p with
  | none => complete w (.of stParam) s
  | some (q, late) =>
    let s1 := pushSched q late (some w) chg s
    let c := s1.planned.configAt (s.judgePick q)
    if bad c then complete w (.of stParam) s
    else if s.rateBroken c then complete w (.of stRate) s
    else if !s1.inBudget q then complete w (.of stBudget) s
    else s1

/-- Reserved bytes of the block. -/
def portRsv (c : HostCmd) : Bool := parZero c 14 2 && parZero c 24 40

def aesCfgBody : Body := fun c w s => refusing s.inDormant w s <|
  let n := par c 8 2
  let recs := fit (16 * n) c.data
  if ¬ portRsv c ∨ n < 1 ∨ 16 < n then complete w (.of stParam) s
  else if ¬ aligned8 (par c 0 8) then complete w (.of stAlign) s
  else if ¬ (records16 recs).all aesRecordOk then complete w (.of stParam) s
  else requestPorts (par c 16 8) w (.aesCfg recs) (fun _ => false) s

def aesCfgInfo : CmdInfo := ⟨0x70, .hold⟩

/-- AES_CFG (R370, R371). -/
def execAesCfg (c : HostCmd) (s : State) : Host.Outcome State Fault Refusal :=
  .next (hostCommand aesCfgInfo (.aesCfg c) c aesCfgBody s)

/-- A slave direction of a record names a TDM output that a configuration leaves stopped (R371). -/
def slaveStopped (c : State) (b : List Byte) : Bool :=
  let r := tdmRecord b
  let stopped := fun (k : Nat) => decide (k < 8) && !(c.tdm k).outEn
  (r.inSlave && stopped r.inSrc) || (r.outSlave && stopped r.outSrc)

def tdmCfgBody : Body := fun c w s => refusing s.inDormant w s <|
  let n := par c 8 2
  let recs := fit (16 * n) c.data
  if ¬ portRsv c ∨ n < 1 ∨ 8 < n then complete w (.of stParam) s
  else if ¬ aligned8 (par c 0 8) then complete w (.of stAlign) s
  else if ¬ (records16 recs).all tdmRecordOk then complete w (.of stParam) s
  else requestPorts (par c 16 8) w (.tdmCfg recs) (fun k => (records16 recs).any (slaveStopped k)) s

def tdmCfgInfo : CmdInfo := ⟨0x71, .hold⟩

/-- TDM_CFG (R370, R371). -/
def execTdmCfg (c : HostCmd) (s : State) : Host.Outcome State Fault Refusal :=
  .next (hostCommand tdmCfgInfo (.tdmCfg c) c tdmCfgBody s)

/-- A trigger that GROUP_SET may name for an action: 0xFF for none, or one that is not armed for another action (R371). -/
def State.trigFree (s : State) (k act : Nat) : Bool :=
  decide (k = 0xFF) || (decide (k < 64) && (!(nget Trig.off s.t.trigs k).armed || decide ((nget Trig.off s.t.trigs k).action = act)))

def groupSetBody : Body := fun c w s => refusing s.inDormant w s <|
  let g := par c 11 1
  let a := par c 12 1
  let b := par c 13 1
  if ¬ portRsv c ∨ 8 ≤ g ∨ ¬ s.trigFree a 1 ∨ ¬ s.trigFree b 2 then complete w (.of stParam) s
  else
    let name := fun (k : Nat) => if k = 0xFF then none else some k
    complete w (.of stOK) (setGrp g { s.grp g with start := name a, stop := name b } s)

def groupSetInfo : CmdInfo := ⟨0x72, .hold⟩

/-- GROUP_SET (R364–R366, R371). -/
def execGroupSet (c : HostCmd) (s : State) : Host.Outcome State Fault Refusal :=
  .next (hostCommand groupSetInfo (.groupSet c) c groupSetBody s)

def aesCsSetBody : Body := fun c w s => refusing s.inDormant w s <|
  let p := par c 10 1
  if ¬ portRsv c ∨ 16 ≤ p then complete w (.of stParam) s
  else if ¬ aligned8 (par c 0 8) then complete w (.of stAlign) s
  else complete w (.of stOK) (setTx p { s.tx p with csNext := some (fit 24 c.data) } s)

def aesCsSetInfo : CmdInfo := ⟨0x73, .hold⟩

/-- AES_CS_SET (R359, R360). -/
def execAesCsSet (c : HostCmd) (s : State) : Host.Outcome State Fault Refusal :=
  .next (hostCommand aesCsSetInfo (.aesCsSet c) c aesCsSetBody s)

def aesUserSetBody : Body := fun c w s => refusing s.inDormant w s <|
  let p := par c 10 1
  if ¬ portRsv c ∨ 16 ≤ p then complete w (.of stParam) s
  else if ¬ aligned8 (par c 0 8) then complete w (.of stAlign) s
  else complete w (.of stOK) (setTx p { s.tx p with userNext := some (fit 48 c.data) } s)

def aesUserSetInfo : CmdInfo := ⟨0x74, .hold⟩

/-- AES_USER_SET (R359, R360). -/
def execAesUserSet (c : HostCmd) (s : State) : Host.Outcome State Fault Refusal :=
  .next (hostCommand aesUserSetInfo (.aesUserSet c) c aesUserSetBody s)

def aesUserGetBody : Body := fun c w s => refusing s.inDormant w s <|
  let p := par c 10 1
  if ¬ portRsv c ∨ 16 ≤ p then complete w (.of stParam) s
  else if ¬ aligned8 (par c 0 8) then complete w (.of stAlign) s
  else complete w (.of stOK) (writeHost (par c 0 8) ((s.rx p).userA ++ (s.rx p).userB) s)

def aesUserGetInfo : CmdInfo := ⟨0x75, .hold⟩

/-- AES_USER_GET (R356). -/
def execAesUserGet (c : HostCmd) (s : State) : Host.Outcome State Fault Refusal :=
  .next (hostCommand aesUserGetInfo (.aesUserGet c) c aesUserGetBody s)

/-! ### The rows of the ports -/

/-- PORT_INPUT_FRAME: a TDM frame's slots, or an AES3 frame's two subframes, at ports 0–7 and 8–23. -/
def portFrame (p : Nat) (slots : List Nat) (subs : List Subframe) (s : State) : State :=
  if p < 8 then tdmFrame p slots s
  else if p < 24 then
    match subs with
    | a :: b :: _ => aesFrame (p - 8) a b s
    | _ => s
  else s

def execPortInputFrame (t p : Nat) (slots : List Nat) (subs : List Subframe) (s : State) : Host.Outcome State Fault Refusal :=
  .next (portFrame p slots subs (advance t s))

/-- AES_RX_LOCK (R352). -/
def execAesRxLock (t p : Nat) (s : State) : Host.Outcome State Fault Refusal := .next (aesLock p (advance t s))

/-- AES_RX_UNLOCK (R353). -/
def execAesRxUnlock (t p : Nat) (s : State) : Host.Outcome State Fault Refusal := .next (aesUnlock p (advance t s))

/-- AES_NONAUDIO_UNMUTE (R357). -/
def execAesNonaudioUnmute (t p : Nat) (s : State) : Host.Outcome State Fault Refusal := .next (nonAudioEnd p (advance t s))

/-- PORT_OUTPUT_FRAME (R345, R350). -/
def execPortOutputFrame (t p : Nat) (s : State) : Host.Outcome State Fault Refusal := .next (outputFrame p (advance t s))

/-- AES_TX_LEAD_END (R361). -/
def execAesTxLeadEnd (t q : Nat) (s : State) : Host.Outcome State Fault Refusal := .next (leadEnd q (advance t s))

/-- TDM_SLAVE_UNRELATED (R347). -/
def execTdmSlaveUnrelated (t p dir : Nat) (s : State) : Host.Outcome State Fault Refusal := .next (slaveUnrelated p dir (advance t s))

/-- TDM_SLAVE_RESUME (R348). -/
def execTdmSlaveResume (t p dir : Nat) (s : State) : Host.Outcome State Fault Refusal := .next (slaveResume p dir (advance t s))

/-- GROUP_FIRST_REAL_FRAME (R365). -/
def execGroupFirstRealFrame (t g : Nat) (s : State) : Host.Outcome State Fault Refusal := .next (groupReal g (advance t s))

end Sys2Proof.Machine
end

