-- ==== Sys2Proof/Machine/Network.lean ====
section
/-!
DEFINITION. Sys2Proof/Machine/Network.lean: the network commands and the rows of the media ports and the management port
(12_media_network).
-/
namespace Sys2Proof.Machine

/-- Reserved bytes of the block. -/
def netRsv (c : HostCmd) : Bool := parZero c 12 4 && parZero c 24 40

def macCfgBody : Body := fun c w s => refusing s.inDormant w s <|
  let n := par c 8 2
  let recs := fit (16 * n) c.data
  if ¬ netRsv c ∨ n < 1 ∨ 4 < n then complete w (.of stParam) s
  else if ¬ aligned8 (par c 0 8) then complete w (.of stAlign) s
  else if ¬ (records16 recs).all macRecordOk then complete w (.of stParam) s
  else request (par c 16 8) w (.macCfg recs) false s

def macCfgInfo : CmdInfo := ⟨0x80, .hold⟩

/-- MAC_CFG (R376, R404). -/
def execMacCfg (c : HostCmd) (s : State) : Host.Outcome State Fault Refusal :=
  .next (hostCommand macCfgInfo (.macCfg c) c macCfgBody s)

/-- One entry of a gate list (R380). -/
def gateEnt (b : List Byte) (i : Nat) : Nat × Bool × Bool :=
  let v := getLE b (4 * i) 4
  (v % 2 ^ 24, bitOf v 24, bitOf v 25)

/-- A gate list is sound (R380). -/
def gateListOk (cycle n : Nat) (b : List Byte) : Bool :=
  decide (1 ≤ cycle) && decide (cycle ≤ 64) && decide (1 ≤ n) && decide (n ≤ 128) && allTo n (fun i => decide (getLE b (4 * i) 4 < 2 ^ 26)) &&
    decide (sumTo n (fun i => (gateEnt b i).1) = cycle * 65536)

def gateLoadBody : Body := fun c w s => refusing s.inDormant w s <|
  let n := par c 8 2
  let p := par c 10 1
  if ¬ netRsv c ∨ 4 ≤ p ∨ n < 1 ∨ 128 < n then complete w (.of stParam) s
  else if ¬ aligned8 (par c 0 8) then complete w (.of stAlign) s
  else if ¬ gateListOk (par c 11 1) n (fit (4 * n) c.data) then complete w (.of stParam) s
  else if (s.mac p).swap.isSome then complete w (.of stBusy) s
  else complete w (.of stOK)
    (setMac p { s.mac p with nextGates := some { cycle := par c 11 1, ents := (List.range n).map (gateEnt (fit (4 * n) c.data)) } } s)

def gateLoadInfo : CmdInfo := ⟨0x81, .hold⟩

/-- GATE_LOAD (R380, R382; 01_architecture R666). -/
def execGateLoad (c : HostCmd) (s : State) : Host.Outcome State Fault Refusal :=
  .next (hostCommand gateLoadInfo (.gateLoad c) c gateLoadBody s)

def gateSwapBody : Body := fun c w s => refusing s.inDormant w s <|
  let p := par c 10 1
  if ¬ netRsv c ∨ 4 ≤ p then complete w (.of stParam) s
  else match (s.mac p).nextGates, s.slotAt (par c 16 8) with
    | some g, some (q, late) =>
      let m := s.mac p
      match m.swap with
      | none => setMac p { m with swap := some (q, late, w) } s
      | some (old, lt, w0) =>
        if s.standsFor old = s.standsFor q then
          -- the cycle start that would have served it
          let used := (q + g.cycle - 1) / g.cycle * g.cycle
          complete w0 { Ending.atPick used lt with superseded := true } (setMac p { m with swap := some (q, late, w) } s)
        else complete w (.of stBusy) s
    | _, _ => complete w (.of stParam) s

def gateSwapInfo : CmdInfo := ⟨0x82, .hold⟩

/-- GATE_SWAP (R382; 01_architecture R20, R21, R665). -/
def execGateSwap (c : HostCmd) (s : State) : Host.Outcome State Fault Refusal :=
  .next (hostCommand gateSwapInfo (.gateSwap c) c gateSwapBody s)

def strmSetBody : Body := fun c w s => refusing s.inDormant w s <|
  let n := par c 8 2
  let recs := fit (48 * n) c.data
  if ¬ netRsv c ∨ n < 1 ∨ 512 < n then complete w (.of stParam) s
  else if ¬ aligned8 (par c 0 8) then complete w (.of stAlign) s
  else match s.slotAt (par c 16 8) with
    | none => complete w (.of stParam) s
    | some (q, late) =>
      let s1 := pushSched q late (some w) (.streams recs) s
      let k := s1.planned.configAt (s.judgePick q)
      if ¬ (records48 recs).all k.streamRecordOk ∨ streamsOverlap k.n.cfgs then complete w (.of stParam) s
      else if ¬ allTo 4 (k.streamsFit k.n.cfgs) then complete w (.of stResource) s
      else if s.rateBroken k then complete w (.of stRate) s
      else if ¬ s1.inBudget q then complete w (.of stBudget) s
      else s1

def strmSetInfo : CmdInfo := ⟨0x83, .hold⟩

/-- STRM_SET (R383–R386, R393, R394, R405). -/
def execStrmSet (c : HostCmd) (s : State) : Host.Outcome State Fault Refusal :=
  .next (hostCommand strmSetInfo (.strmSet c) c strmSetBody s)

def strmQueryBody : Body := fun c w s => refusing s.inDormant w s <|
  if ¬ netRsv c then complete w (.of stParam) s
  else if ¬ aligned8 (par c 0 8) then complete w (.of stAlign) s
  else complete w (.of stOK) (writeHost (par c 0 8) ((List.range 512).foldr (fun k acc => s.streamEntry k ++ acc) []) s)

def strmQueryInfo : CmdInfo := ⟨0x84, .hold⟩

/-- STRM_QUERY (R402, R404). -/
def execStrmQuery (c : HostCmd) (s : State) : Host.Outcome State Fault Refusal :=
  .next (hostCommand strmQueryInfo (.strmQuery c) c strmQueryBody s)

/-- An MG_CFG record is in range (R402, R404). -/
def mgRecordOk (b : List Byte) : Bool :=
  let v := getLE b 0 4
  decide (bitsOf v 6 5 < 3) && decide (1 ≤ bitsOf v 12 7) && decide (bitsOf v 12 7 ≤ 50) && decide (1 ≤ bitsOf v 22 13) &&
    decide (bitsOf v 22 13 ≤ 600) && decide (1 ≤ bitsOf v 30 23) && !bitOf v 31 && !bitOf (byteAt b 4) 0 && decide (1 ≤ getLE b 10 2) &&
    decide (getLE b 10 2 ≤ 10000) && zeroRange b 12 4

def mgCfgBody : Body := fun c w s =>
  let b := fit 16 c.data
  if ¬ netRsv c then complete w (.of stParam) s
  else if ¬ aligned8 (par c 0 8) then complete w (.of stAlign) s
  else if ¬ mgRecordOk b then complete w (.of stParam) s
  else complete w (.of stOK) (setMg (fun m => { m with ctl := getLE b 0 4, addr := (b.drop 4).take 6, lpiIdle := getLE b 10 2 }) s)

def mgCfgInfo : CmdInfo := ⟨0x85, .serve⟩

/-- MG_CFG. -/
def execMgCfg (c : HostCmd) (s : State) : Host.Outcome State Fault Refusal :=
  .next (hostCommand mgCfgInfo (.mgCfg c) c mgCfgBody s)

/-- Wake pattern `i` of a table of 20-byte entries (R404). -/
def wakePattern (b : List Byte) (i : Nat) : WakePattern :=
  let e := (b.drop (20 * i)).take 20
  { mask := e.take 16, check := getLE e 16 2, en := bitOf (byteAt e 18) 0 }

def wakeSetBody : Body := fun c w s =>
  let b := fit 320 c.data
  if ¬ netRsv c then complete w (.of stParam) s
  else if ¬ aligned8 (par c 0 8) then complete w (.of stAlign) s
  else if ¬ allTo 16 (fun i => decide (byteAt b (20 * i + 18) < 2) && decide (byteAt b (20 * i + 19) = 0)) then complete w (.of stParam) s
  else complete w (.of stOK) (setMg (fun m => { m with wake := (List.range 16).map (wakePattern b) }) s)

def wakeSetInfo : CmdInfo := ⟨0x86, .serve⟩

/-- WAKE_SET (R400). -/
def execWakeSet (c : HostCmd) (s : State) : Host.Outcome State Fault Refusal :=
  .next (hostCommand wakeSetInfo (.wakeSet c) c wakeSetBody s)

def mcastSetBody : Body := fun c w s =>
  let b := fit 256 c.data
  if ¬ netRsv c then complete w (.of stParam) s
  else if ¬ aligned8 (par c 0 8) then complete w (.of stAlign) s
  else if ¬ allTo 32 (fun i => decide (byteAt b (8 * i + 6) < 2) && decide (byteAt b (8 * i + 7) = 0)) then complete w (.of stParam) s
  else complete w (.of stOK)
    (setMg (fun m => { m with mcast := (List.range 32).map (fun i => ((b.drop (8 * i)).take 6, bitOf (byteAt b (8 * i + 6)) 0)) }) s)

def mcastSetInfo : CmdInfo := ⟨0x87, .serve⟩

/-- MCAST_SET (R373, R404). -/
def execMcastSet (c : HostCmd) (s : State) : Host.Outcome State Fault Refusal :=
  .next (hostCommand mcastSetInfo (.mcastSet c) c mcastSetBody s)

/-! ### The rows of the media ports -/

/-- MEDIA_FRAME_RX (R372, R373, R377, R378). -/
def execMediaFrameRx (t p : Nat) (f : List Byte) (s : State) : Host.Outcome State Fault Refusal := .next (mediaFrameRx p f (advance t s))

/-- RTP_PACKET_RX (R383–R391): the oldest packet that waits for its receiver. -/
def nextRtp (s : State) : State :=
  match s.n.rtpQ with
  | [] => s
  | x :: r => rtpPacket x.stream x.at_ x.pay (setN (fun n => { n with rtpQ := r }) s)

def execRtpPacketRx (t : Nat) (s : State) : Host.Outcome State Fault Refusal := .next (nextRtp (advance t s))

/-- STREAM_CLAIM_EXPIRY (16_twin R534). -/
def execStreamClaimExpiry (t k : Nat) (s : State) : Host.Outcome State Fault Refusal := .next (claimExpiry k (advance t s))

/-- MEDIA_LINK_DOWN (R379). -/
def execMediaLinkDown (t p : Nat) (s : State) : Host.Outcome State Fault Refusal := .next (mediaLink p false (advance t s))

/-- MEDIA_LINK_UP (R379). -/
def execMediaLinkUp (t p : Nat) (s : State) : Host.Outcome State Fault Refusal := .next (mediaLink p true (advance t s))

/-- GATE_ENTRY_CHANGE (R380). -/
def execGateEntryChange (t p : Nat) (s : State) : Host.Outcome State Fault Refusal := .next (gateEntry p (advance t s))

/-- MEDIA_FRAME_TX_START (R381). -/
def execMediaFrameTxStart (t p : Nat) (s : State) : Host.Outcome State Fault Refusal := .next (mediaTx p (advance t s))

/-- STREAM_TX_LATE (R389). -/
def execStreamTxLate (t p : Nat) (s : State) : Host.Outcome State Fault Refusal := .next (streamLate p (advance t s))

/-! ### The rows of the management port -/

/-- MG_FRAME_RX (R395, R398, R401). -/
def execMgFrameRx (t : Nat) (frame : Option (List Byte)) (descs : List (List Byte)) (s : State) : Host.Outcome State Fault Refusal :=
  .next (mgFrameRx frame descs (advance t s))

/-- MG_FRAME_SENT (R395, R461). -/
def execMgFrameSent (t : Nat) (desc data : List Byte) (s : State) : Host.Outcome State Fault Refusal :=
  .next (mgFrameSent desc data (advance t s))

/-- MG_TRAFFIC_WINDOW (R396). -/
def execMgTrafficWindow (t : Nat) (s : State) : Host.Outcome State Fault Refusal := .next (trafficWindow (advance t s))

/-- MG_AUTONEG_DONE (R398). -/
def execMgAutonegDone (t speed : Nat) (link partner1000 : Bool) (s : State) : Host.Outcome State Fault Refusal :=
  .next (autonegDone speed link partner1000 (advance t s))

/-- MG_LPI_ENTER (R399). -/
def execMgLpiEnter (t : Nat) (s : State) : Host.Outcome State Fault Refusal := .next (lpiEnter (advance t s))

end Sys2Proof.Machine
end

