-- ==== Sys2Proof/Machine/Twin.lean ====
section
/-!
DEFINITION. Sys2Proof/Machine/Twin.lean: the twin commands and the rows of the Selvedge link and the claim pins (16_twin), but for the
received heartbeat, which may reset the core domain (Resets.lean).
-/
namespace Sys2Proof.Machine

/-- Reserved bytes of the block. -/
def twinRsv (c : HostCmd) : Bool := parZero c 11 5 && parZero c 32 32

/-- The stored epoch set to 0 (R532). -/
def clearEpoch (s : State) : State :=
  appendQuiet 1 3 0 (leBytes 4 0) (setW (fun w => { w with epoch := 0 }) s)

/-- The settings of TWIN_CFG taken up (R512, R536, R538; log 41). -/
def takeTwinCfg (flags rank peer fill : Nat) (s : State) : State :=
  let was := s.w.en
  let en := bitOf flags 0
  let s := setW (fun w => { w with en := en, dual := bitOf flags 1, rank := rank, peerRank := peer, fill := fill,
                                   claim := if w.role = 1 then claimOf (w.claim / 256) rank else w.claim }) s
  let s := if bitOf flags 2 then clearEpoch s else s
  if en ∧ ¬ was then
    if s.m.dpRun ∧ (s.dataMode = .lead ∨ s.dataMode = .shadow) then startListening s else s
  else if ¬ en ∧ was then
    setW (fun w => { w with role := 0, claim := 0, linkHb := false, pinHb := false, peerReady := false, lostAt := none }) (cancelSwap s)
  else s

def twinCfgBody : Body := fun c w s =>
  let f := par c 8 1
  let r := par c 9 1
  let p := par c 10 1
  if ¬ twinRsv c ∨ 8 ≤ f ∨ r = 0 ∨ p = 0 ∨ r = p then complete w (.of stParam) s
  else
    let s1 := takeTwinCfg f r p (par c 24 8) s
    if s1.w.en ∧ ¬ s.w.en ∧ ¬ s1.inBudget s1.nextPick then complete w (.of stBudget) s
    else complete w (.of stOK) s1

def twinCfgInfo : CmdInfo := ⟨0xA0, .serve⟩

/-- TWIN_CFG (R512, R523, R532, R545). -/
def execTwinCfg (c : HostCmd) (s : State) : Host.Outcome State Fault Refusal :=
  .next (hostCommand twinCfgInfo (.twinCfg c) c twinCfgBody s)

/-- The report of TWIN_QUERY (R545). -/
def State.twinReport (s : State) : List Byte :=
  leBytes 4 s.w.claim ++ leBytes 4 s.w.peerClaim ++ leBytes 8 s.w.framePick ++ leBytes 8 s.w.takePick ++
    leBytes 2 (wbits (s.regValue 0x10000) 13 0) ++ leBytes 2 (wbits (s.regValue 0x10028) 15 0) ++ leBytes 4 s.w.driftTotal ++
    leBytes 4 s.w.epoch ++ zeros 28

def twinQueryBody : Body := fun c w s =>
  if ¬ twinRsv c then complete w (.of stParam) s
  else if ¬ aligned8 (par c 0 8) then complete w (.of stAlign) s
  else complete w (.of stOK) (writeHost (par c 0 8) s.twinReport s)

def twinQueryInfo : CmdInfo := ⟨0xA1, .serve⟩

/-- TWIN_QUERY. -/
def execTwinQuery (c : HostCmd) (s : State) : Host.Outcome State Fault Refusal :=
  .next (hostCommand twinQueryInfo (.twinQuery c) c twinQueryBody s)

def twinRoleSwapBody : Body := fun c w s =>
  let p := par c 16 8
  if ¬ s.isLead ∨ ¬ s.m.dpRun then complete w (.of stMode) s
  else if ¬ twinRsv c ∨ p < s.pickNow + 4 ∨ (s.named p).isNone then complete w (.of stParam) s
  else if ¬ s.w.en ∨ ¬ s.w.peerReady ∨ ¬ s.peerUp ∨ s.w.swap.isSome then complete w (.of stBusy) s
  else setW (fun x => { x with swap := some (p, some w) }) s

def twinRoleSwapInfo : CmdInfo := ⟨0xA2, .serve⟩

/-- TWIN_ROLE_SWAP (R540, R543, R546): completes at its pick. -/
def execTwinRoleSwap (c : HostCmd) (s : State) : Host.Outcome State Fault Refusal :=
  .next (hostCommand twinRoleSwapInfo (.twinRoleSwap c) c twinRoleSwapBody s)

/-- The entry of CLAIM_QUERY for a claim group (R545). -/
def State.claimEntry (s : State) (g : Nat) : List Byte :=
  let x := s.cgrp g
  let cl := fun (k : Option Nat) => match k with
    | some k => (s.sstat k).claim
    | none => 0
  leBytes 1 (x.sel.getD 0) ++ leBytes 1 (flag 0 x.sel.isSome + flag 1 (bitOf s.w.fill g)) ++ zeros 2 ++ leBytes 4 (cl x.sel) ++
    leBytes 4 (cl ((s.eligibles g).find? (fun k => decide (some k ≠ x.sel)))) ++ leBytes 4 x.switches

def claimQueryBody : Body := fun c w s =>
  if ¬ twinRsv c then complete w (.of stParam) s
  else if ¬ aligned8 (par c 0 8) then complete w (.of stAlign) s
  else complete w (.of stOK) (writeHost (par c 0 8) ((List.range 64).foldr (fun g acc => s.claimEntry g ++ acc) []) s)

def claimQueryInfo : CmdInfo := ⟨0xA3, .serve⟩

/-- CLAIM_QUERY. -/
def execClaimQuery (c : HostCmd) (s : State) : Host.Outcome State Fault Refusal :=
  .next (hostCommand claimQueryInfo (.claimQuery c) c claimQueryBody s)

def twinResyncBody : Body := fun c w s =>
  if s.w.role ≠ 2 then complete w (.of stMode) s
  else if ¬ twinRsv c then complete w (.of stParam) s
  else
    let all := (List.range 32).foldr (fun l acc =>
      (if (s.lcore l).runs then (List.range (s.instCount l)).map (fun i => 16 * l + i) else []) ++ acc) []
    complete w (.of stOK) (setW (fun x => { x with resync := all, driftTotal := 0 }) s)

def twinResyncInfo : CmdInfo := ⟨0xA4, .serve⟩

/-- TWIN_RESYNC. -/
def execTwinResync (c : HostCmd) (s : State) : Host.Outcome State Fault Refusal :=
  .next (hostCommand twinResyncInfo (.twinResync c) c twinResyncBody s)

/-! ### The rows of the link and the pins -/

/-- SELVEDGE_SEGMENT_RX (R515). -/
def execSelvedgeSegmentRx (t seq : Nat) (ok : Bool) (s : State) : Host.Outcome State Fault Refusal := .next (segmentRx seq ok (advance t s))

/-- STATE_FRAME_RX (R515, R518, R521–R526). -/
def execStateFrameRx (t seq : Nat) (frame : StateFrame) (s : State) : Host.Outcome State Fault Refusal :=
  .next (stateFrameRx seq frame (advance t s))

/-- STATE_FRAME_MISSED (R519). -/
def execStateFrameMissed (t p : Nat) (s : State) : Host.Outcome State Fault Refusal := .next (stateFrameMissed p (advance t s))

/-- SELVEDGE_LANE_DOWN (R516). -/
def execSelvedgeLaneDown (t lane : Nat) (s : State) : Host.Outcome State Fault Refusal := .next (laneChange lane false (advance t s))

/-- SELVEDGE_LANE_UP (R516). -/
def execSelvedgeLaneUp (t lane : Nat) (s : State) : Host.Outcome State Fault Refusal := .next (laneChange lane true (advance t s))

/-- HB_IN_EDGE (R529). -/
def execHbInEdge (t : Nat) (s : State) : Host.Outcome State Fault Refusal := .next (hbInEdge (advance t s))

/-- HEARTBEAT_DUE (R528, R537). -/
def execHeartbeatDue (t : Nat) (s : State) : Host.Outcome State Fault Refusal := .next (heartbeatDue (advance t s))

/-- HEARTBEAT_MISSING (R529, R530, R539). -/
def execHeartbeatMissing (t path : Nat) (s : State) : Host.Outcome State Fault Refusal := .next (heartbeatMissing path (advance t s))

/-- TWIN_LISTEN_END (R541): `peerStrap` is the partner's TWIN_ROLE strap. -/
def execTwinListenEnd (t : Nat) (peerStrap : Bool) (s : State) : Host.Outcome State Fault Refusal := .next (endListening peerStrap (advance t s))

/-- CLAIM_PEER_CHANGE (R537). -/
def execClaimPeerChange (t : Nat) (high : Bool) (s : State) : Host.Outcome State Fault Refusal := .next (claimPeerChange high (advance t s))

/-- CLAIM_OWN_RISE (R537). -/
def execClaimOwnRise (t : Nat) (s : State) : Host.Outcome State Fault Refusal := .next (raiseOwn (advance t s))

/-- CLAIM_CONFLICT (R537). -/
def execClaimConflict (t : Nat) (s : State) : Host.Outcome State Fault Refusal := .next (claimConflict (advance t s))

end Sys2Proof.Machine
end

