-- ==== Sys2Proof/Machine/Fabric.lean ====
section
/-!
DEFINITION. Sys2Proof/Machine/Fabric.lean: bursts on the crossbar, Bobbin transfers, block resets, and the fabric's rows and commands
(15_fabric; 18_power_modes R596).
-/
namespace Sys2Proof.Machine

/-! ### Bursts (R473–R478) -/

/-- A burst within the bounds of R473: 1 to 16 beats of 32 bytes that do not cross a 512-byte boundary. -/
def soundBurst (b : Burst) : Bool := decide (1 ≤ b.len) && decide (b.addr / 512 = (b.addr + b.len - 1) / 512)

/-- Beats of a burst. -/
def burstBeats (b : Burst) : Nat := (b.addr % 32 + b.len + 31) / 32

/-- The bytes that a burst reads from an on-chip memory; those of host memory come with the burst. -/
def burstBytes (b : Burst) (s : State) : List Byte :=
  match targetOf b.addr with
  | some (10, _) => fit b.len b.data
  | _ => (List.range b.len).map (fun i => onChipByte s (b.addr + i))

/-- The answer to a read that is longer than a register: its 32-bit words, at 64 + 128 times the master. -/
def answerWords (m : Nat) (bytes : List Byte) (s : State) : State :=
  upto ((bytes.length + 3) / 4) (fun i st => answer (64 + 128 * m + i) (BitVec.ofNat 32 (getLE bytes (4 * i) 4)) st)
    (answer m (BitVec.ofNat 32 (getLE bytes 0 4)) s)

/-- The words of a run of addresses read, so that their errors count (19_register_map R627). -/
def readWords (a n : Nat) (s : State) : State :=
  (List.range ((a % 8 + n + 7) / 8)).foldl (fun st i => match instWord (a / 8 * 8 + 8 * i) with
    | some (k, w) => wordRead k w st
    | none => st) s

/-- A write would reach an active parameter copy: the memories of a core that runs its program (01_architecture R18; log 42). -/
def State.activeCopy (s : State) (o : Nat) : Bool :=
  let c := s.pcore (o / 0x40000)
  decide (c.st = 1) && decide ((s.lcore c.lcore).phys = o / 0x40000) && (s.lcore c.lcore).runs

/-- A target serves accesses (R478, R491; 18_power_modes R594). -/
def State.targetUp (s : State) (t : Nat) : Bool :=
  if t = 9 ∨ t = 13 ∨ t = 8 ∨ t = 12 then true
  else if t = 10 then s.coreUp && s.h.linkUp && !s.h.d3hot && !s.h.l2
  else s.coreUp

/-- A burst's address run ends in the same window as it starts. -/
def sameWindow (a n : Nat) : Bool :=
  match memoryOf a, memoryOf (a + n - 1) with
  | some m, some m' => decide (m = m')
  | _, _ => false

/-- A refusal of an address outside every window: the target and offset that the error registers show have no value (log 43). -/
def noWindow (m : Nat) (s : State) : State :=
  let (v, s) := draw s
  busError m (v.toNat % 16) (v.toNat / 16 % 2 ^ 32) s

/-- The words of a run of addresses that have a double-bit error, by their place in it. -/
def State.poisonedIn (s : State) (a n : Nat) : List Nat :=
  (List.range ((a % 8 + n + 7) / 8)).filter (fun i => match instWord (a / 8 * 8 + 8 * i) with
    | some (k, w) => s.isPoisoned k w
    | none => false)

/-- A read that PCIe inbound made and that was refused completes as a Completer Abort (R478). -/
def abortsHost (b : Burst) (s : State) : State := if b.master = 0 ∧ ¬ b.write then hostCompletes .abort s else s

/-- A read that PCIe inbound made and that met a double-bit error completes with poisoned data (14_host_interface R437). -/
def poisonsHost (b : Burst) (s : State) : State :=
  if b.master = 0 ∧ s.poisonedIn b.addr b.len ≠ [] then hostCompletes .poisoned s else s

/-- A burst reaches its target (R478, R482, R485). PCIe inbound reaches the registers through BAR0 and general memory through BAR2, with
the bounds of 14_host_interface R436 and R437. -/
def serveBurst (b : Burst) (s : State) : State :=
  match targetOf b.addr with
  | none => abortsHost b (noWindow b.master s)
  | some (t, o) =>
    let refuse := abortsHost b (busError b.master t o s)
    if ¬ sameWindow b.addr b.len ∨ ¬ s.targetUp t then refuse
    else if t = 8 ∧ b.master = 0 ∧ (b.len ≠ 4 ∨ b.addr % 4 ≠ 0) then badAccess o b.len s
    else if t = 8 then
      if b.len ≠ 4 ∨ b.addr % 4 ≠ 0 ∨ (b.write ∧ b.enables.any (fun e => !e)) then refuse
      else if b.write then regWrite b.master o (BitVec.ofNat 32 (getLE b.data 0 4)) s else regRead b.master o s
    else if t = 12 then
      if o < 0x100 ∧ b.len = 4 ∧ o % 4 = 0 then
        if b.write then semWrite b.master (o / 4) (BitVec.ofNat 32 (getLE b.data 0 4)) s else semRead b.master (o / 4) s
      else if 0x1000 ≤ o ∧ o < 0x1400 ∧ b.len = 8 then
        if b.write ∧ o % 0x20 = 0 then ocPost b.master ((o - 0x1000) / 0x20) (BitVec.ofNat 64 (getLE b.data 0 8)) s
        else if ¬ b.write ∧ o % 0x20 = 8 then ocRead b.master ((o - 0x1000) / 0x20) s
        else refuse
      else refuse
    else if ¬ b.write then poisonsHost b (answerWords b.master (burstBytes b s) (readWords b.addr b.len s))
    else if t < 4 ∧ b.master = 0 ∧ ¬ s.inMaintain then bar2Discard s
    else if t = 11 ∧ s.activeCopy o then busErrorBy 0x0804 b.master t o (a1 b.master ++ a8 b.addr) s
    else putOnChip b.addr ((List.range b.len).map (fun i => (lget true b.enables i, lget 0 b.data i))) s

/-! ### Arbitration (R474) -/

/-- Arbitration class of a master (R472): 1 high, 0 low. -/
def classOf (m : Nat) : Nat := if 8 ≤ m then 1 else 0

/-- The next of some masters in round-robin order after `last`. -/
def roundRobin (last : Nat) (ms : List Nat) : Option Nat :=
  (List.range 16).findSome? (fun i => let m := (last + 1 + i) % 16; if ms.contains m then some m else none)

/-- High-class bursts granted at a target while a low master waited. -/
def State.starved (s : State) (t m : Nat) : Nat := nget 0 s.g.starve (16 * t + m)

/-- The master that a target grants next among those that wait. -/
def State.grantee (s : State) (t : Nat) (ms : List Nat) : Option Nat :=
  let low := ms.filter (fun m => classOf m == 0)
  let high := ms.filter (fun m => classOf m == 1)
  let due := low.filter (fun m => decide (16 ≤ s.starved t m))
  let last := fun (c : Nat) => nget 15 s.g.granted (2 * t + c)
  if due ≠ [] then roundRobin (last 0) due else if high ≠ [] then roundRobin (last 1) high else roundRobin (last 0) low

/-- A grant recorded: each low master that still waits while a high burst is granted comes nearer to its turn. -/
def granted (t m : Nat) (waiting : List Nat) (s : State) : State :=
  let s := setG (fun g => { g with granted := nset g.granted (2 * t + classOf m) m, starve := ndel g.starve (16 * t + m) }) s
  if classOf m = 1 then
    (waiting.filter (fun k => classOf k == 0)).foldl (fun st k =>
      setG (fun g => { g with starve := nset g.starve (16 * t + k) (s.starved t k + 1) }) st) s
  else s

/-- An acquiring read of a lock: its offset (R482). -/
def lockRead (b : Burst) : Option Nat :=
  match targetOf b.addr with
  | some (12, o) => if ¬ b.write ∧ o < 0x100 then some o else none
  | _ => none

/-- The burst that is served where the arbiter turns to `b`: reads of one lock that come together are within 1 ns of each other, and which
of them is first is free (R483). -/
def pickRival (b : Burst) (bs : List Burst) (s : State) : Burst × State :=
  match lockRead b with
  | none => (b, s)
  | some o =>
    match bs.filter (fun x => lockRead x == some o) with
    | [] => (b, s)
    | [_] => (b, s)
    | l =>
      let (v, s) := draw s
      (lget b l (v.toNat % l.length), s)

/-- Bursts that wait at the same time are served until none is left, each target granting its masters in turn. -/
def arbitrate : Nat → List Burst → State → State
  | 0, _, s => s
  | n + 1, bs, s =>
    match bs with
    | [] => s
    | b0 :: _ =>
      match targetOf b0.addr with
      | none => arbitrate n (bs.drop 1) (noWindow b0.master s)
      | some (t, _) =>
        let here := fun (b : Burst) => match targetOf b.addr with
          | some (k, _) => decide (k = t)
          | none => false
        match s.grantee t ((bs.filter here).map (fun b => b.master)) with
        | none => arbitrate n (bs.drop 1) s
        | some m =>
          match bs.find? (fun b => here b && b.master == m) with
          | none => arbitrate n (bs.drop 1) s
          | some b =>
            let (b, s) := pickRival b bs s
            let rest := bs.erase b
            let ms := ((rest.filter here).map (fun x => x.master)).eraseDups
            arbitrate n rest (granted t b.master ms (serveBurst b s))

/-- The park master of a target (R477). -/
def State.parkMaster (s : State) (t : Nat) : Nat :=
  if t < 8 then s.field 0x6020 (4 * t + 3) (4 * t) else s.field 0x6024 (4 * (t - 8) + 3) (4 * (t - 8))

/-- An idle target holds its grant for its park master, whose first burst it takes without arbitration (R477). -/
def idleGrant (t : Nat) (r : List Burst × State) : List Burst × State :=
  let here := fun (b : Burst) => match targetOf b.addr with
    | some (k, _) => decide (k = t)
    | none => false
  match r.1.find? (fun b => here b && b.master == r.2.parkMaster t) with
  | none => r
  | some b =>
    let (b, s) := pickRival b r.1 r.2
    let rest := r.1.erase b
    (rest, granted t b.master ((rest.filter here).map (fun x => x.master)).eraseDups (serveBurst b s))

/-- Bursts that come together at targets that are idle: those of the park masters go first. -/
def idleGrants (bs : List Burst) (s : State) : List Burst × State := (List.range 14).foldl (fun r t => idleGrant t r) (bs, s)

/-- CROSSBAR_TRANSFER (R473, R474, R477, R478): bursts of distinct or equal masters that come together. -/
def execCrossbarTransfer (t : Nat) (bursts : List Burst) (s : State) : Host.Outcome State Fault Refusal :=
  let r := idleGrants (bursts.filter (fun b => soundBurst b && decide (b.master < 16))) (advance t s)
  .next (arbitrate r.1.length r.1 r.2)

/-! ### Bobbin transfers (R492–R499) -/

/-- One row of a transfer written at port B: a memory takes its bytes; another target is accessed by the rules of R478. -/
def bobWriteRow (a : Nat) (bytes : List Byte) (s : State) : State :=
  serveBurst { master := 2, addr := a, write := true, len := bytes.length, enables := [], data := bytes } s

/-- Words written poisoned (R497): those that take a byte of the source's words `ws`. The row goes from `src` to `dst`, `n` bytes long. -/
def poisonWords (src dst n : Nat) (ws : List Nat) (s : State) : State :=
  ws.foldl (fun st i =>
    let lo := dst + (8 * i - src % 8)
    let hi := dst + min n (8 * i + 8 - src % 8)
    (fromTo (lo / 8) ((hi - 1) / 8)).foldl (fun st w => match instWord (8 * w) with
      | some (k, x) => setG (fun g => { g with bad := nset g.bad (badKey k x) true }) st
      | none => st) st) s

/-- One row read at port A and its words: what host memory returned comes with the command; a register or a mailbox answers as to any
master. -/
def bobReadRow (a n : Nat) (host : List Byte) (s : State) : List Byte × State :=
  match targetOf a with
  | some (10, _) => (fit n host, s)
  | some (8, _) =>
    let s := serveBurst { master := 1, addr := a, write := false, len := n, enables := [], data := [] } s
    (fit n (leBytes 4 (nget 0 s.h.answer 1).toNat), s)
  | some (12, _) =>
    let s := serveBurst { master := 1, addr := a, write := false, len := n, enables := [], data := [] } s
    (fit n (leBytes 4 (nget 0 s.h.answer 1).toNat ++ leBytes 4 (nget 0 s.h.answer 17).toNat), s)
  | _ => ((List.range n).map (fun i => onChipByte s (a + i)), readWords a n s)

/-- The rows of a transfer moved in ascending order; the answer tells whether a source word was poisoned. `seen` are words of the host's data
that came poisoned, by their place in the whole transfer. -/
def bobRows (d data : List Byte) (seen : List Nat) : Nat → Nat → Bool × State → Bool × State
  | 0, _, r => r
  | n + 1, k, (bad, s) =>
    let len := dLen d
    let src := dSrc d + 8 * k * dSstr d
    let dst := dDst d + 8 * k * dDstr d
    let p := s.poisonedIn src len ++ (seen.filter (fun i => decide (k * len / 8 ≤ i) && decide (i < (k + 1) * len / 8))).map (fun i => i - k * len / 8)
    let (bytes, s) := bobReadRow src len (data.drop (k * len)) s
    let s := poisonWords src dst len p (bobWriteRow dst bytes s)
    bobRows d data seen n (k + 1) (bad || p != [], s)

/-- A notice that a chain's descriptor has completed (R485, R494); its POINTER and GEN have no stated value (log 36). -/
def bobNotify (c : Nat) (s : State) : State :=
  let (v, s) := draw s
  let ep := nget 0 s.g.epochs 2
  ocPost 2 (if c < 4 then 18 else 19) (BitVec.ofNat 64 (v.toNat % 2 ^ 48 + ep * 2 ^ 48 + v.toNat / 2 ^ 48 % 16 * 2 ^ 56)) s

/-- BOB_DESC_COMPLETE (R494, R496–R498). -/
def bobComplete (c : Nat) (data : List Byte) (seen : List Nat) (s : State) : State :=
  let x := s.bob c
  if 16 ≤ c ∨ ¬ x.run ∨ ¬ s.coreUp then s
  else
    let d := x.desc
    let still := decide (dRows d = 1) && decide (dSrc d = dDst d)
    let (bad, s) := if still then (false, s) else bobRows d data seen (dRows d) 0 (false, s)
    let x := s.bob c
    let s := setBob c { x with last := if bad then stPoison else stOK, done := satN 0xFFFFFFFF (x.done + 1),
                               bytes := if still then x.bytes else satN (2 ^ 64 - 1) (x.bytes + dLen d * dRows d) } s
    let s := bump (0x5010 + 0x20 * c) 31 0 s
    let s := if bad then post 0x0808 c (a4 c ++ a4 x.cur) (bump (0x500C + 0x20 * c) 31 16 s) else s
    let s := if bitOf (dChain d) 25 then bobNotify c s else s
    bobFollow c s

def execBobDescComplete (t ch : Nat) (data : List Byte) (poison : List Nat) (s : State) : Host.Outcome State Fault Refusal :=
  .next (bobComplete ch data poison (advance t s))

/-- BOB_DB_WRITE (R498, R499, R508), after firmware's configuration of the channel where the command brings one (log 36). -/
def execBobDbWrite (t m ch : Nat) (v : Word) (cfg : Option (Word × Word)) (s : State) : Host.Outcome State Fault Refusal :=
  let s := advance t s
  let s := match cfg with
    | some (a, b) => bobConfig ch a b s
    | none => s
  .next (if ch < 16 then regWrite m (0x5018 + 0x20 * ch) v s else s)

/-! ### Locks, mailboxes, threads -/

/-- SEMAPHORE_READ (R482–R484). -/
def execSemaphoreRead (t m k : Nat) (s : State) : Host.Outcome State Fault Refusal := .next (semRead m k (advance t s))

/-- SEMAPHORE_WRITE (R482). -/
def execSemaphoreWrite (t m k : Nat) (v : Word) (s : State) : Host.Outcome State Fault Refusal := .next (semWrite m k v (advance t s))

/-- ONCHIP_MAILBOX_POST (R485–R487, R490, R491). -/
def execOnchipMailboxPost (t m k : Nat) (v : DWord) (s : State) : Host.Outcome State Fault Refusal := .next (ocPost m k v (advance t s))

/-- ONCHIP_MAILBOX_READ (R485). -/
def execOnchipMailboxRead (t m k : Nat) (s : State) : Host.Outcome State Fault Refusal := .next (ocRead m k (advance t s))

/-- SHUTTLE_POST (R500, R501). -/
def execShuttlePost (t slot level : Nat) (mp : Bool) (flow : Option Nat) (arg : Nat) (s : State) : Host.Outcome State Fault Refusal :=
  .next (shuttlePost slot level mp flow arg (advance t s))

/-- SHUTTLE_THREAD_END (R505). -/
def execShuttleThreadEnd (t ex : Nat) (s : State) : Host.Outcome State Fault Refusal := .next (threadEnd ex (advance t s))

/-- SHUTTLE_PREEMPT_POINT (R503). -/
def execShuttlePreemptPoint (t ex : Nat) (s : State) : Host.Outcome State Fault Refusal := .next (preemptPoint ex (advance t s))

/-- CONTROL_CORE_GATE (R490). -/
def execControlCoreGate (t k : Nat) (s : State) : Host.Outcome State Fault Refusal := .next (gateCore k (advance t s))

/-! ### Block resets (R479–R481, R487, R488; 18_power_modes R596) -/

/-- Registers from `lo` below `hi` return to their Reset values, but for RWS fields, and what reads of their low halves latched is gone
(00_scope R8). A low half that a master has written and that waits for its high half stays held: R9 names no reset (log 77). -/
def resetRegs (lo hi : Nat) (s : State) : State :=
  let s := { s with h := { s.h with latches := s.h.latches.filter (fun x => !(decide (lo ≤ x.1 % 2 ^ 17) && decide (x.1 % 2 ^ 17 < hi))) } }
  { s with regs := s.regs.filterMap (fun x =>
      if lo ≤ x.1 ∧ x.1 < hi then
        match regDef? x.1 with
        | some d =>
          let k := d.maskOf [.rws]
          if k = 0 then none else some (x.1, (x.2 &&& k) ||| (d.resetWord &&& ~~~k))
        | none => none
      else some x) }

/-- Masters of a block (R472). -/
def blockMasters : Block → List Nat
  | .controlCore k => [4 + k % 4]
  | .manager => [3]
  | .bobbin => [1, 2]
  | .selvedge => [12]
  | .loom => [13]
  | .reed => [14]
  | .heddle => [15]
  | .filterChain => [15]
  | .battenCluster k => [8 + k % 4]
  | .ports => []
  | .media => []
  | .shuttle => []
  | .mailboxes => []
  | .crossbar => []

/-- A block serves a target at an offset (R481). -/
def blockServes (b : Block) (t o : Nat) : Bool :=
  match b with
  | .mailboxes => decide (t = 12)
  | .battenCluster k => decide (t = 11) && decide (o / 0x40000 % 4 = k % 4)
  | .crossbar => true
  | _ => false

/-- A burst of the block's own that its reset cuts (R479): the beats accepted are written and the others change nothing. -/
def cutBurst (x : CutBurst) (s : State) : State :=
  let b := x.burst
  let n := min x.accepted (burstBeats b)
  let bytes := min b.len (32 * n - b.addr % 32)
  let s := if b.write ∧ 0 < bytes then serveBurst { b with len := bytes } s else s
  let t := match targetOf b.addr with
    | some (t, _) => t
    | none => 15
  post 0x0802 b.master (a1 b.master ++ a1 t ++ a2 n ++ a2 (burstBeats b - n)) (bump 0x600C 15 0 s)

/-- A burst to a target that is reset (R481): written in part, and refused. -/
def targetCut (x : CutBurst) (s : State) : State :=
  let b := x.burst
  let n := min x.accepted (burstBeats b)
  let bytes := min b.len (32 * n - b.addr % 32)
  let s := if b.write ∧ 0 < bytes then serveBurst { b with len := bytes } s else s
  match targetOf b.addr with
  | some (t, o) => busError b.master t o s
  | none => noWindow b.master s

/-- A logical core whose mapped core is in the cluster loses its program. -/
def resetCluster (k : Nat) (s : State) : State :=
  let s := (List.range 34).foldl (fun st c =>
    if c % 4 = k then
      let x := st.pcore c
      putPcore c { x with code := [], fill := 0, x := [], y := [], prog := none, st := if x.st = 3 then 0 else x.st, lcore := if x.st = 3 then 0 else x.lcore } st
    else st) s
  (List.range 32).foldl (fun st l =>
    let x := st.lcore l
    let x := match x.held with
      | some h => if h % 4 = k then { x with held := none } else x
      | none => x
    putLcore l (if x.phys % 4 = k then { LCore.reset l with phys := x.phys, held := x.held } else x) st) s

/-- A master's executor loses its thread at the master's reset. -/
def dropThread (e : Nat) (s : State) : State :=
  match (s.exec? e).cur with
  | some (p, _) => setG (fun g => { g with running := g.running.erase p.slot, idleSince := nset g.idleSince e s.t.now }) (setExec e Executor.reset s)
  | none => s

/-- The state of a block as after reset; commands that wait for what it held end with ABORTED_RESET. -/
def resetBlock (b : Block) (s : State) : State :=
  match b with
  | .controlCore k => dropThread (k % 4) s
  | .manager => dropThread 4 s
  | .bobbin => resetRegs 0x5000 0x6000 (setG (fun g => { g with bob := [] }) s)
  | .selvedge => resetRegs 0x10000 0x11000 (setW (fun w => { w with
      frames := 0, broken := [], adopt := [], ckpts := [], asked := [], outCrc := [], batCrc := [], versions := [], sent := none }) s)
  | .loom =>
    let s := s.x.dumps.foldl (fun st d => complete d.1 (.of stAborted) st) (cancelSwaps .layout s)
    resetRegs 0x7000 0x8000 (setX (fun _ => { LoomS.reset with ceilDef := s.outputs }) s)
  | .reed => resetRegs 0x8000 0x9000 (setR (fun _ => ReedS.reset) (endMeas stAborted (stopStimulus (cancelSwaps .reed s))))
  | .heddle => resetRegs 0x9000 0xA000 (setD (fun _ => HeddleS.reset) (cancelSwaps .route s))
  | .filterChain =>
    let s := match s.f.swap with
      | some (_, w) => complete w (.of stAborted) s
      | none => s
    resetRegs 0xA000 0xB000 (setF (fun _ => FchS.reset) (stopStimulus s))
  | .battenCluster k => resetCluster (k % 4) s
  | .ports => resetRegs 0xB000 0xD000 (setA (fun _ => PortS.reset) s)
  | .media =>
    let s := (List.range 4).foldl (fun st p => match (st.mac p).swap with
      | some (_, _, w) => complete w (.of stAborted) st
      | none => st) s
    resetRegs 0xD000 0xD200 (setN (fun n => { NetS.reset with mg := n.mg, sentMg := n.sentMg }) s)
  | .shuttle => resetRegs 0x4000 0x5000 (setG (fun g => { g with
      slots := [], running := [], levels := [], flows := [], ex := [], traceEn := false, kinds := 0, levelMask := 0 }) s)
  | .mailboxes => resetRegs 0x3100 0x3200 (setG (fun g => { g with sems := [], oc := [] }) s)
  -- the latch stages and their lock stand until the core domain starts again (R476; log 77)
  | .crossbar => resetRegs 0x6000 0x6040 (setG (fun g => { g with granted := [], starve := [] }) s)

/-- BLOCK_RESET: the block's bursts are cut, its locks released and its mailboxes cleared; its epoch moves on as the reset ends. -/
def blockReset (b : Block) (cuts : List CutBurst) (s : State) : State :=
  if ¬ s.coreUp then s
  else
    let own := cuts.filter (fun x => (blockMasters b).contains x.burst.master)
    let served := cuts.filter (fun x => !(blockMasters b).contains x.burst.master && (match targetOf x.burst.addr with
      | some (t, o) => blockServes b t o
      | none => false))
    let s := own.foldl (fun st x => cutBurst x st) s
    let s := (blockMasters b).foldl (fun st m => releaseLocks m st) s
    let s := (blockMasters b).foldl (fun st m => clearReceiver m st) s
    let s := served.foldl (fun st x => targetCut x st) s
    let s := resetBlock b s
    (blockMasters b).foldl (fun st m => nextEpoch m st) s

def execBlockReset (t : Nat) (b : Block) (cuts : List CutBurst) (s : State) : Host.Outcome State Fault Refusal :=
  .next (blockReset b cuts (advance t s))

/-! ### Commands (R509, R510) -/

/-- One entry of BOB_QUERY. -/
def State.bobEntry (s : State) (c : Nat) : List Byte :=
  let x := s.bob c
  leBytes 4 (s.regValue (0x5000 + 0x20 * c)).toNat ++ leBytes 4 (s.regValue (0x5008 + 0x20 * c)).toNat ++ leBytes 1 x.last ++ zeros 3 ++
    leBytes 4 x.done ++ leBytes 8 x.bytes ++ leBytes 4 (satN 0xFFFFFFFF x.doorbells) ++ leBytes 4 (satN 0xFFFFFFFF x.early)

def bobQueryBody : Body := fun c w s =>
  if ¬ parZero c 48 16 then complete w (.of stParam) s
  else if ¬ aligned8 (par c 0 8) then complete w (.of stAlign) s
  else complete w (.of stOK) (writeHost (par c 0 8) ((List.range 16).foldr (fun k acc => s.bobEntry k ++ acc) []) s)

def bobQueryInfo : CmdInfo := ⟨0xD0, .serve⟩

/-- BOB_QUERY. -/
def execBobQuery (c : HostCmd) (s : State) : Host.Outcome State Fault Refusal :=
  .next (hostCommand bobQueryInfo (.bobQuery c) c bobQueryBody s)

def traceSetBody : Body := fun c w s =>
  if ¬ parZero c 48 16 ∨ 2 ≤ par c 8 1 ∨ 512 ≤ par c 16 2 then complete w (.of stParam) s
  else complete w (.of stOK) (setG (fun g => { g with traceEn := bitOf (par c 8 1) 0, kinds := par c 16 2, levelMask := par c 20 4 }) s)

def traceSetInfo : CmdInfo := ⟨0xD1, .serve⟩

/-- TRACE_SET (R506). -/
def execTraceSet (c : HostCmd) (s : State) : Host.Outcome State Fault Refusal :=
  .next (hostCommand traceSetInfo (.traceSet c) c traceSetBody s)

/-- The latch bitmap of XBR_CFG. -/
def xbrLatches (c : HostCmd) : List Nat := (List.range 16).map (fun m => par c (16 + 2 * m) 2)

/-- Park masters taken up (R477). -/
def takePark (c : HostCmd) (s : State) : State :=
  setReg 0x6024 (BitVec.ofNat 32 (par c 13 3)) (setReg 0x6020 (BitVec.ofNat 32 (par c 9 4)) s)

/-- The latch bitmap stored in the boot record; the command completes once it is committed (R510). -/
def storeLatches (c : HostCmd) (w : Waiter) (s : State) : State :=
  let l := xbrLatches c
  let differs := anyTo 16 (fun m => decide ((s.reg (0x6040 + 4 * m)).toNat ≠ lget 0 l m))
  match appendRecord 0 1 0 ({ s.boot with latch := l }).bytes (.complete w (b2n differs) 0) s with
  | some s => s
  | none => complete w (.of stLedgerFull) (regionFull 0 s)

def xbrCfgBody : Body := fun c w s =>
  let ap := par c 8 1
  if ¬ parZero c 48 16 ∨ 4 ≤ ap ∨ (bitOf ap 1 ∧ (xbrLatches c).any (fun v => decide (2 ^ 14 ≤ v))) then complete w (.of stParam) s
  else if bitOf ap 1 then
    ledgerBody (.xbrCfg c) (fun c w s => storeLatches c w (if bitOf ap 0 then takePark c s else s)) c w s
  else complete w (.of stOK) (if bitOf ap 0 then takePark c s else s)

def xbrCfgInfo : CmdInfo := ⟨0xD2, .serve⟩

/-- XBR_CFG (R477, R510). -/
def execXbrCfg (c : HostCmd) (s : State) : Host.Outcome State Fault Refusal :=
  .next (hostCommand xbrCfgInfo (.xbrCfg c) c xbrCfgBody s)

end Sys2Proof.Machine
end

