-- ==== Sys2Proof/Machine/Triggers.lean ====
section
/-!
DEFINITION. Sys2Proof/Machine/Triggers.lean: the time triggers (13_time R424–R433): arming, disarming, firing and their actions.
-/
namespace Sys2Proof.Machine

def State.trig (s : State) (k : Nat) : Trig := nget Trig.off s.t.trigs k

def setTrig (k : Nat) (x : Trig) (s : State) : State := setT (fun t => { t with trigs := nset t.trigs k x }) s

/-- The argument that R425 gives each action. -/
def trigArgOk (action arg : Nat) : Bool :=
  if action = 1 ∨ action = 2 then decide (arg ≤ 7)
  else if action = 4 then decide (arg ≤ 15)
  else if action = 6 then decide (arg % 128 < 4)
  else if action = 7 then decide (bitsOf arg 6 4 = 0)
  else decide (arg = 0)

/-- The actions that the things naming a trigger need of it: a group's start or stop, a measurement run that has not started, a Bobbin
channel that it is armed to start (R433). -/
def State.trigUses (s : State) (k : Nat) : List Nat :=
  (if anyTo 8 (fun g => decide ((s.grp g).start = some k)) then [1] else []) ++
    (if anyTo 8 (fun g => decide ((s.grp g).stop = some k)) then [2] else []) ++
    (match s.r.meas with
      | some m => if m.start.isNone ∧ m.trig = k then [5] else []
      | none => []) ++
    (if (s.trig k).armed ∧ (s.trig k).action = 4 ∧ (s.bob (s.trig k).arg).en ∧ (s.bob (s.trig k).arg).trig = 1 then [4] else [])

/-- An action whose block is not running is counted (R430). -/
def trigDropped (k : Nat) (s : State) : State := bump (0xE100 + 4 * k) 29 22 s

/-- The first pick that starts at or after a device time. -/
def State.firstPickFrom (s : State) (tU : Nat) : Nat :=
  let p := pickOf s.fs s.t.pickLen tU
  if s.pickAt p < tU then p + 1 else p

/-- A measurement run's start trigger fires at `t` (08_filter_chain R275): its first render pick, and the stimulus, if there is one, with
the capture pick before. -/
def measTrigger (k t : Nat) (s : State) : State :=
  match s.r.meas with
  | some m =>
    if m.trig = k ∧ m.start.isNone ∧ s.m.dpRun then
      let q := s.firstPickFrom t + 1
      setF (fun f => { f with stimAt := if f.stim.typ = 0 then none else some q, stimEnd := min f.stim.slen m.len }) (setR (fun r => { r with meas := some { m with start := some q } }) s)
    else trigDropped k s
  | none => trigDropped k s

/-- The start-render action (R425, R430; 18_power_modes R602): in Dormant and start-up the data plane is due at the first render pick, of the
pending rate and pick length, that starts at or after `t`. In start-up an earlier trigger has decided already; after a thermal trip the hold
goes on (R594), and the trigger has no effect. -/
def renderTrigger (k t : Nat) (s : State) : State :=
  if s.m.dpRun then trigDropped k s
  else if s.m.thermal ∨ s.m.trans.isSome ∨ s.m.startPick.isSome then s
  else
    let trans := if s.m.start then some { target := s.resumeMode none, pick := 0, resume := 0, who := none } else none
    setM (fun m => { m with startPick := some ((takeRate s).firstPickFrom t), trans := trans }) s

/-- What trigger `k` does when it fires with the time `t` (R425). -/
def trigAction (k t : Nat) (x : Trig) (s : State) : State :=
  if x.action = 1 then
    if s.m.dpRun then (if (s.grp x.arg).start = some k then groupStart x.arg t s else s) else trigDropped k s
  else if x.action = 2 then
    if s.m.dpRun then (if (s.grp x.arg).stop = some k then groupStop x.arg t s else s) else trigDropped k s
  else if x.action = 3 then (if s.m.dpRun then askReset t s else trigDropped k s)
  else if x.action = 4 then
    if s.coreUp ∧ ¬ s.m.retention then (if (s.bob x.arg).trig = 1 then bobStart x.arg s else s) else trigDropped k s
  else if x.action = 5 then measTrigger k t s
  else if x.action = 6 then
    let pin := x.arg % 128
    setT (fun y => { y with caps := nmod Capture.none y.caps pin (fun e => { e with wait := some (bitOf x.arg 7) }) }) s
  else if x.action = 7 then
    let pin := x.arg % 16
    setT (fun y => { y with
      gpioDrive := y.gpioDrive ||| 2 ^ pin,
      gpioLevel := if bitOf x.arg 7 then y.gpioLevel ||| 2 ^ pin else if bitOf y.gpioLevel pin then y.gpioLevel - 2 ^ pin else y.gpioLevel }) s
  else if x.action = 8 then renderTrigger k t s
  else s

/-- An armed trigger fires with the time `t` in units of device time (R424, R427). -/
def fireTrigger (k t : Nat) (late : Bool) (s : State) : State :=
  let x := s.trig k
  let s := setTrig k (if x.period = 0 then { x with armed := false, fired := true, late := late }
    else { x with at_ := x.at_ + x.period, late := late }) s
  let s := bump (0xE100 + 4 * k) 21 14 s
  let s := trigAction k t x s
  if late then post 0x0209 k [] s else s

/-- A trigger's time has come (R424). -/
def State.trigDue (s : State) (k : Nat) : Bool := (s.trig k).armed && decide ((s.trig k).at_ * nsU ≤ s.t.now)

/-- A due trigger fires with its own time. -/
def fireDue (k : Nat) (s : State) : State := if s.trigDue k then fireTrigger k ((s.trig k).at_ * nsU) false s else s

def trigArmBody : Body := fun c w s =>
  let k := par c 24 1
  let a := par c 25 1
  let p := par c 16 8
  if 64 ≤ k ∨ 8 < a ∨ ¬ trigArgOk a (par c 26 1) ∨ ¬ (p = 0 ∨ 1000 ≤ p ∧ p ≤ 2 ^ 40) ∨ ¬ parZero c 40 24 then complete w (.of stParam) s
  else if (s.trigUses k).any (fun u => u != a) then complete w (.of stBusy) s
  else
    -- one whose time has come has fired (R422)
    let s := fireDue k s
    let s := setTrig k { s.trig k with armed := true, fired := false, at_ := par c 8 8, action := a, arg := par c 26 1, period := p } s
    let s := if par c 8 8 * nsU < s.t.now then fireTrigger k s.t.now true s else s
    complete w (.of stOK) s

def trigArmInfo : CmdInfo := ⟨0x93, .serve⟩

/-- TRIG_ARM (R424–R427, R433). -/
def execTrigArm (c : HostCmd) (s : State) : Host.Outcome State Fault Refusal :=
  .next (hostCommand trigArmInfo (.trigArm c) c trigArmBody s)

def trigDisarmBody : Body := fun c w s =>
  let k := par c 24 1
  if 64 ≤ k ∨ ¬ parZero c 40 24 then complete w (.of stParam) s
  else
    let x := s.trig k
    if s.trigDue k then
      let s := fireDue k s
      complete w (.of stOK 1) (setTrig k { s.trig k with armed := false, fired := false } s)
    else complete w (.of stOK (b2n (!x.armed && x.fired))) (setTrig k { x with armed := false, fired := false } s)

def trigDisarmInfo : CmdInfo := ⟨0x94, .serve⟩

/-- TRIG_DISARM (R422, R429): a trigger whose time has come has fired. -/
def execTrigDisarm (c : HostCmd) (s : State) : Host.Outcome State Fault Refusal :=
  .next (hostCommand trigDisarmInfo (.trigDisarm c) c trigDisarmBody s)

/-- TRIGGER_FIRE (R424, R428). Triggers that are due before it, or at the same instant with a lower index, act first. -/
def triggerFire (k : Nat) (s : State) : State :=
  let x := s.trig k
  if k < 64 ∧ s.trigDue k then
    let before := (List.range 64).filter (fun j => s.trigDue j &&
      (decide ((s.trig j).at_ < x.at_) || (decide ((s.trig j).at_ = x.at_) && decide (j < k))))
    fireDue k ((before.foldl (fun l j => insertBy (fun i => (s.trig i).at_) j l) []).foldl (fun st j => fireDue j st) s)
  else s

def execTriggerFire (t k : Nat) (s : State) : Host.Outcome State Fault Refusal := .next (triggerFire k (advance t s))

end Sys2Proof.Machine
end

