-- ==== Sys2Proof/Machine/Ptp.lean ====
section
/-!
DEFINITION. Sys2Proof/Machine/Ptp.lean: the PTP port (13_time R409–R413). The layout of messages and the comparison of data sets are
those of IEEE 1588-2019, which R409 names (log 44).
-/
namespace Sys2Proof.Machine

/-- The clock announces class 255 in the slave-only role, class 6 while PPS_IN is its valid reference, otherwise 248 (R411). -/
def State.clockClass (s : State) : Nat := if ¬ s.t.masterCap then 255 else if s.t.sel = some 1 ∧ s.t.lock then 6 else 248

/-- The clock's own data set, most significant member first. -/
def State.ownDataset (s : State) : List Nat :=
  [s.t.pri1, s.clockClass, Config.clockAccuracy.toNat, Config.clockVariance.toNat, s.t.pri2, Config.clockIdentity.toNat]

/-- The data set of an Announce. -/
def announceDataset (b : List Byte) : List Nat :=
  [byteAt b 47, byteAt b 48, byteAt b 49, getBE b 50 2, byteAt b 52, getBE b 53 8]

/-- The first data set is the better one. -/
def betterDataset : List Nat → List Nat → Bool
  | a :: r, b :: q => decide (a < b) || (decide (a = b) && betterDataset r q)
  | _, _ => false

/-- A timestamp field in units of device time; a correction field. -/
def ptpTime (b : List Byte) (o : Nat) : Int := ((getBE b o 6 * 1000000000 + getBE b (o + 6) 4 : Nat) : Int) * 65536
def ptpCorrection (b : List Byte) : Int := signed 64 (getBE b 8 8)

/-- Header of a message that the port sends. -/
def ptpHeader (kind len flag0 flag1 corr seq interval : Nat) (domain : Nat) : List Byte :=
  [BitVec.ofNat 8 kind, 0x12#8] ++ beBytes 2 len ++ [BitVec.ofNat 8 domain, 0#8, BitVec.ofNat 8 flag0, BitVec.ofNat 8 flag1] ++
    beBytes 8 corr ++ zeros 4 ++ beBytes 8 Config.clockIdentity.toNat ++ beBytes 2 1 ++ beBytes 2 seq ++
    [BitVec.ofNat 8 (if kind = 0 then 0 else if kind = 1 then 1 else if kind = 8 then 2 else if kind = 9 then 3 else 5), BitVec.ofNat 8 interval]

/-- Timestamp bytes of a time in units of device time; its fraction of a nanosecond goes into the correction field. -/
def ptpStamp (tU : Nat) : List Byte := beBytes 6 (tU / nsU / 1000000000) ++ beBytes 4 (tU / nsU % 1000000000)

/-- The port sends a message. -/
def sendPtp (kind : Nat) (b : List Byte) (s : State) : State := setT (fun t => { t with sent := nset t.sent kind b }) s

/-- A measured exchange reaches the servo (R412). How the servo filters is not in the spec: the filtered offset and the frequency are
free values (log 44). The servo is locked while the filtered offset stays below 1 µs. -/
def ptpServo (s : State) : State :=
  let (v, s) := draw s
  let off := signed 32 v.toNat
  let s := if s.t.sel = some 0 ∧ s.t.lock then setFreq (signed 32 (v.toNat / 2 ^ 32)) (setT (fun t => { t with
    offset := off, far := t.far && decide (1000000 < off.natAbs) }) s) else s
  if off.natAbs < 1000 then
    setT (fun t => { t with ptpState := 5, servoSince := some (t.servoSince.getD t.now) }) s
  else
    let s := setT (fun t => { t with servoSince := none }) s
    if s.refValid 0 then markInvalid 0 .servo s else s

/-- The exchange is complete: t1 to t4 are known. -/
def ptpExchange (s : State) : State :=
  match s.t.exch.t1, s.t.exch.t2, s.t.exch.t3, s.t.exch.t4 with
  | some _, some _, some _, some _ =>
    ptpServo (setT (fun t => { t with exch := { t.exch with t1 := none, t2 := none } }) s)
  | _, _, _, _ => s

/-- An Announce (R410–R412): the default best master clock algorithm, with one foreign master remembered. -/
def ptpAnnounce (b : List Byte) (s : State) : State :=
  let who := getBE b 20 10
  let d := announceDataset b
  let follows := decide (s.t.ptpState = 3) || decide (s.t.ptpState = 4) || decide (s.t.ptpState = 5)
  if follows ∧ s.t.parent ≠ who ∧ ¬ betterDataset d s.t.dataset then s
  else if s.t.masterCap ∧ ¬ betterDataset d s.ownDataset then
    -- the own clock is the best one
    let s := if follows then setT (fun t => { t with servoSince := none, parent := 0, dataset := [] }) s else s
    let s := if follows ∧ s.refValid 0 then markInvalid 0 .master s else s
    setT (fun t => { t with ptpState := 2, lastAnnounce := none }) s
  else
    let gm := getBE b 53 8
    let changed := decide (s.t.gm ≠ BitVec.ofNat 64 gm) || decide (s.t.parent ≠ who)
    let s := if follows ∧ s.t.gm ≠ BitVec.ofNat 64 gm then markInvalid 0 .master (setT (fun t => { t with servoSince := none }) s) else s
    let st := if s.t.masterCap ∧ s.clockClass < 128 then 3 else if changed ∨ s.t.ptpState ≠ 5 then 4 else 5
    setT (fun t => { t with ptpState := st, gm := BitVec.ofNat 64 gm, parent := who, dataset := d, lastAnnounce := some t.now }) s

/-- PTP_MESSAGE_RX (R410–R413): a message on the port that carries PTP, with its stamp at the MAC; messages of another domain or clock are
discarded. -/
def ptpMessage (port stamp : Nat) (b : List Byte) (s : State) : State :=
  if ¬ s.coreUp ∨ port ≠ s.t.ptpPort ∨ ¬ (s.mac port).link ∨ b.length < 34 ∨ byteAt b 1 % 16 ≠ 2 ∨ byteAt b 4 ≠ s.t.domain ∨
      getBE b 20 8 = Config.clockIdentity.toNat then s
  else
    let kind := byteAt b 0 % 16
    let who := getBE b 20 10
    let seq := getBE b 30 2
    let at_ := s.stampIn port stamp
    let fromParent := decide (who = s.t.parent) && (decide (s.t.ptpState = 4) || decide (s.t.ptpState = 5))
    if kind = 11 then (if b.length < 64 then s else ptpAnnounce b s)
    else if b.length < 44 then s
    else if kind = 0 then
      let s := if fromParent then seeEdge 0 at_ s else s
      if ¬ fromParent then s
      else if bitOf (byteAt b 6) 1 then
        setT (fun t => { t with syncCorr := ptpCorrection b, exch := { t.exch with t1 := none, t2 := some at_, syncSeq := seq } }) s
      else
        ptpExchange (setT (fun t => { t with exch := { t.exch with
          t1 := some (ptpTime b 34 + ptpCorrection b).toNat, t2 := some at_, syncSeq := seq } }) s)
    else if kind = 8 then
      if fromParent ∧ seq = s.t.exch.syncSeq ∧ s.t.exch.t2.isSome then
        ptpExchange (setT (fun t => { t with exch := { t.exch with
          t1 := some (ptpTime b 34 + t.syncCorr + ptpCorrection b).toNat } }) s)
      else s
    else if kind = 9 then
      if fromParent ∧ seq = s.t.exch.delaySeq ∧ 54 ≤ b.length ∧ getBE b 44 8 = Config.clockIdentity.toNat ∧ s.t.exch.t3.isSome then
        ptpExchange (setT (fun t => { t with exch := { t.exch with t4 := some (ptpTime b 34 - ptpCorrection b).toNat } }) s)
      else s
    else if kind = 1 ∧ s.t.ptpState = 2 then
      sendPtp 9 (ptpHeader 9 54 0 0 (getBE b 8 8 + at_ % 65536) seq 0xFD s.t.domain ++ ptpStamp at_ ++ beBytes 10 who) s
    else s

def execPtpMessageRx (t port stamp : Nat) (msg : List Byte) (s : State) : Host.Outcome State Fault Refusal :=
  .next (ptpMessage port stamp msg (advance t s))

/-- PTP_PORT_RETURN (R409): the link of PTP_PORT has been up for 10 s. -/
def ptpReturn (s : State) : State :=
  match s.t.portUpSince with
  | some u =>
    if s.t.ptpPort ≠ s.t.cfgPort ∧ u + 10 * secU ≤ s.t.now then post 0x0208 0 [] (setT (fun t => { t with ptpPort := t.cfgPort }) s) else s
  | none => s

def execPtpPortReturn (t : Nat) (s : State) : Host.Outcome State Fault Refusal := .next (ptpReturn (advance t s))

/-- Sync intervals between two Announces of a profile (R410). -/
def State.announceEvery (s : State) : Nat := if s.t.aes67 then 16 else 2

/-- SYNC_INTERVAL (R410, R411): the periodic messages of the port's role. -/
def syncInterval (s : State) : State :=
  if ¬ s.coreUp ∨ ¬ (s.mac s.t.ptpPort).link then s
  else if s.t.ptpState = 2 then
    let n := s.t.seqSync
    let out := s.stampOut s.t.ptpPort s.t.now
    let s := sendPtp 0 (ptpHeader 0 44 2 0 0 (n % 65536) 0xFD s.t.domain ++ zeros 10) s
    let s := sendPtp 8 (ptpHeader 8 44 0 0 (out % 65536) (n % 65536) 0xFD s.t.domain ++ ptpStamp out) s
    let s := setT (fun t => { t with seqSync := n + 1 }) s
    if n % s.announceEvery = 0 then
      let m := s.t.seqAnn
      let b := ptpHeader 11 64 0 8 0 (m % 65536) (if s.t.aes67 then 1 else 0xFE) s.t.domain ++ zeros 10 ++ beBytes 2 0 ++ zeros 1 ++
        [BitVec.ofNat 8 s.t.pri1, BitVec.ofNat 8 s.clockClass, Config.clockAccuracy] ++ beBytes 2 Config.clockVariance.toNat ++
        [BitVec.ofNat 8 s.t.pri2] ++ beBytes 8 Config.clockIdentity.toNat ++ beBytes 2 0 ++ [0xA0#8]
      setT (fun t => { t with seqAnn := m + 1 }) (sendPtp 11 b s)
    else s
  else if s.t.ptpState = 4 ∨ s.t.ptpState = 5 then
    let n := (s.t.seqDelay + 1) % 65536
    let s := sendPtp 1 (ptpHeader 1 44 0 0 0 n 0x7F s.t.domain ++ zeros 10) s
    setT (fun t => { t with seqDelay := n, exch := { t.exch with t3 := some (s.stampOut s.t.ptpPort s.t.now), t4 := none, delaySeq := n } }) s
  else s

def execSyncInterval (t : Nat) (s : State) : Host.Outcome State Fault Refusal := .next (syncInterval (advance t s))

end Sys2Proof.Machine
end

