-- ==== Sys2Proof/Machine/Picks.lean ====
section
/-!
DEFINITION. Sys2Proof/Machine/Picks.lean: the render pick (02_pick_budget R40–R62): engines start and finish their work on it, and the
pick-start mark ends it and begins the next. What a pick computes is in the engines' own files.
-/
namespace Sys2Proof.Machine

def State.use (s : State) (e : Nat) : EngineUse := lget EngineUse.none s.b.cur e

/-- The engines whose results engine `e` needs in a pick (R44, R56). -/
def State.producers (s : State) (e : Nat) : List Nat :=
  let l := if e = 1 then [0] else if e = 2 then [1] else if e = 3 ∨ e = 7 then [2] else if e = 4 then [0, 3, 7] else if e = 6 then [0] else []
  l.filter (fun p => s.neededEngines.contains p)

/-- Every producer of the engine has finished. -/
def State.fed (s : State) (e : Nat) : Bool := (s.producers e).all (fun p => (s.use p).finished)

/-- The engine works in this pick. -/
def State.works (s : State) (e : Nat) : Bool := s.m.dpRun && s.neededEngines.contains e

/-! ### Memory errors that engines find (19_register_map R627) -/

/-- Element `i` of a list of lists laid end to end set to 0. -/
def zeroAt : List (List Int) → Nat → List (List Int)
  | [], _ => []
  | l :: r, i => if i < l.length then lset l i 0 :: r else l :: zeroAt r (i - l.length)

/-- The corrected-error counter of the engine's block. -/
def eccReg (e : Nat) : Option Nat :=
  if e = 1 ∨ e = 2 then some 0x701C else if e = 3 ∨ e = 7 then some 0x8024 else if e = 0 ∨ e = 4 then some 0x9024
  else if e = 5 then some 0xA02C else none

/-- A poisoned coefficient word of the Reed reads as two coefficients of 0 until its bank is next loaded (06_reed R204). Bank 0 is A. -/
def poisonReed (k o w : Nat) (s : State) : State :=
  let b := if k = 0 then s.r.bankA else s.r.bankB
  let x := b.entry o
  if x.bad.contains w then s
  else
    let b := { b with dir := nset b.dir o { x with coef := lset (lset x.coef (2 * w) 0) (2 * w + 1) 0, bad := w :: x.bad } }
    let s := setR (fun r => if k = 0 then { r with bankA := b } else { r with bankB := b }) s
    let s := setReg 0x8028 (BitVec.ofNat 32 (o + fld 9 14 w)) (bump 0x8024 23 16 s)
    post 0x0606 0 (a2 o ++ a2 w) s

/-- An alignment-line, head-history or spectrum word of output `o` is poisoned (R204): `w` is its index in the output's memory. -/
def poisonSignal (o w : Nat) (s : State) : State :=
  post 0x0607 0 [] (setReg 0x8028 (BitVec.ofNat 32 (o % 512 + fld 9 14 w + flag 23 true)) (bump 0x8024 31 24 s))

/-- A double-bit error's consequence, by what the word holds (05_loom_crosspoints R159, R160; 06_reed R204; 07_heddle R245, R246;
08_filter_chain R276). Which sample of a history it strikes, and from which sample a route is silent, no operand tells: free (log 2). -/
def doubleError (x : EccError) (s : State) : State :=
  match x.place with
  | .loomLine i slot =>
    foundPoison i slot (if s.x.poisonLine.contains (i, slot) then s else setX (fun y => { y with poisonLine := y.poisonLine ++ [(i, slot)] }) s)
  | .loomXp k =>
    let s := setX (fun y => { y with poisonXp := y.poisonXp ++ [k] }) s
    post 0x0524 0 [] (setReg 0x7020 (BitVec.ofNat 32 (k / 512 % 1024 + fld 10 13 (k % 512) + flag 23 true)) (bump 0x701C 31 24 s))
  | .reedCoef k o w => poisonReed k o w s
  | .reedLine o w => poisonSignal o w (loseLine o w s)
  | .reedHist o w => poisonSignal o w (loseHist o w s)
  | .reedSpectrum o w => poisonSignal o w (loseSpectrum o w s)
  | .route k lost =>
    let (v, s) := draw s
    let s := setD (fun d => { d with routes := d.routes.map (fun r =>
      if r.idx = k then { r with poison := some (v.toNat % s.t.pickLen), lost := lost } else r) }) s
    post 0x0343 0 (a2 k) (setReg 0x9028 (BitVec.ofNat 32 (k % 4096)) (bump 0x9024 23 16 s))
  | .source c i =>
    let s := setD (fun d => { d with poison := d.poison ++ [(c, i)] }) s
    post 0x0344 0 (a2 c ++ a8 s.m.pick) (setReg 0x9028 (BitVec.ofNat 32 (c % 4096 + flag 12 true)) (bump 0x9024 31 24 s))
  | .filterHist c => setD (fun d => { d with filt := nset d.filt c SrcFilter.zero }) s
  | .fchCoef w =>
    let b := s.fchBank
    if b.poison.contains w then s
    else
      let b := { b with poison := w :: b.poison }
      let s := setF (fun f => if f.active = 0 then { f with bankA := some b } else { f with bankB := some b }) s
      post 0x0353 0 [] (bump 0xA02C 23 16 s)
  | .fchHist c =>
    let (v, s) := draw s
    let s := if c < 16 then
        let m := nget (Mic.clear 0) s.f.mics c
        match zeroAt [m.h1, m.h2, m.hf] (v.toNat % (m.h1.length + m.h2.length + m.hf.length)) with
        | [a, b, d] => setF (fun f => { f with mics := nset f.mics c { m with h1 := a, h2 := b, hf := d } }) s
        | _ => s
      else match nfind s.f.rs (c - 16) with
        | some r => setF (fun f => { f with rs := nset f.rs (c - 16) { r with hist := lset r.hist (v.toNat % r.hist.length) 0 } }) s
        | none => s
    post 0x0354 0 [] (bump 0xA02C 31 24 s)
  | .slot _ => s
  | .other => s

/-- An error that engine `e` finds. -/
def engineError (e : Nat) (s : State) (x : EccError) : State :=
  let s := memError x.inst x.word x.dbl s
  if x.dbl then doubleError x s
  else match eccReg e with
    | some r => bump r 15 0 s
    | none => s

/-! ### Start and finish -/

/-- ENGINE_BLOCK_START (R40): the engine takes up a block that its producers have completed. The filter chain takes the PDM bits of the
output instants so far; `errs` are the memory errors that its reads find. -/
def engineStart (e : Nat) (pdm : List (List Nat)) (errs : List EccError) (s : State) : State :=
  if s.works e ∧ s.fed e ∧ ¬ (s.use e).finished then
    let s := setB (fun b => { b with cur := lset b.cur e { s.use e with started := true } }) s
    let s := (inLogOrder errs).foldl (engineError e) s
    if e = 5 then fchBlock pdm s else s
  else s

def execEngineBlockStart (t e : Nat) (pdm : List (List Nat)) (errs : List EccError) (s : State) : Host.Outcome State Fault Refusal :=
  .next (engineStart e pdm errs (advance t s))

/-- A length of device time in 1/65,536 of the pick, rounded down: R64 says so for SYS_FIN, for the slack of R51 it is the model's choice
(log 29). -/
def State.pickPart (s : State) (d : Nat) : Nat := d * s.fs / (s.t.pickLen * 1000000000)

/-- What an engine's finish leaves behind (R54–R56): the work of its whole pick. The Reed's chains need its lanes and its transform units,
so the later of E3 and E7 leaves them. -/
def engineResult (e : Nat) (s : State) : State :=
  if e = 0 then heddleInput s.c.outs s
  else if e = 2 then loomPick s.renderIn s
  else if e = 3 then (if (s.use 7).finished then reedPick s else s)
  else if e = 7 then (if (s.use 3).finished then reedPick s else s)
  else if e = 4 then heddleOutput s.c.outs s
  else if e = 5 then fchFinish s
  else s

/-- The engine can finish: its own work is there. -/
def State.canFinish (s : State) (e : Nat) : Bool :=
  if e = 5 then s.fchMade else if e = 6 then s.batDone else true

/-- Steps that an engine used on its pick: route and filter steps (07_heddle R232, R238), one geometry and N lane steps per crosspoint
instance (05_loom_crosspoints R142), the filter chain's table (08_filter_chain R265), and what the Batten cores counted (09_batten_cores
R287). Of the Reed's the spec gives only bounds (06_reed R177, R189), so that `reported` tells them (log 58). -/
def State.stepsUsed (s : State) (e reported : Nat) : Nat :=
  let insts := (s.loomOrder (s.loomPlans true s.renderIn)).length
  match e with
  | 0 => s.passSteps false
  | 1 => insts
  | 2 => insts * s.t.pickLen
  | 4 => s.passSteps true
  | 5 => (fchFinish s).fchUsed
  | 6 => s.batUsed
  | _ => reported

/-- ENGINE_FINISH (R26, R52): the engine finishes the pick in progress, at its deadline at the latest, and reports the steps it used. -/
def engineFinish (e steps : Nat) (s : State) : State :=
  if s.works e ∧ s.fed e ∧ ¬ (s.use e).finished ∧ s.canFinish e ∧ s.t.now ≤ s.pickAt (s.m.pick + 1) then
    let used := s.stepsUsed e steps
    let s := engineResult e s
    let u : EngineUse := { started := true, finished := true, used := satN 0xFFFFFFFF used,
                           fin := satN 0xFFFE (s.pickPart (s.t.now - s.pickAt s.m.pick)), at_ := s.t.now }
    setB (fun b => { b with cur := lset b.cur e u }) s
  else s

def execEngineFinish (t e steps : Nat) (s : State) : Host.Outcome State Fault Refusal := .next (engineFinish e steps (advance t s))

/-! ### The deadline (R51, R56–R60) -/

/-- Engines that have not finished. -/
def State.unfinished (s : State) : List Nat := s.neededEngines.filter (fun e => !(s.use e).finished)

/-- The engine recorded as the cause: the first unfinished one whose inputs were complete (R56). -/
def State.overrunCause (s : State) : Option Nat := s.unfinished.find? (fun e => s.fed e)

/-- The Loom stopped (05_loom_crosspoints R161). Render inputs that the input pass did not finish repeat their last sample. -/
def loomStopped (s : State) : State :=
  loomStop (s.use 1).finished
    (fun i => if (s.use 0).finished then s.renderIn i else List.replicate s.t.pickLen (nget 0 s.d.lastOut i)) s

/-- The last instants of a pick whose filter chain has finished. -/
def fchRest (s : State) : State := if s.neededEngines.contains 5 ∧ ¬ s.hasMics then fchCatch s else s

/-- What the engines that stopped at the deadline leave behind (R57). -/
def stopEngines (s : State) : State :=
  let out := fun e => s.neededEngines.contains e && !(s.use e).finished
  let s := if out 1 || out 2 then loomStopped s else s
  let s := if out 3 || out 7 then reedRepeat s else s
  if out 5 then fchRepeat (fchCatch s) else fchRest s

/-- The overrun's consequences (R58–R60): voltage, event, counts. `b` is the deadline of the pick that overran. -/
def countOverrun (cause b : Nat) (s : State) : State :=
  let s := setB (fun x => { x with cause := cause, overruns := satN 0xFFFFFFFF (x.overruns + 1), lastOverrun := some b }) s
  let s := bump 0x110 15 0 s
  let s := setCnt (fun c => { c with overruns := satN 0xFFFFFFFF (c.overruns + 1) }) s
  let s := { s with p := { s.p with vset := 800, holdSince := some b } }
  let s := post 0x0120 0 (a1 cause ++ a8 s.m.pick) s
  let l := s.b.counted.filter (fun d => decide (b ≤ d + secU)) ++ [b]
  if 3 ≤ l.length then setB (fun x => { x with counted := [], due := some s.m.pick }) s else setB (fun x => { x with counted := l }) s

/-- The slack reports of the pick that ends (R26, R51, R53): `b` is its deadline. A stopped engine's steps are free (log 2). -/
def slackReport (cause : Option Nat) (b : Nat) (s : State) : State :=
  let (v, s) := draw s
  let need := s.neededEngines
  let last := (List.range 8).map (fun e =>
    let u := s.use e
    if need.contains e ∧ ¬ u.finished then
      { u with used := if e = 6 then s.batUsed else (Config.freeWord (v.toNat + e)).toNat % 2 ^ 32, fin := 0xFFFF }
    else u)
  let ends := need.foldl (fun (m : Nat × Nat) e => if m.2 < (s.use e).at_ then (e, (s.use e).at_) else m) (0, 0)
  let slack := match cause with
    | some _ => 0
    | none => if need = [] then 0xFFFF else satN 0xFFFF (s.pickPart (b - ends.2))
  let s := if s.m.leadOut then s else putField 0x108 15 0 (min slack (s.field 0x108 15 0)) s
  setB (fun x => { x with
    last := last, lastSlack := slack, lastEng := cause.getD ends.1, cur := List.replicate 8 EngineUse.none,
    winMin := min x.winMin slack, winCount := x.winCount + 1, qMin := min x.qMin slack }) s

/-- Samples of the measurement's channels in the pick that ends (06_reed R197). -/
def measCapture (s : State) : State :=
  match s.r.meas with
  | some m =>
    match m.start with
    | some q =>
      if q ≤ s.m.pick ∧ m.captured < m.len ∧ s.rendering then
        let caps := m.srcs.zipIdx.foldl (fun a c =>
          nset a c.2 ((nget [] a c.2 ++ s.sourceOf s.c.outs s.d.acc c.1).take m.len)) m.caps
        setR (fun r => { r with meas := some { m with caps := caps } }) s
      else s
    | none => s
  | none => s

/-- Run seconds and limiter seconds of the outputs (17_ledger_recorder R566). -/
def outputSeconds (s : State) : State :=
  let n := s.t.pickLen
  let on := if s.rendering then (s.r.cfg.filter (fun c => c.2.en)).map (·.1) else []
  let run := on.foldl (fun m o => nmod 0 m o (· + n)) s.l.runAcc
  let full := fun (m : NMap Nat) => (m.filter (fun x => decide (s.fs ≤ x.2))).map (·.1)
  let carry := fun (m : NMap Nat) => m.map (fun x => (x.1, if s.fs ≤ x.2 then x.2 - s.fs else x.2))
  let up := fun (c : NMap Nat) (l : List Nat) => l.foldl (fun m o => nmod 0 m o (fun v => satN 0xFFFFFFFF (v + 1))) c
  let s := setCnt (fun c => { c with runS := up c.runS (full run), limS := up c.limS (full s.l.limAcc) }) s
  { s with l := { s.l with runAcc := carry run, limAcc := carry s.l.limAcc } }

/-- The pick in progress ends: `p` is the next one, `b` its start and so the deadline. -/
def endPick (p b : Nat) (s : State) : State :=
  let cause := s.overrunCause
  let inOk := (s.use 0).finished
  let outOk := (s.use 4).finished
  let s := reedEnd ((s.use 3).finished && (s.use 7).finished) (stopEngines s)
  let s := heddleSnapshot s
  let s := if s.m.leadOut then s else heddleEnd s.c.outs inOk outOk s
  let s := measCapture (battenEnd s)
  let s := rsTakeInputs s
  let s := if s.f.satSeen then post 0x0352 0 [] (setF (fun f => { f with satSeen := false }) s) else s
  let s := match cause with
    | some e => countOverrun e b s
    | none => s
  let s := outputSeconds (slackReport cause b s)
  let s := netSnapshot (portSnapshot (fchSnapshot (reedSnapshot (loomSnapshot s))))
  let s := loomDumps s.m.pick s
  let s := loomForget (if s.rendering then appendLines s else s)
  twinRecord s.m.pick (netCapture s.m.pick (portsFill p s))

/-- Buffers change hands (01_architecture R31): what was captured is rendered next, and what was rendered leaves. -/
def turnBuffers (s : State) : State :=
  let n := s.t.pickLen
  let z := List.replicate n (0 : Int)
  let out := if s.m.leadOut then [] else s.d.out
  let old := fun c => let l := nget [] s.d.play c; if l.length < n then z else l.drop (l.length - n)
  let codes := (s.d.play.foldl (fun m x => nset m x.1 ()) (out.foldl (fun m x => nset m x.1 ()) ([] : NMap Unit))).map (·.1)
  setD (fun d => { d with
    play := codes.map (fun c => (c, old c ++ nget z out c)),
    inp := d.cap.map (fun x => (x.1, (x.2 ++ z).take n)),
    lastCap := (d.cap.filter (fun x => decide (0xA0 ≤ x.1))).foldl (fun m x => nset m x.1 (((x.2 ++ z).take n).getLast?.getD 0)) d.lastCap,
    cap := [] }) s

/-! ### Host audio (14_host_interface R459, R460) -/

/-- The enabled channel on the pick-boundary trigger that serves HAQ `h` (15_fabric R493). -/
def State.haqChannel (s : State) (h : Nat) : Option Nat :=
  (List.range 16).find? (fun c => (s.bob c).en && decide ((s.bob c).trig = 2) && bitOf (s.bob c).haq h && !(s.bob c).halt)

/-- A buffer of HAQ `h` moved by channel `c` counts as a descriptor does (15_fabric R508, R509). -/
def haqMoved (c h : Nat) (s : State) : State :=
  let x := s.bob c
  setBob c { x with done := satN 0xFFFFFFFF (x.done + 1),
                    bytes := satN (2 ^ 64 - 1) (x.bytes + 4 * s.t.pickLen * s.haqChans h) } (bump (0x5010 + 0x20 * c) 31 0 s)

/-- The channels of HAQ `h` for the capture pick. -/
def haqPut (h : Nat) (f : Nat → List Int) (s : State) : State :=
  (List.range (s.haqChans h)).foldl (fun st j => setD (fun d => { d with cap := nset d.cap (0x500 + 16 * h + j) (f j) }) st) s

/-- One descriptor at the head is used up. -/
def haqPop (h : Nat) (s : State) : State :=
  let s := popRing (14 + h) s
  writeIndex (14 + h) (s.ring (14 + h)).head s

/-- Descriptors of HAQ `h` examined for capture pick `c`: the answer tells whether the pick's samples came. -/
def haqExamine (h c : Nat) : List HaqRead → State → Bool × State
  | [], s => (false, s)
  | x :: r, s =>
    let q := s.ring (14 + h)
    if ¬ s.ringOn (14 + h) ∨ q.head = q.tail ∨ s.pickAt c < q.stamps.head?.getD 0 then (false, s)
    else
      let k := getLE x.desc 8 8
      if k < c then haqExamine h c r (bump (ringReg (14 + h) 0x1C) 31 16 (haqPop h s))
      else if k = c then
        let s := haqPop h s
        if x.arrived then
          let nch := q.nch
          (true, haqPut h (fun j => (List.range s.t.pickLen).map (fun i => signed 24 (getLE x.data (4 * (i * nch + j)) 4 / 256) * 16)) s)
        else (false, s)
      else (false, s)

/-- The start of capture pick `c` for HAQ `h`: an underrun repeats each channel's last sample and is signalled once per episode. -/
def haqPick (reads : List HaqRead) (c : Nat) (s : State) (h : Nat) : State :=
  if s.haqChans h = 0 then s
  else
    let (moved, s) := match s.haqChannel h with
      | none => (none, s)
      | some ch =>
        let (ok, s) := haqExamine h c (reads.filter (fun x => x.ring == h)) s
        (if ok then some ch else none, s)
    match moved with
    | some ch => haqMoved ch h { s with h := { s.h with haqUnder := nset s.h.haqUnder h false } }
    | none =>
      let s := haqPut h (fun j => List.replicate s.t.pickLen (nget 0 s.d.lastCap (0x500 + 16 * h + j))) s
      if nget false s.h.haqUnder h then s else signal (7 + h) { s with h := { s.h with haqUnder := nset s.h.haqUnder h true } }

/-! ### The mark -/

/-- Render pick `p` begins: its changes take effect, objects and control state follow, the stimulus enters with its capture pick. -/
def beginPick (haq : List HaqRead) (p : Nat) (s : State) : State :=
  let s := setM (fun m => { m with pick := p }) s
  let s := applyDue p (settleChains (commitCeilings s))
  let s := controlLag p (objectsAtPick p s)
  let s := (List.range 16).foldl (haqPick haq p) s
  let s := setF (fun f => { f with made := 0, used := 0 }) s
  match s.f.stimAt with
  | some q => if q = p + 1 ∧ s.f.stim.typ ≠ 0 then post 0x0355 0 [] (setF (fun f => stimClear { f with stimOn := true }) s) else s
  | none => s

/-- PICK_START_MARK (R42): the deadline of the pick in progress and the start of the next. -/
def pickMark (haq : List HaqRead) (s : State) : State :=
  let p := s.m.pick + 1
  let b := s.pickAt p
  if s.m.dpRun ∧ b ≤ s.t.now then
    let s := endPick p b s
    let s := netTransmit p (turnBuffers s)
    let s := (List.range 4).foldl (fun st k => gateSwapDue p k st) s
    let s := bobPickMark s
    let s := sendFrame (p - 1) (if s.w.en ∧ s.w.role = 1 then s.closedSet p else []) s
    beginPick haq p (handover p s)
  else s

def execPickStartMark (t : Nat) (haq : List HaqRead) (s : State) : Host.Outcome State Fault Refusal := .next (pickMark haq (advance t s))

/-! ### The voltage loop (R53, R58) -/

/-- AVS_WINDOW (R53; 18_power_modes R589, R590): the window of 16 picks is full. -/
def avsWindow (s : State) : State :=
  if s.b.winCount < 16 then s
  else
    let m := s.b.winMin
    let s := setB (fun b => { b with winMin := 0xFFFF, winCount := 0 }) s
    if s.p.avs ≠ .loop ∨ s.p.holdSince.isSome ∨ ¬ s.m.dpRun then s
    else if m < s.b.target * 65536 / 100 then { s with p := { s.p with vset := clampN 650 800 (s.p.vset + 5) } }
    else if (s.b.target + 5) * 65536 / 100 < m then { s with p := { s.p with vset := clampN 650 800 (s.p.vset - 5) } }
    else s

def execAvsWindow (t : Nat) (s : State) : Host.Outcome State Fault Refusal := .next (avsWindow (advance t s))

/-- VCORE_HOLD_EXPIRY (R58; 18_power_modes R590): 1 s without an overrun. The loop resumes with a new window. -/
def vcoreHoldEnd (s : State) : State :=
  match s.p.holdSince with
  | some h =>
    if h + secU ≤ s.t.now then
      let s := setB (fun b => { b with winMin := 0xFFFF, winCount := 0 }) s
      { s with p := { s.p with holdSince := none, vset := match s.p.avs with | .fixed v => v | .loop => s.p.vset } }
    else s
  | none => s

def execVcoreHoldExpiry (t : Nat) (s : State) : Host.Outcome State Fault Refusal := .next (vcoreHoldEnd (advance t s))

end Sys2Proof.Machine
end

