-- ==== Sys2Proof/Machine/HostReset.lean ====
section
/-!
DEFINITION. Sys2Proof/Machine/HostReset.lean: commands that are aborted before their acceptance, and the host-side resets
(14_host_interface R438–R441, R456).
-/
namespace Sys2Proof.Machine

/-- A load that is aborted leaves its inactive copy empty (R439), and a swap that waited for it has no copy (01_architecture R666). -/
def emptyCopy (set : ParamSet) (s : State) : State :=
  match set with
  | .layout => settleSwaps .layout false (setX (fun x => { x with inactive := none, loaded := false }) s)
  | .route => settleSwaps .route false (emptyInactive s)
  | .reed => settleBankSwap false (setR (fun r => { r with loaded := false }) (putReedInactive ReedBank.empty s))
  | .fch =>
    let s := setF (fun f => { f with loaded := false }) (putFchIdle none s)
    match s.f.swap with
    | some (_, w) => complete w (.of stParam) (setF (fun f => { f with swap := none }) s)
    | none => s
  | .bat l =>
    let x := s.lcore l
    if x.runs then freeHeld l s
    else putLcore l { x with st := 0 } (putPcore x.phys { s.pcore x.phys with prog := none } s)

/-- A load in progress stops; its command is dropped. -/
def dropLoad (s : State) (l : Load) : State :=
  emptyCopy l.set (setH (fun h => { h with loads := h.loads.filter (fun y => y.w.id != l.w.id) }) s)

/-- CMD_ABORT: a command read and not accepted, which is one in the hold queue or one still reading its image, completes with
ABORTED_RESET (R439, R456). -/
def cmdAbortBody : Body := fun c w s =>
  if ¬ parZero c 3 61 ∨ 32 ≤ par c 2 1 then complete w (.of stParam) s
  else match s.h.holdQ.find? (fun x => abortNames c x.w) with
    | some x =>
      let s := setH (fun h => { h with holdQ := h.holdQ.filter (fun y => y.w.id != x.w.id) }) s
      complete w (.of stOK) (complete x.w (.of stAborted) (accepted x.w s))
    | none => match s.h.loads.find? (fun x => abortNames c x.w) with
      | some x => complete w (.of stOK) (complete x.w (.of stAborted) (accepted x.w (dropLoad s x)))
      | none => complete w (.of stStale) s

def cmdAbortInfo : CmdInfo := ⟨0x05, .serve⟩

/-- CMD_ABORT (R456). -/
def execCmdAbort (c : HostCmd) (s : State) : Host.Outcome State Fault Refusal :=
  .next (hostCommand cmdAbortInfo (.cmdAbort c) c cmdAbortBody s)

/-- The host-facing state after a host-side reset (R438, R439): commands read and not accepted are aborted, accepted ones run on without
a completion, and both are counted. The next record of each object ring sets its expected SEQ (03_objects R73), and a low half held for its
register stays held (log 77). -/
def hostClear (s : State) : State :=
  let lost := s.h.holdQ.length + s.h.loads.length
  let orphans := s.h.accepted.length
  let s := putField 0x200C 23 16 (satN 0xFF lost) (putField 0x200C 31 24 (satN 0xFF orphans) s)
  let s := s.h.loads.foldl dropLoad (setH (fun h => { h with accepted := [], holdQ := [] }) s)
  let s := setH (fun h => { h with
    accepted := [], rings := [], heldCpl := [], unsig := 0, msix := [], msixPend := [], mbx := [], mbxWait := [],
    haqUnder := [], d3hot := false, wdogFrom := none, wdogExpired := false }) s
  let s := setO (fun o => { o with expect := [] }) s
  -- MQ1 is empty now (12_media_network R399)
  let s := setMg (fun m => { m with emptySince := some (m.emptySince.getD s.t.now) }) s
  resetRegs 0x3048 0x304C (resetRegs 0x2000 0x3044 s)

/-- The kind that event 0x0901 reports: in the order of R438 (log 24). -/
def hostResetKind : HostReset → Nat
  | .flr => 0 | .hotReset => 1 | .perst => 2 | .linkLoss => 3

/-- HOST_SIDE_RESET (R438). The host reaches the function only while the core domain is powered; PE_PERST_N is an input of the always-on
domain and is noted at any time. -/
def hostSideReset (kind : HostReset) (s : State) : State :=
  let s := if kind = .perst then setH (fun h => { h with perst := true }) s else s
  if ¬ s.coreUp then s
  else
    let s := hostClear (bump 0x200C 15 0 s)
    let s := post 0x0901 0 (a1 (hostResetKind kind)) s
    match kind with
    | .flr => s
    | .hotReset => setH (fun h => { h with linkUp := false }) s
    | .perst => setH (fun h => { h with linkUp := false }) s
    | .linkLoss => post 0x0902 0 [] (setH (fun h => { h with linkUp := false, linkLost := true }) s)

def execHostSideReset (t : Nat) (kind : HostReset) (s : State) : Host.Outcome State Fault Refusal :=
  .next (hostSideReset kind (advance t s))

/-- D3HOT_EXIT (R440): the host-facing state is reset as R438 gives. -/
def d3hotExit (s : State) : State := if s.h.d3hot ∧ s.coreUp then hostClear s else s

def execD3hotExit (t : Nat) (s : State) : Host.Outcome State Fault Refusal := .next (d3hotExit (advance t s))

end Sys2Proof.Machine
end

