-- ==== Sys2Proof/Machine/Boot.lean ====
section
/-!
DEFINITION. Sys2Proof/Machine/Boot.lean: which control firmware boots (17_ledger_recorder R568, R569), how the control plane starts, restarts
and takes up the held commands (18_power_modes R605, R613, R614; 14_host_interface R454).
-/
namespace Sys2Proof.Machine

def setP (f : PowerS → PowerS) (s : State) : State := { s with p := f s.p }

/-! ### Boot selection (R568) -/

/-- The boot ROM can read a slot and accepts its image. -/
def State.bootable (s : State) (k : Nat) : Bool := (decide (s.l.fa.state = 1) || decide (s.l.fb.state = 1)) && s.slotValid k

/-- The slot that FW_WRITE writes (18_power_modes R610, R611). -/
def State.writeSlot (s : State) : Nat :=
  if ¬ s.m.recovery then 1 - s.m.slot
  else if ¬ s.slotValid 0 then 0
  else if ¬ s.slotValid 1 then 1
  else 1 - s.boot.active % 2

/-- An entry of the directory of general memory (19_register_map R630): code, offset, length. The nine regions stand in the order of their codes
(log 87). -/
def directoryEntry (i : Nat) : List Byte :=
  if i < 9 then
    leBytes 4 (i + 1) ++ leBytes 4 (64 * (Config.regionPlace (i + 1)).toNat) ++
      leBytes 4 (if i = 1 then 1048576 else (Config.regionLength (i + 1)).toNat) ++ zeros 4
  else zeros 16

/-- The directory at offset 0 of general memory. -/
def directory : List Byte := (List.range 32).foldr (fun i acc => directoryEntry i ++ acc) []

/-- No image boots: Maintain with no control firmware. The management processor writes the directory. -/
def bootRecovery (s : State) : State :=
  let s := setM (fun m => { m with recovery := true, cpRun := false, fwReady := false, readyAt := none, trial := false, maint := true }) s
  post 0x0B13 0 [] (writeOnChip 0 directory (setP (fun p => { p with fwSlot := s.writeSlot }) s))

/-- The image of a slot starts: a start of the control plane (14_host_interface R470), at which firmware writes the directory. -/
def bootImage (k : Nat) (trial : Bool) (s : State) : State :=
  let s := setM (fun m => { m with recovery := false, cpRun := true, fwReady := false, readyAt := none, trial := trial, slot := k }) s
  writeOnChip 0 directory (setP (fun p => { p with fwSlot := s.writeSlot }) (setH (fun h => { h with epoch := (h.epoch + 1) % 256 }) s))

/-- The first row of the table of R568 that applies. A row that names an image boots it only if it is valid, and then the rows below it
decide (log 46). -/
def bootSelect (s : State) : State :=
  let sel := s.p.straps % 4
  let b := s.boot
  let s := setP (fun p => { p with fwOpen := false, fwNext := 0, fwVerified := false, fwData := [] }) s
  if sel = 3 then bootRecovery s
  else if sel ≠ 0 then (if s.bootable (sel - 1) then bootImage (sel - 1) false s else bootRecovery s)
  else if b.trial < 2 ∧ b.attempted = 0 ∧ s.bootable b.trial then bootImage b.trial true (writeBoot { b with attempted := 1 } s)
  else if b.trial < 2 ∧ b.attempted ≠ 0 ∧ s.bootable b.active then
    bootImage b.active false (post 0x0B11 0 [] (writeBoot { b with trial := 0xFF } s))
  else if s.bootable b.active then bootImage b.active false s
  else
    let o := 1 - b.active % 2
    if s.bootable o then bootImage o false (post 0x0B11 0 [] (post 0x0B10 0 [] (writeBoot { b with active := o } s)))
    else bootRecovery s

/-- The control plane restarts (R613): boot selection without a reset of the data plane. -/
def restartControl (s : State) : State := bootSelect s

/-! ### Held commands (14_host_interface R454) -/

/-- The meaning of a command that Maintain holds. -/
def heldBody : Instr → Option (HostCmd × Body)
  | .budgetQuery c => some (c, budgetQueryBody)
  | .budgetSet c => some (c, budgetSetBody)
  | .budgetRestore c => some (c, budgetRestoreBody)
  | .objQuery c => some (c, objQueryBody)
  | .objGlide c => some (c, objGlideBody)
  | .objReset c => some (c, objResetBody)
  | .objFlush c => some (c, objFlushBody)
  | .loomCeilSet c => some (c, loomCeilSetBody)
  | .loomCeilQuery c => some (c, loomCeilQueryBody)
  | .loomXpDump c => some (c, loomXpDumpBody)
  | .aesCfg c => some (c, aesCfgBody)
  | .tdmCfg c => some (c, tdmCfgBody)
  | .groupSet c => some (c, groupSetBody)
  | .aesCsSet c => some (c, aesCsSetBody)
  | .aesUserSet c => some (c, aesUserSetBody)
  | .aesUserGet c => some (c, aesUserGetBody)
  | .macCfg c => some (c, macCfgBody)
  | .gateLoad c => some (c, gateLoadBody)
  | .gateSwap c => some (c, gateSwapBody)
  | .strmSet c => some (c, strmSetBody)
  | .strmQuery c => some (c, strmQueryBody)
  | _ => none

/-- The control plane accepts the held commands in order, each judged against its TMO now (R451). It stops where R448 or R450 stops it; FW_READY
having risen, the rest follow as soon as that has passed. -/
def acceptHeld : List Held → State → State
  | [], s => s
  | x :: r, s =>
    match heldBody x.i with
    | none => s
    | some (c, body) =>
      if 64 ≤ s.h.heldCpl.length ∨ (hasFence c ∧ ¬ (s.h.accepted.isEmpty ∧ s.h.loads.isEmpty)) then s
      else acceptHeld r (judge body c x.stamp x.w (setH (fun h => { h with holdQ := r }) s))

/-- The mode that FW_ACTIVATE or MODE_SET asked for is entered at its named pick, or at the first pick after FW_READY (R605). A recovery boot's
FW_ACTIVATE in start-up starts the data plane in it. -/
def leaveMaintain (s : State) : State :=
  match s.m.afterReady with
  | none => s
  | some r =>
    let s := setM (fun m => { m with afterReady := none }) s
    let q := max r.pick s.planned.nextPick
    if s.m.start then (if r.target = .dormant then setM (fun m => { m with trans := none }) s else setM (fun m => { m with trans := some r, startPick := some q }) s)
    else if r.target = .maintain then setM (fun m => { m with transPick := some q }) s
    else pushSched q (decide (r.pick < q)) none (.mode r) (setM (fun m => { m with transPick := some q }) s)

/-- FW_READY_RISE (R605, R613): the control plane serves the rings. Where the transition out of Maintain was given up meanwhile (R606), the
device stays in Maintain and the management processor serves on (log 46). -/
def fwReadyRise (s : State) : State :=
  if ¬ s.m.cpRun ∨ ¬ s.coreUp then s
  else if s.m.fwReady then acceptHeld s.h.holdQ s
  else if s.m.mode = .maintain ∧ s.m.afterReady.isNone then setM (fun m => { m with cpRun := false }) s
  else
    let froze := s.m.maint
    let s := setM (fun m => { m with fwReady := true, readyAt := some s.t.now, maint := false }) s
    let s := if froze then setO (fun o => { o with freezeEnd := s.m.pick }) s else s
    let s := if s.t.ptpState = 0 then restartPtp .master s else s
    acceptHeld s.h.holdQ (leaveMaintain s)

def execFwReadyRise (t : Nat) (s : State) : Host.Outcome State Fault Refusal := .next (fwReadyRise (advance t s))

/-- TRIAL_CONFIRM (R569): FW_READY has stood for 60 s, and no core has faulted in that time. -/
def trialConfirm (s : State) : State :=
  let since := s.m.readyAt.getD s.t.now
  let quiet : Bool := match s.m.lastFault with
    | some f => decide (f < since ∨ f + 60 * secU ≤ s.t.now)
    | none => true
  if s.m.trial ∧ s.m.fwReady ∧ since + 60 * secU ≤ s.t.now ∧ quiet then
    let s := writeBoot { s.boot with active := s.m.slot, trial := 0xFF } s
    let v := getLE (s.slotImage s.m.slot) 8 4
    let s := setM (fun m => { m with trial := false }) (setL (fun l => { l with otpRaised := max l.otpRaised v }) s)
    post 0x0B12 0 [] s
  else s

def execTrialConfirm (t : Nat) (s : State) : Host.Outcome State Fault Refusal := .next (trialConfirm (advance t s))

/-- TRIAL_FAIL (R614): the trial image has lost FW_READY, and ACTIVE boots. In Maintain the management processor serves the rings meanwhile. -/
def trialFail (s : State) : State :=
  if s.m.trial ∧ s.coreUp then restartControl (setM (fun m => { m with fwReady := false }) s) else s

def execTrialFail (t : Nat) (s : State) : Host.Outcome State Fault Refusal := .next (trialFail (advance t s))

/-- CONTROL_STALL (01_architecture R36): the event's code is not in the spec (log 16). -/
def execControlStall (t : Nat) (s : State) : Host.Outcome State Fault Refusal :=
  let s := advance t s
  .next (if s.coreUp ∧ s.m.cpRun then post (0x0900 + Config.controlStallLow.toNat) 0 [] s else s)

end Sys2Proof.Machine
end

