-- ==== Sys2Proof/Machine/Modes.lean ====
section
/-!
DEFINITION. Sys2Proof/Machine/Modes.lean: the operating modes and their transitions (18_power_modes R601–R607, R617): MODE_SET, MODE_QUERY,
RATE_SET, the start of the data plane, the stop of the control plane for Maintain, and the end of a transition.
-/
namespace Sys2Proof.Machine

/-- A transition is in progress, or the data plane is due to start (R602, R606). -/
def State.changing (s : State) : Bool := s.m.trans.isSome || s.m.startPick.isSome

/-- A mode of the full render. -/
def Mode.renders : Mode → Bool
  | .measure => true | .lead => true | .shadow => true | _ => false

/-- The mode is the present one; with twin operation enabled Lead and Shadow are one entry (R601, R605). -/
def State.sameMode (s : State) (t : Mode) : Bool :=
  t == s.m.mode || (s.w.en && (t == .lead || t == .shadow) && (s.m.mode == .lead || s.m.mode == .shadow))

/-- The transitions of R605 that change the data plane alone. -/
def dataTransition (a b : Mode) : Bool :=
  (a.renders && b == .pass) || (a == .pass && b.renders) || (a == .lead && b == .measure) || (a == .measure && b == .lead)

/-- The transition in progress and its pick. -/
def inTransition (r : ModeReq) (q : Option Nat) (s : State) : State := setM (fun m => { m with trans := some r, transPick := q }) s

/-- A transition ends: its MODE_SET completes with the pick at which the mode took effect (R617). -/
def endTransition (q : Nat) (s : State) : State :=
  match s.m.trans with
  | none => s
  | some r =>
    completeOpt r.who (Ending.atPick q (decide (r.pick ≠ 0 ∧ r.pick < q))) (setM (fun m => { m with trans := none, transPick := none }) s)

/-- A MODE_SET in start-up (R602, R604). After a recovery boot only Maintain and Dormant can be reached (14_host_interface R454). -/
def startUpSet (r : ModeReq) (s : State) : State :=
  let q := max r.pick s.planned.nextPick
  if s.m.recovery ∧ r.target ≠ .maintain ∧ r.target ≠ .dormant then completeOpt r.who (.of stMode) s
  else if r.target = .dormant then inTransition r (some q) s
  else setM (fun m => { m with startPick := some q }) (inTransition r none s)

/-- A MODE_SET that no other transition delays (R605, R606). Leaving Maintain, PICK 0 is the next pick at this moment, so that the change after
FW_READY is later than named (log 46). -/
def modeBegin (r : ModeReq) (s : State) : State :=
  if (r.target = .shadow ∧ ¬ s.w.en) ∨ (r.target = .measure ∧ s.w.en) then completeOpt r.who (.of stMode) s
  else if s.m.start then startUpSet r s
  else if s.inDormant then completeOpt r.who (.of stMode) s
  else if s.sameMode r.target then completeOpt r.who (.of stOK) s
  else if s.m.mode = .maintain ∧ s.m.recovery then completeOpt r.who (.of stMode) s
  else match s.slotAt r.pick with
    | none => completeOpt r.who (.of stParam) s
    | some (q, late) =>
      let s1 := pushSched q late none (.mode r) s
      if r.target = .dormant then inTransition r (some q) s1
      else if r.target = .maintain then inTransition r (some q) s
      else if s.m.mode = .maintain then
        if ¬ s1.inBudget q then completeOpt r.who (.of stBudget) s
        else
          let r := { r with pick := if r.pick = 0 then q else r.pick }
          restartControl (setM (fun m => { m with afterReady := some r }) (inTransition r none s))
      else if ¬ dataTransition s.m.mode r.target then completeOpt r.who (.of stMode) s
      else if s.m.mode = .pass ∧ ¬ s1.inBudget q then completeOpt r.who (.of stBudget) s
      else inTransition r (some q) s1

/-- The MODE_SET that waited goes on once no transition is left (R606). -/
def proceed (s : State) : State :=
  match s.m.held with
  | some r => if s.changing then s else modeBegin r (setM (fun m => { m with held := none }) s)
  | none => s

/-! ### Commands (R616, R617) -/

def modeSetBody : Body := fun c w s =>
  match Mode.ofCode (par c 12 1), s.planned.named (par c 16 8) with
  | some t, some _ =>
    if 5 < par c 13 1 ∨ ¬ parZero c 32 32 then complete w (.of stParam) s
    else
      let r : ModeReq := { target := t, pick := par c 16 8, resume := par c 13 1, who := some w }
      if s.changing then
        let old := s.m.held
        let s := setM (fun m => { m with held := some r }) s
        match old with
        | some o => completeOpt o.who { Ending.of stOK with superseded := true } s
        | none => s
      else modeBegin r s
  | _, _ => complete w (.of stParam) s

def modeSetInfo : CmdInfo := ⟨0x02, .serve⟩

/-- MODE_SET (R605, R606, R617). -/
def execModeSet (c : HostCmd) (s : State) : Host.Outcome State Fault Refusal :=
  .next (hostCommand modeSetInfo (.modeSet c) c modeSetBody s)

def modeQueryBody : Body := fun c w s =>
  if ¬ parZero c 32 32 then complete w (.of stParam) s
  else complete w (.of stOK (s.regValue 0x1000).toNat (s.regValue 0x103C).toNat) s

def modeQueryInfo : CmdInfo := ⟨0x03, .serve⟩

/-- MODE_QUERY (R616). -/
def execModeQuery (c : HostCmd) (s : State) : Host.Outcome State Fault Refusal :=
  .next (hostCommand modeQueryInfo (.modeQuery c) c modeQueryBody s)

def rateSetBody : Body := fun c w s =>
  let n := par c 15 1
  if 1 < par c 14 1 ∨ (n ≠ 8 ∧ n ≠ 16 ∧ n ≠ 32) ∨ ¬ parZero c 32 32 then complete w (.of stParam) s
  else complete w (.of stOK) (setT (fun t => { t with pendRate := some (decide (par c 14 1 = 1), n) }) s)

def rateSetInfo : CmdInfo := ⟨0x04, .serve⟩

/-- RATE_SET (R617; 01_architecture R32). -/
def execRateSet (c : HostCmd) (s : State) : Host.Outcome State Fault Refusal :=
  .next (hostCommand rateSetInfo (.rateSet c) c rateSetBody s)

/-! ### Maintain (R605; 01_architecture R39) -/

/-- The control plane stops and the management processor serves the rings; the data plane runs on, with no measurement. -/
def intoMaintain (s : State) : State :=
  let s := if s.dataMode = .measure then endMeas stMode (stopStimulus s) else s
  setM (fun m => { m with
    mode := .maintain, under := s.dataMode, before := if m.mode = .maintain then m.before else m.mode, cpRun := false, fwReady := false, readyAt := none, maint := true }) s

/-- Accepted commands that do not hold up the stop: the MODE_SETs, the changes that name a later pick or time, and a measurement, which the stop
ends (01_architecture R39; log 46). -/
def State.outlasts (s : State) : List Nat :=
  let ids := fun (w : Option Waiter) => match w with
    | some w => [w.id]
    | none => []
  let ofReq := fun (r : Option ModeReq) => ids (r.bind (fun r => r.who))
  ofReq s.m.trans ++ ofReq s.m.held ++ s.sched.foldr (fun x acc => ids x.who ++ acc) [] ++
    ids (s.w.swap.bind (·.2)) ++ ids (s.f.swap.map (·.2)) ++ s.n.ports.foldr (fun p acc => ids (p.2.swap.map (·.2.2)) ++ acc) [] ++
    ids (s.r.meas.map (·.w))

/-- CONTROL_PLANE_STOP (R605): every accepted command has completed, and the named pick has started. -/
def controlPlaneStop (s : State) : State :=
  match s.m.trans, s.m.transPick with
  | some r, some q =>
    if r.target = .maintain ∧ s.m.dpRun ∧ q ≤ s.m.pick ∧ s.h.loads = [] ∧ s.h.accepted.all (fun w => s.outlasts.contains w.id) then
      proceed (endTransition s.m.pick (intoMaintain s))
    else s
  | _, _ => s

def execControlPlaneStop (t : Nat) (s : State) : Host.Outcome State Fault Refusal := .next (controlPlaneStop (advance t s))

/-! ### The start of the data plane (R602–R604, R608) -/

/-- VDD_CORE and the budget windows at a start of the data plane (R589, R590). -/
def freshBudget (s : State) : State :=
  let s := setB (fun b => { b with cur := List.replicate 8 EngineUse.none, winMin := 0xFFFF, winCount := 0 }) s
  setP (fun p => { p with holdSince := none, vset := match p.avs with
    | .fixed v => v
    | .loop => 800 }) s

/-- The data plane starts at render pick `q` in the mode that `r` asks for, or in Pass where that is not admitted (R603). Into Maintain it starts
under Maintain, over Pass, or after a thermal trip over the mode that ran before. -/
def startPlane (r : ModeReq) (q : Nat) (haq : List HaqRead) (s : State) : State :=
  let boot := s.m.start
  let s := meetStart q (takeRate s)
  let want := if r.target ≠ .maintain then r.target else if s.m.thermal then s.m.under else .pass
  let ok := (setM (fun m => { m with mode := want, start := false }) s).admitsAt q
  let s := if ok then s else completeOpt r.who (.of stBudget) (post 0x010E 0 [] s)
  let want := if ok then want else .pass
  let r := { r with target := if r.target = .maintain then .maintain else want, who := if ok then r.who else none }
  let s := setM (fun m => { m with
    mode := .pass, start := false, dpRun := true, pick := q, startPick := none, resumeOv := none, thermal := false,
    tripStart := false, leadOut := false, trans := some r, transPick := some q }) s
  let s := freshBudget (portsStart (s.pickAt q) (fchStart (heddleStart s)))
  let s := if boot then post 0x010D 0 [] s else s
  let s := if want = .pass then s else enterMode want q s
  let s := if r.target = .maintain ∧ ¬ s.m.cpRun then endTransition q (intoMaintain s) else s
  beginPick haq q s

/-- The automatic end of start-up is due (R602): the selected reference has locked, or START_TMO has run from the rise of FW_READY. -/
def State.autoDue (s : State) (q : Nat) : Bool :=
  s.m.start && !s.changing && !s.m.thermal && decide (s.field 0x1004 0 0 = 1) && s.serving &&
    (s.t.lock || match s.m.readyAt with
      | some r => decide (r + s.field 0x1004 7 1 * secU < (takeRate s).pickAt q)
      | none => false)

/-- DATA_PLANE_START: the start pick has come. -/
def dataPlaneStart (why : StartCause) (haq : List HaqRead) (s : State) : State :=
  let next := (takeRate s).pickNow
  let go := fun (r : ModeReq) (q : Nat) => if (takeRate s).pickAt q ≤ s.t.now then startPlane r (max q next) haq s else s
  if s.m.dpRun ∨ ¬ s.coreUp then s
  else match why with
    | .auto => if s.autoDue next then startPlane { target := s.resumeMode none, pick := 0, resume := 0, who := none } next haq s else s
    | .wake =>
      match s.m.trans with
      | some r => if s.inDormant ∧ (s.m.fwReady ∨ r.target = .maintain) then go r (s.m.startPick.getD next) else s
      | none => s
    | _ =>
      match s.m.trans, s.m.startPick with
      | some r, some q => if s.m.start then go r q else s
      | _, _ => s

def execDataPlaneStart (t : Nat) (why : StartCause) (haq : List HaqRead) (s : State) : Host.Outcome State Fault Refusal :=
  .next (dataPlaneStart why haq (advance t s))

/-- MODE_TRANSITION_END (R606, R617): the pick of the transition has begun, so the mode has taken effect, and a MODE_SET that waited goes on.
Entries to Maintain and Dormant end by their own rules. -/
def modeTransitionEnd (s : State) : State :=
  match s.m.trans, s.m.transPick with
  | some r, some q =>
    if s.m.dpRun ∧ q ≤ s.m.pick ∧ r.target ≠ .maintain ∧ r.target ≠ .dormant then proceed (endTransition q s) else s
  | _, _ => proceed s

def execModeTransitionEnd (t : Nat) (s : State) : Host.Outcome State Fault Refusal := .next (modeTransitionEnd (advance t s))

end Sys2Proof.Machine
end

