-- ==== Sys2Proof/Machine/Power.lean ====
section
/-!
DEFINITION. Sys2Proof/Machine/Power.lean: the always-on domain (18_power_modes R584–R600, R607, R608, R616): rails, resets, Dormant and waking,
heat, current and supply, and the power commands.
-/
namespace Sys2Proof.Machine

/-- Where VDD_CORE stands as the core domain starts or wakes: 0.80 V, or the fixed set point (R589, R590). -/
def startVolts (p : PowerS) : Nat := match p.avs with
  | .fixed v => v
  | .loop => 800

/-! ### Rails (R584–R587) -/

def State.rail (s : State) (k : Nat) : RailRow := lget RailRow.default s.p.rails k

/-- Rail `k` is enabled; while a sequence down is not over, the enable is held until it is (R609). -/
def raiseRail (k : Nat) (s : State) : State :=
  let at_ := match s.p.fall with
    | some f => max s.t.now (s.p.fallEnd f)
    | none => s.t.now
  setP (fun p => { p with en := p.en % 2 ^ k + 2 ^ k, seq := .rising k at_ }) s

/-- The sequence of R585 begins at rail 0, with the table that RAIL_CFG left for it (R617). Regulator 0 has been set to 0.80 V. Without its
reference clock the Treadle starts none (21_electrical R656). -/
def startSequence (s : State) : State :=
  if ¬ s.p.refOk then setP (fun p => { p with seq := .off }) s
  else
    let s := raiseRail 0 (setP (fun p => { p with vset := 800 }) s)
    setP (fun p => match p.nextRails with
      | some (rows, addrs) => { p with rails := rows, regs := addrs.map Regulator.default, nextRails := none }
      | none => p) s

/-- Rails from `k` upwards are lowered in descending order (R586); a rail's power-good level falls with its enable (log 47). -/
def lowerRails (k : Nat) (s : State) : State :=
  let (en, good) := s.railLevels
  setP (fun p => { p with
    fall := if 2 ^ k ≤ en then some { from_ := s.t.now, lo := k, en := en, good := good } else p.fall,
    en := en % 2 ^ k, good := good % 2 ^ k }) s

/-- The core domain is reset and off (R596): the always-on domain keeps its state, and RWS fields stand (19_register_map R623). -/
def coreReset (cause : Nat) (s : State) : State :=
  let s := markInvalid 0 .announce s
  let s := [(0, 0x800), (0xA00, 0x1000), (0x2000, 0xD200), (0xF000, 0x11000), (0x13000, 0x15000)].foldl (fun st r => resetRegs r.1 r.2 st) s
  let s := bump 0x103C 15 8 s
  { s with
    sched := [],
    t := { s.t with ptpState := 0, servoSince := none, lastAnnounce := none },
    m := ModeS.reset, b := BudgetS.reset,
    p := { s.p with resetCause := cause, straps := 0, faultN := true, wakeN := false },
    h := { HostS.reset with mem := s.h.mem, nextId := s.h.nextId, msixSent := s.h.msixSent, pme := s.h.pme, answer := s.h.answer,
                            perst := s.h.perst },
    l := { s.l with waiting := [] },
    o := ObjS.reset, x := LoomS.reset, r := ReedS.reset, d := HeddleS.reset, f := FchS.reset, a := PortS.reset,
    n := { NetS.reset with mg := s.n.mg, sentMg := s.n.sentMg }, c := s.c.cold,
    g := { FabS.reset with wakeLatch := s.g.wakeLatch },
    w := { TwinS.reset with epoch := s.w.epoch, peerPin := s.w.peerPin, peerPinAt := s.w.peerPinAt } }

/-- RAIL_ENABLE_DELAY: rail `k` has been good for DELAY, and the next one is enabled (R585). -/
def railDelay (k : Nat) (s : State) : State :=
  match s.p.seq with
  | .rising j since =>
    if j ≠ k ∨ 7 < k ∨ s.t.now < since + (s.rail k).delay * 100 * usU then s
    else
      let s := setP (fun p => { p with good := p.good ||| 2 ^ k }) s
      if k = 7 then setP (fun p => { p with seq := .settled since }) s
      else raiseRail (k + 1) s
  | _ => s

def execRailEnableDelay (t k : Nat) (s : State) : Host.Outcome State Fault Refusal := .next (railDelay k (advance t s))

/-- RAIL_TIMEOUT (R586): rail `k` was not good in time. Three failed attempts leave the core domain off. A wake that fails loses the memories in
retention (log 47). -/
def railTimeout (k : Nat) (s : State) : State :=
  match s.p.seq with
  | .rising j since =>
    if j ≠ k ∨ s.t.now < since + (s.rail k).timeout * msU then s
    else
      let s := if s.m.retention then coreReset 2 s else s
      let s := lowerRails 0 s
      let n := s.p.attempts + 1
      post 0x0105 0 (a1 k) (setP (fun p => { p with
        fault := true, faultRail := k, faultN := true, attempts := min 3 n, seq := if 3 ≤ n then .off else .waiting s.t.now 1000 }) s)
  | _ => s

def execRailTimeout (t k : Nat) (s : State) : Host.Outcome State Fault Refusal := .next (railTimeout k (advance t s))

/-- The wait for the retry or the restart is over. -/
def railAgain (ms : Nat) (s : State) : State :=
  match s.p.seq with
  | .waiting since d => if d = ms ∧ since + d * msU ≤ s.t.now then startSequence s else s
  | _ => s

/-- RAIL_RETRY (R586). -/
def execRailRetry (t : Nat) (s : State) : Host.Outcome State Fault Refusal := .next (railAgain 1000 (advance t s))

/-- RAIL_RESTART (R587). -/
def execRailRestart (t : Nat) (s : State) : Host.Outcome State Fault Refusal := .next (railAgain 100 (advance t s))

/-- PWR_GOOD_FALL: a core-domain reset, and the rails down, if the core domain runs (R587). -/
def goodFall (k : Nat) (s : State) : State :=
  if ¬ bitOf s.p.good k ∨ 7 < k then s
  else
    let on := s.coreUp
    let s := setP (fun p => { p with good := p.good - 2 ^ k }) s
    if on then
      let s := lowerRails 0 (coreReset 2 s)
      post 0x0105 0 (a1 k) (setP (fun p => { p with fault := true, faultRail := k, seq := .waiting s.t.now 100 }) s)
    else s

def execPwrGoodFall (t k : Nat) (s : State) : Host.Outcome State Fault Refusal := .next (goodFall k (advance t s))

/-! ### Release of the core domain (R585, R597, R608; 20_package_balls R646, R647) -/

/-- The value of strap bit `b` from its samples, and event 0x0110 where they disagree. -/
def sampleStrap (samples : List Nat) (b : Nat) (s : State) : State :=
  let v := (List.range 3).map (fun i => bitOf (lget 0 samples i) b)
  if v.all id then setP (fun p => { p with straps := p.straps + 2 ^ b }) s
  else if v.any id then post 0x0110 0 (a1 b ++ v.foldr (fun x acc => a1 (b2n x) ++ acc) []) s
  else s

def sampleStraps (samples : List Nat) (s : State) : State :=
  (List.range 3).foldl (fun st b => sampleStrap samples b st) (setP (fun p => { p with straps := 0 }) s)

/-- The release is due: every rail is up, the last one good for 1 ms, or a reset that left the rails up has ended. -/
def State.releaseDue (s : State) : Bool :=
  !s.p.inReset && match s.p.seq with
    | .rising k since => decide (k = 7) && decide (since + msU ≤ s.t.now)
    | .settled since => decide (since ≤ s.t.now)
    | _ => false

/-- Out of retention: the control plane resumes, without a boot and with its epoch (R608). Where it was off in Maintain and the resume mode is
another, it starts again. -/
def resumeCore (s : State) : State :=
  let s := deliverLatch (setP (fun p => { p with vset := startVolts p }) (setM (fun m => { m with retention := false }) s))
  if s.m.tripStart then setM (fun m => { m with start := true, thermal := false, tripStart := false }) s
  else match s.m.trans with
    | some r =>
      if s.m.maint ∧ ¬ s.m.recovery ∧ r.target ≠ .maintain then restartControl s else s
    | none => s

/-- Out of reset: start-up, with the boot selection of R568. Event 0x010C follows a twin-initiated reset (R599). -/
def startCore (s : State) : State :=
  let s := deliverLatch (bootSelect (setM (fun m => { m with coreOn := true, start := true }) s))
  if s.p.resetCause = 3 then post 0x010C 0 [] s else s

/-- CORE_DOMAIN_RELEASE (R585). -/
def coreRelease (samples : List Nat) (s : State) : State :=
  if s.releaseDue then
    let s := setP (fun p => { p with good := p.good ||| 0x80, seq := .idle, attempts := 0, fault := false }) s
    let s := sampleStraps samples s
    if s.m.coreOn then resumeCore s
    else startCore (setP (fun p => { p with faultN := s.m.thermal }) s)
  else s

def execCoreDomainRelease (t : Nat) (straps : List Nat) (s : State) : Host.Outcome State Fault Refusal :=
  .next (coreRelease straps (advance t s))

/-! ### Resets of the device (R591, R596–R598, 17_ledger_recorder R547, R556) -/

/-- The channel of a device that the mount finds (17_ledger_recorder R547). -/
def findChannel (mfr density : Nat) (fits : Bool) : Channel :=
  { mfr := mfr, density := density, state := if density = 0 then 0 else if fits ∧ 30 ≤ density then 1 else 2, errs := 0 }

/-- The SEQ from which a mount resumes (17_ledger_recorder R553). -/
def LdgS.topSeq (l : LdgS) : Nat :=
  l.regions.foldl (fun m r => r.records.foldl (fun m x => if x.valid then max m (x.seq + 1) else m) m) 0

/-- The ledger as the always-on domain starts: the flash contents, and nothing of the RAM (R596). A flush that the supply cut short is found by
the mount (R576). -/
def ledgerOff (l : LdgS) : LdgS :=
  { LdgS.reset with
    fa := l.fa, fb := l.fb, regions := l.regions, spare := l.spare, openErase := l.openErase, slotA := l.slotA, slotB := l.slotB, seq := l.topSeq,
    lastScrub := l.lastScrub, otpRaised := l.otpRaised, flushCut := l.flush, mounting := true }

/-- The recorder sequence after a power cycle: the archive's highest plus 1 (17_ledger_recorder R581). -/
def archiveNext (s : State) : Nat :=
  (s.region 3).records.foldl (fun m r => if r.valid then max m (getLE r.payload 0 8 + getLE r.payload 8 2) else m) 0

/-- AON_POWER_ON (R591, R596, R657): the whole device is reset but for the flash contents and OTP, and the rail sequence begins. What has left
the block stays written: host memory, and the last value that a read returned. -/
def aonPowerOn (x : AonStart) (s : State) : State :=
  let s := { State.reset with
    pending := s.pending, freeCtr := s.freeCtr,
    h := { HostS.reset with mem := s.h.mem, answer := s.h.answer, msixSent := s.h.msixSent, nextId := s.h.nextId, pme := s.h.pme },
    p := { PowerS.reset with vaonA := x.feedA, vaonB := x.feedB, refOk := x.refOk },
    ev := { EvrS.reset with nextSeq := archiveNext s },
    l := { ledgerOff s.l with fa := findChannel x.mfrA x.densityA x.fitA, fb := findChannel x.mfrB x.densityB x.fitB, cold := true } }
  startSequence (newNonce s)

def execAonPowerOn (t : Nat) (feeds : AonStart) (s : State) : Host.Outcome State Fault Refusal :=
  .next (advance t (aonPowerOn feeds s))

/-- RESET_N_ASSERT (R596, R600): the whole device is reset, and keeps the recorder and counter RAM, device time with its frequency, and the levels
of PWR_EN. The levels of inputs stand. -/
def resetAssert (s : State) : State :=
  { State.reset with
    pending := s.pending, freeCtr := s.freeCtr,
    t := { TimeS.reset with now := s.t.now, everSet := s.t.everSet, freq := s.t.freq, holdFreq := s.t.holdFreq,
                            cleanSince := List.replicate 4 (some s.t.now) },
    h := { HostS.reset with mem := s.h.mem, answer := s.h.answer, msixSent := s.h.msixSent, nextId := s.h.nextId, pme := s.h.pme,
                            perst := s.h.perst },
    ev := { EvrS.reset with ram := s.ev.ram, nextSeq := s.ev.nextSeq },
    p := { PowerS.reset with
      en := s.railLevels.1, good := s.railLevels.2, refOk := s.p.refOk, vaonA := s.p.vaonA, vaonB := s.p.vaonB, pfail := s.p.pfail, temps := s.p.temps, inReset := true,
      resetCause := 1 },
    l := { ledgerOff s.l with cnt := s.l.cnt, ms := s.l.ms, runAcc := s.l.runAcc, limAcc := s.l.limAcc, mounting := false, cold := s.l.cold },
    w := { TwinS.reset with peerPin := s.w.peerPin, peerPinAt := s.w.peerPinAt } }

def execResetNAssert (t : Nat) (s : State) : Host.Outcome State Fault Refusal := .next (resetAssert (advance t s))

/-- A channel at a mount after RESET_N: one that had failed is tried again (17_ledger_recorder R550). -/
def retryChannel (c : Channel) : Channel := { c with state := if c.state = 3 then 1 else c.state, errs := 0 }

/-- RESET_N_RELEASE (R597): `good` are the levels of PWR_GOOD. With every rail up, the core domain is released without a new sequence. -/
def resetRelease (good : Nat) (s : State) : State :=
  if ¬ s.p.inReset then s
  else
    let s := setL (fun l => { l with fa := retryChannel l.fa, fb := retryChannel l.fb, mounting := true }) s
    let s := newNonce (setP (fun p => { p with inReset := false, good := good % 256 }) s)
    if s.p.en = 255 ∧ s.p.good = 255 then setP (fun p => { p with seq := .settled s.t.now }) s else startSequence s

def execResetNRelease (t good : Nat) (s : State) : Host.Outcome State Fault Refusal := .next (resetRelease good (advance t s))

/-- VAON_FEED_LOSS and VAON_FEED_RESTORE (R591): feed A, or with `b` feed B. -/
def feedLoss (b : Bool) (s : State) : State :=
  if b then (if s.p.vaonB then post 0x0101 0 [] (bump 0x1038 23 16 (setP (fun p => { p with vaonB := false }) s)) else s)
  else if s.p.vaonA then post 0x0101 0 [] (bump 0x1038 15 8 (setP (fun p => { p with vaonA := false }) s)) else s

def execVaonFeedLoss (t : Nat) (b : Bool) (s : State) : Host.Outcome State Fault Refusal := .next (feedLoss b (advance t s))

def feedRestore (b : Bool) (s : State) : State :=
  if (if b then s.p.vaonB else s.p.vaonA) then s
  else post 0x0102 0 [] (setP (fun p => if b then { p with vaonB := true } else { p with vaonA := true }) s)

def execVaonFeedRestore (t : Nat) (b : Bool) (s : State) : Host.Outcome State Fault Refusal := .next (feedRestore b (advance t s))

/-! ### Power-fail flush (R592; 17_ledger_recorder R575, R576) -/

/-- The record write of a job has not come to its commit. -/
def LJob.uncommitted (j : LJob) : Bool := match j.ops with
  | .program _ _ :: _ => j.write
  | _ => false

/-- The command of a job that is abandoned. -/
def AfterJob.waiter : AfterJob → Option Waiter
  | .complete w _ _ => some w
  | .activate w _ => some w
  | .archived _ w => w
  | .cleared w _ => some w
  | .erased _ w => some w
  | .setSaved w _ => some w
  | .verify w => some w
  | .nothing => none

/-- PFAIL_FALL: event 0x0103, and the flush begins. Command writes whose commit has not been programmed are abandoned. -/
def pfailFall (s : State) : State :=
  if s.p.pfail then s
  else
    let s := post 0x0103 0 [] (bump 0x1038 31 24 (setP (fun p => { p with pfail := true }) s))
    if ¬ s.ledgerUp ∨ s.l.flush then s
    else
      let gone := s.l.jobs.filter (fun j => j.uncommitted)
      let s := setL (fun l => { l with jobs := l.jobs.filter (fun j => !j.uncommitted), flush := true, flushAt := s.t.now }) s
      let s := gone.foldl (fun st j => completeOpt j.after.waiter (.of stAborted) st) s
      setCnt (fun c => { c with flushes := satN 0xFFFFFFFF (c.flushes + 1) }) s

def execPfailFall (t : Nat) (s : State) : Host.Outcome State Fault Refusal := .next (pfailFall (advance t s))

/-- PFAIL_RISE (R592): a flush that runs completes (R576). -/
def pfailRise (s : State) : State := if s.p.pfail then post 0x0104 0 [] (setP (fun p => { p with pfail := false }) s) else s

def execPfailRise (t : Nat) (s : State) : Host.Outcome State Fault Refusal := .next (pfailRise (advance t s))

/-- A record that the flush writes into a region's reserve: committed on both channels. -/
def flushRecord (region typ : Nat) (payload : List Byte) (s : State) : State :=
  match s.room region (recSize payload.length) with
  | some s =>
    let (r, s) := newRec typ 0 payload s
    setRegion region ((s.region region).append r) s
  | none => s

/-- The records of some sequence numbers marked archived in RAM. -/
def markKeys (keys : List Nat) (s : State) : State :=
  { s with ev := { s.ev with ram := s.ev.ram.map (fun x => if keys.contains x.1 then (x.1, { x.2 with archived := true }) else x) } }

/-- FLUSH_COMPLETE (R575): one batch of the newest 256 unarchived records, the open one among them, and one counters record. -/
def flushComplete (s : State) : State :=
  if ¬ s.l.flush then s
  else
    let all := s.ev.ram.filter (fun x => !x.2.archived)
    let recs := all.drop (all.length - 256)
    let keys := recs.map (·.1)
    let s := if recs = [] then s else markKeys keys (flushRecord 3 6 (batchPayload recs (all.length - recs.length)) s)
    let s := flushRecord 4 7 s.l.cnt.bytes s
    post 0x0B20 0 (a4 ((s.t.now - s.l.flushAt) / usU)) (setL (fun l => { l with flush := false }) s)

def execFlushComplete (t : Nat) (s : State) : Host.Outcome State Fault Refusal := .next (flushComplete (advance t s))

/-! ### Dormant (R607, R608) -/

/-- The device is Dormant: the data plane has stopped, memories are in retention, rails 7 to 1 fall, and the outputs are as unpowered (R600). -/
def sleep (s : State) : State :=
  let s := setM (fun m => { m with
    mode := .dormant, start := false, dpRun := false, leadOut := false, retention := true, trans := none, transPick := none,
    startPick := none }) s
  let s := lowerRails 1 (setP (fun p => { p with vset := 550, holdSince := none, seq := .idle }) s)
  let s := setA (fun a => { a with out := [], rx := [], tin := [], driven := [] }) s
  setW (fun w => { w with role := 0, claim := 0, own := false, beating := false, hbOut := false }) s

/-- The link goes to L2, and the host-facing state is as after a host-side reset (14_host_interface R441). -/
def toL2 (s : State) : State := mgDormant (setH (fun h => { h with linkUp := false, l2 := true }) (hostClear s))

/-- Every output direction has ended its lead-out (11_audio_ports R361). -/
def State.outputsEnded (s : State) : Bool := allTo 24 (fun q => decide (s.dir q = OutDir.reset) || decide ((s.dir q).st = 0))

/-- DORMANT_ENTRY_COMPLETE (R607): at the end of the lead-out, or from start-up at the named pick. A MODE_SET that still waits has no mode to
change (log 46). -/
def dormantEntry (s : State) : State :=
  match s.m.trans, s.m.transPick with
  | some r, some q =>
    if r.target ≠ .dormant ∨ ¬ (if s.m.start then s.pickAt q ≤ s.t.now else s.m.leadOut ∧ s.outputsEnded) then s
    else
      let s := sleep (endTransition q s)
      let s := setM (fun m => { m with resumeOv := if r.resume = 0 then none else Mode.ofCode r.resume }) s
      post 0x010F 0 [] (toL2 (dropHeld stMode s))
  | _, _ => s

def execDormantEntryComplete (t : Nat) (s : State) : Host.Outcome State Fault Refusal := .next (dormantEntry (advance t s))

/-- A wake event raises rails 1 to 7 and VDD_CORE (R608), and PE_WAKE_N tells the host (14_host_interface R441). -/
def wakeUp (cause : Nat) (target : Option Mode) (s : State) : State :=
  let s := setM (fun m => { m with
    wake := cause, trans := target.map (fun x => { target := x, pick := 0, resume := 0, who := none }), transPick := none }) s
  raiseRail 1 (setP (fun p => { p with vset := 800, wakeN := true }) s)

/-- What each wake event needs: a held wake frame, a start that a trigger has made due, a held notice, PE_PERST_N released. -/
def State.wakeDue (s : State) (cause : Nat) : Bool :=
  (cause == 1 && s.n.mg.held.isSome) || (cause == 2 && s.m.startPick.isSome) || (cause == 3 && s.g.wakeLatch.isSome) || cause == 4

/-- The end of a thermal hold (R594): the device goes back to the mode held at the trip. -/
def holdEnd (s : State) : State :=
  match s.p.coolSince with
  | some c =>
    if s.m.thermal ∧ c + 10 * secU ≤ s.t.now ∧ (s.p.seq = .idle ∨ s.p.seq = .off) ∧ ¬ s.p.inReset then
      let s := setP (fun p => { p with faultN := p.fault, coolSince := none }) s
      if s.p.seq = .off then setM (fun m => { m with thermal := false, tripStart := false }) s
      else if ¬ s.m.coreOn then startSequence (setM (fun m => { m with thermal := false, tripStart := false }) s)
      else if s.m.tripStart then wakeUp 5 none s
      else if s.m.tripMode = .dormant then setM (fun m => { m with thermal := false }) s
      else wakeUp 5 (some s.m.tripMode) s
    else s
  | none => s

/-- THERMAL_HOLD_END (R594): Tmax has been below 95 °C for 10 s. -/
def execThermalHoldEnd (t : Nat) (s : State) : Host.Outcome State Fault Refusal := .next (holdEnd (advance t s))

/-- WAKE_EVENT (R608), by the codes of TRD_MODE.WAKE. -/
def wakeEvent (cause : Nat) (s : State) : State :=
  let s := if cause = 4 then setH (fun h => { h with perst := false }) s else s
  if cause = 5 then holdEnd s
  else if s.inDormant ∧ s.m.retention ∧ ¬ s.m.thermal ∧ s.p.seq = .idle ∧ s.wakeDue cause then wakeUp cause (some (s.resumeMode s.m.resumeOv)) s
  else s

def execWakeEvent (t cause : Nat) (s : State) : Host.Outcome State Fault Refusal := .next (wakeEvent cause (advance t s))

/-! ### Heat and current (R593–R595) -/

/-- Thermal trip: Dormant at once, without lead-out (R593, R606). -/
def trip (s : State) : State :=
  let s := dropHeld stMode (dropTransition stMode s)
  let s := post 0x0109 0 [] (setP (fun p => { p with faultN := true }) s)
  let s := if s.m.thermal then s
    else setM (fun m => { m with thermal := true, tripMode := m.mode, tripStart := m.start, under := s.dataMode }) s
  if ¬ s.m.coreOn then (if s.p.seq = .off then s else setP (fun p => { p with seq := .idle }) (lowerRails 0 s))
  else if s.m.retention then lowerRails 1 (setP (fun p => { p with seq := .idle }) s)
  else toL2 (sleep (stopRender (leaveMeasure s)))

/-- Quarter degrees of a temperature in °C. -/
def quarters (c : Int) : Int := 4 * c

/-- One powered second ends (17_ledger_recorder R566): the seconds and the thermal histogram. -/
def countSecond (tmax : Int) (s : State) : State :=
  let bin := ((tmax + 160) / 20).toNat
  setCnt (fun c => { c with
    seconds := satN (2 ^ 64 - 1) (c.seconds + 1),
    hist := if -160 ≤ tmax ∧ bin < 32 then nmod 0 c.hist bin (fun v => satN 0xFFFFFFFF (v + 1)) else c.hist }) s

/-- TEMP_SAMPLE (R593): the eight sensors, every 1 ms. -/
def tempSample (temps : List Int) (s : State) : State :=
  if s.p.inReset then s
  else
    let ts := (List.range 8).map (fun i => clampI (-2048) 2047 (lget 0 temps i))
    let m := (hottest ts).2
    let now := s.t.now
    let s := setP (fun p => { p with
      temps := ts,
      hotSince := if m < quarters 105 then none else some (p.hotSince.getD now),
      hotSteps := if m < quarters 105 then 0 else p.hotSteps,
      coolSince := if m < quarters 95 then some (p.coolSince.getD now) else none }) s
    let ms := s.l.ms + 1
    let s := setL (fun l => { l with ms := if ms < 1000 then ms else 0 }) s
    let s := if ms < 1000 then s else countSecond m s
    let s := if quarters s.p.thot ≤ m then (if s.p.hot then s else post 0x0107 0 [] (setP (fun p => { p with hot := true }) s))
      else if m ≤ quarters s.p.thot - 20 then setP (fun p => { p with hot := false }) s
      else s
    if quarters 115 ≤ m ∧ ¬ (s.m.thermal ∧ s.p.seq = .idle) then trip s else s

def execTempSample (t : Nat) (temps : List Int) (s : State) : Host.Outcome State Fault Refusal := .next (tempSample temps (advance t s))

/-- A shedding step that heat or current calls for, with its event (R59, R62, R593, R595). While no pick is rendered there is none to take. -/
def shedFor (code : Nat) (s : State) : State :=
  let n := s.shedAhead
  let s := if s.m.dpRun ∧ ¬ s.m.leadOut then callShed (s.m.pick + 2) id s else s
  let s := if n < s.shedAhead then setP (fun p => { p with shedTaken := true }) s else s
  post code 0 [] s

/-- THERMAL_SHED (R593): each second at or above 105 °C. -/
def thermalShed (s : State) : State :=
  match s.p.hotSince with
  | some h =>
    if h + (s.p.hotSteps + 1) * secU ≤ s.t.now then shedFor 0x0108 (setP (fun p => { p with hotSteps := p.hotSteps + 1 }) s) else s
  | none => s

def execThermalShed (t : Nat) (s : State) : Host.Outcome State Fault Refusal := .next (thermalShed (advance t s))

/-- One regulator's poll (R588). A fourth failure in a row is not counted: REGULATOR_FAIL reports the third. -/
def pollOne (x : RegRead) (r : Regulator) : Regulator :=
  if r.addr = 0 then r
  else if x.ok then { r with vout := x.vout % 1024, iout := x.iout % 65536, temp := clampI (-32768) 32767 x.temp, fails := 0 }
  else { r with fails := if r.fails < 3 then r.fails + 1 else r.fails }

/-- PMBUS_POLL (R588, R595): every 10 ms. Three reads of the core current above IMAX begin the shedding of R595. -/
def pmbusPoll (reads : List RegRead) (s : State) : State :=
  if s.p.inReset then s
  else
    let none_ : RegRead := { ok := false, vout := 0, iout := 0, temp := 0 }
    let regs := s.p.regs.zipIdx.map (fun x => pollOne (lget none_ reads x.2) x.1)
    let s := setP (fun p => { p with regs := regs }) s
    if ¬ (lget none_ reads 0).ok then s
    else
      let i := (lget (Regulator.default 0) regs 0).iout
      let s := raiseTo 0x100C 31 16 i s
      if i ≤ s.p.imax * 256 then setP (fun p => { p with overCount := 0, overSince := none, overSteps := 0 }) s
      else
        let n := min 3 (s.p.overCount + 1)
        setP (fun p => { p with overCount := n, overSince := if n = 3 then some (p.overSince.getD s.t.now) else none }) s

def execPmbusPoll (t : Nat) (reads : List RegRead) (s : State) : Host.Outcome State Fault Refusal := .next (pmbusPoll reads (advance t s))

/-- REGULATOR_FAIL (R588): regulator `k` has failed three transactions in a row. For regulator 0 VDD_CORE counts as at its last set point. -/
def regulatorFail (k : Nat) (s : State) : State :=
  let r := lget (Regulator.default 0) s.p.regs k
  if r.fails ≠ 3 then s
  else
    let r := { r with fails := 4, vout := if k = 0 then s.p.vset else r.vout }
    post 0x0106 0 [] (setP (fun p => { p with regs := lset p.regs k r }) s)

def execRegulatorFail (t k : Nat) (s : State) : Host.Outcome State Fault Refusal := .next (regulatorFail k (advance t s))

/-- OVERCURRENT_SHED (R595): after the third read, and each second after it. -/
def overcurrentShed (s : State) : State :=
  match s.p.overSince with
  | some h =>
    if h + s.p.overSteps * secU ≤ s.t.now then shedFor 0x010B (setP (fun p => { p with overSteps := p.overSteps + 1 }) s) else s
  | none => s

def execOvercurrentShed (t : Nat) (s : State) : Host.Outcome State Fault Refusal := .next (overcurrentShed (advance t s))

/-! ### Twin-initiated reset (R599) -/

/-- HEARTBEAT_FRAME_RX (16_twin R517): the frame's content, and a reset request that the unit accepts. The core domain is reset with its rails
up, so its release follows. -/
def heartbeatFrame (hb : Heartbeat) (s : State) : State :=
  if ¬ s.coreUp then s
  else
    let s := heartbeatRx hb s
    if 3 ≤ s.w.resetAsk ∧ s.field 0x1004 11 11 = 1 ∧ s.w.beatAt + 10 * msU ≤ s.t.now then
      setP (fun p => { p with seq := .settled s.t.now }) (coreReset 3 s)
    else s

def execHeartbeatFrameRx (t : Nat) (hb : Heartbeat) (s : State) : Host.Outcome State Fault Refusal := .next (heartbeatFrame hb (advance t s))

/-! ### Power commands (R616, R617) -/

/-- The PWR_QUERY report. -/
def State.powerReport (s : State) : List Byte :=
  fit 128 ((List.range 18).foldr (fun i acc => leBytes 4 (s.regValue (0x1000 + 4 * i)).toNat ++ acc) [] ++
    s.p.regs.foldr (fun r acc => leBytes 2 r.vout ++ leBytes 2 r.iout ++ leBytes 2 (unsignedOf 16 r.temp) ++ zeros 2 ++ acc) [])

def pwrQueryBody : Body := fun c w s =>
  if ¬ parZero c 32 32 ∨ par c 8 4 < 128 then complete w (.of stParam) s
  else if ¬ aligned8 (par c 0 8) then complete w (.of stAlign) s
  else complete w (.of stOK) (writeHost (par c 0 8) s.powerReport s)

def pwrQueryInfo : CmdInfo := ⟨0xE0, .serve⟩

/-- PWR_QUERY (R616). -/
def execPwrQuery (c : HostCmd) (s : State) : Host.Outcome State Fault Refusal :=
  .next (hostCommand pwrQueryInfo (.pwrQuery c) c pwrQueryBody s)

/-- A rail table in its ranges (R616). -/
def railTableOk (b : List Byte) : Bool :=
  allTo 8 (fun k => decide (1 ≤ getLE b (4 * k) 2) && decide (getLE b (4 * k) 2 ≤ 1000) && decide (1 ≤ byteAt b (4 * k + 2)) &&
    decide (1 ≤ byteAt b (4 * k + 3))) &&
  allTo 4 (fun k => decide (byteAt b (32 + k) < 128)) && decide (byteAt b 32 ≠ 0) && decide (20 ≤ byteAt b 36) && decide (byteAt b 36 ≤ 60) &&
  zeroRange b 37 27

def railCfgBody : Body := fun c w s =>
  let b := fit 64 c.data
  if ¬ parZero c 32 32 then complete w (.of stParam) s
  else if ¬ aligned8 (par c 0 8) then complete w (.of stAlign) s
  else if ¬ railTableOk b then complete w (.of stParam) s
  else
    let rows := (List.range 8).map (fun k => { delay := getLE b (4 * k) 2, timeout := byteAt b (4 * k + 2), offDelay := byteAt b (4 * k + 3) : RailRow })
    let addrs := (List.range 4).map (fun k => byteAt b (32 + k))
    complete w (.of stOK) (setP (fun p => { p with imax := byteAt b 36, nextRails := some (rows, addrs) }) s)

def railCfgInfo : CmdInfo := ⟨0xE1, .serve⟩

/-- RAIL_CFG (R617): IMAX at once, the rest at the next start of the core domain. -/
def execRailCfg (c : HostCmd) (s : State) : Host.Outcome State Fault Refusal :=
  .next (hostCommand railCfgInfo (.railCfg c) c railCfgBody s)

def thermSetBody : Body := fun c w s =>
  let v := par c 28 1
  if v < 85 ∨ 105 < v ∨ ¬ parZero c 32 32 then complete w (.of stParam) s
  else complete w (.of stOK) (setP (fun p => { p with thot := v }) s)

def thermSetInfo : CmdInfo := ⟨0xE2, .serve⟩

/-- THERM_SET (R593). -/
def execThermSet (c : HostCmd) (s : State) : Host.Outcome State Fault Refusal :=
  .next (hostCommand thermSetInfo (.thermSet c) c thermSetBody s)

def avsSetBody : Body := fun c w s =>
  let a := par c 29 1
  let v := par c 30 2
  if 1 < a ∨ (a = 1 ∧ (v < 650 ∨ 800 < v ∨ v % 5 ≠ 0)) ∨ ¬ parZero c 32 32 then complete w (.of stParam) s
  else
    let s := setP (fun p => { p with
      avs := if a = 1 then .fixed v else .loop, vset := if a = 1 ∧ p.holdSince.isNone then v else p.vset }) s
    complete w (.of stOK) (setB (fun b => { b with winMin := 0xFFFF, winCount := 0 }) s)

def avsSetInfo : CmdInfo := ⟨0xE3, .serve⟩

/-- AVS_SET (R590). -/
def execAvsSet (c : HostCmd) (s : State) : Host.Outcome State Fault Refusal :=
  .next (hostCommand avsSetInfo (.avsSet c) c avsSetBody s)

end Sys2Proof.Machine
end

