-- ==== Sys2Proof/Machine/Sets.lean ====
section
/-!
DEFINITION. Sys2Proof/Machine/Sets.lean: LDG_SET_SAVE and LDG_SET_RECALL (17_ledger_recorder R563–R565).
-/
namespace Sys2Proof.Machine

/-! ### The active copies (R564) -/

/-- The image of the active Reed bank (06_reed R179, R180): directory and blocks in output order; a bank with no entry has one of TAPS 0. -/
def ReedBank.image (b : ReedBank) : List Byte :=
  let dir := if b.dir = [] then [(0, { gen := 0, taps := 0, ofs := 0, coef := [], bad := [] : BankEntry })] else b.dir
  let start := 64 + 16 * dir.length
  let (ents, blocks) := dir.foldl (fun acc x =>
    let (ents, blocks) := acc
    let e := x.2
    (ents ++ leBytes 2 x.1 ++ leBytes 2 e.gen ++ leBytes 4 e.taps ++ leBytes 4 (start + blocks.length) ++ zeros 4,
     blocks ++ e.coef.foldr (fun v acc => leBytes 4 (unsignedOf 32 v) ++ acc) [])) (([] : List Byte), ([] : List Byte))
  let body := ents ++ blocks
  let head := leBytes 4 0x52424E4B ++ leBytes 2 1 ++ leBytes 1 (b2n b.long) ++ zeros 1 ++ leBytes 2 dir.length ++ zeros 2 ++ leBytes 4 b.id ++
    leBytes 4 (64 + body.length) ++ zeros 40
  head ++ leBytes 4 (crc32c (head ++ zeros 4 ++ body)) ++ body

/-- The image of an item: 0 layout, 1 route set, 2 filter-chain bank, 3 Reed bank. -/
def State.itemImage (s : State) : Nat → List Byte
  | 0 => s.x.active.image
  | 1 => s.d.active.image
  | 2 => s.fchBank.image
  | _ => s.reedActive.image

/-- What tells that a swap of an item has taken effect since. -/
def State.itemMark (s : State) : Nat → List Nat
  | 0 => [s.x.swapPick, s.x.active.id]
  | 1 => [s.d.swapPick, s.d.active.id]
  | 2 => [s.f.active, s.fchBank.id]
  | _ => [s.r.swapPick, s.r.active]

/-! ### Saving (R563, R565) -/

/-- Payload bytes of a full part, which fills a sector. -/
def partBytes : Nat := 65484

/-- A byte stream cut into parts. -/
def cutParts : Nat → List Byte → List (List Byte)
  | 0, _ => []
  | n + 1, l => if l = [] then [] else l.take partBytes :: cutParts n (l.drop partBytes)

/-- Sectors that records take up: one for each that fills a sector, and the others laid end to end. -/
def sectorsOf (lens : List Nat) : Nat :=
  let full := lens.filter (fun n => decide (partBytes ≤ n))
  let rest := (lens.filter (fun n => decide (n < partBytes))).foldl (fun a n => a + recSize n) 0
  full.length + (rest + 65519) / 65520

/-- The region, less its reserve, holds the save beside every record that compaction keeps (R565). -/
def State.setFits (s : State) (lens : List Nat) : Bool :=
  let r := s.region 2
  let kept := (r.records.filter r.keeps).map (fun x => x.payload.length)
  decide (sectorsOf lens + sectorsOf kept + reserveOf 2 ≤ r.used.length + r.free.length)

/-- Records with SEQ numbers in order, one for each part of set `n`. -/
def partRecords (n : Nat) : Nat → List (List Byte) → State → List FlashRec × State
  | _, [], s => ([], s)
  | i, p :: r, s =>
    let (x, s) := newRec 4 (n * 1024 + i) p s
    let (xs, s) := partRecords n (i + 1) r s
    (x :: xs, s)

/-- The SEQ of the last part that holds some of the stream before byte `e`. -/
def lastPart (first e : Nat) : Nat := first + (e - 1) / partBytes

/-- A save: the selected images laid end to end and cut into parts, then the close record. A selection of nothing deletes the set. -/
def saveSet (n mask : Nat) (name : List Byte) (w : Waiter) (s : State) : State :=
  let sel := (List.range 4).filter (fun i => bitOf mask i)
  let lens := (List.range 4).map (fun i => if bitOf mask i then (s.itemImage i).length else 0)
  let stream := sel.foldr (fun i acc => s.itemImage i ++ acc) []
  let parts := cutParts (stream.length / partBytes + 1) stream
  if ¬ s.setFits (parts.map List.length ++ [48]) then complete w (.of stLedgerFull) (regionFull 2 s)
  else
    let first := s.l.seq
    let ends := (List.range 4).map (fun i => (lens.take (i + 1)).foldl (· + ·) 0)
    let marks := sel.map (fun i => (i, s.itemMark i, lastPart first (lget 0 ends i)))
    let (recs, s) := partRecords n 0 parts s
    let close := fit 16 name ++ leBytes 1 mask ++ zeros 3 ++ leBytes 4 parts.length ++ leBytes 8 first ++
      lens.foldr (fun v acc => leBytes 4 v ++ acc) []
    let (cl, s) := newRec 5 n close s
    startJob { ops := (recs ++ [cl]).foldr (fun r acc => recordOps 2 r ++ acc) [], after := .setSaved w marks, write := true } s

def ldgSetSaveWork : Body := fun c w s =>
  let n := par c 12 2
  if 64 ≤ n ∨ 16 ≤ par c 15 1 ∨ ¬ parZero c 28 4 ∨ ¬ parZero c 48 16 then complete w (.of stParam) s
  else saveSet n (par c 15 1) (parBytes c 32 16) w s

def ldgSetSaveInfo : CmdInfo := ⟨0xB1, .serve⟩

/-- LDG_SET_SAVE (R563–R565). -/
def execLdgSetSave (c : HostCmd) (s : State) : Host.Outcome State Fault Refusal :=
  .next (hostCommand ldgSetSaveInfo (.ldgSetSave c) c (ledgerBody (.ldgSetSave c) ldgSetSaveWork) s)

/-! ### Recalling (R564) -/

/-- The image stream of a saved set, its parts in order. -/
def Region.stream (r : Region) (cl : FlashRec) : List Byte :=
  (List.range (closeParts cl.payload)).foldr (fun i acc =>
    (match r.records.find? (fun x => x.valid && x.typ == 4 && x.key == cl.key * 1024 + i && decide (closeFirst cl.payload ≤ x.seq) &&
        decide (x.seq ≤ cl.seq)) with
      | some x => x.payload
      | none => []) ++ acc) []

/-- One item loaded into its inactive copy, as its load command would (R564): BUSY while a swap of the set waits. -/
def loadItem (i : Nat) (img : List Byte) (s : State) : Ending × State :=
  let busy := if i = 0 then s.swapPending .layout else if i = 1 then s.swapPending .route else if i = 2 then s.f.swap.isSome else s.bankBusy
  if busy then (.of stBusy, s)
  else if i = 0 then takeLayout img img.length s
  else if i = 1 then takeRoutes img img.length s
  else if i = 2 then takeFch img img.length s
  else takeReed img img.length s

/-- The selected items in the order of the mask bits: the first failure ends the command. -/
def loadItems (cl : FlashRec) (stream : List Byte) : List Nat → Nat → State → Ending × State
  | [], done, s => (.of stOK done, s)
  | i :: r, done, s =>
    let len := fun (k : Nat) => getLE cl.payload (32 + 4 * k) 4
    let at_ := sumTo i len
    let (e, s) := loadItem i ((stream.drop at_).take (len i)) s
    if e.status = stOK then loadItems cl stream r (done + 2 ^ i) s else ({ e with r0 := done, r1 := e.r0 }, s)

/-- Parts and close record are read from both channels (R549). -/
def readSet (n : Nat) (s : State) : State :=
  ((s.region 2).records.filter (fun x => x.valid && x.bad && ((x.typ == 4 && x.key / 1024 == n) || (x.typ == 5 && x.key == n)))).foldl
    (fun st x => mirrorRead 2 x st) s

def ldgSetRecallWork : Body := fun c w s => refusing s.inDormant w s <|
  let n := par c 12 2
  let mask := par c 15 1
  if 64 ≤ n ∨ 16 ≤ mask ∨ ¬ parZero c 28 4 ∨ ¬ parZero c 48 16 then complete w (.of stParam) s
  else match (s.region 2).setClose n with
    | none => complete w (.of stParam) s
    | some cl =>
      if closeMask cl.payload = 0 ∨ (List.range 4).any (fun i => bitOf mask i && !bitOf (closeMask cl.payload) i) then complete w (.of stParam) s
      else
        let (e, s1) := loadItems cl ((s.region 2).stream cl) ((List.range 4).filter (fun i => bitOf mask i)) 0 (readSet n s)
        complete w e s1

def ldgSetRecallInfo : CmdInfo := ⟨0xB2, .refuse⟩

/-- LDG_SET_RECALL (R564): a set that is absent, or that lacks a selected item, cannot be recalled (log 49). -/
def execLdgSetRecall (c : HostCmd) (s : State) : Host.Outcome State Fault Refusal :=
  .next (hostCommand ldgSetRecallInfo (.ldgSetRecall c) c (ledgerBody (.ldgSetRecall c) ldgSetRecallWork) s)

end Sys2Proof.Machine
end

