-- ==== Sys2Proof/Machine/Firmware.lean ====
section
/-!
DEFINITION. Sys2Proof/Machine/Firmware.lean: FW_WRITE, FW_VERIFY and FW_ACTIVATE (18_power_modes R610–R613).
-/
namespace Sys2Proof.Machine

/-- A firmware slot holds 16 MiB (17_ledger_recorder R551). -/
def slotBytes : Nat := 16777216

/-- The erase of `n` sectors of a slot, each logged (17_ledger_recorder R555). -/
def slotErase (slot n : Nat) : List FlashOp :=
  (List.range n).foldr (fun k acc => .eraseBegun (5 + slot) k :: .erase (5 + slot) k :: .eraseDone (5 + slot) k :: acc) []

/-- Page programs of a write. -/
def slotPages (slot off : Nat) (data : List Byte) : List FlashOp :=
  (List.range (data.length / 256)).map (fun k => .fwProgram slot (off + 256 * k) ((data.drop (256 * k)).take 256))

def fwWriteWork : Body := fun c w s =>
  let len := par c 8 4
  let off := par c 24 4
  let data := fit len c.data
  let body := getLE data 12 4
  if len < 256 ∨ 1048576 < len ∨ len % 256 ≠ 0 ∨ ¬ parZero c 32 32 then complete w (.of stParam) s
  else if ¬ aligned8 (par c 0 8) then complete w (.of stAlign) s
  else if slotBytes < off + len ∨ (if off = 0 then slotBytes - 4096 < body else ¬ s.p.fwOpen ∨ off ≠ s.p.fwNext) then complete w (.of stParam) s
  else
    let erase := if off = 0 then slotErase s.p.fwSlot ((body + 4096 + 65535) / 65536) else []
    startJob { ops := erase ++ slotPages s.p.fwSlot off data, after := .complete w 0 0, write := true }
      (setP (fun p => { p with fwOpen := true, fwNext := off + len, fwVerified := false }) s)

def fwWriteInfo : CmdInfo := ⟨0xF0, .serve⟩

/-- FW_WRITE (R610, R611): OFFSET 0 begins a sequence anew (log 50). -/
def execFwWrite (c : HostCmd) (s : State) : Host.Outcome State Fault Refusal :=
  .next (hostCommand fwWriteInfo (.fwWrite c) c (fun c w s => refusing (!s.inMaintain) w s (ledgerBody (.fwWrite c) fwWriteWork c w s)) s)

def fwVerifyWork : Body := fun c w s =>
  if ¬ parZero c 32 32 then complete w (.of stParam) s else startJob { ops := [], after := .verify w, write := false } s

def fwVerifyInfo : CmdInfo := ⟨0xF1, .serve⟩

/-- FW_VERIFY (R612). -/
def execFwVerify (c : HostCmd) (s : State) : Host.Outcome State Fault Refusal :=
  .next (hostCommand fwVerifyInfo (.fwVerify c) c (fun c w s => refusing (!s.inMaintain) w s (ledgerBody (.fwVerify c) fwVerifyWork c w s)) s)

/-- The mode that FW_ACTIVATE names: 1–5, or the one held before Maintain. -/
def State.activateMode (s : State) (m : Nat) : Option Mode :=
  if m = 0xFF then some s.m.before else if m = 0 then none else Mode.ofCode m

def fwActivateWork : Body := fun c w s =>
  match s.activateMode (par c 12 1), s.planned.named (par c 16 8) with
  | some t, some q =>
    if ¬ parZero c 32 32 ∨ ¬ s.p.fwVerified then complete w (.of stParam) s
    else if (t = .shadow ∧ ¬ s.w.en) ∨ (t = .measure ∧ s.w.en) then complete w (.of stMode) s
    else if s.changing then complete w (.of stBusy) s
    else
      let r : ModeReq := { target := t, pick := q, resume := 0, who := none }
      if ¬ s.m.start ∧ t ≠ .maintain ∧ ¬ (pushSched q false none (.mode r) s).inBudget q then complete w (.of stBudget) s
      else match appendRecord 0 1 0 ({ s.boot with trial := s.p.fwSlot, attempted := 0 }).bytes (.activate w r) s with
        | some s => s
        | none => complete w (.of stLedgerFull) (regionFull 0 s)
  | _, _ => complete w (.of stParam) s

def fwActivateInfo : CmdInfo := ⟨0xF2, .serve⟩

/-- FW_ACTIVATE (R612, R613): the boot record is written, the command completes, and the control plane restarts. -/
def execFwActivate (c : HostCmd) (s : State) : Host.Outcome State Fault Refusal :=
  .next (hostCommand fwActivateInfo (.fwActivate c) c (fun c w s => refusing (!s.inMaintain) w s (ledgerBody (.fwActivate c) fwActivateWork c w s)) s)

end Sys2Proof.Machine
end

