-- ==== Sys2Proof/Machine/Ledger.lean ====
section
/-!
DEFINITION. Sys2Proof/Machine/Ledger.lean: the ledger commands (17_ledger_recorder R563–R583) except the named sets' save and recall,
and the ledger's own timed rows.
-/
namespace Sys2Proof.Machine

/-- The common checks of R582 for a command that writes `need` bytes to ADDR. -/
def ldgWriteCheck (c : HostCmd) (need : Nat) : Option Nat :=
  if ¬ aligned8 (par c 0 8) then some stAlign
  else if ¬ parZero c 28 4 ∨ par c 8 4 < need then some stParam
  else none

/-- Bytes of records in a region. -/
def State.usedBytes (s : State) (code : Nat) : Nat := (s.region code).used.foldl (fun n x => n + (x.tail - 16)) 0

/-- The LDG_QUERY report: LDG_STAT to LDG_SCRUB, then the used bytes of regions 1 to 4 (R582). -/
def State.ledgerReport (s : State) : List Byte :=
  (List.range 8).foldr (fun i acc => leBytes 4 (viewed (s.reg (0x11000 + 4 * i)) (ldgView s (4 * i))).toNat ++ acc) [] ++
    [1, 2, 3, 4].foldr (fun k acc => leBytes 4 (s.usedBytes k) ++ acc) [] ++ zeros 16

def ldgQueryWork : Body := fun c w s =>
  match ldgWriteCheck c 64 with
  | some e => complete w (.of e) s
  | none => complete w (.of stOK) (writeHost (par c 0 8) s.ledgerReport s)

def ldgQueryInfo : CmdInfo := ⟨0xB0, .serve⟩

/-- LDG_QUERY (R582, R583). -/
def execLdgQuery (c : HostCmd) (s : State) : Host.Outcome State Fault Refusal :=
  .next (hostCommand ldgQueryInfo (.ldgQuery c) c (ledgerBody (.ldgQuery c) ldgQueryWork) s)

/-- The close-record payload of a set, zeros for one that is absent or deleted (R563, R582). -/
def State.setEntry (s : State) (n : Nat) : List Byte :=
  match (s.region 2).setClose n with
  | some r => if closeMask r.payload = 0 then zeros 48 else fit 48 r.payload
  | none => zeros 48

def ldgSetListWork : Body := fun c w s =>
  match ldgWriteCheck c 3072 with
  | some e => complete w (.of e) s
  | none => complete w (.of stOK) (writeHost (par c 0 8) ((List.range 64).foldr (fun i acc => s.setEntry i ++ acc) []) s)

def ldgSetListInfo : CmdInfo := ⟨0xB3, .serve⟩

/-- LDG_SET_LIST (R582, R583). -/
def execLdgSetList (c : HostCmd) (s : State) : Host.Outcome State Fault Refusal :=
  .next (hostCommand ldgSetListInfo (.ldgSetList c) c (ledgerBody (.ldgSetList c) ldgSetListWork) s)

def ldgRecordWriteWork : Body := fun c w s =>
  let len := par c 8 4
  if ¬ aligned8 (par c 0 8) then complete w (.of stAlign) s
  else if 65484 < len ∨ ¬ parZero c 28 4 then complete w (.of stParam) s
  else if 64 ≤ s.writesWaiting then complete w (.of stBusy) s
  else match appendRecord 1 2 (par c 12 2) (fit len c.data) (.complete w 0 0) s with
    | some s => s
    | none => complete w (.of stLedgerFull) (regionFull 1 s)

def ldgRecordWriteInfo : CmdInfo := ⟨0xB4, .serve⟩

/-- LDG_RECORD_WRITE (R554, R557, R583). -/
def execLdgRecordWrite (c : HostCmd) (s : State) : Host.Outcome State Fault Refusal :=
  .next (hostCommand ldgRecordWriteInfo (.ldgRecordWrite c) c (ledgerBody (.ldgRecordWrite c) ldgRecordWriteWork) s)

def ldgRecordReadWork : Body := fun c w s =>
  if ¬ aligned8 (par c 0 8) then complete w (.of stAlign) s
  else if ¬ parZero c 28 4 then complete w (.of stParam) s
  else match (s.region 1).current 2 (par c 12 2) with
    | none =>
      if (s.region 1).records.any (fun r => r.typ == 2 && r.key == par c 12 2) then complete w (.of stPoison) s
      else complete w (.of stParam) s
    | some r =>
      if par c 8 4 < r.payload.length then complete w (.of stParam r.payload.length) s
      else complete w (.of stOK r.payload.length (lo32 r.seq)) (writeHost (par c 0 8) r.payload (mirrorRead 1 r s))

def ldgRecordReadInfo : CmdInfo := ⟨0xB5, .serve⟩

/-- LDG_RECORD_READ (R549, R583). -/
def execLdgRecordRead (c : HostCmd) (s : State) : Host.Outcome State Fault Refusal :=
  .next (hostCommand ldgRecordReadInfo (.ldgRecordRead c) c (ledgerBody (.ldgRecordRead c) ldgRecordReadWork) s)

/-- The erase steps of every sector of a region that holds something (R555, R579). -/
def eraseOps (code : Nat) (r : Region) : List FlashOp :=
  r.used.foldr (fun x acc => .eraseBegun code x.id :: .erase code x.id :: .eraseDone code x.id :: acc) []

def ldgEraseWork : Body := fun c w s =>
  let k := par c 14 1
  if k = 0 ∨ 4 < k ∨ ¬ parZero c 28 4 then complete w (.of stParam) s
  else
    let (ok, s) := presentToken 0x02 k (parBytes c 32 32) s
    if ok then startJob { ops := eraseOps k (s.region k), after := .erased k w, write := false } s
    else complete w (.of stAuth) s

def ldgEraseInfo : CmdInfo := ⟨0xB6, .serve⟩

/-- LDG_ERASE (R577–R579). -/
def execLdgErase (c : HostCmd) (s : State) : Host.Outcome State Fault Refusal :=
  .next (hostCommand ldgEraseInfo (.ldgErase c) c (ledgerBody (.ldgErase c) ldgEraseWork) s)

def ldgCountersWork : Body := fun c w s =>
  match ldgWriteCheck c 4352 with
  | some e => complete w (.of e) s
  | none => complete w (.of stOK) (writeHost (par c 0 8) s.l.cnt.bytes s)

def ldgCountersInfo : CmdInfo := ⟨0xB7, .serve⟩

/-- LDG_COUNTERS (R566, R582). -/
def execLdgCounters (c : HostCmd) (s : State) : Host.Outcome State Fault Refusal :=
  .next (hostCommand ldgCountersInfo (.ldgCounters c) c (ledgerBody (.ldgCounters c) ldgCountersWork) s)

/-! ### Timed rows -/

/-- COUNTERS_SAVE (R566): the lifetime counters become a record. -/
def countersSave (s : State) : State :=
  if s.ledgerUp then appendQuiet 4 7 0 s.l.cnt.bytes s else s

def execCountersSave (t : Nat) (s : State) : Host.Outcome State Fault Refusal := .next (countersSave (advance t s))

/-- NONCE_EXPIRY (R578): 60 s after the nonce was first read. -/
def nonceExpiry (s : State) : State :=
  match s.l.nonceRead with
  | some r => if r + 60 * secU ≤ s.t.now then newNonce s else s
  | none => s

def execNonceExpiry (t : Nat) (s : State) : Host.Outcome State Fault Refusal := .next (nonceExpiry (advance t s))

/-- AUTH_HOLD_END (R578). -/
def authHoldEnd (s : State) : State :=
  match s.l.authHold with
  | some r => if r + secU ≤ s.t.now then setL (fun l => { l with authHold := none }) s else s
  | none => s

def execAuthHoldEnd (t : Nat) (s : State) : Host.Outcome State Fault Refusal := .next (authHoldEnd (advance t s))

/-- One region scrubbed: its sectors relocated, and how many (R562). -/
def scrubRegion (code : Nat) (s : State) : State × Nat :=
  let bad := (s.region code).used.filter s.scrubs
  (bad.foldl (fun st x => relocate code x.id st) s, bad.length)

/-- 30 days (R562). -/
def scrubPeriod : Nat := 30 * 86400 * secU

/-- LEDGER_SCRUB (R562): due 30 days after the last one. -/
def ledgerScrub (s : State) : State :=
  let due := match s.l.lastScrub with
    | some t => decide (t + scrubPeriod ≤ s.t.now)
    | none => true
  if due && s.ledgerUp then
    let (s, n) := (List.range 5).foldl (fun acc k => let (s, m) := scrubRegion k acc.1; (s, acc.2 + m)) (s, 0)
    let s := bumpBy n 0x1101C 31 16 (setL (fun l => { l with lastScrub := some s.t.now }) s)
    post 0x0B05 0 (a2 (satN 0xFFFF n)) s
  else s

def execLedgerScrub (t : Nat) (s : State) : Host.Outcome State Fault Refusal := .next (ledgerScrub (advance t s))

end Sys2Proof.Machine
end

