-- ==== Sys2Proof/Machine/Flash.lean ====
section
/-!
DEFINITION. Sys2Proof/Machine/Flash.lean: the flash operations as they complete, the mount and the rebuild (17_ledger_recorder R548–R558).
-/
namespace Sys2Proof.Machine

/-! ### What an operation does (R554, R555) -/

/-- A slot image with bytes put at an offset; what lies between and was never programmed reads 0xFF. -/
def putBytes (img : List Byte) (off : Nat) (b : List Byte) : List Byte :=
  let pad := img ++ List.replicate (off - img.length) (0xFF : Byte)
  pad.take off ++ b ++ pad.drop (off + b.length)

/-- The image of a slot changed. -/
def setSlot (k : Nat) (f : List Byte → List Byte) (s : State) : State :=
  setL (fun l => if k = 0 then { l with slotA := { image := f l.slotA.image } } else { l with slotB := { image := f l.slotB.image } }) s

/-- A sector of a log region is erased and joins the erased ones. -/
def Region.eraseSector (r : Region) (id : Nat) : Region :=
  match r.used.find? (fun x => x.id == id) with
  | some x => { free := r.free ++ [(id, x.erases + 1)], used := r.used.filter (fun y => y.id != id) }
  | none => { r with free := r.free.map (fun x => if x.1 = id then (id, x.2 + 1) else x) }

/-- A record with the given SEQ has its commit on the channels in use; one whose sector was left behind is written whole again. -/
def Region.commit (now : Nat) (ch : Bool × Bool) (r : Region) (x : FlashRec) : Region :=
  let y := x.on ch
  if r.records.any (fun z => z.seq == x.seq) then
    { r with used := r.used.map (fun sec => { sec with recs := sec.recs.map (fun z => if z.seq = x.seq then y else z) }) }
  else r.copy now ch y

/-- One operation has completed on every channel in use. -/
def applyOp (op : FlashOp) (s : State) : State :=
  match op with
  | .program k r =>
    let s := (s.room k (recSize r.payload.length)).getD s
    setRegion k ((s.region k).append { r with okA := false, okB := false }) s
  | .commit k r => setRegion k ((s.region k).commit s.seconds s.channels r) s
  | .eraseBegun k id => setL (fun l => { l with openErase := l.openErase ++ [(k, id)] }) s
  | .erase k id =>
    if k < 5 then setRegion k ((s.region k).eraseSector id) s
    else setSlot (k - 5) (fun img => putBytes img (65536 * id) (List.replicate (min 65536 (img.length - 65536 * id)) 0xFF)) s
  | .eraseDone k id => setL (fun l => { l with openErase := l.openErase.filter (fun x => !decide (x = (k, id))) }) s
  | .fwProgram k off bytes => setSlot k (fun img => putBytes img off bytes) s

/-! ### Errors (R550, R554, R558) -/

/-- The region and sector that an operation works on: a record goes to the newest sector. -/
def State.opSector (s : State) : FlashOp → Nat × Option Nat
  | .program k _ => (k, ((s.region k).used.getLast?).map (·.id))
  | .commit k r => (k, ((s.region k).used.find? (fun x => x.recs.any (fun z => z.seq == r.seq))).map (·.id))
  | .eraseBegun _ _ => (7, none)
  | .eraseDone _ _ => (7, none)
  | .erase k id => (k, some id)
  | .fwProgram k off _ => (5 + k, some (off / 65536))

def FlashOp.erases : FlashOp → Bool
  | .erase _ _ => true
  | _ => false

/-- Errors in a row on one channel while the other succeeds: the third one fails it. -/
def channelErrors (badA badB : Bool) (s : State) : State :=
  let next := fun (c : Channel) (own other : Bool) => { c with errs := if own && !other then c.errs + 1 else 0 }
  let fail := fun (c : Channel) (other : Bool) => if 3 ≤ c.errs ∧ other then { c with state := 3 } else c
  let two := s.channels.1 && s.channels.2
  let a := fail (next s.l.fa badA badB) two
  let b := fail (next s.l.fb badB badA) two
  let n := b2n (a.state ≠ s.l.fa.state) + b2n (b.state ≠ s.l.fb.state)
  let s := setL (fun l => { l with fa := a, fb := b }) s
  if n = 0 then s else post 0x0B02 0 [] s

/-- A sector is retired on both channels and replaced by the next spare one, to which its valid records go; with no spare left its region
shrinks (R558). -/
def retireSector (k : Nat) (id : Option Nat) (s : State) : State :=
  let spare := s.l.spare
  let s := bump 0x11010 31 24 (setL (fun l => { l with spare := l.spare - 1 }) s)
  match id with
  | none => s
  | some id =>
    if 5 ≤ k then s
    else
      let r := relocateSector s.seconds s.channels (s.region k) id
      setRegion k { r with free := if spare = 0 then r.free.filter (fun x => x.1 != id) else r.free.map (fun x => if x.1 = id then (id, 0) else x) } s

/-- A set whose active copy has been swapped before the save had read all of it is abandoned (R564). -/
def LJob.overtaken (j : LJob) (s : State) : Bool :=
  match j.after with
  | .setSaved _ items => items.any (fun x =>
      decide (s.itemMark x.1 ≠ x.2.1) && j.ops.any (fun o => match o with
        | .program _ r => decide (r.seq ≤ x.2.2)
        | _ => false))
  | _ => false

/-- FW_ACTIVATE's boot record is committed: the command completes, and the control plane restarts (18_power_modes R613). -/
def activateNow (w : Waiter) (r : ModeReq) (s : State) : State :=
  let s := complete w (.of stOK) s
  let s := if r.target = .dormant then s else setM (fun m => { m with trans := some r, transPick := none, afterReady := some r }) s
  restartControl s

/-- Jobs that have nothing left to do end, FW_ACTIVATE's among them. -/
def settleAll (s : State) : State :=
  let s := settleJobs (s.l.jobs.length + 1) s
  match s.l.jobs with
  | j :: rest =>
    match j.ops, j.after with
    | [], .activate w r => settleJobs (rest.length + 1) (activateNow w r (setL (fun l => { l with jobs := rest }) s))
    | _, _ => s
  | [] => s

/-- The head job replaced. -/
def setHead (j : LJob) (rest : List LJob) (s : State) : State := setL (fun l => { l with jobs := j :: rest }) s

/-- FLASH_OP_COMPLETE (R548): the operation at the head has ended. An error retires its sector and the operation is made again; bytes that
read back unequal relocate the sector once before that. -/
def flashOp (res : FlashResult) (s : State) : State :=
  if ¬ s.ledgerUp then s
  else match s.l.jobs with
    | [] => s
    | j :: rest =>
      match j.ops with
      | [] => settleAll s
      | op :: ops =>
        let badA := s.l.fa.state == 1 && !res.okA
        let badB := s.l.fb.state == 1 && !res.okB
        let (k, id) := s.opSector op
        let unequal := !res.verified && !op.erases
        let s := channelErrors badA badB s
        if badA || badB then
          let s := if op.erases then bump 0x11010 15 8 s else bump 0x11010 7 0 s
          setHead { j with retried := false } rest (retireSector k id s)
        else if unequal && j.retried then setHead { j with retried := false } rest (retireSector k id s)
        else if unequal then
          let s := match id with
            | some id => if k < 5 then relocate k id s else s
            | none => s
          setHead { j with retried := true } rest s
        else
          let j' := { j with ops := ops, retried := false }
          let s := applyOp op (setHead j' rest s)
          if j'.overtaken s then settleAll (completeOpt j.after.waiter (.of stBusy) (setL (fun l => { l with jobs := rest }) s))
          else settleAll s

def execFlashOpComplete (t : Nat) (res : FlashResult) (s : State) : Host.Outcome State Fault Refusal := .next (flashOp res (advance t s))

/-! ### Mount (R550, R556) -/

/-- A ledger command that waited for the mount. -/
def ledgerWork : Instr → Option (HostCmd × Body)
  | .ldgQuery c => some (c, ldgQueryWork)
  | .ldgSetSave c => some (c, ldgSetSaveWork)
  | .ldgSetRecall c => some (c, ldgSetRecallWork)
  | .ldgSetList c => some (c, ldgSetListWork)
  | .ldgRecordWrite c => some (c, ldgRecordWriteWork)
  | .ldgRecordRead c => some (c, ldgRecordReadWork)
  | .ldgErase c => some (c, ldgEraseWork)
  | .ldgCounters c => some (c, ldgCountersWork)
  | .evrClear c => some (c, evrClearWork)
  | .evrArchive c => some (c, evrArchiveWork)
  | .evrArchiveRead c => some (c, evrArchiveReadWork)
  | .xbrCfg c => some (c, fun c w s => storeLatches c w (if bitOf (par c 8 1) 0 then takePark c s else s))
  | .fwWrite c => some (c, fwWriteWork)
  | .fwVerify c => some (c, fwVerifyWork)
  | .fwActivate c => some (c, fwActivateWork)
  | _ => none

/-- Commands that waited proceed in order (R556). -/
def runWaiting (s : State) : State :=
  let l := s.l.waiting
  l.foldl (fun st x => match ledgerWork x.1 with
    | some (c, body) => if st.ledgerUp then body c x.2 st else complete x.2 (.of stResource) st
    | none => complete x.2 (.of stResource) st) (setL (fun l => { l with waiting := [] }) s)

/-- Copies on a channel that is not used, or is blank, are not valid. -/
def Region.onChannels (r : Region) (a b : Bool) : Region :=
  { r with used := r.used.map (fun sec => { sec with recs := sec.recs.map (fun x => { x with okA := x.okA && a, okB := x.okB && b }) }) }

/-- Counters added field by field. -/
def Counters.plus (a b : Counters) : Counters :=
  let m := satN 0xFFFFFFFF
  let addMap := fun (x y : NMap Nat) => y.foldl (fun acc e => nmod 0 acc e.1 (fun v => m (v + e.2))) x
  { seconds := satN (2 ^ 64 - 1) (a.seconds + b.seconds), cycles := m (a.cycles + b.cycles), takeovers := m (a.takeovers + b.takeovers),
    demotions := m (a.demotions + b.demotions), refLoss := (List.range 4).map (fun i => m (lget 0 a.refLoss i + lget 0 b.refLoss i)),
    overruns := m (a.overruns + b.overruns), coreFaults := m (a.coreFaults + b.coreFaults), flushes := m (a.flushes + b.flushes),
    hist := addMap a.hist b.hist, runS := addMap a.runS b.runS, limS := addMap a.limS b.limS }

/-- The lifetime counters at the first mount after a start of the always-on domain (R566): the record's, with what has been counted since, and
one more power cycle. -/
def restoreCounters (s : State) : State :=
  if ¬ s.l.cold then s
  else
    let old := match (s.region 4).current 7 0 with
      | some r => Counters.parse r.payload
      | none => Counters.zero
    setL (fun l => { l with cold := false }) (setCnt (fun c => old.plus { c with cycles := c.cycles + 1 }) s)

/-- Erases that were cut short are made again (R555): regions and slots. -/
def reErase (s : State) : State :=
  let n := s.l.openErase.length
  let s := s.l.openErase.foldl (fun st x => applyOp (.erase x.1 x.2) st) s
  setL (fun l => { l with openErase := [], mReerased := n }) s

/-- Sector pairs that hold a copy which is invalid or different are relocated (R549). -/
def relocateBad (s : State) : State :=
  if ¬ s.mirrored then s
  else
    let bad := fun (st : State) (k : Nat) => (st.region k).used.filter (fun x => x.recs.any (fun r => r.valid && r.bad))
    let n := (List.range 5).foldl (fun a k => a + (bad s k).length) 0
    let s := (List.range 5).foldl (fun st k => (bad st k).foldl (fun st x => relocate k x.id st) st) s
    setL (fun l => { l with mReloc := n }) s

/-- Every region and slot erased: both channels are blank. -/
def blankLedger (s : State) : State :=
  setL (fun l => { l with regions := (List.range 5).map (fun i => Region.empty (regionSize i)), slotA := { image := [] }, slotB := { image := [] } }) s

/-- LEDGER_MOUNT_COMPLETE (R556). -/
def mountDone (f : MountFound) (s : State) : State :=
  if ¬ s.l.mounting then s
  else
    let a := s.l.fa.state == 1
    let b := s.l.fb.state == 1
    let s := if a then s else post 0x0B02 0 [] s
    let s := if b then s else post 0x0B02 0 [] s
    let s := setL (fun l => { l with mounting := false }) s
    if ¬ (a || b) then runWaiting s
    else
      let ga := a && !f.blankA
      let gb := b && !f.blankB
      let s := if ga || gb then setL (fun l => { l with regions := l.regions.map (fun r => r.onChannels ga gb) }) s else blankLedger s
      let s := reErase (setL (fun l => { l with rebuild := a && b && (ga != gb), mTorn := f.torn, mMarginal := f.marginal, mReloc := 0 }) s)
      let epoch := match (s.region 1).current 3 0 with
        | some r => getLE r.payload 0 4
        | none => 0
      let s := setW (fun w => { w with epoch := max w.epoch epoch }) (setL (fun l => { l with seq := max l.seq l.topSeq, mounted := true }) s)
      let s := restoreCounters (relocateBad s)
      let s := post 0x0B01 0 (a2 (satN 0xFFFF f.torn) ++ a2 (satN 0xFFFF s.l.mReerased) ++ a2 (satN 0xFFFF f.marginal)) s
      let s := if s.l.flushCut then post 0x0B21 0 [] (setL (fun l => { l with flushCut := false }) s) else s
      runWaiting s

def execLedgerMountComplete (t : Nat) (found : MountFound) (s : State) : Host.Outcome State Fault Refusal := .next (mountDone found (advance t s))

/-- LEDGER_REBUILD_COMPLETE (R550): the second channel holds what the first does. -/
def rebuildDone (s : State) : State :=
  if ¬ s.l.rebuild then s
  else
    let whole := fun (r : Region) => { r with used := r.used.map (fun sec => { sec with
      recs := sec.recs.map (fun x => { x with okA := x.valid, okB := x.valid, differ := false }) }) }
    post 0x0B03 0 [] (setL (fun l => { l with rebuild := false, regions := l.regions.map whole }) s)

def execLedgerRebuildComplete (t : Nat) (s : State) : Host.Outcome State Fault Refusal := .next (rebuildDone (advance t s))

end Sys2Proof.Machine
end

