-- ==== Sys2Proof/Machine/Time.lean ====
section
/-!
DEFINITION. Sys2Proof/Machine/Time.lean: the time commands and the rows of the time base (13_time), except the triggers
(Triggers.lean) and PTP messages (Ptp.lean).
-/
namespace Sys2Proof.Machine

/-- TIME_CFG's codes up to the first 0xFF (R432). -/
def prioList (c : HostCmd) : List Nat := ((List.range 4).map (fun i => par c (32 + i) 1)).takeWhile (· != 0xFF)

/-- TIME_CFG (R410, R415, R418, R432, R433). -/
def timeCfgBody : Body := fun c w s =>
  let prof := par c 27 1
  let ports := par c 31 1
  let prio := prioList c
  if 16 ≤ prof ∨ 127 < par c 28 1 ∨ 32 ≤ ports ∨ prio.any (3 < ·) ∨ ¬ parZero c 40 24 then complete w (.of stParam) s
  else
    let changed := decide (s.t.aes67 ≠ bitOf prof 0) || decide (s.t.eth ≠ bitOf prof 1) || decide (s.t.masterCap ≠ bitOf prof 2) ||
      decide (s.t.domain ≠ par c 28 1) || decide (s.t.cfgPort ≠ ports % 4) || decide (s.t.backup ≠ ports / 4 % 4) ||
      decide (s.t.backupEn ≠ bitOf ports 4)
    let s := setT (fun x => { x with
      aes67 := bitOf prof 0, eth := bitOf prof 1, masterCap := bitOf prof 2, revert := bitOf prof 3, domain := par c 28 1,
      pri1 := par c 29 1, pri2 := par c 30 1, cfgPort := ports % 4, backup := ports / 4 % 4, backupEn := bitOf ports 4,
      prio := prio }) s
    let s := if changed then restartPtp .master (setT (fun x => { x with ptpPort := x.cfgPort, portUpSince := none }) s) else s
    complete w (.of stOK) (reselect s)

def timeCfgInfo : CmdInfo := ⟨0x90, .serve⟩

def execTimeCfg (c : HostCmd) (s : State) : Host.Outcome State Fault Refusal :=
  .next (hostCommand timeCfgInfo (.timeCfg c) c timeCfgBody s)

/-- `n` free bytes (log 2). -/
def drawBytes : Nat → State → List Byte × State
  | 0, s => ([], s)
  | n + 1, s =>
    let (v, s) := draw s
    let (r, s) := drawBytes n s
    (v.setWidth 8 :: r, s)

/-- TIME_QUERY (R432): a 64-byte report whose layout the spec does not give: its bytes are free (log 18). -/
def timeQueryBody : Body := fun c w s =>
  if ¬ aligned8 (par c 0 8) then complete w (.of stAlign) s
  else if ¬ parZero c 40 24 then complete w (.of stParam) s
  else
    let (bytes, s) := drawBytes 64 s
    complete w (.of stOK) (writeHost (par c 0 8) bytes s)

def timeQueryInfo : CmdInfo := ⟨0x91, .serve⟩

def execTimeQuery (c : HostCmd) (s : State) : Host.Outcome State Fault Refusal :=
  .next (hostCommand timeQueryInfo (.timeQuery c) c timeQueryBody s)

/-- TIME_SET (R406, R407, R432). -/
def timeSetBody : Body := fun c w s =>
  if s.m.dpRun then complete w (.of stMode) s
  else if ¬ parZero c 40 24 then complete w (.of stParam) s
  else complete w (.of stOK) (setT (fun x => { x with everSet := true }) (setTime (par c 8 8 * nsU) s))

def timeSetInfo : CmdInfo := ⟨0x92, .serve⟩

def execTimeSet (c : HostCmd) (s : State) : Host.Outcome State Fault Refusal :=
  .next (hostCommand timeSetInfo (.timeSet c) c timeSetBody s)

/-- TIME_CORR_SET (R413, R431, R432). -/
def timeCorrSetBody : Body := fun c w s =>
  if 4 ≤ par c 31 1 ∨ ¬ parZero c 40 24 then complete w (.of stParam) s
  else complete w (.of stOK) (setReg (0xE040 + 4 * par c 31 1) (BitVec.ofNat 32 (par c 36 4)) s)

def timeCorrSetInfo : CmdInfo := ⟨0x95, .serve⟩

def execTimeCorrSet (c : HostCmd) (s : State) : Host.Outcome State Fault Refusal :=
  .next (hostCommand timeCorrSetInfo (.timeCorrSet c) c timeCorrSetBody s)

/-- TRIG_EDGE_CAPTURE (R426): the awaited edge of a TRIG pin, stored with a resolution of 2 ns. -/
def edgeCapture (pin : Nat) (falling : Bool) (s : State) : State :=
  let c := nget Capture.none s.t.caps pin
  if c.wait = some falling ∧ pin < 4 then
    setT (fun x => { x with caps := nset x.caps pin { ns := s.ns / 2 * 2, valid := true, missed := c.valid, wait := none } }) s
  else s

def execTrigEdgeCapture (t pin : Nat) (falling : Bool) (s : State) : Host.Outcome State Fault Refusal :=
  .next (edgeCapture pin falling (advance t s))

/-- PPS_IN_EDGE (R416, R421): with PPS_IN selected, the edge marks a whole second. -/
def ppsEdge (s : State) : State :=
  let s := seeEdge 1 s.t.now s
  if s.t.sel = some 1 ∧ s.t.lock = true then
    let d := fromSecond s.t.now
    if ¬ s.m.dpRun ∧ (usU : Int) < d.natAbs then
      post 0x0206 0 [] (setT (fun x => { x with offset := 0, far := false }) (stepTime (-d) s))
    else setT (fun x => { x with offset := d / (nsU : Int), far := x.far && decide ((msU : Int) < d.natAbs) }) s
  else s

def execPpsInEdge (t : Nat) (s : State) : Host.Outcome State Fault Refusal := .next (ppsEdge (advance t s))

/-- REF_INVALID (R412, R417–R419). -/
def execRefInvalid (t r : Nat) (reason : RefReason) (s : State) : Host.Outcome State Fault Refusal :=
  let s := advance t s
  .next (if r < 4 ∧ s.showsFault r reason then markInvalid r reason s else s)

/-- Whether a reference has qualified (R412, R417). -/
def State.qualified (s : State) (r : Nat) : Bool :=
  (match lget none s.t.cleanSince r with
    | some c => decide (c + qualifyTime r ≤ s.t.now)
    | none => true) &&
  (decide (1 < r) || !s.edgesStopped r) && (decide (r ≠ 0) || (decide (s.t.ptpState = 5) && (match s.t.servoSince with
    | some c => decide (c + secU ≤ s.t.now)
    | none => false)))

/-- REF_VALID (R417, R418, R421). -/
def refBecomesValid (r : Nat) (off : Int) (s : State) : State :=
  if r < 4 ∧ ¬ s.refValid r ∧ s.qualified r then
    let s := post 0x0204 r (a1 r ++ a1 0) (setT (fun x => { x with valid := lset x.valid r true }) s)
    match s.bestRef with
    | none => s
    | some b =>
      if b = r ∧ (¬ s.t.lock ∨ s.t.revert) then relock r off s
      else if ¬ s.t.lock then relockFree b s
      else s
  else s

def execRefValid (t r : Nat) (offset : Int) (s : State) : Host.Outcome State Fault Refusal :=
  .next (refBecomesValid r offset (advance t s))

/-- FREQ_CHECKPOINT (R419): the mean frequency of the last 10 s, kept at the end of a whole second through which the selected reference was
locked. -/
def checkpoint (mean : Int) (s : State) : State :=
  let second := s.t.now / secU * secU
  let fresh : Bool := match s.t.marks.getLast? with
    | some x => decide (x.1 < second)
    | none => true
  if s.t.lock ∧ s.t.lockAt + secU ≤ second ∧ fresh then
    setFreq mean (setT (fun x => { x with marks := (x.marks ++ [(x.now, s.clampFreq mean)]).drop (x.marks.length + 1 - 16) }) s)
  else s

def execFreqCheckpoint (t : Nat) (mean : Int) (s : State) : Host.Outcome State Fault Refusal :=
  .next (checkpoint mean (advance t s))

/-- PTP_ANNOUNCE_TIMEOUT (R410, R412): no Announce for three intervals. An Announce stamped at the deadline is in time
(R422). -/
def announceTimeout (s : State) : State :=
  match s.t.lastAnnounce with
  | none => s
  | some a =>
    if a + 3 * s.announceInterval < s.t.now then
      let s := setT (fun x => { x with lastAnnounce := none, ptpState := if x.masterCap then 2 else 1, servoSince := none,
                                       parent := 0, dataset := [] }) s
      markInvalid 0 .announce s
    else s

def execPtpAnnounceTimeout (t : Nat) (s : State) : Host.Outcome State Fault Refusal := .next (announceTimeout (advance t s))

end Sys2Proof.Machine
end

