-- ==== Sys2Proof/Machine/Dispatch.lean ====
section
/-!
DEFINITION. Sys2Proof/Machine/Dispatch.lean: the meaning of every command, one arm per row of spec/opcode_table.json.
-/
namespace Sys2Proof.Machine

def exec (i : Instr) (s : State) : Host.Outcome State Fault Refusal :=
  match i with
  | .sysNop c => Sys2Proof.Machine.execSysNop c s
  | .sysInfo c => Sys2Proof.Machine.execSysInfo c s
  | .modeSet c => Sys2Proof.Machine.execModeSet c s
  | .modeQuery c => Sys2Proof.Machine.execModeQuery c s
  | .rateSet c => Sys2Proof.Machine.execRateSet c s
  | .cmdAbort c => Sys2Proof.Machine.execCmdAbort c s
  | .commandReservedOpcode c opcode => Sys2Proof.Machine.execCommandReservedOpcode c opcode s
  | .budgetQuery c => Sys2Proof.Machine.execBudgetQuery c s
  | .budgetSet c => Sys2Proof.Machine.execBudgetSet c s
  | .budgetRestore c => Sys2Proof.Machine.execBudgetRestore c s
  | .objQuery c => Sys2Proof.Machine.execObjQuery c s
  | .objGlide c => Sys2Proof.Machine.execObjGlide c s
  | .objReset c => Sys2Proof.Machine.execObjReset c s
  | .objFlush c => Sys2Proof.Machine.execObjFlush c s
  | .layoutLoad c => Sys2Proof.Machine.execLayoutLoad c s
  | .layoutSwap c => Sys2Proof.Machine.execLayoutSwap c s
  | .layoutQuery c => Sys2Proof.Machine.execLayoutQuery c s
  | .soundSpeedSet c => Sys2Proof.Machine.execSoundSpeedSet c s
  | .geomProbe c => Sys2Proof.Machine.execGeomProbe c s
  | .loomCeilSet c => Sys2Proof.Machine.execLoomCeilSet c s
  | .loomCeilQuery c => Sys2Proof.Machine.execLoomCeilQuery c s
  | .loomXpDump c => Sys2Proof.Machine.execLoomXpDump c s
  | .reedOutCfg c => Sys2Proof.Machine.execReedOutCfg c s
  | .reedBankLoad c => Sys2Proof.Machine.execReedBankLoad c s
  | .reedBankCopy c => Sys2Proof.Machine.execReedBankCopy c s
  | .reedOutLoad c => Sys2Proof.Machine.execReedOutLoad c s
  | .reedBankSwap c => Sys2Proof.Machine.execReedBankSwap c s
  | .reedBankQuery c => Sys2Proof.Machine.execReedBankQuery c s
  | .reedMeasRun c => Sys2Proof.Machine.execReedMeasRun c s
  | .reedMeasAbort c => Sys2Proof.Machine.execReedMeasAbort c s
  | .routeLoad c => Sys2Proof.Machine.execRouteLoad c s
  | .routeSwap c => Sys2Proof.Machine.execRouteSwap c s
  | .routeQuery c => Sys2Proof.Machine.execRouteQuery c s
  | .infiltSet c => Sys2Proof.Machine.execInfiltSet c s
  | .routeAbort c => Sys2Proof.Machine.execRouteAbort c s
  | .fchPdmSet c => Sys2Proof.Machine.execFchPdmSet c s
  | .fchRsSet c => Sys2Proof.Machine.execFchRsSet c s
  | .fchBankLoad c => Sys2Proof.Machine.execFchBankLoad c s
  | .fchBankSwap c => Sys2Proof.Machine.execFchBankSwap c s
  | .fchBankQuery c => Sys2Proof.Machine.execFchBankQuery c s
  | .fchSyncReset c => Sys2Proof.Machine.execFchSyncReset c s
  | .fchStimSet c => Sys2Proof.Machine.execFchStimSet c s
  | .batLoad c => Sys2Proof.Machine.execBatLoad c s
  | .batStart c => Sys2Proof.Machine.execBatStart c s
  | .batStop c => Sys2Proof.Machine.execBatStop c s
  | .batQuery c => Sys2Proof.Machine.execBatQuery c s
  | .batCkptRead c => Sys2Proof.Machine.execBatCkptRead c s
  | .aesCfg c => Sys2Proof.Machine.execAesCfg c s
  | .tdmCfg c => Sys2Proof.Machine.execTdmCfg c s
  | .groupSet c => Sys2Proof.Machine.execGroupSet c s
  | .aesCsSet c => Sys2Proof.Machine.execAesCsSet c s
  | .aesUserSet c => Sys2Proof.Machine.execAesUserSet c s
  | .aesUserGet c => Sys2Proof.Machine.execAesUserGet c s
  | .macCfg c => Sys2Proof.Machine.execMacCfg c s
  | .gateLoad c => Sys2Proof.Machine.execGateLoad c s
  | .gateSwap c => Sys2Proof.Machine.execGateSwap c s
  | .strmSet c => Sys2Proof.Machine.execStrmSet c s
  | .strmQuery c => Sys2Proof.Machine.execStrmQuery c s
  | .mgCfg c => Sys2Proof.Machine.execMgCfg c s
  | .wakeSet c => Sys2Proof.Machine.execWakeSet c s
  | .mcastSet c => Sys2Proof.Machine.execMcastSet c s
  | .timeCfg c => Sys2Proof.Machine.execTimeCfg c s
  | .timeQuery c => Sys2Proof.Machine.execTimeQuery c s
  | .timeSet c => Sys2Proof.Machine.execTimeSet c s
  | .trigArm c => Sys2Proof.Machine.execTrigArm c s
  | .trigDisarm c => Sys2Proof.Machine.execTrigDisarm c s
  | .timeCorrSet c => Sys2Proof.Machine.execTimeCorrSet c s
  | .twinCfg c => Sys2Proof.Machine.execTwinCfg c s
  | .twinQuery c => Sys2Proof.Machine.execTwinQuery c s
  | .twinRoleSwap c => Sys2Proof.Machine.execTwinRoleSwap c s
  | .claimQuery c => Sys2Proof.Machine.execClaimQuery c s
  | .twinResync c => Sys2Proof.Machine.execTwinResync c s
  | .ldgQuery c => Sys2Proof.Machine.execLdgQuery c s
  | .ldgSetSave c => Sys2Proof.Machine.execLdgSetSave c s
  | .ldgSetRecall c => Sys2Proof.Machine.execLdgSetRecall c s
  | .ldgSetList c => Sys2Proof.Machine.execLdgSetList c s
  | .ldgRecordWrite c => Sys2Proof.Machine.execLdgRecordWrite c s
  | .ldgRecordRead c => Sys2Proof.Machine.execLdgRecordRead c s
  | .ldgErase c => Sys2Proof.Machine.execLdgErase c s
  | .ldgCounters c => Sys2Proof.Machine.execLdgCounters c s
  | .evrRead c => Sys2Proof.Machine.execEvrRead c s
  | .evrClear c => Sys2Proof.Machine.execEvrClear c s
  | .evrArchive c => Sys2Proof.Machine.execEvrArchive c s
  | .evrArchiveRead c => Sys2Proof.Machine.execEvrArchiveRead c s
  | .bobQuery c => Sys2Proof.Machine.execBobQuery c s
  | .traceSet c => Sys2Proof.Machine.execTraceSet c s
  | .xbrCfg c => Sys2Proof.Machine.execXbrCfg c s
  | .pwrQuery c => Sys2Proof.Machine.execPwrQuery c s
  | .railCfg c => Sys2Proof.Machine.execRailCfg c s
  | .thermSet c => Sys2Proof.Machine.execThermSet c s
  | .avsSet c => Sys2Proof.Machine.execAvsSet c s
  | .fwWrite c => Sys2Proof.Machine.execFwWrite c s
  | .fwVerify c => Sys2Proof.Machine.execFwVerify c s
  | .fwActivate c => Sys2Proof.Machine.execFwActivate c s
  | .objectUpdateRecord t q rec => Sys2Proof.Machine.execObjectUpdateRecord t q rec s
  | .objectUpdateRelease t q => Sys2Proof.Machine.execObjectUpdateRelease t q s
  | .registerWrite t m off v => Sys2Proof.Machine.execRegisterWrite t m off v s
  | .registerLowHalfRead t m off => Sys2Proof.Machine.execRegisterLowHalfRead t m off s
  | .registerLowHalfWrite t m off v => Sys2Proof.Machine.execRegisterLowHalfWrite t m off v s
  | .registerHighHalfWrite t m off v => Sys2Proof.Machine.execRegisterHighHalfWrite t m off v s
  | .rcFieldRead t m off => Sys2Proof.Machine.execRcFieldRead t m off s
  | .macMgWakeWrite t m v => Sys2Proof.Machine.execMacMgWakeWrite t m v s
  | .sysSlackLastRead t m => Sys2Proof.Machine.execSysSlackLastRead t m s
  | .loomXpSelWrite t m v => Sys2Proof.Machine.execLoomXpSelWrite t m v s
  | .reedOutSelWrite t m v => Sys2Proof.Machine.execReedOutSelWrite t m v s
  | .hedSrcSelWrite t m v => Sys2Proof.Machine.execHedSrcSelWrite t m v s
  | .hedRouteSelWrite t m v => Sys2Proof.Machine.execHedRouteSelWrite t m v s
  | .fchRsSelWrite t m v => Sys2Proof.Machine.execFchRsSelWrite t m v s
  | .aesCsSelWrite t m v => Sys2Proof.Machine.execAesCsSelWrite t m v s
  | .macStrmSelWrite t m v => Sys2Proof.Machine.execMacStrmSelWrite t m v s
  | .timeCapLoRead t m k => Sys2Proof.Machine.execTimeCapLoRead t m k s
  | .mbxDataWrite t k hi v => Sys2Proof.Machine.execMbxDataWrite t k hi v s
  | .mbxDataRead t k hi => Sys2Proof.Machine.execMbxDataRead t k hi s
  | .hostNoticeService t k msg => Sys2Proof.Machine.execHostNoticeService t k msg s
  | .hifRingCfgWrite t m q v => Sys2Proof.Machine.execHifRingCfgWrite t m q v s
  | .doorbellWrite t off width v => Sys2Proof.Machine.execDoorbellWrite t off width v s
  | .bar0BadAccess t off width => Sys2Proof.Machine.execBar0BadAccess t off width s
  | .bar2Write t off bytes => Sys2Proof.Machine.execBar2Write t off bytes s
  | .bobDbWrite t m ch v cfg => Sys2Proof.Machine.execBobDbWrite t m ch v cfg s
  | .bobDescComplete t ch data poison => Sys2Proof.Machine.execBobDescComplete t ch data poison s
  | .semaphoreRead t m k => Sys2Proof.Machine.execSemaphoreRead t m k s
  | .semaphoreWrite t m k v => Sys2Proof.Machine.execSemaphoreWrite t m k v s
  | .onchipMailboxPost t m k v => Sys2Proof.Machine.execOnchipMailboxPost t m k v s
  | .onchipMailboxRead t m k => Sys2Proof.Machine.execOnchipMailboxRead t m k s
  | .memInjWrite t m v => Sys2Proof.Machine.execMemInjWrite t m v s
  | .xbrLatchWrite t m k v => Sys2Proof.Machine.execXbrLatchWrite t m k v s
  | .crossbarTransfer t bursts => Sys2Proof.Machine.execCrossbarTransfer t bursts s
  | .aonPowerOn t feeds => Sys2Proof.Machine.execAonPowerOn t feeds s
  | .resetNAssert t => Sys2Proof.Machine.execResetNAssert t s
  | .resetNRelease t good => Sys2Proof.Machine.execResetNRelease t good s
  | .vaonFeedLoss t b => Sys2Proof.Machine.execVaonFeedLoss t b s
  | .vaonFeedRestore t b => Sys2Proof.Machine.execVaonFeedRestore t b s
  | .pfailFall t => Sys2Proof.Machine.execPfailFall t s
  | .pfailRise t => Sys2Proof.Machine.execPfailRise t s
  | .flushComplete t => Sys2Proof.Machine.execFlushComplete t s
  | .railEnableDelay t k => Sys2Proof.Machine.execRailEnableDelay t k s
  | .railTimeout t k => Sys2Proof.Machine.execRailTimeout t k s
  | .railRetry t => Sys2Proof.Machine.execRailRetry t s
  | .pwrGoodFall t k => Sys2Proof.Machine.execPwrGoodFall t k s
  | .railRestart t => Sys2Proof.Machine.execRailRestart t s
  | .coreDomainRelease t straps => Sys2Proof.Machine.execCoreDomainRelease t straps s
  | .fwReadyRise t => Sys2Proof.Machine.execFwReadyRise t s
  | .controlPlaneStop t => Sys2Proof.Machine.execControlPlaneStop t s
  | .trialConfirm t => Sys2Proof.Machine.execTrialConfirm t s
  | .trialFail t => Sys2Proof.Machine.execTrialFail t s
  | .hostSideReset t kind => Sys2Proof.Machine.execHostSideReset t kind s
  | .pcieLinkReturn t width speed => Sys2Proof.Machine.execPcieLinkReturn t width speed s
  | .d3hotEntry t => Sys2Proof.Machine.execD3hotEntry t s
  | .d3hotExit t => Sys2Proof.Machine.execD3hotExit t s
  | .dormantEntryComplete t => Sys2Proof.Machine.execDormantEntryComplete t s
  | .wakeEvent t cause => Sys2Proof.Machine.execWakeEvent t cause s
  | .dataPlaneStart t why haq => Sys2Proof.Machine.execDataPlaneStart t why haq s
  | .modeTransitionEnd t => Sys2Proof.Machine.execModeTransitionEnd t s
  | .tempSample t temps => Sys2Proof.Machine.execTempSample t temps s
  | .thermalShed t => Sys2Proof.Machine.execThermalShed t s
  | .thermalHoldEnd t => Sys2Proof.Machine.execThermalHoldEnd t s
  | .pmbusPoll t reads => Sys2Proof.Machine.execPmbusPoll t reads s
  | .regulatorFail t k => Sys2Proof.Machine.execRegulatorFail t k s
  | .overcurrentShed t => Sys2Proof.Machine.execOvercurrentShed t s
  | .pickStartMark t haq => Sys2Proof.Machine.execPickStartMark t haq s
  | .engineBlockStart t e pdm errs => Sys2Proof.Machine.execEngineBlockStart t e pdm errs s
  | .zcDeadline t idx => Sys2Proof.Machine.execZcDeadline t idx s
  | .engineFinish t e steps => Sys2Proof.Machine.execEngineFinish t e steps s
  | .avsWindow t => Sys2Proof.Machine.execAvsWindow t s
  | .vcoreHoldExpiry t => Sys2Proof.Machine.execVcoreHoldExpiry t s
  | .sheddingStep t => Sys2Proof.Machine.execSheddingStep t s
  | .battenInstanceEntry t l errs => Sys2Proof.Machine.execBattenInstanceEntry t l errs s
  | .battenStep t l errs => Sys2Proof.Machine.execBattenStep t l errs s
  | .checkpointDone t l errs => Sys2Proof.Machine.execCheckpointDone t l errs s
  | .battenSpareMove t l errs => Sys2Proof.Machine.execBattenSpareMove t l errs s
  | .imageLoadCommit t set => Sys2Proof.Machine.execImageLoadCommit t set s
  | .measCaptureEnd t => Sys2Proof.Machine.execMeasCaptureEnd t s
  | .measRunComplete t => Sys2Proof.Machine.execMeasRunComplete t s
  | .stimulusEnd t => Sys2Proof.Machine.execStimulusEnd t s
  | .fchSettleEnd t => Sys2Proof.Machine.execFchSettleEnd t s
  | .pdmStuck t mic => Sys2Proof.Machine.execPdmStuck t mic s
  | .pdmUnstuck t mic => Sys2Proof.Machine.execPdmUnstuck t mic s
  | .triggerFire t k => Sys2Proof.Machine.execTriggerFire t k s
  | .groupFirstRealFrame t g => Sys2Proof.Machine.execGroupFirstRealFrame t g s
  | .trigEdgeCapture t pin falling => Sys2Proof.Machine.execTrigEdgeCapture t pin falling s
  | .ppsInEdge t => Sys2Proof.Machine.execPpsInEdge t s
  | .refInvalid t r reason => Sys2Proof.Machine.execRefInvalid t r reason s
  | .refValid t r offset => Sys2Proof.Machine.execRefValid t r offset s
  | .freqCheckpoint t mean => Sys2Proof.Machine.execFreqCheckpoint t mean s
  | .ptpMessageRx t port stamp msg => Sys2Proof.Machine.execPtpMessageRx t port stamp msg s
  | .ptpAnnounceTimeout t => Sys2Proof.Machine.execPtpAnnounceTimeout t s
  | .ptpPortReturn t => Sys2Proof.Machine.execPtpPortReturn t s
  | .portInputFrame t p slots subs => Sys2Proof.Machine.execPortInputFrame t p slots subs s
  | .aesRxLock t p => Sys2Proof.Machine.execAesRxLock t p s
  | .aesRxUnlock t p => Sys2Proof.Machine.execAesRxUnlock t p s
  | .aesNonaudioUnmute t p => Sys2Proof.Machine.execAesNonaudioUnmute t p s
  | .portOutputFrame t p => Sys2Proof.Machine.execPortOutputFrame t p s
  | .aesTxLeadEnd t q => Sys2Proof.Machine.execAesTxLeadEnd t q s
  | .tdmSlaveUnrelated t p dir => Sys2Proof.Machine.execTdmSlaveUnrelated t p dir s
  | .tdmSlaveResume t p dir => Sys2Proof.Machine.execTdmSlaveResume t p dir s
  | .mediaFrameRx t p f => Sys2Proof.Machine.execMediaFrameRx t p f s
  | .rtpPacketRx t => Sys2Proof.Machine.execRtpPacketRx t s
  | .streamClaimExpiry t k => Sys2Proof.Machine.execStreamClaimExpiry t k s
  | .mediaLinkDown t p => Sys2Proof.Machine.execMediaLinkDown t p s
  | .mediaLinkUp t p => Sys2Proof.Machine.execMediaLinkUp t p s
  | .gateEntryChange t p => Sys2Proof.Machine.execGateEntryChange t p s
  | .mediaFrameTxStart t p => Sys2Proof.Machine.execMediaFrameTxStart t p s
  | .streamTxLate t p => Sys2Proof.Machine.execStreamTxLate t p s
  | .mgFrameRx t frame descs => Sys2Proof.Machine.execMgFrameRx t frame descs s
  | .mgFrameSent t desc data => Sys2Proof.Machine.execMgFrameSent t desc data s
  | .mgTrafficWindow t => Sys2Proof.Machine.execMgTrafficWindow t s
  | .mgAutonegDone t speed link partner1000 => Sys2Proof.Machine.execMgAutonegDone t speed link partner1000 s
  | .mgLpiEnter t => Sys2Proof.Machine.execMgLpiEnter t s
  | .selvedgeSegmentRx t seq ok => Sys2Proof.Machine.execSelvedgeSegmentRx t seq ok s
  | .heartbeatFrameRx t hb => Sys2Proof.Machine.execHeartbeatFrameRx t hb s
  | .stateFrameRx t seq frame => Sys2Proof.Machine.execStateFrameRx t seq frame s
  | .stateFrameMissed t p => Sys2Proof.Machine.execStateFrameMissed t p s
  | .selvedgeLaneDown t lane => Sys2Proof.Machine.execSelvedgeLaneDown t lane s
  | .selvedgeLaneUp t lane => Sys2Proof.Machine.execSelvedgeLaneUp t lane s
  | .hbInEdge t => Sys2Proof.Machine.execHbInEdge t s
  | .heartbeatDue t => Sys2Proof.Machine.execHeartbeatDue t s
  | .heartbeatMissing t path => Sys2Proof.Machine.execHeartbeatMissing t path s
  | .twinListenEnd t peerStrap => Sys2Proof.Machine.execTwinListenEnd t peerStrap s
  | .claimPeerChange t high => Sys2Proof.Machine.execClaimPeerChange t high s
  | .claimOwnRise t => Sys2Proof.Machine.execClaimOwnRise t s
  | .claimConflict t => Sys2Proof.Machine.execClaimConflict t s
  | .shuttlePost t slot level mp flow arg => Sys2Proof.Machine.execShuttlePost t slot level mp flow arg s
  | .shuttleThreadEnd t ex => Sys2Proof.Machine.execShuttleThreadEnd t ex s
  | .shuttlePreemptPoint t ex => Sys2Proof.Machine.execShuttlePreemptPoint t ex s
  | .blockReset t b cuts => Sys2Proof.Machine.execBlockReset t b cuts s
  | .controlCoreGate t k => Sys2Proof.Machine.execControlCoreGate t k s
  | .eventPost t code source args => Sys2Proof.Machine.execEventPost t code source args s
  | .recordCloseTimer t => Sys2Proof.Machine.execRecordCloseTimer t s
  | .recorderFifoDrain t => Sys2Proof.Machine.execRecorderFifoDrain t s
  | .archiveBatch t => Sys2Proof.Machine.execArchiveBatch t s
  | .flashOpComplete t res => Sys2Proof.Machine.execFlashOpComplete t res s
  | .ledgerMountComplete t found => Sys2Proof.Machine.execLedgerMountComplete t found s
  | .ledgerRebuildComplete t => Sys2Proof.Machine.execLedgerRebuildComplete t s
  | .ledgerScrub t => Sys2Proof.Machine.execLedgerScrub t s
  | .countersSave t => Sys2Proof.Machine.execCountersSave t s
  | .nonceExpiry t => Sys2Proof.Machine.execNonceExpiry t s
  | .authHoldEnd t => Sys2Proof.Machine.execAuthHoldEnd t s
  | .cplIrqTimer t => Sys2Proof.Machine.execCplIrqTimer t s
  | .hostWdogExpiry t => Sys2Proof.Machine.execHostWdogExpiry t s
  | .syncInterval t => Sys2Proof.Machine.execSyncInterval t s
  | .controlStall t => Sys2Proof.Machine.execControlStall t s

end Sys2Proof.Machine
end

