-- ==== Sys2Proof/Safety.lean ====
section
/-!
DEFINITION. Sys2Proof/Safety.lean: the words that statements about the block use: the invariant of the bounded buffers, and how firmware
accepts a host command.
-/
namespace Sys2Proof.Machine

/-! ### The invariant -/

/-- Indices of every enabled ring lie below its depth (14_host_interface R442–R444). -/
def RingsOk (rings : NMap Ring) : Prop :=
  ∀ q, (nget Ring.off rings q).en = true →
    (nget Ring.off rings q).head < (nget Ring.off rings q).depth ∧ (nget Ring.off rings q).tail < (nget Ring.off rings q).depth

/-- A mailbox holds at most 4 notices (R465, R466). -/
def BoxesOk (boxes : NMap (List DWord)) : Prop := ∀ k, (nget [] boxes k).length ≤ 4

/-- The recorder's RAM holds its records in order, and none but the newest 4,096 (17_ledger_recorder R570). -/
def LogOk (ram : NMap EvRec) (next : Nat) : Prop :=
  NMap.sorted ram = true ∧ ∀ x ∈ ram, x.1 < next ∧ next ≤ x.1 + 4096

/-- What every command keeps: host memory in canonical form, ring indices in range, at most 256 held commands (14_host_interface R454), at
most 4 notices in a mailbox, at most 16 staged events (17_ledger_recorder R572), and the recorder's window. -/
def State.Sound (s : State) : Prop :=
  Memory.wf s.h.mem = true ∧ RingsOk s.h.rings ∧ s.h.holdQ.length ≤ 256 ∧ BoxesOk s.h.mbx ∧ s.ev.fifo.length ≤ 16 ∧
    LogOk s.ev.ram s.ev.nextSeq

/-! ### Host commands (14_host_interface R449–R455) -/

/-- The host command that a constructor carries, with its opcode and its treatment in Maintain; none for the rows that are no host command
and for COMMAND_RESERVED_OPCODE. -/
def hostForm : Instr → Option (HostCmd × CmdInfo)
  | .sysNop c => some (c, sysNopInfo)
  | .sysInfo c => some (c, sysInfoInfo)
  | .modeSet c => some (c, modeSetInfo)
  | .modeQuery c => some (c, modeQueryInfo)
  | .rateSet c => some (c, rateSetInfo)
  | .cmdAbort c => some (c, cmdAbortInfo)
  | .budgetQuery c => some (c, budgetQueryInfo)
  | .budgetSet c => some (c, budgetSetInfo)
  | .budgetRestore c => some (c, budgetRestoreInfo)
  | .objQuery c => some (c, objQueryInfo)
  | .objGlide c => some (c, objGlideInfo)
  | .objReset c => some (c, objResetInfo)
  | .objFlush c => some (c, objFlushInfo)
  | .layoutLoad c => some (c, layoutLoadInfo)
  | .layoutSwap c => some (c, layoutSwapInfo)
  | .layoutQuery c => some (c, layoutQueryInfo)
  | .soundSpeedSet c => some (c, soundSpeedSetInfo)
  | .geomProbe c => some (c, geomProbeInfo)
  | .loomCeilSet c => some (c, loomCeilSetInfo)
  | .loomCeilQuery c => some (c, loomCeilQueryInfo)
  | .loomXpDump c => some (c, loomXpDumpInfo)
  | .reedOutCfg c => some (c, reedOutCfgInfo)
  | .reedBankLoad c => some (c, reedBankLoadInfo)
  | .reedBankCopy c => some (c, reedBankCopyInfo)
  | .reedOutLoad c => some (c, reedOutLoadInfo)
  | .reedBankSwap c => some (c, reedBankSwapInfo)
  | .reedBankQuery c => some (c, reedBankQueryInfo)
  | .reedMeasRun c => some (c, reedMeasRunInfo)
  | .reedMeasAbort c => some (c, reedMeasAbortInfo)
  | .routeLoad c => some (c, routeLoadInfo)
  | .routeSwap c => some (c, routeSwapInfo)
  | .routeQuery c => some (c, routeQueryInfo)
  | .infiltSet c => some (c, infiltSetInfo)
  | .routeAbort c => some (c, routeAbortInfo)
  | .fchPdmSet c => some (c, fchPdmSetInfo)
  | .fchRsSet c => some (c, fchRsSetInfo)
  | .fchBankLoad c => some (c, fchBankLoadInfo)
  | .fchBankSwap c => some (c, fchBankSwapInfo)
  | .fchBankQuery c => some (c, fchBankQueryInfo)
  | .fchSyncReset c => some (c, fchSyncResetInfo)
  | .fchStimSet c => some (c, fchStimSetInfo)
  | .batLoad c => some (c, batLoadInfo)
  | .batStart c => some (c, batStartInfo)
  | .batStop c => some (c, batStopInfo)
  | .batQuery c => some (c, batQueryInfo)
  | .batCkptRead c => some (c, batCkptReadInfo)
  | .aesCfg c => some (c, aesCfgInfo)
  | .tdmCfg c => some (c, tdmCfgInfo)
  | .groupSet c => some (c, groupSetInfo)
  | .aesCsSet c => some (c, aesCsSetInfo)
  | .aesUserSet c => some (c, aesUserSetInfo)
  | .aesUserGet c => some (c, aesUserGetInfo)
  | .macCfg c => some (c, macCfgInfo)
  | .gateLoad c => some (c, gateLoadInfo)
  | .gateSwap c => some (c, gateSwapInfo)
  | .strmSet c => some (c, strmSetInfo)
  | .strmQuery c => some (c, strmQueryInfo)
  | .mgCfg c => some (c, mgCfgInfo)
  | .wakeSet c => some (c, wakeSetInfo)
  | .mcastSet c => some (c, mcastSetInfo)
  | .timeCfg c => some (c, timeCfgInfo)
  | .timeQuery c => some (c, timeQueryInfo)
  | .timeSet c => some (c, timeSetInfo)
  | .trigArm c => some (c, trigArmInfo)
  | .trigDisarm c => some (c, trigDisarmInfo)
  | .timeCorrSet c => some (c, timeCorrSetInfo)
  | .twinCfg c => some (c, twinCfgInfo)
  | .twinQuery c => some (c, twinQueryInfo)
  | .twinRoleSwap c => some (c, twinRoleSwapInfo)
  | .claimQuery c => some (c, claimQueryInfo)
  | .twinResync c => some (c, twinResyncInfo)
  | .ldgQuery c => some (c, ldgQueryInfo)
  | .ldgSetSave c => some (c, ldgSetSaveInfo)
  | .ldgSetRecall c => some (c, ldgSetRecallInfo)
  | .ldgSetList c => some (c, ldgSetListInfo)
  | .ldgRecordWrite c => some (c, ldgRecordWriteInfo)
  | .ldgRecordRead c => some (c, ldgRecordReadInfo)
  | .ldgErase c => some (c, ldgEraseInfo)
  | .ldgCounters c => some (c, ldgCountersInfo)
  | .evrRead c => some (c, evrReadInfo)
  | .evrClear c => some (c, evrClearInfo)
  | .evrArchive c => some (c, evrArchiveInfo)
  | .evrArchiveRead c => some (c, evrArchiveReadInfo)
  | .bobQuery c => some (c, bobQueryInfo)
  | .traceSet c => some (c, traceSetInfo)
  | .xbrCfg c => some (c, xbrCfgInfo)
  | .pwrQuery c => some (c, pwrQueryInfo)
  | .railCfg c => some (c, railCfgInfo)
  | .thermSet c => some (c, thermSetInfo)
  | .avsSet c => some (c, avsSetInfo)
  | .fwWrite c => some (c, fwWriteInfo)
  | .fwVerify c => some (c, fwVerifyInfo)
  | .fwActivate c => some (c, fwActivateInfo)
  | _ => none

/-- The state in which firmware processes a command it has taken: device time has run on, the slot is free, and the command is
accepted. -/
def State.taken (s : State) (c : HostCmd) (info : CmdInfo) : State :=
  let u := advance c.t s
  accepted (newWaiter c info.opcode u) (popRing c.ring { u with h := { u.h with nextId := u.h.nextId + 1 } })

/-- The command's own entry among the accepted ones. -/
def State.waiterOf (s : State) (c : HostCmd) (info : CmdInfo) : Waiter := newWaiter c info.opcode s

/-- Firmware takes the command now (R448, R450, R454), at the time the command carries. -/
def State.takesNow (s : State) (c : HostCmd) (info : CmdInfo) : Bool := (advance c.t s).takes c info

/-- The command is past its acceptance deadline as it is taken (R451). -/
def State.late (s : State) (c : HostCmd) : Bool :=
  overdue c ((advance c.t s).headStamp c.ring) (advance c.t s).t.now

/-- Firmware, or in Maintain the management processor, takes the command and accepts it: nothing holds the ring back, the header has no
reserved bit, the acceptance deadline has not passed, and Maintain serves the command or is not in force (R448, R450, R451, R454). -/
def State.accepts (s : State) (c : HostCmd) (info : CmdInfo) : Bool :=
  s.takesNow c info && (!s.m.maint || info.inMaintain == .serve) && !badHeader c && !s.late c

/-- The command ends: firmware has carried out `f` on the state in which it took the command, and the completion `e` follows. -/
def State.ended (s : State) (c : HostCmd) (info : CmdInfo) (e : Ending) (f : State → State) : State :=
  complete (s.waiterOf c info) e (f (s.taken c info))

/-- The command asks for a change: firmware has put it on the list for pick `q` (01_architecture R20). -/
def State.asked (s : State) (c : HostCmd) (info : CmdInfo) (q : Nat) (late : Bool) (chg : Change) : State :=
  pushSched q late (some (s.waiterOf c info)) chg (s.taken c info)

/-- The same where the change has to pass admission: it is on the list, or it ends with REJECTED_BUDGET (02_pick_budget R47, R48). -/
def State.admitted (s : State) (c : HostCmd) (info : CmdInfo) (q : Nat) (late : Bool) (chg : Change) : State :=
  if (s.asked c info q late chg).inBudget q then s.asked c info q late chg else s.ended c info (.of stBudget) id

/-- The command has begun to read its image into the inactive copy of a set; it is accepted when the image has come (14_host_interface R439). -/
def State.reads (s : State) (c : HostCmd) (info : CmdInfo) (set : ParamSet) (arg : Nat) : State :=
  let u := s.taken c info
  let w := s.waiterOf c info
  { u with h := { u.h with accepted := u.h.accepted.filter (fun x => x.id != w.id),
                           loads := u.h.loads ++ [{ set := set, w := w, img := c.data, tbl := c.tbl, arg := arg }] } }

end Sys2Proof.Machine
end

