-- ==== Sys2Proof/Certificates/Slice0/Obligations.lean ====
section
/-!
DEFINITION. Sys2Proof/Certificates/Slice0/Obligations.lean: the statements about the block that are to be proved. `s.accepts c info` is when
a host command is taken and accepted, `s.ended c info e f` the state in which it has done `f` and completed with `e` (Safety.lean).
-/
open Sys2Proof Sys2Proof.Machine

/-- For every state whose queue has a command c in front, step answers exactly what exec answers for c on the state with the rest of the
queue. On an empty queue it answers the same state: this idling is the model's choice (log entry 19). (01_architecture.md,
14_host_interface.md) -/
def Obligations.StepRunsFrontCommand : Prop :=
  (∀ (s : State) (c : Instr) (rest : List Instr), s.pending = c :: rest → step s = exec c (s.withPending rest)) ∧
    (∀ s : State, s.pending = [] → step s = .next s)

/-- For every command c and every state s, exec c s answers a next state: an error is a status, a count or an event, and no fault and no
refusal is ever raised. If s is Sound, the commands waiting in that next state are those waiting in s, in the same order, and it is
Sound. (01_architecture.md, 14_host_interface.md) -/
def Obligations.CommandsAnswerAndLeaveQueue : Prop :=
  ∀ (c : Instr) (s : State), ∃ t, exec c s = .next t ∧ (s.Sound → t.pending = s.pending ∧ t.Sound)

/-- For every state s that is Sound, if step s answers a next state t then t is Sound and its queue is that of s without its front: host
memory is in canonical form, head and tail of every enabled ring lie below its depth, no more than 256 commands are held in Maintain,
no mailbox holds more than 4 notices, no more than 16 events are staged, and the recorder RAM lists its records in rising order of
sequence number, each of them among the newest 4,096. That host memory is kept as a sparse canonical list is the model's own form.
(14_host_interface.md, 17_ledger_recorder.md, 00_scope.md) -/
def Obligations.StepKeepsSound : Prop :=
  ∀ s t : State, s.Sound → step s = .next t → t.Sound ∧ t.pending = s.pending.tail

/-- The reset state satisfies the invariant that every step keeps, and no command waits in it. (14_host_interface.md,
17_ledger_recorder.md) -/
def Obligations.ResetIsSound : Prop :=
  State.reset.Sound ∧ State.reset.pending = []

/-- For every state whose host memory is canonical, when the block writes a run of bytes at address a while the function may master
transactions, which is neither in D3hot nor in L2, byte j reads the i-th byte written where j = a + i lies in the run, and reads as
before everywhere else. In D3hot and in L2 every byte reads as before. The memory is canonical again in each case. (00_scope.md,
14_host_interface.md) -/
def Obligations.HostMemoryReadAfterWrite : Prop :=
  ∀ (s : State) (a j : Nat) (bytes : List Byte), Memory.wf s.h.mem = true →
    (s.h.d3hot = false → s.h.l2 = false → memByte (writeHost a bytes s).h.mem j =
        (if a ≤ j ∧ j < a + bytes.length then lget 0 bytes (j - a) else memByte s.h.mem j)) ∧
      (s.h.d3hot = true ∨ s.h.l2 = true → memByte (writeHost a bytes s).h.mem j = memByte s.h.mem j) ∧
      Memory.wf (writeHost a bytes s).h.mem = true

/-- For each of the 93 host commands of the opcode table: where firmware cannot take it (nothing serves the rings, its ring is stopped or
empty, CQ1 holds a command ahead of CQ0, 64 completions are held, a FENCE still waits, or Maintain's hold queue is full), exec changes
nothing but device time, which has run on to the moment of the command. (R448, R450, R454, 14_host_interface.md) -/
def Obligations.HostCommandsWaitInTheirRing : Prop :=
  ∀ (i : Instr) (c : HostCmd) (info : CmdInfo) (s : State), hostForm i = some (c, info) → s.takesNow c info = false →
    exec i s = .next (advance c.t s)

/-- For each of the 93 host commands, taken by firmware or by Maintain's management processor: a header with a reserved bit set, or TMO
above 60,000, ends it with BAD_PARAM; with a sound header, a TMO that has passed ends it with TIMEOUT. In both cases the command is
only taken, accepted and completed. That a TMO above 60,000 counts as a bad header is the model's reading (log entry 22). (R451, R454,
14_host_interface.md) -/
def Obligations.HostCommandsRejectedBeforeTheirEffect : Prop :=
  ∀ (i : Instr) (c : HostCmd) (info : CmdInfo) (s : State), hostForm i = some (c, info) → s.takesNow c info = true →
    (badHeader c = true → exec i s = .next (s.ended c info (.of stParam) id)) ∧
      (badHeader c = false → s.late c = true → exec i s = .next (s.ended c info (.of stTimeout) id))

/-- For each of the 93 host commands, taken by the management processor in Maintain with a sound header and in time: one that its chapter
refuses in Maintain completes with NOT_IN_MODE and no other effect; one to be held leaves its ring, joins the end of the hold queue
with its doorbell stamp, and writes no completion; nothing else changes. (R454, 14_host_interface.md, 18_power_modes.md) -/
def Obligations.MaintainRefusesOrHolds : Prop :=
  ∀ (i : Instr) (c : HostCmd) (info : CmdInfo) (s : State), hostForm i = some (c, info) → s.takesNow c info = true → s.m.maint = true →
    badHeader c = false → s.late c = false →
    (info.inMaintain = .refuse → exec i s = .next (s.ended c info (.of stMode) id)) ∧
      (info.inMaintain = .hold →
        exec i s = .next (
          let u := advance c.t s
          let v := popRing c.ring { u with h := { u.h with nextId := u.h.nextId + 1 } }
          { v with h := { v.h with holdQ := v.h.holdQ ++ [{ i := i, stamp := u.headStamp c.ring, w := s.waiterOf c info }] } }))

/-- An opcode byte is known exactly when some host command of the model carries it. COMMAND_RESERVED_OPCODE with an opcode outside the
table, or with a bad header, when it is taken and not past its deadline, completes with BAD_PARAM and has no other effect. Gives the
next state that exec answers for COMMAND_RESERVED_OPCODE. (R454, 14_host_interface.md) -/
def Obligations.OpcodesAreTheTablesAndOthersBadParam : Prop :=
  (∀ o < 256, knownOpcode o = true ↔ ∃ i c info, hostForm i = some (c, info) ∧ info.opcode = o) ∧
    ∀ (c : HostCmd) (op : Nat) (s : State), s.takesNow c ⟨op % 256, .serve⟩ = true → s.late c = false →
      (knownOpcode (op % 256) = false ∨ badHeader c = true) →
      exec (.commandReservedOpcode c op) s = .next (s.ended c ⟨op % 256, .serve⟩ (.of stParam) id)

/-- When an accepted command completes, no completion is held and CPL0 is on with room: the 16 bytes TAG, GEN with RING and PHASE, STATUS,
RESULT0, RESULT1, OPCODE, the flags LATE, SUPERSEDED, ABRUPT, and the CQ's head are written at base + 16 x tail; CPL0's producer index
moves on by one; the command leaves the accepted ones. With NOIRQ nothing else changes; without it, the completion is also counted
towards vector 1. In every case, completing changes nothing of the state but, in the host block, the rings, host memory, the held
completions, the accepted commands, the unsignalled count with its time, and the pending and sent interrupt messages. (R446, R452,
R453, R464, 14_host_interface.md) -/
def Obligations.Completions : Prop :=
  (∀ (w : Waiter) (e : Ending) (s : State),
    s.h.accepted.any (fun x => x.id == w.id) = true → s.h.heldCpl = [] → s.ringOn 10 = true → (s.ring 10).room = true →
    let entry : List Byte :=
      leBytes 2 w.tag ++ [BitVec.ofNat 8 (w.gen % 16 + (if w.ring = 1 then 16 else 0) + (if (s.ring 10).phase then 128 else 0))] ++
        [BitVec.ofNat 8 e.status] ++ leBytes 4 e.r0 ++ leBytes 4 e.r1 ++
        [BitVec.ofNat 8 w.opcode, BitVec.ofNat 8 (b2n e.late + 2 * b2n e.superseded + 4 * b2n e.abrupt)] ++
        leBytes 2 ((s.ring (if w.ring = 1 then 1 else 0)).head % 4096)
    let u : State := { s with h := { s.h with
      accepted := s.h.accepted.filter (fun x => x.id != w.id), rings := nset s.h.rings 10 (s.ring 10).pushed,
      mem := memWriteAll s.h.mem (s.ringBase 10 + 16 * (s.ring 10).tail) entry } }
    complete w e s = (if w.noirq then u else countCompletion u)) ∧
    (∀ (w : Waiter) (e : Ending) (s : State),
    let u := complete w e s
    u = { s with h := { s.h with
      rings := u.h.rings, mem := u.h.mem, heldCpl := u.h.heldCpl, accepted := u.h.accepted, unsig := u.h.unsig,
      unsigSince := u.h.unsigSince, msixPend := u.h.msixPend, msixSent := u.h.msixSent } })

/-- For every event: posting it changes nothing of the state but the recorder, the registers EVR_LOST (0x12014) and HIF_EVQ_LOST (0x2018),
and, in the host block, the rings, host memory, the count of events not written with the first of them, and the pending and sent
interrupt messages. (R570, R571, R572, R573, 17_ledger_recorder.md, 14_host_interface.md) -/
def Obligations.EventPostFrame : Prop :=
  ∀ (code inst : Nat) (args : List Byte) (s : State),
    let u := post code inst args s
    u = { s with ev := u.ev, regs := u.regs, h := { s.h with
        rings := u.h.rings, mem := u.h.mem, evLost := u.h.evLost, evLostFirst := u.h.evLostFirst, msixPend := u.h.msixPend,
        msixSent := u.h.msixSent } } ∧
      ∀ off, off ≠ 0x12014 → off ≠ 0x2018 → u.reg off = s.reg off

/-- For every vector v and state: while bit 0 of the vector's control dword is 1, or the function is in D3hot, or the link is in L2,
signalling v only sets its pending bit; otherwise the data dword is written at the vector's message address, the message is counted as
sent, and the pending bit is cleared. In both cases nothing else changes. (R435, R440, R463, 14_host_interface.md) -/
def Obligations.InterruptMessage : Prop :=
  ∀ (v : Nat) (s : State),
    (wbits (s.msixWord (4 * v + 3)) 0 0 = 1 ∨ s.h.d3hot = true ∨ s.h.l2 = true →
        signal v s = { s with h := { s.h with msixPend := nset s.h.msixPend v true } }) ∧
      (wbits (s.msixWord (4 * v + 3)) 0 0 ≠ 1 → s.h.d3hot = false → s.h.l2 = false →
        signal v s = { s with h := { s.h with
          mem := memWriteAll s.h.mem ((s.msixWord (4 * v)).toNat + 2 ^ 32 * (s.msixWord (4 * v + 1)).toNat)
            (leBytes 4 (s.msixWord (4 * v + 2)).toNat),
          msixSent := nmod 0 s.h.msixSent v (· + 1), msixPend := ndel s.h.msixPend v } })

/-- Each of the three, when accepted with its reserved parameter bytes 0: SYS_NOP completes with OK and the pick that device time lies in;
SYS_INFO writes the 64-byte report of R456's table at its 8-byte-aligned address and completes with OK; CMD_ABORT of a command in the
hold queue, or of one still reading its image, takes it off, completes it with ABORTED_RESET and itself with OK; where neither names a
command it completes with STALE_GEN. With a reserved parameter byte set, and the address aligned, each completes with BAD_PARAM.
Maintain serves all three. Gives the next state that exec answers for SYS_NOP, SYS_INFO, CMD_ABORT. (R456) -/
def Obligations.SysCommands : Prop :=
  (∀ (c : HostCmd) (s : State), s.accepts c sysNopInfo = true →
      exec (.sysNop c) s = .next (s.ended c sysNopInfo
        (if parZero c 0 64 then .atPick (pickOf s.fs s.t.pickLen (max s.t.now c.t)) else .of stParam) id)) ∧
    (∀ (c : HostCmd) (s : State), s.accepts c sysInfoInfo = true → par c 0 8 % 8 = 0 →
      (parZero c 8 56 = true → exec (.sysInfo c) s = .next (s.ended c sysInfoInfo (.of stOK) (writeHost (par c 0 8)
        (leBytes 4 sysId ++ leBytes 8 Config.serial.toNat ++
          leBytes 4 (if s.m.recovery then 0 else getLE s.runningImage 4 4) ++ leBytes 1 s.m.slot ++ leBytes 1 s.m.mode.code ++
          leBytes 1 s.t.pickLen ++ leBytes 1 (b2n s.t.rate96) ++ leBytes 1 s.h.epoch ++ zeros 43)))) ∧
      (parZero c 8 56 = false → exec (.sysInfo c) s = .next (s.ended c sysInfoInfo (.of stParam) id))) ∧
    (∀ (c : HostCmd) (s : State), s.accepts c cmdAbortInfo = true →
      (parZero c 3 61 = true → par c 2 1 < 32 →
        (∀ x, (s.taken c cmdAbortInfo).h.holdQ.find? (fun x => abortNames c x.w) = some x →
          exec (.cmdAbort c) s = .next (s.ended c cmdAbortInfo (.of stOK) (fun u => complete x.w (.of stAborted) (accepted x.w
            { u with h := { u.h with holdQ := u.h.holdQ.filter (fun y => y.w.id != x.w.id) } })))) ∧
        ((s.taken c cmdAbortInfo).h.holdQ.find? (fun x => abortNames c x.w) = none →
          (∀ x, (s.taken c cmdAbortInfo).h.loads.find? (fun x => abortNames c x.w) = some x →
            exec (.cmdAbort c) s = .next (s.ended c cmdAbortInfo (.of stOK)
              (fun u => complete x.w (.of stAborted) (accepted x.w (dropLoad u x))))) ∧
          ((s.taken c cmdAbortInfo).h.loads.find? (fun x => abortNames c x.w) = none →
            exec (.cmdAbort c) s = .next (s.ended c cmdAbortInfo (.of stStale) id)))) ∧
      (parZero c 3 61 = false ∨ 32 ≤ par c 2 1 → exec (.cmdAbort c) s = .next (s.ended c cmdAbortInfo (.of stParam) id))) ∧
    sysNopInfo.inMaintain = .serve ∧ sysInfoInfo.inMaintain = .serve ∧ cmdAbortInfo.inMaintain = .serve

/-- MODE_SET accepted with every field in range. During a transition it waits in place of the one that waited, which completes with OK and
SUPERSEDED. With none in progress and the data plane running: Shadow without twin operation, Measure with it, and a pair of modes
outside R605's table complete with NOT_IN_MODE; the present mode completes with OK; a change of the data plane, admitted where it
leaves Pass, is put on the list for its pick and is the transition in progress; entry to Maintain or Dormant is in progress for its
pick. In start-up a target other than Dormant gives the data plane its first pick. The command completes when the transition ends.
Gives the next state that exec answers for MODE_SET. (R605, R606, R617, R604, 18_power_modes.md) -/
def Obligations.ModeSetTransitions : Prop :=
  ∀ (c : HostCmd) (s : State) (m : Mode) (q : Nat) (late : Bool),
    s.accepts c modeSetInfo = true → Mode.ofCode (par c 12 1) = some m → (s.taken c modeSetInfo).planned.named (par c 16 8) ≠ none →
    par c 13 1 ≤ 5 → parZero c 32 32 = true →
    let u := s.taken c modeSetInfo
    let r : ModeReq := { target := m, pick := par c 16 8, resume := par c 13 1, who := some (s.waiterOf c modeSetInfo) }
    (s.changing = true → s.m.held = none → exec (.modeSet c) s = .next { u with m := { u.m with held := some r } }) ∧
      (∀ o, s.changing = true → s.m.held = some o → exec (.modeSet c) s =
        .next (completeOpt o.who { Ending.of stOK with superseded := true } { u with m := { u.m with held := some r } })) ∧
      (s.changing = false → (m = .shadow ∧ s.w.en = false) ∨ (m = .measure ∧ s.w.en = true) →
        exec (.modeSet c) s = .next (s.ended c modeSetInfo (.of stMode) id)) ∧
      (s.changing = false → (m = .shadow → s.w.en = true) → (m = .measure → s.w.en = false) →
        (s.m.start = true → s.m.recovery = false → m ≠ .dormant → exec (.modeSet c) s =
          .next { u with m := { u.m with trans := some r, transPick := none, startPick := some (max r.pick u.planned.nextPick) } }) ∧
        (s.m.start = false → s.inDormant = false →
          (s.sameMode m = true → exec (.modeSet c) s = .next (s.ended c modeSetInfo (.of stOK) id)) ∧
          (s.sameMode m = false → s.m.mode ≠ .maintain → u.slotAt r.pick = some (q, late) →
            (m = .dormant → exec (.modeSet c) s = .next { pushSched q late none (.mode r) u with
              m := { u.m with trans := some r, transPick := some q } }) ∧
            (m = .maintain → exec (.modeSet c) s = .next { u with m := { u.m with trans := some r, transPick := some q } }) ∧
            (m ≠ .dormant → m ≠ .maintain →
              (dataTransition s.m.mode m = false → exec (.modeSet c) s = .next (s.ended c modeSetInfo (.of stMode) id)) ∧
              (dataTransition s.m.mode m = true → (s.m.mode = .pass → (pushSched q late none (.mode r) u).inBudget q = true) →
                exec (.modeSet c) s = .next { pushSched q late none (.mode r) u with
                  m := { u.m with trans := some r, transPick := some q } })))))

/-- MODE_QUERY completes with OK and the values of TRD_MODE and TRD_RESET. RATE_SET with values in range completes with OK and sets the
pending rate and pick length. MODE_TRANSITION_END, the pick of the transition begun, completes its MODE_SET with the pick at which the
mode took effect, LATE if that is later than named, and goes on with one that waits. CONTROL_PLANE_STOP, the pick reached and no
command left that holds it up, enters Maintain, ends the transition, and goes on. DATA_PLANE_START on AUTO, when it is due, starts the
data plane in the resume mode. Gives the next state that exec answers for MODE_QUERY, RATE_SET, CONTROL_PLANE_STOP, DATA_PLANE_START,
MODE_TRANSITION_END. (R616, R617, R605, R606, R602, 18_power_modes.md, 01_architecture.md) -/
def Obligations.ModeQueryAndRateSet : Prop :=
  (∀ (c : HostCmd) (s : State), s.accepts c modeQueryInfo = true → parZero c 32 32 = true →
      exec (.modeQuery c) s = .next (s.ended c modeQueryInfo (.of stOK ((s.taken c modeQueryInfo).regValue 0x1000).toNat
        ((s.taken c modeQueryInfo).regValue 0x103C).toNat) id)) ∧
    (∀ (c : HostCmd) (s : State), s.accepts c rateSetInfo = true → parZero c 32 32 = true → par c 14 1 ≤ 1 → par c 15 1 ∈ [8, 16, 32] →
      exec (.rateSet c) s = .next (s.ended c rateSetInfo (.of stOK)
        (fun u => { u with t := { u.t with pendRate := some (decide (par c 14 1 = 1), par c 15 1) } }))) ∧
    (∀ (t q : Nat) (r : ModeReq) (s : State), s.m.trans = some r → s.m.transPick = some q → s.m.dpRun = true → q ≤ s.m.pick →
      r.target ≠ .maintain → r.target ≠ .dormant →
      exec (.modeTransitionEnd t) s = .next (proceed (completeOpt r.who (Ending.atPick q (decide (r.pick ≠ 0 ∧ r.pick < q)))
        { advance t s with m := { s.m with trans := none, transPick := none } }))) ∧
    (∀ (t q : Nat) (r : ModeReq) (s : State), s.m.trans = some r → s.m.transPick = some q → s.m.dpRun = true → q ≤ s.m.pick →
      r.target = .maintain → s.h.loads = [] → s.h.accepted.all (fun w => s.outlasts.contains w.id) = true →
      exec (.controlPlaneStop t) s = .next (proceed (endTransition s.m.pick (intoMaintain (advance t s))))) ∧
    (∀ (t : Nat) (haq : List HaqRead) (s : State), s.m.dpRun = false → s.coreUp = true →
      (advance t s).autoDue (takeRate (advance t s)).pickNow = true →
      exec (.dataPlaneStart t .auto haq) s = .next (startPlane
        { target := s.resumeMode none, pick := 0, resume := 0, who := none } (takeRate (advance t s)).pickNow haq (advance t s)))

/-- BUDGET_QUERY writes the budget report at its 8-byte-aligned address, sets Q_MIN to 0xFFFF and completes with OK. BUDGET_SET with an
APPLY bit and its fields in range puts its change on the list for its pick, or completes with REJECTED_BUDGET; with no APPLY bit it
completes with OK. BUDGET_RESTORE puts the restore on the list once it is admitted, and completes with OK where nothing is shed and
with NOT_IN_MODE in Pass. SHEDDING_STEP, due since an overrun at pick p, puts the next step on the list for pick p + 2; with four
steps in force or due, or in Pass, it posts event 0x0123 in its place. Gives the next state that exec answers for BUDGET_QUERY,
BUDGET_SET, BUDGET_RESTORE, SHEDDING_STEP. (R47, R48, R59, R61, R62, R65, 02_pick_budget.md) -/
def Obligations.BudgetCommands : Prop :=
  (∀ (c : HostCmd) (s : State), s.accepts c budgetQueryInfo = true → parZero c 8 56 = true → par c 0 8 % 8 = 0 →
      exec (.budgetQuery c) s = .next (s.ended c budgetQueryInfo (.of stOK)
        (fun u => { writeHost (par c 0 8) u.budgetReport u with b := { u.b with qMin := 0xFFFF } }))) ∧
    (∀ (c : HostCmd) (s : State) (q : Nat) (late : Bool), s.accepts c budgetSetInfo = true → parZero c 4 4 = true → parZero c 16 48 = true →
      (par c 1 1 = 0 → exec (.budgetSet c) s = .next (s.ended c budgetSetInfo (.of stOK) id)) ∧
      (0 < par c 1 1 → par c 1 1 < 4 → (bitOf (par c 1 1) 0 = true → 10 ≤ par c 0 1 ∧ par c 0 1 ≤ 50) →
        (bitOf (par c 1 1) 1 = true → par c 2 2 ≤ 512) → (s.taken c budgetSetInfo).slotAt (par c 8 8) = some (q, late) →
        let chg : Change := .budget (if bitOf (par c 1 1) 0 then some (par c 0 1) else none) (if bitOf (par c 1 1) 1 then some (par c 2 2) else none)
        let v := pushSched q late (some (s.waiterOf c budgetSetInfo)) chg (s.taken c budgetSetInfo)
        exec (.budgetSet c) s = .next (if v.inBudget q then v else s.ended c budgetSetInfo (.of stBudget) id))) ∧
    (∀ (c : HostCmd) (s : State) (q : Nat) (late : Bool), s.accepts c budgetRestoreInfo = true → parZero c 4 4 = true → parZero c 16 48 = true →
      (s.dataMode = .pass → s.m.dpRun = true → exec (.budgetRestore c) s = .next (s.ended c budgetRestoreInfo (.of stMode) id)) ∧
      ((s.dataMode = .pass → s.m.dpRun = false) →
        (s.b.shed = 0 → exec (.budgetRestore c) s = .next (s.ended c budgetRestoreInfo (.of stOK) id)) ∧
        (s.b.shed ≠ 0 → (s.taken c budgetRestoreInfo).slotAt (par c 8 8) = some (q, late) →
          let v := pushSched q late (some (s.waiterOf c budgetRestoreInfo)) .restore (s.taken c budgetRestoreInfo)
          exec (.budgetRestore c) s = .next (if v.inBudget q then v else s.ended c budgetRestoreInfo (.of stBudget) id)))) ∧
    (∀ (t p : Nat) (s : State), s.b.due = some p →
      let u : State := { advance t s with b := { s.b with due := none } }
      (4 ≤ u.shedAhead ∨ s.dataMode = .pass → exec (.sheddingStep t) s = .next (post 0x0123 0 [] u)) ∧
      (u.shedAhead < 4 → s.dataMode ≠ .pass → exec (.sheddingStep t) s =
        .next (pushSched (p + 2) false none (.shed (u.shedAhead + 1)) (if u.shedAhead = 3 then passPrecedes (p + 2) u else u))))

/-- OBJECT_UPDATE_RECORD of ring q, with the control cores at work, the ring on and not empty, and fewer than 64 entries of flow q
unreleased: the record's slot is freed, the device-side index is written, the record takes the flow's next number, SEQ is judged; then
a record that breaks R70-R72, or that names a pick more than 2^20 ahead, is rejected with BAD_PARAM, one that finds the store full is
rejected with NO_RESOURCE, each ending its entry of the flow, and any other waits at the end of its ring's checked records.
OBJECT_UPDATE_RELEASE takes the oldest checked record of the ring, where its flow holds nothing before it, releases its entry of the
flow, and puts it at the end of the pending store with the next number of release and the time; at the very instant at which the pick
in progress began, a record that is due in that pick joins the pick's updates instead. While an earlier entry of the flow is
unreleased, the release waits. Gives the next state that exec answers for OBJECT_UPDATE_RECORD, OBJECT_UPDATE_RELEASE. (R72, R73, R74,
R76, R77, R79, R81, R82, R505, 03_objects.md) -/
def Obligations.ObjectUpdates : Prop :=
  (∀ (t q : Nat) (b : List Byte) (s : State),
      let u := advance t s
      let v := popRing (2 + q) u
      let n := (v.flow q).next
      let x := checkSeq q b (flowTake q (writeIndex (2 + q) (v.ring (2 + q)).head v))
      let p := (x.place b).2.2
      q < 8 → s.objectsRun = true → s.ringOn (2 + q) = true → (s.ring (2 + q)).head ≠ (s.ring (2 + q)).tail →
      (s.flow q).opened.length < 64 →
      (x.recordOk b = false → exec (.objectUpdateRecord t q b) s = .next (flowEnd q n none (rejectRecord q stParam b x))) ∧
        (x.recordOk b = true →
          (bitOf (recFlags b) 7 = false → x.pickNow + 2 ^ 20 < p →
            exec (.objectUpdateRecord t q b) s = .next (flowEnd q n none (rejectRecord q stParam b x))) ∧
          ((bitOf (recFlags b) 7 = true ∨ p ≤ x.pickNow + 2 ^ 20) →
            (65536 ≤ x.pendCount →
              exec (.objectUpdateRecord t q b) s = .next (flowEnd q n none (rejectRecord q stResource b x))) ∧
            (x.pendCount < 65536 →
              exec (.objectUpdateRecord t q b) s = .next (acceptRecord q (u.headStamp (2 + q)) n b x))))) ∧
    (∀ (t q : Nat) (s : State) (a : ObjUpdate) (r : List ObjUpdate), s.objectsRun = true → nget [] s.o.checked q = a :: r →
      let f := s.flow q
      let a' : ObjUpdate := { a with rel := s.o.relCtr, relAt := max s.t.now t }
      let u : State := { advance t s with o := { s.o with
        checked := if r = [] then ndel s.o.checked q else nset s.o.checked q r, relCtr := s.o.relCtr + 1 } }
      let v := if f.opened.contains a.seq then flowEnd q a.seq none u else u
      (f.opened.contains a.seq = false ∨ f.base = a.seq →
        (v.meetsPick a' = false → exec (.objectUpdateRelease t q) s = .next { v with o := { v.o with store := v.o.store ++ [a'] } }) ∧
        (v.meetsPick a' = true → exec (.objectUpdateRelease t q) s = .next (joinPick a' v))) ∧
      (f.opened.contains a.seq = true → f.base ≠ a.seq → exec (.objectUpdateRelease t q) s = .next (advance t s)))

/-- Each of the four with a sound range of objects FIRST, COUNT: OBJ_QUERY writes one 32-byte entry for each object of the range at its
32-byte-aligned address and completes with OK. OBJ_GLIDE with a limit of 1 to 128, and OBJ_RESET, go on the list for their pick.
OBJ_FLUSH removes from the pending store the updates of the range whose pick is the named one or later, and completes with OK and
their number in RESULT0. With a range out of bounds each completes with BAD_PARAM. That OBJ_RESET discards only updates released
before it is the model's choice. Gives the next state that exec answers for OBJ_QUERY, OBJ_GLIDE, OBJ_RESET, OBJ_FLUSH. (R90, R94,
R95, R96, 03_objects.md) -/
def Obligations.ObjectCommands : Prop :=
  (∀ (c : HostCmd) (s : State), s.accepts c objQueryInfo = true → objRangeOk c s = true → par c 0 8 % 32 = 0 →
      exec (.objQuery c) s = .next (s.ended c objQueryInfo (.of stOK) (fun u => writeHost (par c 0 8)
        ((List.range (par c 10 2)).foldr (fun i acc => u.objEntry (par c 8 2 + i) ++ acc) []) u))) ∧
    (∀ (c : HostCmd) (s : State) (q : Nat) (late : Bool), s.accepts c objGlideInfo = true → objRangeOk c s = true →
      1 ≤ par c 12 1 → par c 12 1 ≤ 128 → (s.taken c objGlideInfo).slotAt (par c 16 8) = some (q, late) →
      exec (.objGlide c) s = .next (pushSched q late (some (s.waiterOf c objGlideInfo)) (.objGlide (par c 8 2) (par c 10 2) (par c 12 1))
        (s.taken c objGlideInfo))) ∧
    (∀ (c : HostCmd) (s : State) (q : Nat) (late : Bool), s.accepts c objResetInfo = true → objRangeOk c s = true →
      (s.taken c objResetInfo).slotAt (par c 16 8) = some (q, late) →
      exec (.objReset c) s = .next (pushSched q late (some (s.waiterOf c objResetInfo)) (.objReset (par c 8 2) (par c 10 2) s.o.relCtr)
        (s.taken c objResetInfo))) ∧
    (∀ (c : HostCmd) (s : State) (q : Nat), s.accepts c objFlushInfo = true → objRangeOk c s = true →
      (s.taken c objFlushInfo).named (par c 16 8) = some q →
      let gone := fun u : ObjUpdate =>
        decide (par c 8 2 ≤ recObj u.bytes) && decide (recObj u.bytes < par c 8 2 + par c 10 2) && decide (q ≤ u.q)
      exec (.objFlush c) s = .next (s.ended c objFlushInfo (.of stOK (s.o.store.filter gone).length)
        (fun u => { u with o := { u.o with store := u.o.store.filter (fun x => !gone x) } }))) ∧
    (∀ (c : HostCmd) (s : State), objRangeOk c s = false →
      (s.accepts c objQueryInfo = true → exec (.objQuery c) s = .next (s.ended c objQueryInfo (.of stParam) id)) ∧
      (s.accepts c objGlideInfo = true → exec (.objGlide c) s = .next (s.ended c objGlideInfo (.of stParam) id)) ∧
      (s.accepts c objResetInfo = true → exec (.objReset c) s = .next (s.ended c objResetInfo (.of stParam) id)) ∧
      (s.accepts c objFlushInfo = true → exec (.objFlush c) s = .next (s.ended c objFlushInfo (.of stParam) id)))

/-- Outside Dormant, with their fields in range: LAYOUT_LOAD, no swap of the layout waiting, begins to read its image (with one waiting it
is BUSY); LAYOUT_SWAP with a committed copy (or one whose load is still to come) and no other swap waiting goes on the list for its
pick if admitted, else REJECTED_BUDGET, is BUSY where a swap waits for another pick, takes the place of one that waits for the same
pick, which completes as superseded, and BAD_PARAM where there is no copy and no load; LAYOUT_QUERY writes the active image;
SOUND_SPEED_SET goes on the list; GEOM_PROBE writes the entries of the probed object. In Dormant each completes with NOT_IN_MODE.
Gives the next state that exec answers for LAYOUT_LOAD, LAYOUT_SWAP, LAYOUT_QUERY, SOUND_SPEED_SET, GEOM_PROBE. (R20, R21, R127, R131,
R132, R133, R134, R665, R666, 04_loom_geometry.md) -/
def Obligations.LayoutCommands : Prop :=
  (∀ (c : HostCmd) (s : State), s.accepts c layoutLoadInfo = true → s.inDormant = false → layoutRsv c = true → par c 0 8 % 8 = 0 →
      let w := s.waiterOf c layoutLoadInfo
      exec (.layoutLoad c) s = .next (if s.swapPending .layout then s.ended c layoutLoadInfo (.of stBusy) id else
        let u := s.taken c layoutLoadInfo
        { u with h := { u.h with accepted := u.h.accepted.filter (fun x => x.id != w.id),
                                 loads := u.h.loads ++ [{ set := .layout, w := w, img := c.data, tbl := c.tbl, arg := par c 8 4 }] } })) ∧
    (∀ (c : HostCmd) (s : State) (q : Nat) (late : Bool), s.accepts c layoutSwapInfo = true → s.inDormant = false → layoutRsv c = true →
      par c 12 1 < 2 → (s.taken c layoutSwapInfo).slotAt (par c 16 8) = some (q, late) →
      let u := s.taken c layoutSwapInfo
      let chg : Change := .layoutSwap (bitOf (par c 12 1) 0)
      let v := pushSched q late (some (s.waiterOf c layoutSwapInfo)) chg u
      (s.x.loaded = false → u.mustWait chg = false → exec (.layoutSwap c) s = .next (s.ended c layoutSwapInfo (.of stParam) id)) ∧
      (s.x.loaded = true ∨ u.mustWait chg = true →
        (∀ old, u.rival chg = some old →
          (u.standsFor old.pick ≠ u.standsFor q → exec (.layoutSwap c) s = .next (s.ended c layoutSwapInfo (.of stBusy) id)) ∧
          (u.standsFor old.pick = u.standsFor q →
            let v := pushSched q late (some (s.waiterOf c layoutSwapInfo)) chg { u with sched := u.sched.filter (fun x => !decide (x = old)) }
            (s.x.loaded && !u.mustWait chg && !v.inBudget q) = false →
            exec (.layoutSwap c) s = .next (completeOpt old.who { Ending.atPick q with superseded := true } v))) ∧
        (u.rival chg = none → exec (.layoutSwap c) s = .next
          (if s.x.loaded && !u.mustWait chg && !v.inBudget q then s.ended c layoutSwapInfo (.of stBudget) id else v)))) ∧
    (∀ (c : HostCmd) (s : State), s.accepts c layoutQueryInfo = true → s.inDormant = false → layoutRsv c = true → par c 0 8 % 8 = 0 →
      s.x.active.image.length ≤ par c 8 4 →
      exec (.layoutQuery c) s = .next (s.ended c layoutQueryInfo (.of stOK) (writeHost (par c 0 8) s.x.active.image))) ∧
    (∀ (c : HostCmd) (s : State) (q : Nat) (late : Bool), s.accepts c soundSpeedSetInfo = true → s.inDormant = false → layoutRsv c = true →
      300000 ≤ par c 24 4 → par c 24 4 ≤ 400000 → (s.taken c soundSpeedSetInfo).slotAt (par c 16 8) = some (q, late) →
      exec (.soundSpeedSet c) s = .next (pushSched q late (some (s.waiterOf c soundSpeedSetInfo)) (.speed (par c 24 4))
        (s.taken c soundSpeedSetInfo))) ∧
    (∀ (c : HostCmd) (s : State), s.accepts c geomProbeInfo = true → s.inDormant = false → parZero c 13 3 = true → parZero c 52 12 = true →
      (s.taken c geomProbeInfo).recordOk (probeRecord c) = true → par c 0 8 % 8 = 0 →
      exec (.geomProbe c) s = .next (s.ended c geomProbeInfo (.of stOK)
        (fun u => writeHost (par c 0 8) (u.probe (applyRecord (probeRecord c) ObjState.reset)) u))) ∧
    (∀ (c : HostCmd) (s : State), s.inDormant = true →
      (s.accepts c layoutLoadInfo = true → exec (.layoutLoad c) s = .next (s.ended c layoutLoadInfo (.of stMode) id)) ∧
      (s.accepts c layoutSwapInfo = true → exec (.layoutSwap c) s = .next (s.ended c layoutSwapInfo (.of stMode) id)) ∧
      (s.accepts c layoutQueryInfo = true → exec (.layoutQuery c) s = .next (s.ended c layoutQueryInfo (.of stMode) id)) ∧
      (s.accepts c soundSpeedSetInfo = true → exec (.soundSpeedSet c) s = .next (s.ended c soundSpeedSetInfo (.of stMode) id)) ∧
      (s.accepts c geomProbeInfo = true → exec (.geomProbe c) s = .next (s.ended c geomProbeInfo (.of stMode) id)))

/-- With a sound range of inputs FIRST, COUNT: LOOM_CEIL_SET with a ceiling within the outputs goes on the list for its pick if admitted,
and else completes with REJECTED_BUDGET; LOOM_CEIL_QUERY writes the 2-byte ceilings of the range at its 16-byte-aligned address;
LOOM_XP_DUMP joins the dumps that wait for the end of the render pick. With a range out of bounds each completes with BAD_PARAM. Gives
the next state that exec answers for LOOM_CEIL_SET, LOOM_CEIL_QUERY, LOOM_XP_DUMP. (R137, R141, R164, R165, 05_loom_crosspoints.md) -/
def Obligations.LoomExecutionCommands : Prop :=
  (∀ (c : HostCmd) (s : State) (q : Nat) (late : Bool), s.accepts c loomCeilSetInfo = true →
      let u := s.taken c loomCeilSetInfo
      let v := pushSched q late (some (s.waiterOf c loomCeilSetInfo)) (.ceil (par c 8 2) (par c 10 2) (par c 12 2)) u
      (inputRangeOk c u = true → par c 12 2 ≤ u.outputs → u.slotAt (par c 16 8) = some (q, late) →
        exec (.loomCeilSet c) s = .next (if v.inBudget q then v else s.ended c loomCeilSetInfo (.of stBudget) id)) ∧
      (inputRangeOk c u = false → exec (.loomCeilSet c) s = .next (s.ended c loomCeilSetInfo (.of stParam) id))) ∧
    (∀ (c : HostCmd) (s : State), s.accepts c loomCeilQueryInfo = true →
      (inputRangeOk c (s.taken c loomCeilQueryInfo) = true → par c 0 8 % 16 = 0 →
        exec (.loomCeilQuery c) s = .next (s.ended c loomCeilQueryInfo (.of stOK) (fun u => writeHost (par c 0 8)
          ((List.range (par c 10 2)).foldr (fun i acc => leBytes 2 (u.ceilOf (par c 8 2 + i)) ++ acc) []) u))) ∧
      (inputRangeOk c (s.taken c loomCeilQueryInfo) = false →
        exec (.loomCeilQuery c) s = .next (s.ended c loomCeilQueryInfo (.of stParam) id))) ∧
    (∀ (c : HostCmd) (s : State), s.accepts c loomXpDumpInfo = true →
      let u := s.taken c loomXpDumpInfo
      (inputRangeOk c u = true → par c 0 8 % 16 = 0 → exec (.loomXpDump c) s = .next { u with x := { u.x with
        dumps := u.x.dumps ++ [(s.waiterOf c loomXpDumpInfo, par c 0 8, par c 8 2, par c 10 2)] } }) ∧
      (inputRangeOk c u = false → exec (.loomXpDump c) s = .next (s.ended c loomXpDumpInfo (.of stParam) id)))

/-- Outside Dormant, with reserved bytes 0 and addresses aligned: REED_OUT_CFG with sound records in range goes on the list for its pick,
admitted where it enables or disables an output or another such change waits. REED_BANK_LOAD, and REED_OUT_LOAD onto a committed or
loading bank, begin to read their image, and each is BUSY while a swap waits or a measurement runs. REED_BANK_COPY makes the inactive
bank a committed copy of the active one. REED_BANK_SWAP to a committed or loading bank, with no measurement, goes on the list for its
pick of R185 unless R175 or R190 refuse it (judged at once where no load is in progress), and then completes with that status; where a
swap waits for another pick it is BUSY, and one that waits for the same pick is superseded. REED_BANK_QUERY writes the active
directory. Gives the next state that exec answers for REED_OUT_CFG, REED_BANK_LOAD, REED_BANK_COPY, REED_OUT_LOAD, REED_BANK_SWAP,
REED_BANK_QUERY. (R175, R182, R183, R184, R185, R190, R191, R668, 06_reed.md) -/
def Obligations.ReedBankCommands : Prop :=
  (∀ (c : HostCmd) (s : State) (q : Nat) (late : Bool), s.accepts c reedOutCfgInfo = true → s.inDormant = false → reedRsv c false = true →
      1 ≤ par c 10 2 → par c 8 2 + par c 10 2 ≤ (s.taken c reedOutCfgInfo).outputs → (outRecords c).all outRecordOk = true →
      (s.longBank = true → (outRecords c).zipIdx.any (fun x => decide (256 ≤ par c 8 2 + x.2) && enables x.1) = false) → par c 0 8 % 16 = 0 →
      (s.taken c reedOutCfgInfo).slotAt (par c 16 8) = some (q, late) →
      let chg : Change := .reedCfg (par c 8 2) (fit (16 * par c 10 2) c.data)
      let adm : Bool := (outRecords c).zipIdx.any (fun x => bitOf (getLE x.1 12 2) 0 &&
          decide (bitOf (getLE x.1 0 2) 0 ≠ (s.outCfg (par c 8 2 + x.2)).en)) ||
        s.sched.any (fun x => match x.chg with
          | .reedCfg _ _ => true
          | _ => false)
      exec (.reedOutCfg c) s = .next (if adm then s.admitted c reedOutCfgInfo q late chg else s.asked c reedOutCfgInfo q late chg)) ∧
    (∀ (c : HostCmd) (s : State), s.inDormant = false → reedRsv c true = true → par c 0 8 % 16 = 0 →
      (s.accepts c reedBankLoadInfo = true → exec (.reedBankLoad c) s = .next (if s.bankBusy
        then s.ended c reedBankLoadInfo (.of stBusy) id else s.reads c reedBankLoadInfo .reed (par c 24 4))) ∧
      (s.accepts c reedOutLoadInfo = true → (s.r.loaded = true ∨ (s.taken c reedOutLoadInfo).loading .reed = true ∨ s.bankBusy = true) →
        exec (.reedOutLoad c) s = .next (if s.bankBusy
          then s.ended c reedOutLoadInfo (.of stBusy) id else s.reads c reedOutLoadInfo .reed (par c 24 4)))) ∧
    (∀ (c : HostCmd) (s : State), s.accepts c reedBankCopyInfo = true → s.inDormant = false → reedRsv c false = true →
      exec (.reedBankCopy c) s = .next (if s.bankBusy then s.ended c reedBankCopyInfo (.of stBusy) id else
        s.ended c reedBankCopyInfo (.of stOK) (fun u => setR (fun r => { r with loaded := true }) (putReedInactive u.reedActive u)))) ∧
    (∀ (c : HostCmd) (s : State) (q : Nat) (late : Bool), s.accepts c reedBankSwapInfo = true → s.inDormant = false →
      (s.m.dpRun = true → s.dataMode ≠ .pass) → reedRsv c false = true → par c 12 1 < 2 →
      (s.taken c reedBankSwapInfo).bankSlot (par c 16 8) = some (q, late) → s.r.meas = none →
      (s.r.loaded = true ∨ (s.taken c reedBankSwapInfo).loading .reed = true) →
      let xf := bitOf (par c 12 1) 0
      let chg : Change := .bankSwap xf (decide (1 ≤ s.b.shed))
      let u := s.taken c reedBankSwapInfo
      let fault := fun v : State => if u.loading .reed then none else v.bankSwapFault xf q
      (∀ old, u.rival chg = some old →
        (u.standsFor old.pick ≠ u.standsFor q → exec (.reedBankSwap c) s = .next (s.ended c reedBankSwapInfo (.of stBusy) id)) ∧
        (u.standsFor old.pick = u.standsFor q →
          let v := pushSched q late (some (s.waiterOf c reedBankSwapInfo)) chg { u with sched := u.sched.filter (fun x => !decide (x = old)) }
          (∀ e, fault v = some e → exec (.reedBankSwap c) s = .next (s.ended c reedBankSwapInfo (.of e) id)) ∧
          (fault v = none → exec (.reedBankSwap c) s = .next (completeOpt old.who { Ending.atPick q with superseded := true } v)))) ∧
      (u.rival chg = none →
        let v := s.asked c reedBankSwapInfo q late chg
        (∀ e, fault v = some e → exec (.reedBankSwap c) s = .next (s.ended c reedBankSwapInfo (.of e) id)) ∧
        (fault v = none → exec (.reedBankSwap c) s = .next v))) ∧
    (∀ (c : HostCmd) (s : State), s.accepts c reedBankQueryInfo = true → s.inDormant = false → reedRsv c false = true → par c 0 8 % 16 = 0 →
      exec (.reedBankQuery c) s = .next (s.ended c reedBankQueryInfo (.of stOK) (writeHost (par c 0 8) s.reedActive.directory)))

/-- REED_MEAS_RUN in Measure with a sound run block and address, the bank free and fewer than two shedding steps: the inactive bank is
given up to the run, and if it is admitted from the next pick the run is held and event 0x0610 posted; else REJECTED_BUDGET. Outside
Measure it completes with NOT_IN_MODE. REED_MEAS_ABORT stops the stimulus, ends a run with ABORTED_RESET and completes with OK.
MEAS_CAPTURE_END, all samples of the run captured, starts the deconvolution with the next pick. MEAS_RUN_COMPLETE, its steps done,
writes the results at the run's address and ends the run with OK. Gives the next state that exec answers for REED_MEAS_RUN,
REED_MEAS_ABORT, MEAS_CAPTURE_END, MEAS_RUN_COMPLETE. (R197, R199, R200, R201, R208, R209, 06_reed.md) -/
def Obligations.MeasurementCommands : Prop :=
  (∀ (c : HostCmd) (s : State), s.accepts c reedMeasRunInfo = true →
      (s.m.mode ≠ .measure → exec (.reedMeasRun c) s = .next (s.ended c reedMeasRunInfo (.of stMode) id)) ∧
      (s.m.mode = .measure → measOk c s = true → par c 0 8 % 16 = 0 → s.bankBusy = false → (s.taken c reedMeasRunInfo).loading .reed = false →
        (2 ≤ s.b.shed → exec (.reedMeasRun c) s = .next (s.ended c reedMeasRunInfo (.of stBudget) id)) ∧
        (s.b.shed < 2 →
          let u := s.taken c reedMeasRunInfo
          let v := setR (fun r => { r with meas := some (measRun c (s.waiterOf c reedMeasRunInfo)), loaded := false }) (putReedInactive ReedBank.empty u)
          exec (.reedMeasRun c) s = .next (if v.inBudget v.nextPick then post 0x0610 0 [] v else s.ended c reedMeasRunInfo (.of stBudget) id)))) ∧
    (∀ (c : HostCmd) (s : State), s.accepts c reedMeasAbortInfo = true → s.inDormant = false → reedRsv c false = true →
      exec (.reedMeasAbort c) s = .next (s.ended c reedMeasAbortInfo (.of stOK) (fun u => endMeas stAborted (stopStimulus u)))) ∧
    (∀ (t : Nat) (s : State) (m : MeasRun), s.r.meas = some m → m.start.isSome = true → m.decon = none → m.len ≤ m.captured →
      exec (.measCaptureEnd t) s = .next { advance t s with r := { s.r with meas := some { m with decon := some (s.m.pick + 1) } } }) ∧
    (∀ (t d : Nat) (s : State) (m : MeasRun), s.r.meas = some m → m.decon = some d → d + m.deconPicks s.t.pickLen ≤ s.m.pick →
      exec (.measRunComplete t) s = .next (
        let u := writeHost m.addr m.results (advance t s)
        post 0x0611 0 [] (complete m.w (.of stOK ((m.start.getD 0) % 2 ^ 32)) { u with r := { u.r with meas := none } })))

/-- Outside Dormant, with reserved bytes 0: ROUTE_LOAD begins to read its image, and is BUSY while a route swap waits. ROUTE_SWAP, no
other waiting, goes on the list for its pick if its copy is there and admitted, else REJECTED_BUDGET; it is BUSY where one waits for
another pick, supersedes one that waits for the same pick, and is BAD_PARAM with no copy and no load. ROUTE_QUERY writes the active
image. INFILT_SET over filtered sources goes on the list. ROUTE_ABORT completes with OK and empties the inactive copy, and then a
waiting swap completes with ABORTED_RESET and leaves the list; where the swap's named pick has begun it completes with BAD_PARAM.
ZC_DEADLINE settles the step of the route at the table position and counts it. Gives the next state that exec answers for ROUTE_LOAD,
ROUTE_SWAP, ROUTE_QUERY, INFILT_SET, ROUTE_ABORT, ZC_DEADLINE. (R214, R226, R227, R228, R229, R235, R236, R249, R250, R251,
07_heddle.md) -/
def Obligations.HeddleCommands : Prop :=
  (∀ (c : HostCmd) (s : State), s.accepts c routeLoadInfo = true → s.inDormant = false → routeRsv c = true → par c 0 8 % 16 = 0 →
      exec (.routeLoad c) s = .next (if s.swapPending .route then s.ended c routeLoadInfo (.of stBusy) id
        else s.reads c routeLoadInfo .route (par c 8 4))) ∧
    (∀ (c : HostCmd) (s : State) (q : Nat) (late : Bool), s.accepts c routeSwapInfo = true → s.inDormant = false → routeRsv c = true →
      (s.taken c routeSwapInfo).slotAt (par c 16 8) = some (q, late) →
      let u := s.taken c routeSwapInfo
      (s.d.loaded = false → u.mustWait .routeSwap = false → exec (.routeSwap c) s = .next (s.ended c routeSwapInfo (.of stParam) id)) ∧
      (s.d.loaded = true ∨ u.mustWait .routeSwap = true →
        (∀ old, u.rival .routeSwap = some old →
          (u.standsFor old.pick ≠ u.standsFor q → exec (.routeSwap c) s = .next (s.ended c routeSwapInfo (.of stBusy) id)) ∧
          (u.standsFor old.pick = u.standsFor q →
            let v := pushSched q late (some (s.waiterOf c routeSwapInfo)) .routeSwap { u with sched := u.sched.filter (fun x => !decide (x = old)) }
            (s.d.loaded && !u.mustWait .routeSwap && !v.inBudget q) = false →
            exec (.routeSwap c) s = .next (completeOpt old.who { Ending.atPick q with superseded := true } v))) ∧
        (u.rival .routeSwap = none → exec (.routeSwap c) s = .next
          (if s.d.loaded && !u.mustWait .routeSwap then s.admitted c routeSwapInfo q late .routeSwap
            else s.asked c routeSwapInfo q late .routeSwap)))) ∧
    (∀ (c : HostCmd) (s : State), s.accepts c routeQueryInfo = true → s.inDormant = false → routeRsv c = true → par c 0 8 % 16 = 0 →
      s.d.active.image.length ≤ par c 8 4 →
      exec (.routeQuery c) s = .next (s.ended c routeQueryInfo (.of stOK) (writeHost (par c 0 8) s.d.active.image))) ∧
    (∀ (c : HostCmd) (s : State) (q : Nat) (late : Bool), s.accepts c infiltSetInfo = true → s.inDormant = false → routeRsv c = true →
      par c 12 1 ≤ 4 → 1 ≤ par c 26 2 → par c 26 2 ≤ 1280 →
      allTo (par c 26 2) (fun i => srcFiltered (s.taken c infiltSetInfo).t.rate96 (par c 24 2 + i)) = true →
      (s.taken c infiltSetInfo).slotAt (par c 16 8) = some (q, late) →
      exec (.infiltSet c) s = .next (s.asked c infiltSetInfo q late (.infilt (par c 24 2) (par c 26 2) (par c 12 1)))) ∧
    (∀ (c : HostCmd) (s : State), s.accepts c routeAbortInfo = true → s.inDormant = false → routeRsv c = true →
      (s.sched.find? (fun x => decide (x.chg = .routeSwap)) = none → exec (.routeAbort c) s =
        .next (s.ended c routeAbortInfo (.of stOK) (fun u => { u with d := { u.d with inactive := none, loaded := false } }))) ∧
      (∀ x, s.sched.find? (fun x => decide (x.chg = .routeSwap)) = some x →
        let begun := s.m.dpRun = true ∧ (x.late = true ∨ x.pick ≤ (s.taken c routeAbortInfo).pickNow)
        (begun → exec (.routeAbort c) s = .next (s.ended c routeAbortInfo (.of stParam) id)) ∧
        (¬ begun → exec (.routeAbort c) s = .next (cancelSwaps .route (s.ended c routeAbortInfo (.of stOK)
          (fun u => { u with d := { u.d with inactive := none, loaded := false } })))))) ∧
    (∀ (t idx : Nat) (s : State),
      let hit : RouteRun → Bool := fun r => decide (r.idx = idx) && (match r.move with
        | .stepped _ => true
        | _ => false)
      exec (.zcDeadline t idx) s = .next (bumpBy (s.d.routes.filter hit).length 0x901C 31 16 { advance t s with d := { s.d with
        routes := s.d.routes.map (fun r => if r.idx = idx then (match r.move with
          | .stepped b => { r with move := .hold b }
          | _ => r) else r) } }))

/-- Outside Dormant, reserved bytes 0, addresses aligned, fields in range: FCH_PDM_SET, and FCH_RS_SET whose records fit the configuration
of the pick and join no different rates, go on the list for their pick if admitted, else REJECTED_BUDGET; records that join different
rates complete with REJECTED_RATE. FCH_BANK_LOAD begins to read its image, and is BUSY while a swap waits. FCH_BANK_SWAP to a
committed or loading bank waits for the next render sample, and is BUSY while one waits. FCH_BANK_QUERY writes the active bank.
FCH_SYNC_RESET asks for a reset at the first render sample at or after now. FCH_STIM_SET in Measure sets the stimulus if it is
admitted. Gives the next state that exec answers for FCH_PDM_SET, FCH_RS_SET, FCH_BANK_LOAD, FCH_BANK_SWAP, FCH_BANK_QUERY,
FCH_SYNC_RESET, FCH_STIM_SET. (R256, R260, R261, R265, R267, R269, R270, R274, R282, R283, 08_filter_chain.md) -/
def Obligations.FilterChainCommands : Prop :=
  (∀ (c : HostCmd) (s : State) (q : Nat) (late : Bool), s.accepts c fchPdmSetInfo = true → s.inDormant = false → fchRsv c = true →
      par c 13 1 < 4 → anyTo 16 (fun m => decide (outMode (par c 24 4) m = 3)) = false →
      (chainOf (bitOf (par c 13 1) 0) (s.taken c fchPdmSetInfo).planned.t.rate96).isSome = true →
      (s.taken c fchPdmSetInfo).slotAt (par c 16 8) = some (q, late) →
      exec (.fchPdmSet c) s = .next (s.admitted c fchPdmSetInfo q late (.pdm (par c 12 1) (par c 13 1) (par c 24 4)))) ∧
    (∀ (c : HostCmd) (s : State) (q : Nat) (late : Bool), s.accepts c fchRsSetInfo = true → s.inDormant = false → fchRsv c = true →
      1 ≤ par c 8 4 → par c 8 4 ≤ 64 → par c 0 8 % 8 = 0 → (s.taken c fchRsSetInfo).slotAt (par c 16 8) = some (q, late) →
      let raw := fit (16 * par c 8 4) c.data
      let u := s.taken c fchRsSetInfo
      let cfg := u.planned.configAt (u.judgePick q)
      (records16 raw).all (rsRecordOk cfg.t.rate96 cfg.fs) = true →
      hasTwice (rsTargets cfg.f.rs (records16 raw)) = false →
      let sameRate : Bool := (records16 raw).all (fun b => !bitOf (byteAt b 1) 0 ||
        cfg.targetRuns (getLE b 6 2) (getLE b 2 2) (getLE b 4 2))
      (sameRate = true → exec (.fchRsSet c) s = .next (s.admitted c fchRsSetInfo q late (.resample raw))) ∧
      (sameRate = false → exec (.fchRsSet c) s = .next (s.ended c fchRsSetInfo (.of stRate) id))) ∧
    (∀ (c : HostCmd) (s : State), s.accepts c fchBankLoadInfo = true → s.inDormant = false → fchRsv c = true → par c 0 8 % 8 = 0 →
      exec (.fchBankLoad c) s = .next (if s.f.swap.isSome then s.ended c fchBankLoadInfo (.of stBusy) id
        else s.reads c fchBankLoadInfo .fch (par c 8 4))) ∧
    (∀ (c : HostCmd) (s : State), s.accepts c fchBankSwapInfo = true → s.inDormant = false → fchRsv c = true →
      let u := s.taken c fchBankSwapInfo
      (s.f.loaded = true ∨ u.loading .fch = true) →
      exec (.fchBankSwap c) s = .next (if s.f.swap.isSome then s.ended c fchBankSwapInfo (.of stBusy) id
        else { u with f := { u.f with swap := some (sampleOf u.fs u.t.now + 1, s.waiterOf c fchBankSwapInfo) } })) ∧
    (∀ (c : HostCmd) (s : State), s.accepts c fchBankQueryInfo = true → s.inDormant = false → fchRsv c = true →
      s.fchBank.image.length ≤ par c 8 4 → par c 0 8 % 8 = 0 →
      exec (.fchBankQuery c) s = .next (s.ended c fchBankQueryInfo (.of stOK) (writeHost (par c 0 8) s.fchBank.image))) ∧
    (∀ (c : HostCmd) (s : State), s.accepts c fchSyncResetInfo = true → s.inDormant = false → fchRsv c = true →
      let now := max s.t.now c.t
      let k := sampleOf s.fs now
      exec (.fchSyncReset c) s = .next (s.ended c fchSyncResetInfo (.of stOK) (fun u => { u with f := { u.f with
        resets := u.f.resets ++ [if sampleStart s.fs k = now then k else k + 1] } }))) ∧
    (∀ (c : HostCmd) (s : State) (st : Stimulus), s.accepts c fchStimSetInfo = true →
      (s.m.mode ≠ .measure → exec (.fchStimSet c) s = .next (s.ended c fchStimSetInfo (.of stMode) id)) ∧
      (s.m.mode = .measure → stimOf c s.fs = some st → fchRsv c = true →
        let u := s.taken c fchStimSetInfo
        let v : State := { u with f := { u.f with stim := st } }
        exec (.fchStimSet c) s = .next (if v.inBudget v.nextPick then
          s.ended c fchStimSetInfo (.of stOK) (fun u => { u with f := { u.f with stim := st } })
          else s.ended c fchStimSetInfo (.of stBudget) id)))

/-- PDM_STUCK of an enabled microphone with 4,096 equal bits marks it stuck and posts event 0x0357 with it. PDM_UNSTUCK of a stuck one
whose stream has changed restarts it as after a reset of its own. STIMULUS_END with all samples played that it has in its run stops
the stimulus. FCH_SETTLE_END changes nothing but device time: the settle bits follow from the outputs left to settle. Gives the next
state that exec answers for STIMULUS_END, FCH_SETTLE_END, PDM_STUCK, PDM_UNSTUCK. (R255, R272, R275, 08_filter_chain.md) -/
def Obligations.FilterChainRows : Prop :=
  (∀ (t m : Nat) (s : State) (x : Mic), nfind s.f.mics m = some x → outMode s.f.modes m = 1 → 4096 ≤ x.run → x.stuck = false →
      exec (.pdmStuck t m) s = .next (post 0x0357 m []
        { advance t s with f := { s.f with mics := nset s.f.mics m { x with stuck := true } } })) ∧
    (∀ (t m : Nat) (s : State) (x : Mic), nfind s.f.mics m = some x → x.stuck = true → x.run < 4096 →
      let y : Mic := { x.restart (s.fchNext + s.settleLen) with stuck := false }
      exec (.pdmUnstuck t m) s = .next { advance t s with f := { s.f with mics := nset s.f.mics m y } }) ∧
    (∀ (t : Nat) (s : State), s.f.stimOn = true → s.f.stimEnd ≤ s.f.stimN →
      exec (.stimulusEnd t) s = .next (stopStimulus (advance t s))) ∧
    (∀ (t : Nat) (s : State), exec (.fchSettleEnd t) s = .next (advance t s))

/-- Outside Dormant, reserved bytes 0, logical core below 32: BAT_LOAD with aligned addresses begins to read its image and table, and is
BUSY while a load or start of that core is pending. BAT_START of a core with a program to start goes on the list for its pick if
admitted, else REJECTED_BUDGET; it is BUSY while a load or start is pending, and BAD_PARAM with nothing to start. BAT_STOP of a
running core goes on the list if admitted, else REJECTED_BUDGET; of another it is BAD_PARAM. BAT_QUERY with room for 2,048 bytes
writes the 32 reports. BAT_CKPT_READ writes the pick and words of the newest valid checkpoint of the instance. Gives the next state
that exec answers for BAT_LOAD, BAT_START, BAT_STOP, BAT_QUERY, BAT_CKPT_READ. (R298, R306, R307, R308, R309, R313, R314,
09_batten_cores.md) -/
def Obligations.BattenCommands : Prop :=
  (∀ (c : HostCmd) (s : State), s.accepts c batLoadInfo = true → s.inDormant = false → batRsv c = true → par c 12 1 < 32 →
      par c 0 8 % 8 = 0 → par c 24 8 % 8 = 0 →
      exec (.batLoad c) s = .next (if (s.taken c batLoadInfo).batBusy (par c 12 1) then s.ended c batLoadInfo (.of stBusy) id
        else s.reads c batLoadInfo (.bat (par c 12 1)) (par c 8 4 + 2 ^ 32 * par c 32 4))) ∧
    (∀ (c : HostCmd) (s : State) (q : Nat) (late : Bool), s.accepts c batStartInfo = true → s.inDormant = false → batRsv c = true →
      par c 12 1 < 32 →
      ((s.taken c batStartInfo).batBusy (par c 12 1) = true → exec (.batStart c) s = .next (s.ended c batStartInfo (.of stBusy) id)) ∧
      ((s.taken c batStartInfo).batBusy (par c 12 1) = false →
        (s.startable (par c 12 1) = none → exec (.batStart c) s = .next (s.ended c batStartInfo (.of stParam) id)) ∧
        ((s.startable (par c 12 1)).isSome = true → (s.taken c batStartInfo).slotAt (par c 16 8) = some (q, late) →
          exec (.batStart c) s = .next (s.admitted c batStartInfo q late (.batStart (par c 12 1)))))) ∧
    (∀ (c : HostCmd) (s : State) (q : Nat) (late : Bool), s.accepts c batStopInfo = true → s.inDormant = false → batRsv c = true →
      par c 12 1 < 32 →
      ((s.lcore (par c 12 1)).runs = false → exec (.batStop c) s = .next (s.ended c batStopInfo (.of stParam) id)) ∧
      ((s.lcore (par c 12 1)).runs = true → (s.taken c batStopInfo).slotAt (par c 16 8) = some (q, late) →
        exec (.batStop c) s = .next (s.admitted c batStopInfo q late (.batStop (par c 12 1))))) ∧
    (∀ (c : HostCmd) (s : State), s.accepts c batQueryInfo = true → s.inDormant = false → batRsv c = true → 2048 ≤ par c 8 4 →
      par c 0 8 % 8 = 0 →
      exec (.batQuery c) s = .next (s.ended c batQueryInfo (.of stOK) (fun u => writeHost (par c 0 8)
        ((List.range 32).foldr (fun l acc => u.batReport l ++ acc) []) u))) ∧
    (∀ (c : HostCmd) (s : State) (z : Slot), s.accepts c batCkptReadInfo = true → s.inDormant = false → batRsv c = true →
      par c 12 1 < 32 → par c 13 1 < s.instCount (par c 12 1) → (s.lcore (par c 12 1)).newest (par c 13 1) = some z → par c 0 8 % 8 = 0 →
      let rep := leBytes 8 z.tag ++ z.words.foldr (fun v acc => leBytes 8 v ++ acc) []
      rep.length ≤ par c 8 4 →
      exec (.batCkptRead c) s = .next (s.ended c batCkptReadInfo (.of stOK) (writeHost (par c 0 8) rep)))

/-- BATTEN_INSTANCE_ENTRY enters the next instance of a core that can enter one. BATTEN_STEP of a running core: beyond its declared steps
the core faults with cause 1; with a double-bit error in its instruction word, or in a data word that it reads, with cause 0; on an
illegal word with cause 2; a legal word that is not WAITP executes, with its registers and the two memories written and the step
counted; WAITP that ends no replay begins the checkpoint, with the slot of the pick no longer valid. CHECKPOINT_DONE of a core at its
checkpoint copies the state words, up to a double-bit error, where the core faults with cause 0, or to the end of the declared steps,
where it faults with cause 1; with all words copied the slot of the pick holds them and the tag, and the next instance follows.
BATTEN_SPARE_MOVE of a core that awaits its move, no lower one of the same pick waiting, moves it, and with no spare stops it and
posts event 0x0703. Errors found are counted in each case. Gives the next state that exec answers for BATTEN_INSTANCE_ENTRY,
BATTEN_STEP, CHECKPOINT_DONE, BATTEN_SPARE_MOVE. (R289, R292, R299, R300, R302, R304, R316, R317, R338, R340, 09_batten_cores.md,
10_batten_isa.md) -/
def Obligations.BattenPickRows : Prop :=
  (∀ (t l : Nat) (errs : List EccError) (s : State), s.canEnter l = true →
      exec (.battenInstanceEntry t l errs) s = .next (enterInstance l errs (advance t s))) ∧
    (∀ (t l : Nat) (errs : List EccError) (s : State) (p : BatProg), s.lprog l = some p → (s.lcore l).phase = .running →
      let u := advance t s
      let x := s.lcore l
      let c := s.pcore x.phys
      let w := c.word x.regs.pc
      let e1 := u.errorsIn [(batMem x.phys 0, x.regs.pc)] errs
      let u1 := coreErrors e1 u
      let e2 := u1.errorsIn ((dataWords moveReads w x.regs).map (fun a => (batMem x.phys (1 + a.1), a.2))) errs
      let u2 := coreErrors e2 u1
      (p.steps s.t.pickLen < x.steps + 1 → exec (.battenStep t l errs) s = .next (batFaultNow l 1 u)) ∧
      (x.steps + 1 ≤ p.steps s.t.pickLen →
        (e1.any (·.dbl) = true → exec (.battenStep t l errs) s = .next (batFaultNow l 0 u1)) ∧
        (e1.any (·.dbl) = false →
          (illegalWord w x.regs = true → exec (.battenStep t l errs) s = .next (batFaultNow l 2 u1)) ∧
          (illegalWord w x.regs = false →
            (e2.any (·.dbl) = true → exec (.battenStep t l errs) s = .next (batFaultNow l 0 u2)) ∧
            (e2.any (·.dbl) = false →
              let r := execWord w x.regs c.x c.y
              let v := (dataWords (fun m => mop m == 2) w x.regs).foldl (fun st a => wordWritten (batMem x.phys (1 + a.1)) a.2 st)
                (putPcore x.phys { c with x := r.2.1, y := r.2.2 } u2)
              (batOp w ≠ 0x36 → exec (.battenStep t l errs) s = .next (putLcore l { x with regs := r.1, steps := x.steps + 1 } v)) ∧
              (batOp w = 0x36 → x.replay = false → exec (.battenStep t l errs) s = .next (putLcore l { x with
                regs := r.1, steps := x.steps + 1, phase := .checkpoint,
                slots := nmod { tag := 0, words := [], valid := false } x.slots (2 * x.inst + v.m.pick % 2) (fun z => { z with valid := false }) } v))))))) ∧
    (∀ (t l : Nat) (errs : List EccError) (s : State) (p : BatProg), s.lprog l = some p → (s.lcore l).phase = .checkpoint →
      let u := advance t s
      let x := s.lcore l
      let n := s.t.pickLen
      let base := p.stateBase n x.inst
      let room := min p.stateW (8 * (p.steps n - x.steps))
      let found := u.errorsIn ((List.range room).map (fun k => (batMem x.phys 1, base + k))) errs
      let upTo := fun last : Nat => coreErrors (found.filter (fun e => decide ((e.word - base) / 8 ≤ last))) u
      (∀ e, found.find? (·.dbl) = some e →
        let last := (e.word - base) / 8
        exec (.checkpointDone t l errs) s = .next (batFaultNow l 0 (putLcore l { x with steps := x.steps + last } (upTo last)))) ∧
      (found.find? (·.dbl) = none →
        let v := upTo room
        let steps := x.steps + (p.stateW + 7) / 8
        let z : Slot := { tag := v.m.pick, words := (List.range p.stateW).map (fun k => nget 0 (v.pcore x.phys).x (base + k)), valid := true }
        (room < p.stateW → exec (.checkpointDone t l errs) s = .next (batFaultNow l 1 (putLcore l { x with steps := p.steps n } v))) ∧
        (p.stateW ≤ room → exec (.checkpointDone t l errs) s = .next (putLcore l { x with
          slots := nset x.slots (2 * x.inst + v.m.pick % 2) z, steps := steps, total := x.total + steps + 8,
          phase := if p.insts.length ≤ x.inst + 1 then .done else .waiting, inst := x.inst + 1 } v)))) ∧
    (∀ (t l : Nat) (errs : List EccError) (s : State), s.awaitsMove l = true →
      (∀ k, k < l → s.awaitsMove k = true → (s.lcore k).faultAt ≠ (s.lcore l).faultAt) →
      exec (.battenSpareMove t l errs) s = .next (batMove l errs (advance t s)) ∧
      (s.spares = [] →
        let x := s.lcore l
        exec (.battenSpareMove t l errs) s = .next (post 0x0703 l [] (putLcore l { x with
          st := 4, phase := .done, repeats := x.repeats && decide (x.faultAt = s.m.pick) } (advance t s)))))

/-- IMAGE_LOAD_COMMIT of a set with a load in progress. Layout, route set: the image that passes its check becomes the inactive copy and
the command ends OK; a failing one leaves the copy empty and the command ends with its status, reason and index; then a swap that
waited for it goes on or fails. Filter bank: likewise, and a swap that waited fails with it. Program of a logical core: the image that
passes is loaded onto its core, or onto the spare held for a running core, with NO_RESOURCE where there is no spare. With no load of
the set nothing but device time changes. Gives the next state that exec answers for IMAGE_LOAD_COMMIT. (R18, R101, R182, R183, R227,
R267, R298, R306, R666, 01_architecture.md) -/
def Obligations.ImageLoadCommits : Prop :=
  (∀ (t n : Nat) (s : State), s.h.loads.find? (fun l => decide (l.set = setOfCode n)) = none →
      exec (.imageLoadCommit t n) s = .next (advance t s)) ∧
    (∀ (t : Nat) (s : State) (l : Load), s.h.loads.find? (fun l => decide (l.set = .layout)) = some l →
      let u := advance t s
      let r := match layoutFault l.img l.arg u.outputs with
        | some (e, i) => (Ending.of stParam (e + i * 2 ^ 16), ({ u with x := { u.x with inactive := none, loaded := false } } : State))
        | none => (Ending.of stOK, { u with x := { u.x with inactive := some (readLayout l.img), loaded := true } })
      let v := endLoad l r.1 r.2
      exec (.imageLoadCommit t 0) s = .next (settleSwaps .layout v.x.loaded v)) ∧
    (∀ (t : Nat) (s : State) (l : Load), s.h.loads.find? (fun l => decide (l.set = .route)) = some l →
      let u := advance t s
      let r := match u.routeFault l.img l.arg with
        | some (e, k, i) => (Ending.of e (k + i * 2 ^ 16), ({ u with d := { u.d with inactive := none, loaded := false } } : State))
        | none => (Ending.of stOK, { u with d := { u.d with inactive := some (loadRoutes u.d.active l.img), loaded := true } })
      let v := endLoad l r.1 r.2
      exec (.imageLoadCommit t 1) s = .next (settleSwaps .route v.d.loaded v)) ∧
    (∀ (t : Nat) (s : State) (l : Load), s.h.loads.find? (fun l => decide (l.set = .reed)) = some l →
      let r := commitReed l (advance t s)
      exec (.imageLoadCommit t 2) s = .next (settleBankSwap r.2 r.1)) ∧
    (∀ (t : Nat) (s : State) (l : Load), s.h.loads.find? (fun l => decide (l.set = .fch)) = some l →
      let u := advance t s
      let r := match fchBankFault l.img l.arg with
        | none => (Ending.of stOK, setF (fun f => { f with loaded := true }) (putFchIdle (some (readFchBank l.img l.arg)) u))
        | some e => (Ending.of stParam e, setF (fun f => { f with loaded := false }) (putFchIdle none u))
      let v := endLoad l r.1 r.2
      exec (.imageLoadCommit t 3) s = .next (match v.f.loaded, v.f.swap with
        | false, some (_, w) => complete w (.of stParam) { v with f := { v.f with swap := none } }
        | _, _ => v)) ∧
    (∀ (t lc : Nat) (s : State) (l : Load), s.h.loads.find? (fun l => decide (l.set = .bat lc)) = some l →
      let u := advance t s
      (∀ e k i, u.batFault lc l.img l.tbl (l.arg % 2 ^ 32) (l.arg / 2 ^ 32) = some (e, k, i) →
        exec (.imageLoadCommit t (lc + 4)) s = .next (endLoad l (.of e (k + i * 2 ^ 16)) u)) ∧
      (u.batFault lc l.img l.tbl (l.arg % 2 ^ 32) (l.arg / 2 ^ 32) = none →
        exec (.imageLoadCommit t (lc + 4)) s = .next (match loadBatten lc (readProg l.img l.tbl) u with
          | none => endLoad l (.of stResource) u
          | some v => endLoad l (.of stOK) v)))

/-- A served read by master m of a register other than a mailbox's data. No high half: it answers the register's value with write-only
fields 0; the low half of a quantity latches the high half for m (TIME_NOW_LO its fraction too); then read-clear fields return to
their Reset value. A high half answers what was latched for m, and 0 where nothing was. REGISTER_LOW_HALF_READ and RC_FIELD_READ are
such reads; SYS_SLACK_LAST_READ latches the use and finish of all engines with its pick's slack; TIME_CAP_LO_READ answers the captured
time, latches its high half, and clears OVER and VALID. Gives the next state that exec answers for REGISTER_LOW_HALF_READ,
RC_FIELD_READ, SYS_SLACK_LAST_READ, TIME_CAP_LO_READ. (R8, R10, R63, R431, R619, 00_scope.md, 19_register_map.md) -/
def Obligations.RegisterReads : Prop :=
  (∀ (t m off : Nat) (d : RegDef) (s : State), s.regServed m off = true → ¬ (0x3000 ≤ off ∧ off < 0x3040) → isHigh off = false →
      off ≠ 0xE00C → regDef? off = some d →
      let u := answer m ((advance t s).regValue off &&& ~~~(d.maskOf [.wo])) (advance t s)
      (∀ h, highOf off = some h → off ≠ 0xE004 →
        exec (.registerLowHalfRead t m off) s = .next (clearRc off (readEffect off (latchHalf m h (u.regValue h) u)))) ∧
      (off = 0xE004 → exec (.registerLowHalfRead t m off) s = .next (
        let v := latchHalf m 0xE008 (u.regValue 0xE008) u
        latchHalf m 0xE00C (v.regValue 0xE00C) v)) ∧
      (highOf off = none → off ≠ 0xE004 → exec (.rcFieldRead t m off) s = .next (clearRc off (readEffect off u)))) ∧
    (∀ (t m off : Nat) (s : State), s.regServed m off = true → ¬ (0x3000 ≤ off ∧ off < 0x3040) → isHigh off = true ∨ off = 0xE00C →
      exec (.rcFieldRead t m off) s = .next (answer m (nget 0 s.h.latches (halfKey m off)) (advance t s))) ∧
    (∀ (t m : Nat) (s : State), s.regServed m 0x104 = true →
      exec (.sysSlackLastRead t m) s = .next { answer m ((advance t s).regValue 0x104) (advance t s) with b := { s.b with
        latched := s.b.last, latchedSlack := s.b.lastSlack, latchedEng := s.b.lastEng } }) ∧
    (∀ (t m k : Nat) (s : State), k < 4 → s.regServed m (0xE060 + 8 * k) = true →
      exec (.timeCapLoRead t m k) s = .next (
        let u := answer m ((advance t s).regValue (0xE060 + 8 * k)) (advance t s)
        let v := latchHalf m (0xE064 + 8 * k) (u.regValue (0xE064 + 8 * k)) u
        { v with t := { v.t with caps := nmod Capture.none v.t.caps k (fun c => { c with valid := false, missed := false }) } }))

/-- For every writable 64-bit quantity at off, off + 4 (mailbox data apart: R466 gives their posting) and every master m whose access is
served: a write to the low half changes nothing but the half held for m, replacing one held before. A write to the high half while a
low half lo is held for m writes lo and the value to the two registers together and ends the hold; while none is held for m, it
changes nothing but device time. Gives the next state that exec answers for REGISTER_LOW_HALF_WRITE, REGISTER_HIGH_HALF_WRITE. (R9) -/
def Obligations.RegisterHalfWrites : Prop :=
  ∀ (t m off : Nat) (v : Word) (s : State), highOf off = some (off + 4) → off ∉ [0x6010] → writable off = true → writable (off + 4) = true →
    (s.regServed m off = true → exec (.registerLowHalfWrite t m off v) s = .next
      { advance t s with h := { s.h with holds := nset s.h.holds (halfKey m off) v } }) ∧
    (s.regServed m (off + 4) = true →
      (nfind s.h.holds (halfKey m off) = none → exec (.registerHighHalfWrite t m (off + 4) v) s = .next (advance t s)) ∧
      (∀ lo, nfind s.h.holds (halfKey m off) = some lo → exec (.registerHighHalfWrite t m (off + 4) v) s = .next
        (plainWrite (off + 4) v (plainWrite off lo
          { advance t s with h := { s.h with holds := ndel s.h.holds (halfKey m off) } }))))

/-- A served write: REGISTER_WRITE of an ordinary register changes its RW and RWS fields alone, with what follows for moderation, MBX_IRQ
and the watchdog; of a register with none it has no effect. Each of the seven select registers keeps its select bits and awaits its
snapshot. MAC_MG_WAKE_WRITE clears the bits written 1. MEM_INJ_WRITE stores its bits, unless it injects into an instance above 146.
XBR_LATCH_WRITE by the management processor stores one latch once. A write by another master that is not served is a bus error; the
host's has no effect. Gives the next state that exec answers for REGISTER_WRITE, MAC_MG_WAKE_WRITE, LOOM_XP_SEL_WRITE,
REED_OUT_SEL_WRITE, HED_SRC_SEL_WRITE, HED_ROUTE_SEL_WRITE, FCH_RS_SEL_WRITE, AES_CS_SEL_WRITE, MAC_STRM_SEL_WRITE, MEM_INJ_WRITE,
XBR_LATCH_WRITE. (R7, R10, R163, R207, R248, R281, R369, R403, R402, R619, R620, R628) -/
def Obligations.RegisterWrites : Prop :=
  (∀ (t m off : Nat) (v : Word) (d : RegDef) (s : State), s.regServed m off = true → ¬ (0x3000 ≤ off ∧ off < 0x3040) → isSelect off = false →
      off ≠ 0x1300C → ¬ (0x6040 ≤ off ∧ off < 0x6080 ∧ off % 4 = 0) → ¬ (0x5000 ≤ off ∧ off < 0x5200 ∧ off % 0x20 = 0x18) →
      ¬ (0x2100 ≤ off ∧ off < 0x24E0 ∧ off % 0x20 = 0x10) → off ≠ 0xD214 → highOf off = none → isHigh off = false → regDef? off = some d →
      let k := d.maskOf [.rw, .rws]
      exec (.registerWrite t m off v) s = .next (if k = 0 then advance t s else
        writeEffect off (s.reg off) (setReg off ((s.reg off &&& ~~~k) ||| (v &&& k)) (advance t s)))) ∧
    (∀ (t m : Nat) (v : Word) (s : State), let u := advance t s
      (s.regServed m 0x7028 = true → exec (.loomXpSelWrite t m v) s = .next { setReg 0x7028 (v &&& 0x7FFFF) u with x := { s.x with sel := true } }) ∧
      (s.regServed m 0x8030 = true → exec (.reedOutSelWrite t m v) s = .next { setReg 0x8030 (v &&& 0x1FF) u with r := { s.r with sel := true } }) ∧
      (s.regServed m 0x902C = true → exec (.hedSrcSelWrite t m v) s = .next { setReg 0x902C (v &&& 0xFFF) u with d := { s.d with selSrc := true } }) ∧
      (s.regServed m 0x9034 = true → exec (.hedRouteSelWrite t m v) s =
        .next { setReg 0x9034 (v &&& 0xFFF) u with d := { s.d with selRoute := true } }) ∧
      (s.regServed m 0xA038 = true → exec (.fchRsSelWrite t m v) s = .next { setReg 0xA038 (v &&& 0x3F) u with f := { s.f with sel := true } }) ∧
      (s.regServed m 0xB100 = true → exec (.aesCsSelWrite t m v) s = .next { setReg 0xB100 (v &&& 0x3F) u with a := { s.a with sel := true } }) ∧
      (s.regServed m 0xD104 = true → exec (.macStrmSelWrite t m v) s = .next { setReg 0xD104 (v &&& 0x1FF) u with n := { s.n with sel := true } }) ∧
      (s.regServed m 0xD214 = true → exec (.macMgWakeWrite t m v) s = .next (setReg 0xD214 (s.reg 0xD214 &&& ~~~(v &&& 0xFFFF)) u)) ∧
      (s.regServed m 0x1300C = true → exec (.memInjWrite t m v) s =
        .next (if wbits v 8 8 = 1 ∧ 146 < wbits v 7 0 then u else setReg 0x1300C (v &&& 0x3FF) u))) ∧
    (∀ (t k : Nat) (v : Word) (s : State), k < 16 → s.regServed 3 (0x6040 + 4 * k) = true → s.g.latched.contains k = false →
      exec (.xbrLatchWrite t 3 k v) s = .next { setReg (0x6040 + 4 * k) (v &&& 0x3FFF) (advance t s) with g := { s.g with latched := k :: s.g.latched } }) ∧
    (∀ (t m off : Nat) (v : Word) (s : State), s.regServed m off = false →
      exec (.registerWrite t m off v) s = .next (if m = 0 then advance t s else busError m 8 off (advance t s)))

/-- HIF_RING_CFG_WRITE, served: with EN 0 the ring is disabled; while it is enabled a write with EN 1 has no effect; with a DEPTH of R443
and a 4 KiB-aligned base it is enabled with head, tail and GEN 0 and phase 1; with a bad one EN stays 0 and CFG_ERR is set.
DOORBELL_WRITE that reaches the function, 32 bits wide: of a disabled ring it counts in DB_OFF, at DEPTH or above in DB_BAD, each
signalling vector 0 and posting event 0x0906; otherwise a host-produced ring takes its tail with the stamp of the arrival for each new
entry, and CPL0, EVQ0 and TRQ0 their head. Of another width it has no effect. What waited for CPL0 or EVQ0 follows. Gives the next
state that exec answers for HIF_RING_CFG_WRITE, DOORBELL_WRITE. (R435, R436, R443, R444, R445, 14_host_interface.md) -/
def Obligations.RingsAndDoorbells : Prop :=
  (∀ (t m q : Nat) (v : Word) (s : State), q < 31 → s.regServed m (0x2110 + 0x20 * q) = true →
      let u := advance t s
      let r := s.ring q
      let d := wbits v 12 0
      let n := wbits v 18 14
      (wbits v 13 13 = 0 → exec (.hifRingCfgWrite t m q v) s = .next (setRing q { r with en := false, depth := d, nch := n } u)) ∧
      (wbits v 13 13 = 1 → r.en = true → exec (.hifRingCfgWrite t m q v) s = .next u) ∧
      (wbits v 13 13 = 1 → r.en = false →
        (depthOk d = true → s.ringBase q % 4096 = 0 →
          let w := setRing q { Ring.off with en := true, depth := d, nch := n, head := 0, tail := 0, gen := 0, phase := true } u
          exec (.hifRingCfgWrite t m q v) s = .next (if q = 10 then releaseHeld s.h.heldCpl w else if q = 11 then tellLost w else w)) ∧
        (¬ (depthOk d = true ∧ s.ringBase q % 4096 = 0) →
          exec (.hifRingCfgWrite t m q v) s = .next (setRing q { r with depth := d, nch := n, cfgErr := true } u)))) ∧
    (∀ (t q : Nat) (v : Word) (s : State), q < 31 → s.hostReaches = true →
      let u := advance t s
      let r := s.ring q
      (r.en = false → exec (.doorbellWrite t (8 * q) 4 v) s = .next (post 0x0906 q [] (signal 0 (bump 0x2008 15 8 u)))) ∧
      (r.en = true → r.depth ≤ v.toNat → exec (.doorbellWrite t (8 * q) 4 v) s = .next (post 0x0906 q [] (signal 0 (bump 0x2008 7 0 u)))) ∧
      (r.en = true → v.toNat < r.depth →
        (q = 10 ∨ q = 11 ∨ q = 30 →
          let w := setRing q { r with head := v.toNat } u
          exec (.doorbellWrite t (8 * q) 4 v) s = .next (if q = 10 then releaseHeld s.h.heldCpl w else if q = 11 then tellLost w else w)) ∧
        (q ≠ 10 → q ≠ 11 → q ≠ 30 →
          let w := setRing q { r with
            tail := v.toNat, gen := if v.toNat < r.tail then (r.gen + 1) % 16 else r.gen,
            stamps := r.stamps ++ List.replicate ((v.toNat + r.depth - r.tail) % r.depth) (max s.t.now t) } u
          exec (.doorbellWrite t (8 * q) 4 v) s = .next (if q = 13 then mq1Posted w else w)))) ∧
    (∀ (t off width : Nat) (v : Word) (s : State), width ≠ 4 → exec (.doorbellWrite t off width v) s = .next (advance t s))

/-- HOST_WDOG_EXPIRY with a non-zero period, counted from a time on which more than the period has passed, and not yet expired: EXPIRED is
set, vector 0 is signalled, event 0x0909 is posted; nothing of sound changes, as the next state says. HOST_NOTICE_SERVICE of a
HOST_ALIVE notice in a host-to-device mailbox, of the host's epoch: the notice is taken, EXPIRED is cleared and the period starts
again. Gives the next state that exec answers for HOST_NOTICE_SERVICE, HOST_WDOG_EXPIRY. (R469) -/
def Obligations.HostWatchdog : Prop :=
  (∀ (t f : Nat) (s : State), s.h.wdogFrom = some f → s.field 0x2020 15 0 ≠ 0 →
      f + s.field 0x2020 15 0 * msU < max s.t.now t → s.h.wdogExpired = false →
      exec (.hostWdogExpiry t) s = .next (post 0x0909 0 [] (signal 0 { advance t s with h := { s.h with wdogExpired := true } }))) ∧
    (∀ (t k : Nat) (msg : List Byte) (n : DWord) (r : List DWord) (s : State), k < 4 → s.mbox k = n :: r →
      bitsOf n.toNat 55 48 = s.field 0x2004 7 0 → getLE msg 0 2 = 1 → 8 ≤ getLE msg 2 2 → getLE msg 2 2 ≤ 4096 →
      exec (.hostNoticeService t k msg) s = .next { advance t s with h := { s.h with
        mbx := nset s.h.mbx k r, wdogExpired := false,
        wdogFrom := if s.field 0x2020 15 0 = 0 then none else some (max s.t.now t) } })

/-- MBX_DATA_WRITE of mailbox 0-3 with the core domain up: the low half is held; the high half, with a low half held, puts the notice at
the mailbox's end where fewer than four wait, and otherwise drops it, sets its bit, counts it, signals vector 0 and posts event
0x0908. MBX_DATA_READ of mailbox 4-7: the low half answers and latches the oldest notice; the high half then answers its upper half,
removes it and lets a waiting one in; an empty mailbox answers 0 and keeps nothing latched. HOST_NOTICE_SERVICE: a notice of another
epoch, or naming an unknown service, is discarded with event 0x0905; ECHO sends it back with ECHOED set. Gives the next state that
exec answers for MBX_DATA_WRITE, MBX_DATA_READ, HOST_NOTICE_SERVICE. (R465, R466, R467, R468, 14_host_interface.md) -/
def Obligations.HostMailboxRows : Prop :=
  (∀ (t k : Nat) (v : Word) (s : State), s.coreUp = true → k < 4 →
      exec (.mbxDataWrite t k false v) s = .next { advance t s with h := { s.h with
        holds := nset s.h.holds (halfKey 0 (0x3000 + 8 * k)) v } } ∧
      (∀ lo, nfind s.h.holds (halfKey 0 (0x3000 + 8 * k)) = some lo →
        let u : State := { advance t s with h := { s.h with holds := ndel s.h.holds (halfKey 0 (0x3000 + 8 * k)) } }
        exec (.mbxDataWrite t k true v) s = .next (if (s.mbox k).length < 4
          then { u with h := { u.h with mbx := nset u.h.mbx k (s.mbox k ++ [v ++ lo]) } }
          else post 0x0908 k [] (signal 0 (bump 0x3044 31 16 (putField 0x3044 k k 1 u)))))) ∧
    (∀ (t k : Nat) (hi : Bool) (s : State), 4 ≤ k → k < 8 → s.mbox k = [] →
      exec (.mbxDataRead t k hi) s = .next (answer 0 0 { advance t s with h := { s.h with
        latches := ndel s.h.latches (halfKey 0 (0x3004 + 8 * k)) } })) ∧
    (∀ (t k : Nat) (n : DWord) (r : List DWord) (s : State), 4 ≤ k → k < 8 → s.mbox k = n :: r →
      exec (.mbxDataRead t k false) s = .next (answer 0 (n.setWidth 32) { advance t s with h := { s.h with
        latches := nset s.h.latches (halfKey 0 (0x3004 + 8 * k)) ((n >>> 32).setWidth 32) } }) ∧
      (∀ v, nfind s.h.latches (halfKey 0 (0x3004 + 8 * k)) = some v →
        exec (.mbxDataRead t k true) s = .next (answer 0 v (admitWaiting k { advance t s with h := { s.h with
          latches := ndel s.h.latches (halfKey 0 (0x3004 + 8 * k)), mbx := nset s.h.mbx k r } })))) ∧
    (∀ (t k : Nat) (msg : List Byte) (n : DWord) (r : List DWord) (s : State), k < 4 → s.mbox k = n :: r →
      let u : State := { advance t s with h := { s.h with mbx := nset s.h.mbx k r } }
      (bitsOf n.toNat 55 48 ≠ s.field 0x2004 7 0 →
        exec (.hostNoticeService t k msg) s = .next (post 0x0905 k [] u)) ∧
      (bitsOf n.toNat 55 48 = s.field 0x2004 7 0 →
        (getLE msg 0 2 = 2 → 8 ≤ getLE msg 2 2 → getLE msg 2 2 ≤ 4096 →
          exec (.hostNoticeService t k msg) s = .next (sendNotice (if k < 2 then 4 else 6) (BitVec.ofNat 64
            (n.toNat % 2 ^ 48 + s.h.epoch * 2 ^ 48 + bitsOf n.toNat 59 56 * 2 ^ 56 + 2 ^ 60)) u)) ∧
        (getLE msg 0 2 ≠ 1 → getLE msg 0 2 ≠ 2 → exec (.hostNoticeService t k msg) s = .next (post 0x0905 k [] u))))

/-- Each row completes in every state. BAR0_BAD_ACCESS, core domain up, link not in L2, access not 32 bits wide or not aligned: it
completes as an Unsupported Request, counts in HIF_ERR.UR and signals vector 0; else only time passes. BAR2_WRITE that reaches the
function (core domain up, link not in L2, D0): in Maintain the bytes are written on chip, unless they run beyond its 16 MiB, and then
nothing happens; in any other mode HIF_ERR.BAR2_WR counts, vector 0 is signalled and event 0x0907 posted; else only time passes.
D3HOT_ENTRY sets D3hot. D3HOT_EXIT from D3hot resets the host-facing state, with the core domain up. HOST_SIDE_RESET, core domain up:
it counts, resets the host-facing state and posts event 0x0901 with its kind (0 to 3 in R438's order); all but a function-level reset
take the link down; a surprise loss also posts 0x0902; PE_PERST_N is noted even with the core domain off. PCIE_LINK_RETURN of a link
that is down, core domain up, sets its width and speed, ends L2 with a PME and PE_WAKE_N released, and posts 0x0903 after a surprise
loss; else only time passes. CPL_IRQ_TIMER signals vector 1 when the oldest unsignalled completion is CPL_US old (not 0); else only
time passes. The kind codes are the model's choice (log 24). Gives the next state that exec answers for BAR0_BAD_ACCESS, BAR2_WRITE,
HOST_SIDE_RESET, PCIE_LINK_RETURN, D3HOT_ENTRY, D3HOT_EXIT, CPL_IRQ_TIMER. (R436, R437, R438, R440, R441, R464, R478,
14_host_interface.md, 15_fabric.md) -/
def Obligations.HostLinkRows : Prop :=
  (∀ (t off width : Nat) (s : State), exec (.bar0BadAccess t off width) s = .next
      (if s.coreUp = true ∧ s.h.l2 = false ∧ (width ≠ 4 ∨ off % 4 ≠ 0) then
        signal 0 (bump 0x2008 31 24 { advance t s with h := { s.h with cpl := .unsupported } }) else advance t s)) ∧
    (∀ (t off : Nat) (bytes : List Byte) (s : State), exec (.bar2Write t off bytes) s = .next
      (if s.coreUp = true ∧ s.h.l2 = false ∧ s.h.d3hot = false then
        (if s.inMaintain = true then (if off + bytes.length ≤ 2 ^ 24 then writeOnChip off bytes (advance t s) else advance t s)
        else post 0x0907 0 [] (signal 0 (bump 0x2008 23 16 (advance t s)))) else advance t s)) ∧
    (∀ (t : Nat) (s : State), exec (.d3hotEntry t) s = .next { advance t s with h := { s.h with d3hot := true } }) ∧
    (∀ (t : Nat) (s : State), exec (.d3hotExit t) s = .next
      (if s.h.d3hot = true ∧ s.coreUp = true then hostClear (advance t s) else advance t s)) ∧
    (∀ (t : Nat) (s : State),
      let p : State := { advance t s with h := { s.h with perst := true } }
      let reset := fun (code : Nat) (u : State) => post 0x0901 0 [BitVec.ofNat 8 code] (hostClear (bump 0x200C 15 0 u))
      let down := fun u : State => ({ u with h := { u.h with linkUp := false } } : State)
      exec (.hostSideReset t .flr) s = .next (if s.coreUp = true then reset 0 (advance t s) else advance t s) ∧
      exec (.hostSideReset t .hotReset) s = .next (if s.coreUp = true then down (reset 1 (advance t s)) else advance t s) ∧
      exec (.hostSideReset t .perst) s = .next (if s.coreUp = true then down (reset 2 p) else p) ∧
      exec (.hostSideReset t .linkLoss) s = .next (if s.coreUp = true then
        let v := reset 3 (advance t s)
        post 0x0902 0 [] { v with h := { v.h with linkUp := false, linkLost := true } } else advance t s)) ∧
    (∀ (t w sp : Nat) (s : State),
      let u : State := { advance t s with h := { s.h with
        linkUp := true, width := w % 16, speed := sp % 8, l2 := false, pme := if s.h.l2 then s.h.pme + 1 else s.h.pme, linkLost := false } }
      let v : State := if s.h.l2 then { u with p := { u.p with wakeN := false } } else u
      exec (.pcieLinkReturn t w sp) s = .next (if s.coreUp = true ∧ s.h.linkUp = false then
        (if s.h.linkLost then post 0x0903 0 [] v else v) else advance t s)) ∧
    (∀ (t : Nat) (s : State), exec (.cplIrqTimer t) s = .next
      (if s.field 0x2010 23 8 ≠ 0 ∧ s.h.unsig ≠ 0 ∧ s.h.unsigSince + s.field 0x2010 23 8 * usU ≤ max s.t.now t then
        signal 1 { advance t s with h := { s.h with unsig := 0 } } else advance t s))

/-- With the core domain up, for a master 1-15 and a lock below 64: a read of a free lock takes it and answers 0; a read of a held one
answers 0x80000000 with the owner, the owner's own read too, and changes nothing else; the owner's write of its own number frees the
lock; any other write counts in XBR_SEM_ERR and posts event 0x080C. A one-word burst to lock k's address, target offset 4k, is that
read or write. The host, another lock number, or a core domain that is down is refused as a bus error. Gives the next state that exec
answers for SEMAPHORE_READ, SEMAPHORE_WRITE. (R482) -/
def Obligations.Semaphores : Prop :=
  (∀ (t m k : Nat) (s : State), s.coreUp = true → 0 < m → m < 16 → k < 64 →
      (nfind s.g.sems k = none →
        exec (.semaphoreRead t m k) s = .next (answer m 0 { advance t s with g := { s.g with sems := nset s.g.sems k m } })) ∧
      (∀ o, nfind s.g.sems k = some o →
        exec (.semaphoreRead t m k) s = .next (answer m (BitVec.ofNat 32 (0x80000000 + o)) (advance t s))) ∧
      (∀ v : Word, nfind s.g.sems k = some m → v.toNat = m →
        exec (.semaphoreWrite t m k v) s = .next { advance t s with g := { s.g with sems := ndel s.g.sems k } }) ∧
      (∀ v : Word, ¬ (nfind s.g.sems k = some m ∧ v.toNat = m) →
        exec (.semaphoreWrite t m k v) s = .next (post 0x080C k (leBytes 1 k ++ leBytes 1 m) (bump 0x6018 15 0 (advance t s)))) ∧
      (∀ b : Burst, b.master = m → b.addr = 0x21000000 + 4 * k → b.len = 4 →
        (b.write = false → serveBurst b s = semRead m k s) ∧
        (b.write = true → serveBurst b s = semWrite m k (BitVec.ofNat 32 (getLE b.data 0 4)) s))) ∧
    (∀ (t m k : Nat) (v : Word) (s : State), s.coreUp = false ∨ m = 0 ∨ 64 ≤ k →
      exec (.semaphoreRead t m k) s = .next (busError m 12 (4 * k) (advance t s)) ∧
      exec (.semaphoreWrite t m k v) s = .next (busError m 12 (4 * k) (advance t s)))

/-- With the core domain up and a mailbox below 32: a post puts the notice last where fewer than four wait, and wakes the receiver if it
is a gated control core, counted and told by event 0x080B; a post to a full one is a bus error that also counts and posts 0x0805; a
read takes the oldest notice and answers its halves, or 0 when empty. In retention the management processor's post is held in a free
wake latch. CONTROL_CORE_GATE gates a control core that has been idle, with nothing ready for it, for 1 ms. Gives the next state that
exec answers for ONCHIP_MAILBOX_POST, ONCHIP_MAILBOX_READ, CONTROL_CORE_GATE. (R485, R486, R490, R491, 15_fabric.md) -/
def Obligations.OnchipMailboxes : Prop :=
  (∀ (t m k : Nat) (v : DWord) (s : State), s.m.retention = false → s.coreUp = true → k < 32 →
      let u : State := { advance t s with g := { s.g with oc := nset s.g.oc k (s.ocBox k ++ [(m, v)]) } }
      ((s.ocBox k).length < 4 → (∀ r, mailReceiver k = some r → 4 ≤ r → nget false s.g.gated (r - 4) = false) →
        exec (.onchipMailboxPost t m k v) s = .next u) ∧
      (∀ r, (s.ocBox k).length < 4 → mailReceiver k = some r → 4 ≤ r → nget false s.g.gated (r - 4) = true →
        exec (.onchipMailboxPost t m k v) s = .next (post 0x080B k (leBytes 1 k ++ leBytes 1 r) (bump 0x3110 31 24
          { u with g := { u.g with gated := ndel u.g.gated (r - 4) } }))) ∧
      (4 ≤ (s.ocBox k).length → exec (.onchipMailboxPost t m k v) s = .next
        (post 0x0805 k (leBytes 1 k ++ leBytes 1 m) (bump 0x3110 15 0 (busError m 12 (0x1000 + 0x20 * k) (advance t s)))))) ∧
    (∀ (t k : Nat) (v : DWord) (s : State), s.m.retention = true → s.g.wakeLatch = none → k < 32 →
      exec (.onchipMailboxPost t 3 k v) s = .next { advance t s with g := { s.g with wakeLatch := some (k, 3, v) } }) ∧
    (∀ (t m k : Nat) (s : State), s.coreUp = true → k < 32 →
      (s.ocBox k = [] → exec (.onchipMailboxRead t m k) s = .next (answer (16 + m) 0 (answer m 0 (advance t s)))) ∧
      (∀ x n r, s.ocBox k = (x, n) :: r → exec (.onchipMailboxRead t m k) s = .next (
        let u := answer (16 + m) ((n >>> 32).setWidth 32) (answer m (n.setWidth 32) (advance t s))
        { u with g := { u.g with oc := nset u.g.oc k r } }))) ∧
    (∀ (t k : Nat) (s : State), k < 4 → s.coreUp = true → (s.exec? k).cur = none → nget 0 s.g.idleSince k + msU ≤ max s.t.now t →
      (∀ l p, (l, p) ∈ s.readyList → s.slotMp p.slot = true) →
      exec (.controlCoreGate t k) s = .next { advance t s with g := { s.g with gated := nset s.g.gated k true } })

/-- BOB_DB_WRITE of a channel below 16, after the configuration that the row may bring for it: the host's own is discarded; with the core
domain down an on-chip master's is a bus error; with it up it counts, and then: to a running channel it is kept pending and counted in
EARLY; to an enabled, parked channel it reads the parked descriptor's chain word, where END 0 fetches the descriptor at LINK and END 1
leaves the channel parked; to any other channel of trigger 0 it starts the chain at its head, and to one of another trigger nothing
more happens. BOB_DESC_COMPLETE of a running channel below 16, core domain up: the rows are moved, unless the single row's source is
its destination; descriptor and bytes moved are counted; OK or POISON is recorded, and POISON counted and told by event 0x0808; a
notice is sent where the chain word asks for one; and the chain is followed: END 0 fetches the descriptor at LINK, END 1 parks the
channel. With the channel not running, or the core domain down, BOB_DESC_COMPLETE only takes time. Gives the next state that exec
answers for BOB_DB_WRITE, BOB_DESC_COMPLETE. (R492, R493, R494, R496, R497, R498, R499, R508, 15_fabric.md) -/
def Obligations.BobbinChannels : Prop :=
  (∀ (t m c : Nat) (v : Word) (cfg : Option (Word × Word)) (s : State), c < 16 →
      let u0 := match cfg with
        | some (a, b) => bobConfig c a b (advance t s)
        | none => advance t s
      (m = 0 → exec (.bobDbWrite t m c v cfg) s = .next u0) ∧
      (m ≠ 0 → u0.coreUp = false → exec (.bobDbWrite t m c v cfg) s = .next (busError m 8 (0x5018 + 0x20 * c) u0)) ∧
      (m ≠ 0 → u0.coreUp = true →
        let u := bump (0x5014 + 0x20 * c) 15 0 u0
        let x : BobCh := { u.bob c with doorbells := (u.bob c).doorbells + 1 }
        let w := getLE (memRead u.g.gm (32 * x.cur + 28) 4) 0 4
        (x.run = true → exec (.bobDbWrite t m c v cfg) s = .next
          (bump (0x5014 + 0x20 * c) 31 16 (setBob c { x with pend := true, early := x.early + 1 } u))) ∧
        (x.run = false → x.parked = true → x.en = true → exec (.bobDbWrite t m c v cfg) s = .next
          (if bitOf w 24 then setBob c x u else bobFetch c (w % 2 ^ 19) (setBob c x u))) ∧
        (x.run = false → x.parked = false ∨ x.en = false → exec (.bobDbWrite t m c v cfg) s = .next
          (if x.trig = 0 then bobStart c (setBob c x u) else setBob c x u)))) ∧
    (∀ (t c : Nat) (data : List Byte) (seen : List Nat) (s : State),
      (c < 16 → (s.bob c).run = true → s.coreUp = true →
        let d := (s.bob c).desc
        let still := dRows d = 1 ∧ dSrc d = dDst d
        let r := if still then (false, advance t s) else bobRows d data seen (dRows d) 0 (false, advance t s)
        let x := r.2.bob c
        let u := bump (0x5010 + 0x20 * c) 31 0 (setBob c { x with
          last := if r.1 then stPoison else stOK, done := satN 0xFFFFFFFF (x.done + 1),
          bytes := if still then x.bytes else satN (2 ^ 64 - 1) (x.bytes + dLen d * dRows d) } r.2)
        let y := if r.1 then post 0x0808 c (leBytes 4 c ++ leBytes 4 x.cur) (bump (0x500C + 0x20 * c) 31 16 u) else u
        let z := if bitOf (dChain d) 25 then bobNotify c y else y
        let w := getLE (memRead z.g.gm (32 * (z.bob c).cur + 28) 4) 0 4
        exec (.bobDescComplete t c data seen) s = .next (if bitOf w 24 then bobPark c z else bobFetch c (w % 2 ^ 19) z)) ∧
      (16 ≤ c ∨ (s.bob c).run = false ∨ s.coreUp = false → exec (.bobDescComplete t c data seen) s = .next (advance t s)))

/-- SHUTTLE_POST with sound operands and the core domain up: a new slot takes the level and affinity named, the post takes its flow's next
number, enters its slot's level, and the Shuttle decides. A level's post goes to the hardware queue, behind 16 or behind others to the
spill ring, counted and traced, and behind 4,096 or behind others that wait it waits, where the first to wait is counted and told by
event 0x0809. Ready entries stand by level, so the first one eligible is of the highest level. SHUTTLE_THREAD_END frees the executor
and slot, releases what its flow can release, and decides. SHUTTLE_PREEMPT_POINT of a thread asked to give way puts it with its
level's waiting entries and decides. Gives the next state that exec answers for SHUTTLE_POST, SHUTTLE_THREAD_END,
SHUTTLE_PREEMPT_POINT. (R500, R501, R503, R505, 15_fabric.md) -/
def Obligations.ShuttleRows : Prop :=
  (∀ (t slot level : Nat) (mp : Bool) (flow : Option Nat) (arg : Nat) (s : State), s.coreUp = true → slot < 256 → level < 32 →
      (∀ f, flow = some f → f < 16) →
      let u : State := if (nfind s.g.slots slot).isNone then { advance t s with g := { s.g with slots := nset s.g.slots slot (level, mp) } } else advance t s
      let l := (nget (0, false) u.g.slots slot).1
      let p : Thread := { slot := slot, flow := flow.map (fun f => (f, (s.flow f).next)), arg := arg % 2 ^ 32 }
      let v := match flow with
        | some f => setFlow f { s.flow f with next := (s.flow f).next + 1 } u
        | none => u
      exec (.shuttlePost t slot level mp flow arg) s = .next (shuttleDecide (enterLevel l p v))) ∧
    (∀ (l : Nat) (p : Thread) (s : State),
      let x := s.level l
      let told := trace 1 p.slot 0xFF l p.flow
      (x.waiting = [] → x.spill = [] → x.hwq.length < 16 →
        enterLevel l p s = told { s with g := { s.g with levels := nset s.g.levels l { x with hwq := x.hwq ++ [p] } } }) ∧
      (x.waiting = [] → x.spill ≠ [] ∨ 16 ≤ x.hwq.length → x.spill.length < 4096 →
        enterLevel l p s = trace 2 p.slot 0xFF l p.flow (told (bump 0x4008 15 0
          { s with g := { s.g with levels := nset s.g.levels l { x with spill := x.spill ++ [p] } } }))) ∧
      (x.waiting ≠ [] ∨ 4096 ≤ x.spill.length →
        let u := told { s with g := { s.g with
          levels := nset s.g.levels l { x with waiting := x.waiting ++ [p], bpFrom := some (x.bpFrom.getD s.t.now) } } }
        enterLevel l p s = if x.bpFrom = none then
          trace 8 p.slot 0xFF l p.flow (post 0x0809 l (leBytes 4 l) (bump 0x4008 31 16 u)) else u)) ∧
    (∀ (s : State) (f : Nat × Thread → Bool) (x y : Nat × Thread), s.readyList.find? f = some x → y ∈ s.readyList → f y = true → x.1 ≤ y.1) ∧
    (∀ (t e : Nat) (p : Thread) (l : Nat) (s : State), (s.exec? e).cur = some (p, l) →
      let u := trace 5 p.slot e l p.flow { advance t s with g := { s.g with
        running := s.g.running.erase p.slot, idleSince := nset s.g.idleSince e (max s.t.now t), ex := nset s.g.ex e Executor.reset } }
      (p.flow = none → exec (.shuttleThreadEnd t e) s = .next (shuttleDecide u)) ∧
      (∀ f q, p.flow = some (f, q) → exec (.shuttleThreadEnd t e) s =
        .next (shuttleDecide (flowEnd f q (some (p.slot, l)) u)))) ∧
    (∀ (t e : Nat) (p : Thread) (l : Nat) (s : State), (s.exec? e).cur = some (p, l) → (s.exec? e).preempt = true →
      exec (.shuttlePreemptPoint t e) s = .next (shuttleDecide { advance t s with g := { s.g with
        running := s.g.running.erase p.slot, ex := nset s.g.ex e Executor.reset,
        levels := nset s.g.levels l { s.level l with susp := (s.level l).susp ++ [p] } } }))

/-- A burst that comes alone is served at once. Where several wait, CROSSBAR_TRANSFER takes them one grant at a time, after those that
idle targets hold for their park masters; of reads of one lock that come together any may be first. Whatever masters 0-15 wait at a
target, the grant goes to one of them; to a low-class master that has waited through 16 high grants if there is one, else to the high
class if one of it waits, else to the low class; and within that choice to the first in order of number after the one its class was
granted last. A grant is remembered for its class and ends the master's wait; each low master that still waits while a high burst is
granted comes one nearer. Gives the next state that exec answers for CROSSBAR_TRANSFER. (R474) -/
def Obligations.CrossbarGrants : Prop :=
  (∀ (t : Nat) (b : Burst) (k o : Nat) (s : State), soundBurst b = true → b.master < 16 → targetOf b.addr = some (k, o) →
      exec (.crossbarTransfer t [b]) s = .next (granted k b.master [] (serveBurst b (advance t s)))) ∧
    (∀ (n : Nat) (bs : List Burst) (b : Burst) (s : State) (k o m : Nat), bs ≠ [] → (∀ b0 r, bs = b0 :: r → targetOf b0.addr = some (k, o)) →
      let here := fun (x : Burst) => match targetOf x.addr with
        | some (j, _) => decide (j = k)
        | none => false
      s.grantee k ((bs.filter here).map (fun x => x.master)) = some m → bs.find? (fun x => here x && x.master == m) = some b →
      let p := pickRival b bs s
      arbitrate (n + 1) bs s = arbitrate n (bs.erase p.1)
        (granted k p.1.master ((((bs.erase p.1).filter here).map (fun x => x.master)).eraseDups) (serveBurst p.1 p.2)) ∧
      (lockRead b = none → p = (b, s))) ∧
    (∀ (s : State) (k : Nat) (ms : List Nat), (∀ m ∈ ms, m < 16) → ms ≠ [] →
      let due := fun (m : Nat) => decide (m < 8) && decide (16 ≤ s.starved k m)
      let choice := fun (m : Nat) => if ms.any due then due m else if ms.any (fun x => decide (8 ≤ x)) then decide (8 ≤ m) else decide (m < 8)
      let c := if ms.any due then 0 else if ms.any (fun x => decide (8 ≤ x)) then 1 else 0
      ∃ m i, s.grantee k ms = some m ∧ m ∈ ms ∧ choice m = true ∧ i < 16 ∧ m = (nget 15 s.g.granted (2 * k + c) + 1 + i) % 16 ∧
        ∀ j, j < i → ∀ x ∈ ms, choice x = true → x ≠ (nget 15 s.g.granted (2 * k + c) + 1 + j) % 16) ∧
    (∀ (s : State) (k m : Nat) (ms : List Nat),
      let ended := ndel s.g.starve (16 * k + m)
      granted k m ms s = { s with g := { s.g with
        granted := nset s.g.granted (2 * k + classOf m) m,
        starve := if m < 8 then ended else
          (ms.filter (fun x => decide (x < 8))).foldl (fun a x => nset a (16 * k + x) (nget 0 ended (16 * k + x) + 1)) ended } })

/-- Accepted with reserved bytes 0: BOB_QUERY to an aligned address writes the 16 channel entries; TRACE_SET with known kinds sets the
enable, kinds and levels; XBR_CFG takes up the park masters where asked and, where asked to store the latch bitmap with the ledger up,
queues a boot record that holds it, with the difference from the latches in force as its answer, or ends with LEDGER_FULL, the full
boot region told. BLOCK_RESET with the core domain up, in this order: the block's own bursts are cut, the locks of its masters
released, their mailboxes cleared, bursts to it cut, its state reset, and its masters' epochs raised by 1 modulo 256. Gives the next
state that exec answers for BOB_QUERY, TRACE_SET, XBR_CFG, BLOCK_RESET. (R479, R480, R481, R487, R488, R506, R509, R510, 15_fabric.md) -/
def Obligations.FabricCommands : Prop :=
  (∀ (c : HostCmd) (s : State), s.accepts c bobQueryInfo = true → parZero c 48 16 = true → par c 0 8 % 8 = 0 →
      exec (.bobQuery c) s = .next (s.ended c bobQueryInfo (.of stOK)
        (writeHost (par c 0 8) ((List.range 16).foldr (fun k acc => (s.taken c bobQueryInfo).bobEntry k ++ acc) [])))) ∧
    (∀ (c : HostCmd) (s : State), s.accepts c traceSetInfo = true → parZero c 48 16 = true → par c 8 1 < 2 → par c 16 2 < 512 →
      exec (.traceSet c) s = .next (s.ended c traceSetInfo (.of stOK) (fun u => { u with g := { u.g with
        traceEn := bitOf (par c 8 1) 0, kinds := par c 16 2, levelMask := par c 20 4 } }))) ∧
    (∀ (c : HostCmd) (s : State), s.accepts c xbrCfgInfo = true → parZero c 48 16 = true → par c 8 1 < 4 →
      let u := s.taken c xbrCfgInfo
      let v : State := if bitOf (par c 8 1) 0 then setReg 0x6024 (BitVec.ofNat 32 (par c 13 3)) (setReg 0x6020 (BitVec.ofNat 32 (par c 9 4)) u) else u
      (bitOf (par c 8 1) 1 = false → exec (.xbrCfg c) s = .next (complete (s.waiterOf c xbrCfgInfo) (.of stOK) v)) ∧
      (bitOf (par c 8 1) 1 = true → (xbrLatches c).all (fun x => decide (x < 2 ^ 14)) = true → s.ledgerUp = true →
        exec (.xbrCfg c) s = .next (match appendRecord 0 1 0 ({ v.boot with latch := xbrLatches c }).bytes (.complete (s.waiterOf c xbrCfgInfo)
            (b2n (anyTo 16 (fun m => decide ((v.reg (0x6040 + 4 * m)).toNat ≠ lget 0 (xbrLatches c) m)))) 0) v with
          | some x => x
          | none => complete (s.waiterOf c xbrCfgInfo) (.of stLedgerFull) (regionFull 0 v)))) ∧
    (∀ (t : Nat) (b : Block) (cuts : List CutBurst) (s : State), s.coreUp = true →
      let own := fun (x : CutBurst) => (blockMasters b).contains x.burst.master
      let into := fun (x : CutBurst) => !own x && (match targetOf x.burst.addr with
        | some (t, o) => blockServes b t o
        | none => false)
      let u1 := (cuts.filter own).foldl (fun st x => cutBurst x st) (advance t s)
      let u2 := (blockMasters b).foldl (fun st m => clearReceiver m st) ((blockMasters b).foldl (fun st m => releaseLocks m st) u1)
      let u3 := resetBlock b ((cuts.filter into).foldl (fun st x => targetCut x st) u2)
      exec (.blockReset t b cuts) s = .next ((blockMasters b).foldl (fun st m => nextEpoch m st) u3)) ∧
    (∀ (m : Nat) (s : State), nget 0 (nextEpoch m s).g.epochs m = (nget 0 s.g.epochs m + 1) % 256)

/-- Accepted outside Dormant with reserved bytes 0: AES_CFG and TDM_CFG with sound records, an aligned block and a pick in range go on the
list for it, unless a route of the active or committed set would then join different rates (REJECTED_RATE), a slave direction name a
stopped TDM output (BAD_PARAM), or the pick's budget not hold (REJECTED_BUDGET). GROUP_SET with a group below 8 and triggers that are
free for their action names the group's triggers at once. AES_CS_SET and AES_USER_SET leave their block for the transmitter's next
block; AES_USER_GET writes the two user blocks last received. Gives the next state that exec answers for AES_CFG, TDM_CFG, GROUP_SET,
AES_CS_SET, AES_USER_SET, AES_USER_GET. (R224, R356, R359, R360, R364, R370, R371, 11_audio_ports.md) -/
def Obligations.PortCommands : Prop :=
  (∀ (c : HostCmd) (s : State) (q : Nat) (late : Bool), s.accepts c aesCfgInfo = true → s.inDormant = false → portRsv c = true → 1 ≤ par c 8 2 →
      par c 8 2 ≤ 16 → par c 0 8 % 8 = 0 → (records16 (fit (16 * par c 8 2) c.data)).all aesRecordOk = true →
      (s.taken c aesCfgInfo).slotAt (par c 16 8) = some (q, late) →
      let v := s.asked c aesCfgInfo q late (.aesCfg (fit (16 * par c 8 2) c.data))
      exec (.aesCfg c) s = .next (if v.rateBroken (v.planned.configAt ((s.taken c aesCfgInfo).judgePick q)) then s.ended c aesCfgInfo (.of stRate) id
        else if v.inBudget q then v else s.ended c aesCfgInfo (.of stBudget) id)) ∧
    (∀ (c : HostCmd) (s : State) (q : Nat) (late : Bool), s.accepts c tdmCfgInfo = true → s.inDormant = false → portRsv c = true → 1 ≤ par c 8 2 →
      par c 8 2 ≤ 8 → par c 0 8 % 8 = 0 → (records16 (fit (16 * par c 8 2) c.data)).all tdmRecordOk = true →
      (s.taken c tdmCfgInfo).slotAt (par c 16 8) = some (q, late) →
      let v := s.asked c tdmCfgInfo q late (.tdmCfg (fit (16 * par c 8 2) c.data))
      let k := v.planned.configAt ((s.taken c tdmCfgInfo).judgePick q)
      exec (.tdmCfg c) s = .next (if (records16 (fit (16 * par c 8 2) c.data)).any (slaveStopped k) then s.ended c tdmCfgInfo (.of stParam) id
        else if v.rateBroken k then s.ended c tdmCfgInfo (.of stRate) id else if v.inBudget q then v else s.ended c tdmCfgInfo (.of stBudget) id)) ∧
    (∀ (c : HostCmd) (s : State), s.accepts c groupSetInfo = true → s.inDormant = false → portRsv c = true → par c 11 1 < 8 →
      s.trigFree (par c 12 1) 1 = true → s.trigFree (par c 13 1) 2 = true →
      exec (.groupSet c) s = .next (s.ended c groupSetInfo (.of stOK) (fun u => setGrp (par c 11 1) { s.grp (par c 11 1) with
        start := if par c 12 1 = 0xFF then none else some (par c 12 1)
        stop := if par c 13 1 = 0xFF then none else some (par c 13 1) } u))) ∧
    (∀ (c : HostCmd) (s : State), s.inDormant = false → portRsv c = true → par c 10 1 < 16 → par c 0 8 % 8 = 0 →
      (s.accepts c aesCsSetInfo = true → exec (.aesCsSet c) s = .next (s.ended c aesCsSetInfo (.of stOK)
        (setTx (par c 10 1) { s.tx (par c 10 1) with csNext := some (fit 24 c.data) }))) ∧
      (s.accepts c aesUserSetInfo = true → exec (.aesUserSet c) s = .next (s.ended c aesUserSetInfo (.of stOK)
        (setTx (par c 10 1) { s.tx (par c 10 1) with userNext := some (fit 48 c.data) }))) ∧
      (s.accepts c aesUserGetInfo = true → exec (.aesUserGet c) s = .next (s.ended c aesUserGetInfo (.of stOK)
        (writeHost (par c 0 8) ((s.rx (par c 10 1)).userA ++ (s.rx (par c 10 1)).userB)))))

/-- PORT_INPUT_FRAME of a running TDM input is accepted as the sample that has just ended, each slot's upper 24 bits, and is an edge of a
slave's check; at an AES3 receiver it is its two subframes. A frame too many is an overrun. AES_RX_LOCK of an enabled, unlocked
receiver with 1,536 valid frames within 50 ppm locks it, mutes it until a block is kept and posts 0x0301; AES_RX_UNLOCK of a locked
one, for the first of R353's reasons that holds, mutes it, begins anew and posts 0x0302; AES_NONAUDIO_UNMUTE after 8,192 clean frames
ends non-audio with 0x0304. PORT_OUTPUT_FRAME, data plane running: a stopped output sends nothing; another sends its words, zero
outside its audio, cut-through words where such a route feeds it, and repeats and counts as an underrun what the core has not written;
a transmitter adds C, user bits and Z of its block. AES_TX_LEAD_END after ZB blocks starts the audio, the next lead, or idleness.
TDM_SLAVE_UNRELATED where a check's condition holds, and TDM_SLAVE_RESUME 1 s after the last one, change the direction with 0x0307 and
0x0308. GROUP_FIRST_REAL_FRAME of a running group, once the frame has started, posts 0x0309. Reason codes of 0x0302 are the model's
(log 24). Gives the next state that exec answers for GROUP_FIRST_REAL_FRAME, PORT_INPUT_FRAME, AES_RX_LOCK, AES_RX_UNLOCK,
AES_NONAUDIO_UNMUTE, PORT_OUTPUT_FRAME, AES_TX_LEAD_END, TDM_SLAVE_UNRELATED, TDM_SLAVE_RESUME. (R345, R346, R347, R348, R349, R350,
R352, R353, R357, R359, R361, R365) -/
def Obligations.PortRows : Prop :=
  (∀ (t p : Nat) (slots : List Nat) (subs : List Subframe) (s : State), p < 8 → (s.tin p).run = true →
      let now := max s.t.now t
      let u := if (s.tdm p).inSlave then setChk (2 * p) ((s.chk (2 * p)).edge s.fs now) (advance t s) else advance t s
      let n := slotsAt s.fs
      exec (.portInputFrame t p slots subs) s = .next (acceptFrame p (sampleOf s.fs (now - 1))
        ((List.range n).map (fun i => signed 24 (lget 0 slots i / 256 % 2 ^ 24)))
        ((List.range n).map (fun i => now - 65536 * 1000000000 / s.fs * (n - 1 - i) / n)) u)) ∧
    (∀ (t p : Nat) (slots : List Nat) (a b : Subframe) (r : List Subframe) (s : State), 8 ≤ p → p < 24 →
      exec (.portInputFrame t p slots (a :: b :: r)) s = .next (aesFrame (p - 8) a b (advance t s))) ∧
    (∀ (p k : Nat) (vals : List Int) (ends : List Nat) (s : State), k < s.inputNext p → acceptFrame p k vals ends s = slip p 0 1 k s) ∧
    (∀ (t p : Nat) (s : State), p < 16 → (s.aes p).rxEn = true → (s.rx p).lock = false → (s.rx p).good = 1536 → rateOk s.fs (s.rx p).ends = true →
      exec (.aesRxLock t p) s = .next (post 0x0301 (8 + p) [] (setRx p { s.rx p with
        lock := true, since := false, next := sampleOf s.fs (max s.t.now t), muted := true } (advance t s)))) ∧
    (∀ (t p code : Nat) (s : State), (s.rx p).lock = true → (advance t s).unlockReason p = some code →
      exec (.aesRxUnlock t p) s = .next (post 0x0302 (8 + p) (leBytes 1 code) (setRx p { s.rx p with
        lock := false, since := false, pos := none, good := 0, zPos := none, viol := 0, ends := [], muted := true } (advance t s)))) ∧
    (∀ (t p : Nat) (s : State), (s.rx p).nonaudio = true → 8192 ≤ (s.rx p).clean →
      exec (.aesNonaudioUnmute t p) s = .next (post 0x0304 (8 + p) [] (setRx p { s.rx p with
        nonaudio := false, muted := !(s.rx p).lock || !(s.rx p).since } (advance t s)))) ∧
    (∀ (t p : Nat) (s : State), s.m.dpRun = true → p < 24 →
      let now := max s.t.now t
      let m := frameAt (s.outRate p) (s.outOfs p) now
      let d : OutDir := { (s.dir p).atFrame (decide (p < 8)) m with frame := m }
      let u := if p < 8 ∧ (s.tdm p).outSlave ∧ ¬ d.unrelated then setChk (2 * p + 1) ((s.chk (2 * p + 1)).edge (s.outRate p) now) (advance t s)
        else advance t s
      let v := setA (fun a => { a with driven := nset a.driven p (u.outputsDrive && decide (d.st ≠ 0)) }) (setDir p d u)
      (d.st = 0 → exec (.portOutputFrame t p) s = .next (putSent p [] v)) ∧
      (d.st ≠ 0 →
        let live := v.outLive d m
        let words := (v.outCodes p).map (fun c => if live then (match v.cutInto m c with
          | some x => some x
          | none => v.outWord (s.outRate p) m c) else some 0)
        let x := if live && words.any (·.isNone) then slip p 1 0 m v else v
        let vals := words.zipIdx.map (fun w => w.1.getD (lget 0 (nget [] v.a.sent p) w.2))
        let y := setA (fun a => { a with cutNext := a.cutNext.filter (fun z => !((x.outCodes p).contains z.2.1 && decide (z.1 ≤ m))) }) x
        (p < 8 → exec (.portOutputFrame t p) s = .next (setDir p { d with sent := d.sent + 1 } (putSent p vals y))) ∧
        (8 ≤ p →
          let e := y.tx (p - 8)
          let e := if d.sent = 0 ∧ d.st = 1 then { e with pos := 0 } else e
          let e := if e.pos = 0 then { e with cs := e.csNext.getD e.cs, csNext := none, user := e.userNext.getD e.user, userNext := none } else e
          let cs := y.csSent (p - 8) e.cs
          let bit := fun (b : List Byte) (o : Nat) => b2n (bitOf (byteAt b (o + e.pos / 8)) (e.pos % 8))
          let tail : List Int := [(bit cs 0 : Nat), (bit e.user 0 : Nat), (bit e.user 24 : Nat), (b2n (decide (e.pos = 0)) : Nat)]
          exec (.portOutputFrame t p) s = .next (setDir p { d with sent := d.sent + 1 }
            (setTx (p - 8) { e with pos := (e.pos + 1) % 192 } (putSent p (vals ++ tail) y)))))) ∧
    (∀ (t q : Nat) (s : State), q < 16 → 192 * (s.aes q).zb ≤ (s.dir (8 + q)).sent →
      let d := s.dir (8 + q)
      (d.st = 1 → exec (.aesTxLeadEnd t q) s = .next (setDir (8 + q) { d with st := 2, sent := 0 } (advance t s))) ∧
      (d.st = 3 → exec (.aesTxLeadEnd t q) s = .next (setDir (8 + q)
        (if d.pending then { d with st := 1, sent := 0, pending := false, startAt := none } else { d with st := 0, sent := 0, stopAt := none }) (advance t s)))) ∧
    (∀ (t p dir : Nat) (s : State), p < 8 → s.isSlave p dir = true →
      let k := 2 * p + min dir 1
      let x := s.chk k
      let now := max s.t.now t
      (s.unrelated p dir = false → x.bad = true ∨ x.missing (s.slaveRate p dir) now = true →
        exec (.tdmSlaveUnrelated t p dir) s = .next (post 0x0307 p [] (setUnrelated p dir true (setChk k { x with badAt := now } (advance t s))))) ∧
      (s.unrelated p dir = true → x.badAt + secU ≤ now → (dir = 0 → x.missing s.fs now = false) →
        exec (.tdmSlaveResume t p dir) s = .next (post 0x0308 p [] (setUnrelated p dir false (setChk k { SlaveChk.reset with pos := x.pos } (advance t s)))))) ∧
    (∀ (t g : Nat) (s : State), g < 8 → (s.grp g).running = true → (s.grp g).real = false → frameStart s.fs 0 (s.grp g).firstReal ≤ max s.t.now t →
      exec (.groupFirstRealFrame t g) s = .next (post 0x0309 g [] (setGrp g { s.grp g with real := true } (advance t s))))

/-- Outside Dormant, accepted, reserved bytes 0, block aligned: MAC_CFG with sound records goes on the list for its pick. GATE_LOAD of a
sound list fills the inactive copy, BUSY while a swap waits. GATE_SWAP of a filled copy waits for its pick, whose first cycle start at
or after it will serve it, supersedes one for the same pick, and is BUSY behind one for another. STRM_SET with records in range, no
overlap, windows that fit, matching rates and an admitted configuration goes on the list; else it ends by the first that fails.
STRM_QUERY writes 512 entries. In any mode MG_CFG, WAKE_SET and MCAST_SET with a sound block set what they name. The order of
STRM_SET's checks is the model's (log 51). Gives the next state that exec answers for MAC_CFG, GATE_LOAD, GATE_SWAP, STRM_SET,
STRM_QUERY, MG_CFG, WAKE_SET, MCAST_SET. (R373, R376, R380, R382, R384, R393, R394, R400, R402, R404, R405, R666) -/
def Obligations.NetworkCommands : Prop :=
  (∀ (c : HostCmd) (s : State) (q : Nat) (late : Bool), s.accepts c macCfgInfo = true → s.inDormant = false → netRsv c = true → 1 ≤ par c 8 2 →
      par c 8 2 ≤ 4 → par c 0 8 % 8 = 0 → (records16 (fit (16 * par c 8 2) c.data)).all macRecordOk = true →
      (s.taken c macCfgInfo).slotAt (par c 16 8) = some (q, late) →
      exec (.macCfg c) s = .next (s.asked c macCfgInfo q late (.macCfg (fit (16 * par c 8 2) c.data)))) ∧
    (∀ (c : HostCmd) (s : State), s.accepts c gateLoadInfo = true → s.inDormant = false → netRsv c = true → par c 10 1 < 4 → 1 ≤ par c 8 2 →
      par c 8 2 ≤ 128 → par c 0 8 % 8 = 0 → gateListOk (par c 11 1) (par c 8 2) (fit (4 * par c 8 2) c.data) = true →
      let m := s.mac (par c 10 1)
      (m.swap.isSome = true → exec (.gateLoad c) s = .next (s.ended c gateLoadInfo (.of stBusy) id)) ∧
      (m.swap = none → exec (.gateLoad c) s = .next (s.ended c gateLoadInfo (.of stOK) (setMac (par c 10 1) { m with
        nextGates := some { cycle := par c 11 1, ents := (List.range (par c 8 2)).map (gateEnt (fit (4 * par c 8 2) c.data)) } })))) ∧
    (∀ (c : HostCmd) (s : State) (g : GateList) (p0 : Nat) (late : Bool), s.accepts c gateSwapInfo = true → s.inDormant = false → netRsv c = true →
      par c 10 1 < 4 → (s.mac (par c 10 1)).nextGates = some g → (s.taken c gateSwapInfo).slotAt (par c 16 8) = some (p0, late) →
      let m := s.mac (par c 10 1)
      let w := s.waiterOf c gateSwapInfo
      let q := (p0 + g.cycle - 1) / g.cycle * g.cycle
      let u := setMac (par c 10 1) { m with swap := some (p0, late, w) } (s.taken c gateSwapInfo)
      (m.swap = none → exec (.gateSwap c) s = .next u) ∧
      (∀ old lt w0, m.swap = some (old, lt, w0) → exec (.gateSwap c) s = .next
        (if (s.taken c gateSwapInfo).standsFor old = (s.taken c gateSwapInfo).standsFor p0 then complete w0 { Ending.atPick q lt with superseded := true } u else s.ended c gateSwapInfo (.of stBusy) id))) ∧
    (∀ (c : HostCmd) (s : State) (q : Nat) (late : Bool), s.accepts c strmSetInfo = true → s.inDormant = false → netRsv c = true → 1 ≤ par c 8 2 →
      par c 8 2 ≤ 512 → par c 0 8 % 8 = 0 → (s.taken c strmSetInfo).slotAt (par c 16 8) = some (q, late) →
      let recs := fit (48 * par c 8 2) c.data
      let v := s.asked c strmSetInfo q late (.streams recs)
      let k := v.planned.configAt ((s.taken c strmSetInfo).judgePick q)
      exec (.strmSet c) s = .next (
        if (records48 recs).all k.streamRecordOk = false ∨ streamsOverlap k.n.cfgs = true then s.ended c strmSetInfo (.of stParam) id
        else if allTo 4 (k.streamsFit k.n.cfgs) = false then s.ended c strmSetInfo (.of stResource) id
        else if s.rateBroken k then s.ended c strmSetInfo (.of stRate) id
        else if v.inBudget q = false then s.ended c strmSetInfo (.of stBudget) id
        else v)) ∧
    (∀ (c : HostCmd) (s : State), s.accepts c strmQueryInfo = true → s.inDormant = false → netRsv c = true → par c 0 8 % 8 = 0 →
      exec (.strmQuery c) s = .next (s.ended c strmQueryInfo (.of stOK)
        (writeHost (par c 0 8) ((List.range 512).foldr (fun k acc => s.streamEntry k ++ acc) [])))) ∧
    (∀ (c : HostCmd) (s : State), netRsv c = true → par c 0 8 % 8 = 0 →
      (s.accepts c mgCfgInfo = true → mgRecordOk (fit 16 c.data) = true → exec (.mgCfg c) s = .next (s.ended c mgCfgInfo (.of stOK)
        (setMg (fun m => { m with ctl := getLE (fit 16 c.data) 0 4, addr := ((fit 16 c.data).drop 4).take 6, lpiIdle := getLE (fit 16 c.data) 10 2 })))) ∧
      (s.accepts c wakeSetInfo = true → (∀ i < 16, byteAt (fit 320 c.data) (20 * i + 18) < 2 ∧ byteAt (fit 320 c.data) (20 * i + 19) = 0) →
        exec (.wakeSet c) s = .next (s.ended c wakeSetInfo (.of stOK)
          (setMg (fun m => { m with wake := (List.range 16).map (wakePattern (fit 320 c.data)) })))) ∧
      (s.accepts c mcastSetInfo = true → (∀ i < 32, byteAt (fit 256 c.data) (8 * i + 6) < 2 ∧ byteAt (fit 256 c.data) (8 * i + 7) = 0) →
        let tab := (List.range 32).map (fun i => (((fit 256 c.data).drop (8 * i)).take 6, bitOf (byteAt (fit 256 c.data) (8 * i + 6)) 0))
        exec (.mcastSet c) s = .next (s.ended c mcastSetInfo (.of stOK) (setMg (fun m => { m with mcast := tab })))))

/-- MEDIA_FRAME_RX of an enabled port with its link: a frame that finds the receive FIFO full is dropped and counted; a runt or a bad FCS
only counts; a good frame of another address counts as filtered; one that its receive stream matches is counted and waits with its
corrected stamp. RTP_PACKET_RX takes the packet that waits longest; one whose shape is wrong counts as malformed. STREAM_CLAIM_EXPIRY:
4 picks with no packet make the stream ineligible. MEDIA_LINK_DOWN of an enabled port that is up discards and counts what waits and
posts 0x0402, and on the configured time port with a backup moves the time to it with 0x0208; MEDIA_LINK_UP of one that is down posts
0x0401. GATE_ENTRY_CHANGE shows the entry in force. MEDIA_FRAME_TX_START, the port idle with its link: the stream class's first frame,
in time and let by its gate, starts and counts; with no such frame waiting, the other class's first one does, where its gate lets it.
STREAM_TX_LATE drops, counts and tells a packet that has not started within a pick, and then judges those behind it. Gives the next
state that exec answers for MEDIA_FRAME_RX, RTP_PACKET_RX, STREAM_CLAIM_EXPIRY, MEDIA_LINK_DOWN, MEDIA_LINK_UP, GATE_ENTRY_CHANGE,
MEDIA_FRAME_TX_START, STREAM_TX_LATE. (R41, R372, R373, R377, R379, R380, R381, R383, R389, R390, R391, R534) -/
def Obligations.MediaRows : Prop :=
  (∀ (t p : Nat) (f : List Byte) (s : State), p < 4 → (s.mac p).cfg.en = true → (s.mac p).link = true →
      let m := s.mac p
      let u := advance t s
      let acc := filterAccepts m.cfg.addr (s.mediaGroups p) m.cfg.promisc f
      (4096 ≤ s.rxFifo p → exec (.mediaFrameRx t p f) s = .next (setMac p { m with fifoDrops := m.fifoDrops + 1 } u)) ∧
      (s.rxFifo p < 4096 →
        (f.length ≤ 63 → exec (.mediaFrameRx t p f) s = .next (bump (0xD030 + 4 * p) 7 0 u)) ∧
        (63 < f.length → f.length ≤ maxfBytes m.cfg.maxf →
          (fcsGood f = false → exec (.mediaFrameRx t p f) s = .next (bump (0xD030 + 4 * p) 15 8 u)) ∧
          (fcsGood f = true → acc = false → exec (.mediaFrameRx t p f) s = .next (bump (0xD040 + 4 * p) 31 0 u)) ∧
          (∀ k pay, fcsGood f = true → acc = true → s.streamFor p f = some (k, pay) →
            let v := bump (0xD020 + 4 * p) 31 0 u
            let x : RtpIn := { port := p, len := f.length, stream := k, at_ := v.stampIn p (max s.t.now t), pay := pay }
            exec (.mediaFrameRx t p f) s = .next (setN (fun n => { n with rtpQ := n.rtpQ ++ [x] }) v))))) ∧
    (∀ (t : Nat) (x : RtpIn) (r : List RtpIn) (s : State), s.n.rtpQ = x :: r →
      let u := setN (fun n => { n with rtpQ := r }) (advance t s)
      let k := x.stream
      let b := x.pay
      exec (.rtpPacketRx t) s = .next (rtpPacket k x.at_ b u) ∧
      (k < 256 → (s.strm k).en = true → byteAt b 0 / 64 ≠ 2 ∨ bitOf (byteAt b 0) 5 = true ∨ byteAt b 0 % 16 ≠ 0 ∨
          (rtpPayload b).length ≠ 3 * (s.strm k).nch * (s.strm k).ptime ∨ byteAt b 1 % 128 ≠ (s.strm k).pt ∨
          ((s.strm k).ssrc ≠ 0 ∧ getBE b 8 4 ≠ (s.strm k).ssrc) →
        exec (.rtpPacketRx t) s = .next (setStrm k { s.sstat k with malformed := satN 0xFFFF ((s.sstat k).malformed + 1) } u))) ∧
    (∀ (t k : Nat) (s : State), (s.sstat k).eligible = true → (s.sstat k).lastAt + 4 * s.t.pickLen * 65536 * 1000000000 / s.fs ≤ max s.t.now t →
      exec (.streamClaimExpiry t k) s = .next (setStrm k { s.sstat k with eligible := false } (advance t s))) ∧
    (∀ (t p : Nat) (s : State), p < 4 → (s.mac p).cfg.en = true →
      ((s.mac p).link = true →
        let u := dropQueues p (advance t s)
        let v := if p = s.t.cfgPort then setT (fun t => { t with portUpSince := none }) u else u
        let x := if p = s.t.ptpPort ∧ p = s.t.cfgPort ∧ s.t.backupEn = true ∧ s.t.backup ≠ p
          then post 0x0208 0 [] (setT (fun t => { t with ptpPort := t.backup }) v) else v
        exec (.mediaLinkDown t p) s = .next (post 0x0402 p [] (setMac p { x.mac p with link := false } x))) ∧
      ((s.mac p).link = false →
        let v := if p = s.t.cfgPort then setT (fun k => { k with portUpSince := some k.now }) (advance t s) else advance t s
        exec (.mediaLinkUp t p) s = .next (post 0x0401 p [] (setMac p { v.mac p with link := true } v)))) ∧
    (∀ (t p : Nat) (s : State), p < 4 →
      let m := s.mac p
      exec (.gateEntryChange t p) s = .next (setMac p { m with
        entry := (entryAt m.gates.ents (gatePlace s.fs s.t.pickLen m.gates.cycle (max s.t.now t)).2 0 0).1 } (advance t s))) ∧
    (∀ (t p : Nat) (f : TxFrame) (r : List TxFrame) (s : State), (s.mac p).cfg.en = true → (s.mac p).link = true → (s.mac p).busyTo ≤ max s.t.now t →
      let u := advance t s
      let sent := fun x : State => bump (0xD050 + 4 * p) 31 0 x
      let gone := fun x : State => setMac p { x.mac p with busyTo := max s.t.now t + txTime (x.mac p).cfg.speed25 f.len, last := f.bytes } x
      (∀ k, (s.mac p).streamQ = f :: r → f.stream = some k → u.isLate f = false → u.txChoice p true f = .send →
        (∀ g l, (s.mac p).otherQ = g :: l → u.txChoice p false g ≠ .drop) →
        let v := gone (sent (setMac p { s.mac p with streamQ := r } u))
        exec (.mediaFrameTxStart t p) s = .next (setStrm k { v.sstat k with packets := satN 0xFFFFFFFF ((v.sstat k).packets + 1) } v)) ∧
      ((s.mac p).streamQ = [] → (s.mac p).otherQ = f :: r → f.stream = none → u.txChoice p false f = .send →
        exec (.mediaFrameTxStart t p) s = .next (gone (sent (setMac p { s.mac p with otherQ := r } u))))) ∧
    (∀ (t p k : Nat) (f : TxFrame) (r : List TxFrame) (s : State), (s.mac p).streamQ = f :: r → f.stream = some k → s.pickAt (f.queued + 1) < max s.t.now t →
      let u := setMac p { s.mac p with streamQ := r } (advance t s)
      let v := post 0x0407 p [] (setStrm k { u.sstat k with late := satN 0xFFFF ((u.sstat k).late + 1) } u)
      exec (.streamTxLate t p) s = .next (dropLate p r.length v))

/-- MG_FRAME_RX of an enabled port whose link is up and not renegotiating, no wake frame held: a runt counts; a frame that is too long
counts and goes on cut to MAXF; one with a bad FCS counts, and goes on only where errored frames pass. A frame that goes on and that
the filter refuses is gone, counted as dropped only in Dormant; in Dormant an accepted one is matched against the wake patterns;
otherwise it goes to MQ0 by the descriptor at its head, or counts as dropped with none. A wake frame held goes to MQ0, marked, once
MQ0 has a descriptor outside Dormant. MG_FRAME_SENT of a frame that waits in MQ1 writes back MQ1's head, keeps what was sent, counts
it and signals vector 4. MG_TRAFFIC_WINDOW, 1 s after the last, ends the window and starts a lowering, event 0x0410, after HOLD low
ones; sooner, only time passes. MG_AUTONEG_DONE takes up speed and link, and starts a raise, 0x0411, that waited for a lowering.
MG_LPI_ENTER after LPI_IDLE of an empty queue enters low-power idle. Gives the next state that exec answers for MG_FRAME_RX,
MG_FRAME_SENT, MG_TRAFFIC_WINDOW, MG_AUTONEG_DONE, MG_LPI_ENTER. (R395, R396, R397, R398, R399, R401, R461, 12_media_network.md) -/
def Obligations.ManagementPortRows : Prop :=
  (∀ (t : Nat) (f : List Byte) (descs : List (List Byte)) (s : State), s.n.mg.held = none → s.n.mg.bit 0 = true → s.n.mg.negotiating = false → s.n.mg.link = true →
      let u := setMg (fun m => { m with rxBytes := m.rxBytes + f.length }) (advance t s)
      let dropped := fun w : State => bump 0xD210 31 24 w
      let take := fun (trunc bad : Bool) (g : List Byte) (w : State) =>
        if filterAccepts s.n.mg.addr ((s.n.mg.mcast.filter (·.2)).map (·.1)) (s.n.mg.bit 4) g = false then
          (if s.m.retention then dropped w else w)
        else if s.m.retention then mgDormantRx g w
        else match descs with
          | d :: _ => if s.ringOn 12 = true ∧ 0 < (s.ring 12).waiting then deliverMq0 d g trunc bad false w else dropped w
          | [] => dropped w
      (f.length ≤ 63 → exec (.mgFrameRx t (some f) descs) s = .next (bump 0xD210 7 0 u)) ∧
      (63 < f.length → s.n.mg.maxf < f.length →
        exec (.mgFrameRx t (some f) descs) s = .next (take true false (f.take s.n.mg.maxf) (bump 0xD210 23 16 u))) ∧
      (63 < f.length → f.length ≤ s.n.mg.maxf → exec (.mgFrameRx t (some f) descs) s = .next
        (if fcsGood f then take false false f u else if s.n.mg.bit 3 then take false true f (bump 0xD210 15 8 u) else bump 0xD210 15 8 u))) ∧
    (∀ (t : Nat) (f d : List Byte) (r : List (List Byte)) (s : State), s.n.mg.held = some f → s.ringOn 12 = true → 0 < (s.ring 12).waiting →
      s.inDormant = false →
      exec (.mgFrameRx t none (d :: r)) s = .next (deliverMq0 d f false false true (setMg (fun m => { m with held := none }) (advance t s)))) ∧
    (∀ (t : Nat) (desc data : List Byte) (s : State), s.ringOn 13 = true → (s.ring 13).waiting ≠ 0 → s.n.mg.negotiating = false → s.n.mg.bit 0 = true → s.n.mg.link = true →
      let len := max 60 (getLE desc 8 2)
      let u := writeBack 13 (desc.take 10 ++ leBytes 2 (getLE desc 10 2 / 2 * 2 + b2n (s.ring 13).phase) ++ fit 4 (desc.drop 12)) (advance t s)
      exec (.mgFrameSent t desc data) s = .next (signal 4 (bump 0xD20C 31 0 { u with n := { u.n with
        sentMg := fit len data
        mg := { u.n.mg with
                txBytes := u.n.mg.txBytes + (len + 4), emptySince := if (u.ring 13).waiting = 0 then some u.t.now else none } } }))) ∧
    (∀ (t : Nat) (s : State),
      let m := s.n.mg
      let low := m.bit 1 && decide (m.speed = 2) && m.link && decide (max m.rxBytes m.txBytes * 8 * 100 < m.lowPct * 1000000000)
      let n := if low then m.low + 1 else 0
      let u := setMg (fun m => { m with windowAt := max s.t.now t, rxBytes := 0, txBytes := 0, low := n, sinceRaise := m.sinceRaise + 1 }) (advance t s)
      (max s.t.now t < m.windowAt + secU → exec (.mgTrafficWindow t) s = .next (advance t s)) ∧
      (m.windowAt + secU ≤ max s.t.now t → exec (.mgTrafficWindow t) s = .next
        (if m.bit 1 = true ∧ m.speed = 2 ∧ m.link = true ∧ m.negotiating = false ∧ m.hold ≤ n ∧ m.hold ≤ m.sinceRaise + 1
        then post 0x0410 0 [] (setMg (fun m => { m with negotiating := true, toHigh := false, low := 0 }) u) else u))) ∧
    (∀ (t speed : Nat) (link p1000 : Bool) (s : State),
      let m := s.n.mg
      let u := setMg (fun m => { m with
        negotiating := false, speed := min speed 2, link := link, partner1000 := p1000, lpi := false,
        lowered := if m.negotiating then !m.toHigh else m.lowered, sinceRaise := if m.negotiating && m.toHigh then 0 else m.sinceRaise }) (advance t s)
      exec (.mgAutonegDone t speed link p1000) s = .next (if m.negotiating = true ∧ m.toHigh = false ∧ m.pending = true
        then post 0x0411 0 [] (setMg (fun m => { m with pending := false, negotiating := true, toHigh := true, low := 0 }) u) else u)) ∧
    (∀ (t e : Nat) (s : State), s.n.mg.emptySince = some e → s.n.mg.bit 2 = true → 1 ≤ s.n.mg.speed → s.n.mg.link = true → s.n.mg.lpi = false →
      e + s.n.mg.lpiIdle * usU ≤ max s.t.now t →
      exec (.mgLpiEnter t) s = .next (setMg (fun m => { m with lpi := true }) (advance t s)))

/-- Accepted with reserved bytes 0: TIME_CFG in range takes up its settings, and a change of profile, domain or ports restarts PTP on the
configured port; then the selected reference is chosen anew by the priorities. TIME_QUERY to an aligned address writes 64 bytes, whose
values the spec does not give (log 18). TIME_SET with no data plane running steps device time to its value, and with it the stamps
that waits are measured from (log 90), and while it runs completes with NOT_IN_MODE. TIME_CORR_SET sets the board corrections of a
port below 4. Gives the next state that exec answers for TIME_CFG, TIME_QUERY, TIME_SET, TIME_CORR_SET. (R406, R407, R410, R413, R415,
R418, R432, R433, 13_time.md) -/
def Obligations.TimeCommands : Prop :=
  (∀ (c : HostCmd) (s : State), s.accepts c timeCfgInfo = true → par c 27 1 < 16 → par c 28 1 ≤ 127 → par c 31 1 < 32 →
      (∀ x ∈ prioList c, x ≤ 3) → parZero c 40 24 = true →
      let u := setT (fun x => { x with
        aes67 := bitOf (par c 27 1) 0, eth := bitOf (par c 27 1) 1, masterCap := bitOf (par c 27 1) 2, revert := bitOf (par c 27 1) 3, domain := par c 28 1,
        pri1 := par c 29 1, pri2 := par c 30 1, cfgPort := par c 31 1 % 4, backup := par c 31 1 / 4 % 4, backupEn := bitOf (par c 31 1) 4,
        prio := prioList c }) (s.taken c timeCfgInfo)
      (s.t.aes67 = bitOf (par c 27 1) 0 → s.t.eth = bitOf (par c 27 1) 1 → s.t.masterCap = bitOf (par c 27 1) 2 → s.t.domain = par c 28 1 →
        s.t.cfgPort = par c 31 1 % 4 → s.t.backup = par c 31 1 / 4 % 4 → s.t.backupEn = bitOf (par c 31 1) 4 →
        exec (.timeCfg c) s = .next (complete (s.waiterOf c timeCfgInfo) (.of stOK) (reselect u))) ∧
      (s.t.aes67 ≠ bitOf (par c 27 1) 0 ∨ s.t.eth ≠ bitOf (par c 27 1) 1 ∨ s.t.masterCap ≠ bitOf (par c 27 1) 2 ∨ s.t.domain ≠ par c 28 1 ∨
          s.t.cfgPort ≠ par c 31 1 % 4 ∨ s.t.backup ≠ par c 31 1 / 4 % 4 ∨ s.t.backupEn ≠ bitOf (par c 31 1) 4 →
        exec (.timeCfg c) s = .next (complete (s.waiterOf c timeCfgInfo) (.of stOK)
          (reselect (restartPtp .master { u with t := { u.t with ptpPort := u.t.cfgPort, portUpSince := none } }))))) ∧
    (∀ (c : HostCmd) (s : State), s.accepts c timeQueryInfo = true → par c 0 8 % 8 = 0 → parZero c 40 24 = true →
      let u := s.taken c timeQueryInfo
      ∃ bytes : List Byte, bytes.length = 64 ∧
        exec (.timeQuery c) s = .next (complete (s.waiterOf c timeQueryInfo) (.of stOK) (writeHost (par c 0 8) bytes { u with freeCtr := u.freeCtr + 64 }))) ∧
    (∀ (c : HostCmd) (s : State), s.accepts c timeSetInfo = true →
      (s.m.dpRun = true → exec (.timeSet c) s = .next (s.ended c timeSetInfo (.of stMode) id)) ∧
      (s.m.dpRun = false → parZero c 40 24 = true → exec (.timeSet c) s = .next (s.ended c timeSetInfo (.of stOK)
        (fun u => setT (fun x => { x with everSet := true }) (setTime (par c 8 8 * nsU) u))))) ∧
    (∀ (c : HostCmd) (s : State), s.accepts c timeCorrSetInfo = true → par c 31 1 < 4 → parZero c 40 24 = true →
      exec (.timeCorrSet c) s = .next (s.ended c timeCorrSetInfo (.of stOK) (setReg (0xE040 + 4 * par c 31 1) (BitVec.ofNat 32 (par c 36 4)))))

/-- TRIG_EDGE_CAPTURE of the awaited edge of a pin stores the time to 2 ns. PPS_IN_EDGE while PPS_IN is locked measures device time
against the nearest second, or steps it, event 0x0206, when more than 1 us off with no data plane. REF_INVALID marks a reference below
4 invalid where earlier rows bear its reason out (log 90), and else changes nothing. REF_VALID of a qualified one posts 0x0204, and
locks to it where it is the best and no reference is locked or the device reverts; unlocked, it locks to the best. FREQ_CHECKPOINT
under lock through a whole second keeps the last 16 means. PTP_ANNOUNCE_TIMEOUT after 3 intervals ends following. PTP_MESSAGE_RX of
another domain changes nothing; an Announce is judged. PTP_PORT_RETURN goes back to the port, 0x0208. SYNC_INTERVAL sends the role's
messages. Gives the next state that exec answers for TRIG_EDGE_CAPTURE, PPS_IN_EDGE, REF_INVALID, REF_VALID, FREQ_CHECKPOINT,
PTP_MESSAGE_RX, PTP_ANNOUNCE_TIMEOUT, PTP_PORT_RETURN, SYNC_INTERVAL. (R407, R409, R410, R411, R412, R416, R417, R418, R419, R421,
R426, 13_time.md) -/
def Obligations.TimeRows : Prop :=
  (∀ (t pin : Nat) (f : Bool) (s : State), pin < 4 → (nget Capture.none s.t.caps pin).wait = some f →
      exec (.trigEdgeCapture t pin f) s = .next (setT (fun x => { x with caps := nset x.caps pin {
        ns := (advance t s).ns / 2 * 2, valid := true, missed := (nget Capture.none s.t.caps pin).valid, wait := none } }) (advance t s))) ∧
    (∀ (t : Nat) (s : State), s.t.sel = some 1 → s.t.lock = true →
      let d := fromSecond (max s.t.now t : Nat)
      let u := seeEdge 1 (max s.t.now t) (advance t s)
      (s.m.dpRun = false → (usU : Int) < d.natAbs → exec (.ppsInEdge t) s =
        .next (post 0x0206 0 [] (setT (fun x => { x with offset := 0, far := false }) (stepTime (-d) u)))) ∧
      (s.m.dpRun = true ∨ (d.natAbs : Int) ≤ usU → exec (.ppsInEdge t) s =
        .next (setT (fun x => { x with offset := d / (nsU : Int), far := s.t.far && decide ((msU : Int) < d.natAbs) }) u))) ∧
    (∀ (t r : Nat) (why : RefReason) (s : State), r < 4 →
      ((advance t s).showsFault r why = true → exec (.refInvalid t r why) s = .next (markInvalid r why (advance t s))) ∧
      ((advance t s).showsFault r why = false → exec (.refInvalid t r why) s = .next (advance t s))) ∧
    (∀ (t r : Nat) (off : Int) (s : State), r < 4 → s.refValid r = false → (advance t s).qualified r = true →
      let u := post 0x0204 r (a1 r ++ a1 0) (setT (fun x => { x with valid := lset x.valid r true }) (advance t s))
      (u.bestRef = none → exec (.refValid t r off) s = .next u) ∧
      (u.bestRef = some r → u.t.lock = false ∨ u.t.revert = true → exec (.refValid t r off) s = .next (relock r off u)) ∧
      (∀ b, u.bestRef = some b → u.t.lock = true → b ≠ r ∨ u.t.revert = false → exec (.refValid t r off) s = .next u) ∧
      (∀ b, u.bestRef = some b → u.t.lock = false → b ≠ r → exec (.refValid t r off) s = .next (relockFree b u))) ∧
    (∀ (t : Nat) (mean : Int) (s : State), s.t.lock = true →
      let second := max s.t.now t / secU * secU
      s.t.lockAt + secU ≤ second → (∀ x, s.t.marks.getLast? = some x → x.1 < second) → exec (.freqCheckpoint t mean) s =
        .next (setFreq mean (setT (fun x => { x with
          marks := (s.t.marks ++ [(max s.t.now t, s.clampFreq mean)]).drop (s.t.marks.length + 1 - 16) }) (advance t s)))) ∧
    (∀ (t a : Nat) (s : State), s.t.lastAnnounce = some a → a + 3 * s.announceInterval < max s.t.now t →
      exec (.ptpAnnounceTimeout t) s = .next (markInvalid 0 .announce (setT (fun x => { x with
        lastAnnounce := none, ptpState := if x.masterCap then 2 else 1, servoSince := none, parent := 0, dataset := [] }) (advance t s)))) ∧
    (∀ (t port stamp : Nat) (msg : List Byte) (s : State),
      (byteAt msg 4 ≠ s.t.domain → exec (.ptpMessageRx t port stamp msg) s = .next (advance t s)) ∧
      (s.coreUp = true → port = s.t.ptpPort → (s.mac port).link = true → 64 ≤ msg.length → byteAt msg 1 % 16 = 2 → byteAt msg 4 = s.t.domain →
        getBE msg 20 8 ≠ Config.clockIdentity.toNat → byteAt msg 0 % 16 = 11 →
        exec (.ptpMessageRx t port stamp msg) s = .next (ptpAnnounce msg (advance t s)))) ∧
    (∀ (t v : Nat) (s : State), s.t.portUpSince = some v → s.t.ptpPort ≠ s.t.cfgPort → v + 10 * secU ≤ max s.t.now t →
      exec (.ptpPortReturn t) s = .next (post 0x0208 0 [] (setT (fun x => { x with ptpPort := x.cfgPort }) (advance t s)))) ∧
    (∀ (t : Nat) (s : State), s.coreUp = true → (s.mac s.t.ptpPort).link = true → s.t.ptpState = 4 ∨ s.t.ptpState = 5 →
      let n := (s.t.seqDelay + 1) % 65536
      let u := sendPtp 1 (ptpHeader 1 44 0 0 0 n 0x7F s.t.domain ++ zeros 10) (advance t s)
      exec (.syncInterval t) s = .next (setT (fun x => { x with
        seqDelay := n, exch := { x.exch with t3 := some (u.stampOut s.t.ptpPort (max s.t.now t)), t4 := none, delaySeq := n } }) u))

/-- TRIG_ARM of a trigger below 64 with an action, argument and period of R425 and R427 that no use rules out arms it, after a trigger
whose time has come has fired; a time already past fires it at once, late; a use that needs another action ends with BUSY. TRIG_DISARM
of an armed trigger whose time has come lets it fire first and answers 1; otherwise it answers whether it had fired. TRIGGER_FIRE of
an armed trigger whose time has come fires it: disarmed and marked as fired, or armed again a period later; counted; then its action.
Where another due trigger has an earlier time, or the same time and a lower index, that one acts first. A GPIO action drives its pin
to the level its argument names. Gives the next state that exec answers for TRIG_ARM, TRIG_DISARM, TRIGGER_FIRE. (R424, R425, R426,
R427, R428, R429, R430, R433, 13_time.md) -/
def Obligations.TriggerCommands : Prop :=
  (∀ (c : HostCmd) (s : State), s.accepts c trigArmInfo = true → par c 24 1 < 64 → par c 25 1 ≤ 8 → trigArgOk (par c 25 1) (par c 26 1) = true →
      par c 16 8 = 0 ∨ (1000 ≤ par c 16 8 ∧ par c 16 8 ≤ 2 ^ 40) → parZero c 40 24 = true →
      let k := par c 24 1
      let v := fireDue k (s.taken c trigArmInfo)
      let u := setTrig k { v.trig k with
        armed := true, fired := false, at_ := par c 8 8, action := par c 25 1, arg := par c 26 1, period := par c 16 8 } v
      ((s.trigUses k).any (fun x => x != par c 25 1) = true → exec (.trigArm c) s = .next (s.ended c trigArmInfo (.of stBusy) id)) ∧
      ((s.trigUses k).any (fun x => x != par c 25 1) = false →
        exec (.trigArm c) s = .next (complete (s.waiterOf c trigArmInfo) (.of stOK)
          (if par c 8 8 * nsU < v.t.now then fireTrigger k v.t.now true u else u)))) ∧
    (∀ (c : HostCmd) (s : State), s.accepts c trigDisarmInfo = true → par c 24 1 < 64 → parZero c 40 24 = true →
      let k := par c 24 1
      let x := s.trig k
      let u := s.taken c trigDisarmInfo
      (x.armed = true → x.at_ * nsU ≤ max s.t.now c.t → exec (.trigDisarm c) s = .next (
        let v := fireTrigger k (x.at_ * nsU) false u
        complete (s.waiterOf c trigDisarmInfo) (.of stOK 1) (setTrig k { v.trig k with armed := false, fired := false } v))) ∧
      (x.armed = false ∨ max s.t.now c.t < x.at_ * nsU → exec (.trigDisarm c) s = .next (
        complete (s.waiterOf c trigDisarmInfo) (.of stOK (if x.armed = false ∧ x.fired = true then 1 else 0)) (setTrig k { x with armed := false, fired := false } u)))) ∧
    (∀ (t k : Nat) (s : State), k < 64 → (s.trig k).armed = true → (s.trig k).at_ * nsU ≤ max s.t.now t →
      (∀ j, j < 64 → (advance t s).trigDue j = true → (s.trig k).at_ < (s.trig j).at_ ∨ ((s.trig j).at_ = (s.trig k).at_ ∧ k ≤ j)) →
      let x := s.trig k
      let u := bump (0xE100 + 4 * k) 21 14 (setTrig k
        (if x.period = 0 then { x with armed := false, fired := true, late := false } else { x with at_ := x.at_ + x.period, late := false }) (advance t s))
      exec (.triggerFire t k) s = .next (trigAction k (x.at_ * nsU) x u) ∧
      (x.action = 7 → exec (.triggerFire t k) s = .next (setT (fun y => { y with
        gpioDrive := y.gpioDrive ||| 2 ^ (x.arg % 16)
        gpioLevel := if bitOf x.arg 7 then y.gpioLevel ||| 2 ^ (x.arg % 16)
          else if bitOf y.gpioLevel (x.arg % 16) then y.gpioLevel - 2 ^ (x.arg % 16) else y.gpioLevel }) u))) ∧
    (∀ (t k j : Nat) (s : State), k < 64 → j < 64 → j ≠ k → (advance t s).trigDue k = true → (advance t s).trigDue j = true →
      (∀ i, i < 64 → (advance t s).trigDue i = true → i ≠ k → i ≠ j →
        (s.trig k).at_ < (s.trig i).at_ ∨ ((s.trig i).at_ = (s.trig k).at_ ∧ k ≤ i)) →
      (s.trig j).at_ < (s.trig k).at_ ∨ ((s.trig j).at_ = (s.trig k).at_ ∧ j < k) →
      exec (.triggerFire t k) s = .next (fireDue k (fireDue j (advance t s))))

/-- Accepted with reserved bytes 0: TWIN_CFG with sound flags and two different ranks above 0 takes up its settings; if it enables twin
operation and the configuration is then not admitted, it ends with REJECTED_BUDGET and changes nothing. TWIN_QUERY and CLAIM_QUERY to
an aligned address write their reports. TWIN_ROLE_SWAP by a lead that runs, its partner present and ready and no swap waiting, waits
for a pick at least 4 ahead; otherwise NOT_IN_MODE, BAD_PARAM or BUSY. TWIN_RESYNC by a shadow marks every instance of its running
cores for re-synchronisation, and by any other unit ends with NOT_IN_MODE. Gives the next state that exec answers for TWIN_CFG,
TWIN_QUERY, TWIN_ROLE_SWAP, CLAIM_QUERY, TWIN_RESYNC. (R512, R532, R535, R540, R543, R545, R546, 16_twin.md) -/
def Obligations.TwinCommands : Prop :=
  (∀ (c : HostCmd) (s : State), s.accepts c twinCfgInfo = true → twinRsv c = true → par c 8 1 < 8 → par c 9 1 ≠ 0 → par c 10 1 ≠ 0 →
      par c 9 1 ≠ par c 10 1 →
      let v := takeTwinCfg (par c 8 1) (par c 9 1) (par c 10 1) (par c 24 8) (s.taken c twinCfgInfo)
      (v.w.en = false ∨ s.w.en = true ∨ v.inBudget v.nextPick = true → exec (.twinCfg c) s = .next (complete (s.waiterOf c twinCfgInfo) (.of stOK) v)) ∧
      (v.w.en = true → s.w.en = false → v.inBudget v.nextPick = false → exec (.twinCfg c) s = .next (s.ended c twinCfgInfo (.of stBudget) id))) ∧
    (∀ (c : HostCmd) (s : State), twinRsv c = true → par c 0 8 % 8 = 0 →
      (s.accepts c twinQueryInfo = true → exec (.twinQuery c) s = .next (s.ended c twinQueryInfo (.of stOK)
        (writeHost (par c 0 8) (s.taken c twinQueryInfo).twinReport))) ∧
      (s.accepts c claimQueryInfo = true → exec (.claimQuery c) s = .next (s.ended c claimQueryInfo (.of stOK)
        (writeHost (par c 0 8) ((List.range 64).foldr (fun g acc => s.claimEntry g ++ acc) []))))) ∧
    (∀ (c : HostCmd) (s : State), s.accepts c twinRoleSwapInfo = true →
      let u := s.taken c twinRoleSwapInfo
      (s.isLead = false ∨ s.m.dpRun = false → exec (.twinRoleSwap c) s = .next (s.ended c twinRoleSwapInfo (.of stMode) id)) ∧
      (s.isLead = true → s.m.dpRun = true →
        (twinRsv c = false ∨ par c 16 8 < u.pickNow + 4 ∨ u.named (par c 16 8) = none →
          exec (.twinRoleSwap c) s = .next (s.ended c twinRoleSwapInfo (.of stParam) id)) ∧
        (∀ q, twinRsv c = true → u.pickNow + 4 ≤ par c 16 8 → u.named (par c 16 8) = some q →
          (s.w.en = false ∨ s.w.peerReady = false ∨ s.peerUp = false ∨ s.w.swap.isSome = true →
            exec (.twinRoleSwap c) s = .next (s.ended c twinRoleSwapInfo (.of stBusy) id)) ∧
          (s.w.en = true → s.w.peerReady = true → s.peerUp = true → s.w.swap = none → exec (.twinRoleSwap c) s = .next
            { u with w := { u.w with swap := some (par c 16 8, some (s.waiterOf c twinRoleSwapInfo)) } })))) ∧
    (∀ (c : HostCmd) (s : State), s.accepts c twinResyncInfo = true →
      (s.w.role ≠ 2 → exec (.twinResync c) s = .next (s.ended c twinResyncInfo (.of stMode) id)) ∧
      (s.w.role = 2 → twinRsv c = true → exec (.twinResync c) s = .next (s.ended c twinResyncInfo (.of stOK) (fun u => { u with w := { u.w with
        driftTotal := 0
        resync := (List.range 32).foldr (fun l acc => (if (s.lcore l).runs then (List.range (s.instCount l)).map (fun i => 16 * l + i) else []) ++ acc) [] } }))))

/-- HEARTBEAT_DUE at a multiple of 50 us toggles the output, and with twin operation enabled sends the frame, where every pick due is
complete, and else stops beating and lowers CLAIM_OWN. With twin operation enabled: HB_IN_EDGE is heard on the pin path;
HEARTBEAT_FRAME_RX, with the core domain up, is heard on the link path and taken in, and a reset request made three times of a unit
that allows it and has not beaten for 10 ms resets the core domain. HEARTBEAT_MISSING of an instant due 5 us ago or more counts; the
third in a row takes the path down with event 0x0A03, and with both down the partner has failed. Gives the next state that exec
answers for HEARTBEAT_FRAME_RX, HB_IN_EDGE, HEARTBEAT_DUE, HEARTBEAT_MISSING. (R517, R528, R529, R530, R533, R539, R599, 16_twin.md) -/
def Obligations.HeartbeatRows : Prop :=
  (∀ (t : Nat) (s : State), s.w.en = true → exec (.hbInEdge t) s = .next (
      let u : State := { advance t s with w := { s.w with pinDue := dueOf (max s.t.now t), pinMiss := 0, pinHb := true, lostAt := none } }
      if s.w.pinHb then u else post 0x0A04 1 [] u)) ∧
    (∀ (t : Nat) (hb : Heartbeat) (s : State), s.coreUp = true →
      let u := heartbeatRx hb (advance t s)
      exec (.heartbeatFrameRx t hb) s = .next (if 3 ≤ u.w.resetAsk ∧ u.field 0x1004 11 11 = 1 ∧ u.w.beatAt + 10 * msU ≤ u.t.now
        then { coreReset 3 u with p := { (coreReset 3 u).p with seq := .settled u.t.now } } else u)) ∧
    (∀ (hb : Heartbeat) (s : State), s.w.en = true → hb.rate96 = s.t.rate96 → hb.pickLen = s.t.pickLen → s.w.linkHb = true → hb.handover = none →
      hb.claim / 256 ≤ s.w.epoch → s.w.role ≠ 1 ∨ hb.claim ≤ s.w.claim →
      heartbeatRx hb s = { s with w := { s.w with
        linkDue := dueOf s.t.now, linkMiss := 0, linkHb := true, lostAt := none, incompat := false, peerClaim := hb.claim,
        peerListens := hb.listens, peerReady := hb.ready,
        resetAsk := if hb.reset && decide (s.w.claim < hb.claim) then s.w.resetAsk + 1 else 0,
        asked := ((s.w.asked.filter (fun k => !hb.asks.contains k)) ++ hb.asks.take 8) } }) ∧
    (∀ (t : Nat) (s : State), max s.t.now t % (50 * usU) = 0 →
      let u := advance t s
      (u.picksComplete (max s.t.now t - 50 * usU) = true → exec (.heartbeatDue t) s = .next { u with w := { s.w with
        beating := true, hbOut := !s.w.hbOut, beatAt := max s.t.now t, hbSent := if s.w.en = true then some u.heartbeat else s.w.hbSent } }) ∧
      (u.picksComplete (max s.t.now t - 50 * usU) = false → exec (.heartbeatDue t) s = .next { u with w := { s.w with beating := false, own := false } })) ∧
    (∀ (t : Nat) (s : State), s.w.en = true → 5 * usU ≤ max s.t.now t →
      let k := (max s.t.now t - 5 * usU) / (50 * usU)
      s.w.linkDue < k →
      let u := bump 0x1000C 15 0 { advance t s with w := { s.w with linkDue := k, linkMiss := s.w.linkMiss + 1 } }
      (s.w.linkMiss < 2 ∨ s.w.linkHb = false → exec (.heartbeatMissing t 0) s = .next u) ∧
      (2 ≤ s.w.linkMiss → s.w.linkHb = true →
        let v := post 0x0A03 0 [] { u with w := { u.w with linkHb := false } }
        (v.w.pinHb = true → exec (.heartbeatMissing t 0) s = .next v) ∧
        (v.w.linkHb = false → v.w.pinHb = false → exec (.heartbeatMissing t 0) s = .next (partnerFailed { v with w := { v.w with lostAt := some v.t.now } }))))

/-- With twin operation enabled: a bad SELVEDGE_SEGMENT_RX counts and marks its frame; STATE_FRAME_RX of a marked frame only ends the
mark, and one that comes after the start of its pick plus 2 is not adopted. STATE_FRAME_MISSED by a shadow at the start of a pick that
no frame has come for counts and posts 0x0A0B. A lane's change posts 0x0A02 or 0x0A0D. TWIN_LISTEN_END after 2 ms with no partner
takes the lead, event 0x0A01. CLAIM_PEER_CHANGE notes the level; CLAIM_OWN_RISE by a beating lead, the partner's claim low for 2 us,
raises CLAIM_OWN; CLAIM_CONFLICT, both high for 1 us, demotes the lower rank; with twin operation off it only lowers CLAIM_OWN. Gives
the next state that exec answers for SELVEDGE_SEGMENT_RX, STATE_FRAME_RX, STATE_FRAME_MISSED, SELVEDGE_LANE_DOWN, SELVEDGE_LANE_UP,
TWIN_LISTEN_END, CLAIM_PEER_CHANGE, CLAIM_OWN_RISE, CLAIM_CONFLICT. (R515, R516, R518, R519, R521, R532, R537, R541, 16_twin.md) -/
def Obligations.SelvedgeRows : Prop :=
  (∀ (t seq : Nat) (s : State), s.w.en = true → s.w.broken.contains seq = false →
      exec (.selvedgeSegmentRx t seq false) s = .next (bump 0x10010 31 16 { advance t s with w := { s.w with broken := (seq :: s.w.broken).take 16 } })) ∧
    (∀ (t seq : Nat) (s : State), exec (.selvedgeSegmentRx t seq true) s = .next (advance t s)) ∧
    (∀ (t seq : Nat) (f : StateFrame) (s : State), s.w.en = true → s.w.broken.contains seq = true →
      exec (.stateFrameRx t seq f) s = .next { advance t s with w := { s.w with broken := s.w.broken.filter (fun k => k != seq) } }) ∧
    (∀ (t seq : Nat) (f : StateFrame) (s : State), s.w.en = true → s.w.broken.contains seq = false →
      let u := seeClaim f.claim { advance t s with w := { s.w with peerClaim := f.claim } }
      u.pickAt (f.pick + 2) < u.t.now → exec (.stateFrameRx t seq f) s = .next u) ∧
    (∀ (t seq : Nat) (f : StateFrame) (s : State), s.w.en = true → s.w.broken.contains seq = false →
      let u := seeClaim f.claim { advance t s with w := { s.w with peerClaim := f.claim } }
      u.w.role = 2 → u.t.now ≤ u.pickAt (f.pick + 2) → nfind u.w.versions f.pick = none → nfind u.w.batCrc f.pick = none → nfind u.w.outCrc f.pick = none →
      let v := putField 0x10028 15 0 (satN 0xFFFF ((u.t.now - u.pickAt (f.pick + 1)) / (100 * nsU))) u
      exec (.stateFrameRx t seq f) s = .next { v with w := { v.w with
        framePick := f.pick, frames := min 16 (v.w.frames + 1), adopt := nset v.w.adopt (f.pick + 2) f.objects,
        ckpts := (f.ckpts.filter (fun x => v.w.resync.contains x.1)).foldl (fun m x => nset m x.1 (f.pick, x.2)) v.w.ckpts } }) ∧
    (∀ (t p : Nat) (s : State), s.w.en = true → s.w.role = 2 → p + 2 = (advance t s).pickNow → nfind s.w.adopt (p + 2) = none →
      exec (.stateFrameMissed t p) s = .next (post 0x0A0B 0 [] (bump 0x10010 15 0 { advance t s with w := { s.w with frames := 0, quiet := 0 } }))) ∧
    (∀ (t lane : Nat) (s : State), lane < 2 →
      (lget false s.w.lanes lane = true → exec (.selvedgeLaneDown t lane) s = .next (post 0x0A02 lane (leBytes 1 lane)
        { advance t s with w := { s.w with lanes := lset s.w.lanes lane false } })) ∧
      (lget false s.w.lanes lane = false → exec (.selvedgeLaneUp t lane) s = .next (post 0x0A0D lane (leBytes 1 lane)
        { advance t s with w := { s.w with lanes := lset s.w.lanes lane true } }))) ∧
    (∀ (t : Nat) (strap : Bool) (s : State), s.w.role = 3 → s.w.listenFrom + 2 * msU ≤ max s.t.now t → s.peerUp = false →
      exec (.twinListenEnd t strap) s = .next (post 0x0A01 0 (leBytes 1 1) (raiseOwn (takeLead (advance t s))))) ∧
    (∀ (t : Nat) (high : Bool) (s : State), s.w.peerPin ≠ high →
      exec (.claimPeerChange t high) s = .next { advance t s with w := { s.w with peerPin := high, peerPinAt := max s.t.now t, bothAt := max s.t.now t } }) ∧
    (∀ (t : Nat) (s : State), s.isLead = true → s.w.beating = true → s.w.peerPin = false → s.w.peerPinAt + 2 * usU ≤ max s.t.now t →
      exec (.claimOwnRise t) s = .next { advance t s with w := { s.w with own := true, bothAt := max s.t.now t } }) ∧
    (∀ (t : Nat) (s : State), s.w.own = true → s.w.peerPin = true → s.w.bothAt + usU ≤ max s.t.now t →
      (s.w.rank < s.w.peerRank → s.w.en = true → exec (.claimConflict t) s = .next (demote s.w.epoch s.m.pick (advance t s))) ∧
      (s.w.rank < s.w.peerRank → s.w.en = false → exec (.claimConflict t) s = .next { advance t s with w := { s.w with own := false } }) ∧
      (s.w.peerRank ≤ s.w.rank → exec (.claimConflict t) s = .next (advance t s)))

/-- AON_POWER_ON resets all but flash and OTP and draws a nonce; with its reference clock it raises rail 0, and without it starts no
sequence. RESET_N_ASSERT keeps device time, PWR_EN and the recorder's RAM, and holds the device in reset; its release settles the
rails where all are good and otherwise starts the sequence. RAIL_ENABLE_DELAY of the rising rail, DELAY after its enable, marks it
good and enables the next one, or after rail 7 waits for the release. RAIL_TIMEOUT and PWR_GOOD_FALL lower the rails with event 0x0105
and wait 1 s or 100 ms; RAIL_RETRY and RAIL_RESTART start again. CORE_DOMAIN_RELEASE, when due, samples the straps and starts or
resumes the core domain. Gives the next state that exec answers for AON_POWER_ON, RESET_N_ASSERT, RESET_N_RELEASE, RAIL_ENABLE_DELAY,
RAIL_TIMEOUT, RAIL_RETRY, PWR_GOOD_FALL, RAIL_RESTART, CORE_DOMAIN_RELEASE. (R585, R586, R587, R591, R596, R597, R598, R600,
18_power_modes.md) -/
def Obligations.RailSequence : Prop :=
  (∀ (t : Nat) (x : AonStart) (s : State), ∃ u, exec (.aonPowerOn t x) s = .next u ∧
      (x.refOk = true → u.p.en = 1 ∧ u.p.vset = 800 ∧ u.p.seq = .rising 0 0) ∧ (x.refOk = false → u.p.en = 0 ∧ u.p.seq = .off ∧ u.p.faultN = true) ∧ u.p.vaonA = x.feedA ∧
      u.p.vaonB = x.feedB ∧ u.l.regions = s.l.regions ∧ u.l.slotA = s.l.slotA ∧ u.l.slotB = s.l.slotB ∧ u.l.otpRaised = s.l.otpRaised ∧ u.m = ModeS.reset ∧ u.sched = [] ∧
      u.h.mem = s.h.mem ∧ u.freeCtr = s.freeCtr + 1) ∧
    (∀ (t : Nat) (s : State), ∃ u, exec (.resetNAssert t) s = .next u ∧ u.t.now = max s.t.now t ∧ u.p.en = (advance t s).railLevels.1 ∧ u.p.inReset = true ∧ u.p.resetCause = 1 ∧
      u.ev.ram = s.ev.ram ∧ u.ev.nextSeq = s.ev.nextSeq ∧ u.l.cnt = s.l.cnt ∧ u.m = ModeS.reset ∧ u.h.mem = s.h.mem) ∧
    (∀ (t good : Nat) (s : State), s.p.inReset = true →
      let u := newNonce { advance t s with
        l := { s.l with fa := retryChannel s.l.fa, fb := retryChannel s.l.fb, mounting := true }
        p := { s.p with inReset := false, good := good % 256 } }
      exec (.resetNRelease t good) s = .next (if s.p.en = 255 ∧ good % 256 = 255 then { u with p := { u.p with seq := .settled (max s.t.now t) } } else startSequence u)) ∧
    (∀ (t k since : Nat) (s : State), s.p.seq = .rising k since → since + (s.rail k).delay * 100 * usU ≤ max s.t.now t →
      (k < 7 → exec (.railEnableDelay t k) s = .next (raiseRail (k + 1) { advance t s with p := { s.p with good := s.p.good ||| 2 ^ k } })) ∧
      (k < 7 → s.p.fall = none → exec (.railEnableDelay t k) s = .next { advance t s with p := { s.p with
        good := s.p.good ||| 2 ^ k, fall := none, en := s.p.en % 2 ^ (k + 1) + 2 ^ (k + 1), seq := .rising (k + 1) (max s.t.now t) } }) ∧
      (k = 7 → exec (.railEnableDelay t k) s = .next { advance t s with p := { s.p with good := s.p.good ||| 2 ^ k, seq := .settled since } })) ∧
    (∀ (t k since : Nat) (s : State), s.p.seq = .rising k since → since + (s.rail k).timeout * msU ≤ max s.t.now t → s.m.retention = false →
      let u := lowerRails 0 (advance t s)
      u.p.en = 0 ∧ u.p.good = 0 ∧ exec (.railTimeout t k) s = .next (post 0x0105 0 (a1 k) { u with p := { u.p with
        fault := true, faultRail := k, faultN := true, attempts := min 3 (s.p.attempts + 1)
        seq := if 3 ≤ s.p.attempts + 1 then .off else .waiting (max s.t.now t) 1000 } })) ∧
    (∀ (t since : Nat) (s : State),
      (s.p.seq = .waiting since 1000 → since + 1000 * msU ≤ max s.t.now t → exec (.railRetry t) s = .next (startSequence (advance t s))) ∧
      (s.p.seq = .waiting since 100 → since + 100 * msU ≤ max s.t.now t → exec (.railRestart t) s = .next (startSequence (advance t s)))) ∧
    (∀ (t k : Nat) (s : State), k ≤ 7 → bitOf s.p.good k = true →
      (s.coreUp = false → exec (.pwrGoodFall t k) s = .next { advance t s with p := { s.p with good := s.p.good - 2 ^ k } }) ∧
      (s.coreUp = true →
        let u := lowerRails 0 (coreReset 2 { advance t s with p := { s.p with good := s.p.good - 2 ^ k } })
        exec (.pwrGoodFall t k) s = .next (post 0x0105 0 (a1 k) { u with p := { u.p with
          fault := true, faultRail := k, seq := .waiting u.t.now 100 } }))) ∧
    (∀ (t : Nat) (straps : List Nat) (s : State), (advance t s).releaseDue = true →
      let u := sampleStraps straps { advance t s with p := { s.p with good := s.p.good ||| 0x80, seq := .idle, attempts := 0, fault := false } }
      exec (.coreDomainRelease t straps) s = .next (if u.m.coreOn then resumeCore u else startCore { u with p := { u.p with faultN := u.m.thermal } }))

/-- VAON_FEED_LOSS of a present feed counts and posts 0x0101; VAON_FEED_RESTORE posts 0x0102. PFAIL_FALL posts 0x0103 and, with the ledger
up, begins the flush: writes that have not come to their commit are abandoned with ABORTED_RESET. PFAIL_RISE posts 0x0104.
FLUSH_COMPLETE writes one batch and one counters record, posts 0x0B20 and ends the flush. DORMANT_ENTRY_COMPLETE after the lead-out
with every output ended, or from start-up at its pick, completes the transition, sleeps, posts 0x010F and goes to L2. WAKE_EVENT in
Dormant with its cause present raises rail 1 at 0.80 V, after a sequence down that is not over; of cause 5 it is THERMAL_HOLD_END.
THERMAL_HOLD_END after 10 s below 95 C ends the hold. Gives the next state that exec answers for VAON_FEED_LOSS, VAON_FEED_RESTORE,
PFAIL_FALL, PFAIL_RISE, FLUSH_COMPLETE, DORMANT_ENTRY_COMPLETE, WAKE_EVENT, THERMAL_HOLD_END. (R591, R592, R594, R607, R608, R575,
R576, 18_power_modes.md) -/
def Obligations.SupplyAndSleep : Prop :=
  (∀ (t : Nat) (s : State),
      (s.p.vaonA = true → exec (.vaonFeedLoss t false) s = .next (post 0x0101 0 [] (bump 0x1038 15 8 { advance t s with p := { s.p with vaonA := false } }))) ∧
      (s.p.vaonB = true → exec (.vaonFeedLoss t true) s = .next (post 0x0101 0 [] (bump 0x1038 23 16 { advance t s with p := { s.p with vaonB := false } }))) ∧
      (s.p.vaonA = false → exec (.vaonFeedRestore t false) s = .next (post 0x0102 0 [] { advance t s with p := { s.p with vaonA := true } })) ∧
      (s.p.vaonB = false → exec (.vaonFeedRestore t true) s = .next (post 0x0102 0 [] { advance t s with p := { s.p with vaonB := true } })) ∧
      (s.p.pfail = true → exec (.pfailRise t) s = .next (post 0x0104 0 [] { advance t s with p := { s.p with pfail := false } }))) ∧
    (∀ (t : Nat) (s : State), s.p.pfail = false →
      let u := post 0x0103 0 [] (bump 0x1038 31 24 { advance t s with p := { s.p with pfail := true } })
      (u.ledgerUp = false ∨ u.l.flush = true → exec (.pfailFall t) s = .next u) ∧
      (u.ledgerUp = true → u.l.flush = false → exec (.pfailFall t) s = .next (
        let v : State := { u with l := { u.l with jobs := u.l.jobs.filter (fun j => !j.uncommitted), flush := true, flushAt := u.t.now } }
        setCnt (fun c => { c with flushes := satN 0xFFFFFFFF (c.flushes + 1) })
          ((u.l.jobs.filter (fun j => j.uncommitted)).foldl (fun st j => completeOpt j.after.waiter (.of stAborted) st) v)))) ∧
    (∀ (t : Nat) (s : State), s.l.flush = true →
      let all := (advance t s).ev.ram.filter (fun x => !x.2.archived)
      let recs := all.drop (all.length - 256)
      let v := if recs = [] then advance t s else markKeys (recs.map (·.1)) (flushRecord 3 6 (batchPayload recs (all.length - recs.length)) (advance t s))
      let w := flushRecord 4 7 v.l.cnt.bytes v
      exec (.flushComplete t) s = .next (post 0x0B20 0 (leBytes 4 ((w.t.now - w.l.flushAt) / usU)) { w with l := { w.l with flush := false } })) ∧
    (∀ (t q : Nat) (r : ModeReq) (s : State), s.m.trans = some r → s.m.transPick = some q → r.target = .dormant →
      (s.m.start = true → s.pickAt q ≤ max s.t.now t) → (s.m.start = false → s.m.leadOut = true ∧ s.outputsEnded = true) →
      let u := sleep (endTransition q (advance t s))
      exec (.dormantEntryComplete t) s = .next (post 0x010F 0 [] (toL2 (dropHeld stMode
        { u with m := { u.m with resumeOv := if r.resume = 0 then none else Mode.ofCode r.resume } })))) ∧
    (∀ (t cause : Nat) (s : State), cause ≠ 5 → s.inDormant = true → s.m.retention = true → s.m.thermal = false → s.p.seq = .idle → s.wakeDue cause = true →
      let u := if cause = 4 then { advance t s with h := { s.h with perst := false } } else advance t s
      exec (.wakeEvent t cause) s = .next (wakeUp cause (some (u.resumeMode s.m.resumeOv)) u)) ∧
    (∀ (t : Nat) (s : State), exec (.wakeEvent t 5) s = exec (.thermalHoldEnd t) s) ∧
    (∀ (cause : Nat) (dest : Mode) (s : State), s.p.fall = none → wakeUp cause (some dest) s = { s with
      m := { s.m with wake := cause, trans := some { target := dest, pick := 0, resume := 0, who := none }, transPick := none }
      p := { s.p with fall := none, en := s.p.en % 2 ^ 1 + 2 ^ 1, vset := 800, seq := .rising 1 s.t.now, wakeN := true } }) ∧
    (∀ (t c : Nat) (s : State), s.p.coolSince = some c → s.m.thermal = true → c + 10 * secU ≤ max s.t.now t → s.p.seq = .idle → s.p.inReset = false →
      let u : State := { advance t s with p := { s.p with faultN := s.p.fault, coolSince := none } }
      (s.m.coreOn = false → exec (.thermalHoldEnd t) s = .next (startSequence { u with m := { u.m with thermal := false, tripStart := false } })) ∧
      (s.m.coreOn = true → s.m.tripStart = false → s.m.tripMode ≠ .dormant → exec (.thermalHoldEnd t) s = .next (wakeUp 5 (some s.m.tripMode) u)))

/-- TEMP_SAMPLE below THOT, and below 95 C, in a second still running takes up the eight readings; at or above 115 C it trips.
THERMAL_SHED, a second at or above 105 C, and OVERCURRENT_SHED, three reads above IMAX, take a shedding step, with 0x0108 and 0x010B.
PMBUS_POLL with regulator 0's current within IMAX ends the overcurrent count. REGULATOR_FAIL after three failures posts 0x0106.
Accepted with reserved bytes 0: PWR_QUERY writes its report; RAIL_CFG in range takes IMAX at once and the rest for the next start;
THERM_SET sets 85 to 105; AVS_SET fixes VDD_CORE or returns it to the loop, and the window restarts. Gives the next state that exec
answers for PWR_QUERY, RAIL_CFG, THERM_SET, AVS_SET, TEMP_SAMPLE, THERMAL_SHED, PMBUS_POLL, REGULATOR_FAIL, OVERCURRENT_SHED. (R588,
R590, R593, R595, R616, R617, 18_power_modes.md) -/
def Obligations.HeatAndCurrent : Prop :=
  (∀ (t : Nat) (temps : List Int) (s : State), s.p.inReset = false →
      let ts := (List.range 8).map (fun i => clampI (-2048) 2047 (lget 0 temps i))
      let m := (hottest ts).2
      let u : State := { advance t s with p := { s.p with
        temps := ts, hotSince := none, hotSteps := 0, coolSince := some (s.p.coolSince.getD (max s.t.now t)) }
                                          l := { s.l with ms := s.l.ms + 1 } }
      m < quarters 95 → 85 ≤ s.p.thot → s.p.thot ≤ 105 → s.l.ms + 1 < 1000 →
      (quarters s.p.thot - 20 < m → m < quarters s.p.thot → exec (.tempSample t temps) s = .next u) ∧
      (m ≤ quarters s.p.thot - 20 → exec (.tempSample t temps) s = .next { u with p := { u.p with hot := false } })) ∧
    (∀ (t h : Nat) (s : State), s.p.hotSince = some h → h + (s.p.hotSteps + 1) * secU ≤ max s.t.now t →
      exec (.thermalShed t) s = .next (shedFor 0x0108 { advance t s with p := { s.p with hotSteps := s.p.hotSteps + 1 } })) ∧
    (∀ (t h : Nat) (s : State), s.p.overSince = some h → h + s.p.overSteps * secU ≤ max s.t.now t →
      exec (.overcurrentShed t) s = .next (shedFor 0x010B { advance t s with p := { s.p with overSteps := s.p.overSteps + 1 } })) ∧
    (∀ (code : Nat) (s : State), s.m.dpRun = true → s.m.leadOut = false →
      let u := callShed (s.m.pick + 2) id s
      shedFor code s = post code 0 [] (if s.shedAhead < u.shedAhead then { u with p := { u.p with shedTaken := true } } else u)) ∧
    (∀ (t : Nat) (reads : List RegRead) (s : State), s.p.inReset = false →
      let none_ : RegRead := { ok := false, vout := 0, iout := 0, temp := 0 }
      let regs := s.p.regs.zipIdx.map (fun x => pollOne (lget none_ reads x.2) x.1)
      let i := (lget (Regulator.default 0) regs 0).iout
      let u : State := { advance t s with p := { s.p with regs := regs } }
      ((lget none_ reads 0).ok = false → exec (.pmbusPoll t reads) s = .next u) ∧
      ((lget none_ reads 0).ok = true → i ≤ s.p.imax * 256 →
        exec (.pmbusPoll t reads) s = .next (setP (fun p => { p with overCount := 0, overSince := none, overSteps := 0 }) (raiseTo 0x100C 31 16 i u)))) ∧
    (∀ (t k : Nat) (s : State), (lget (Regulator.default 0) s.p.regs k).fails = 3 →
      let r := lget (Regulator.default 0) s.p.regs k
      exec (.regulatorFail t k) s = .next (post 0x0106 0 [] { advance t s with p := { s.p with
        regs := lset s.p.regs k { r with fails := 4, vout := if k = 0 then s.p.vset else r.vout } } })) ∧
    (∀ (c : HostCmd) (s : State), parZero c 32 32 = true →
      (s.accepts c pwrQueryInfo = true → 128 ≤ par c 8 4 → par c 0 8 % 8 = 0 →
        exec (.pwrQuery c) s = .next (s.ended c pwrQueryInfo (.of stOK) (writeHost (par c 0 8) (s.taken c pwrQueryInfo).powerReport))) ∧
      (s.accepts c railCfgInfo = true → par c 0 8 % 8 = 0 → railTableOk (fit 64 c.data) = true →
        exec (.railCfg c) s = .next (s.ended c railCfgInfo (.of stOK) (fun u => { u with p := { u.p with
          imax := byteAt (fit 64 c.data) 36
          nextRails := some ((List.range 8).map (fun k => { delay := getLE (fit 64 c.data) (4 * k) 2, timeout := byteAt (fit 64 c.data) (4 * k + 2),
                                                            offDelay := byteAt (fit 64 c.data) (4 * k + 3) : RailRow }),
            (List.range 4).map (fun k => byteAt (fit 64 c.data) (32 + k))) } }))) ∧
      (s.accepts c thermSetInfo = true → 85 ≤ par c 28 1 → par c 28 1 ≤ 105 →
        exec (.thermSet c) s = .next (s.ended c thermSetInfo (.of stOK) (fun u => { u with p := { u.p with thot := par c 28 1 } }))) ∧
      (s.accepts c avsSetInfo = true →
        (par c 29 1 = 0 → exec (.avsSet c) s = .next (s.ended c avsSetInfo (.of stOK) (fun u => { u with
          p := { u.p with avs := .loop }
          b := { u.b with winMin := 0xFFFF, winCount := 0 } }))) ∧
        (par c 29 1 = 1 → 650 ≤ par c 30 2 → par c 30 2 ≤ 800 → par c 30 2 % 5 = 0 →
          exec (.avsSet c) s = .next (s.ended c avsSetInfo (.of stOK) (fun u => { u with
            p := { u.p with avs := .fixed (par c 30 2), vset := if u.p.holdSince.isNone then par c 30 2 else u.p.vset }
            b := { u.b with winMin := 0xFFFF, winCount := 0 } })))))

/-- Accepted while the mount runs, a ledger command waits for it; with both channels failed it completes with NO_RESOURCE. With the ledger
up, reserved bytes 0 and an aligned buffer that is large enough, LDG_QUERY, LDG_SET_LIST and LDG_COUNTERS write their bytes.
LDG_RECORD_WRITE is BUSY with 64 writes waiting, LEDGER_FULL with event 0x0B07 where no room can be made, and otherwise queues the
program and the commit of one record of the next SEQ. LDG_RECORD_READ writes the current payload with its length and SEQ low word, or
gives the length in RESULT0 with BAD_PARAM; a key with no record is BAD_PARAM, and one whose copies are all bad is READ_POISON.
LDG_ERASE with the right token queues the erases of its region; a wrong token is AUTH_FAIL, counted, with event 0x0D01 and the 1 s
hold; within the hold every token fails; each presentation draws a new nonce. LDG_SET_SAVE is LEDGER_FULL where the set does not fit,
and otherwise queues its parts and the close record. LDG_SET_RECALL of an absent set or a missing item is BAD_PARAM (log 49);
otherwise it loads the items in order. Gives the next state that exec answers for LDG_QUERY, LDG_SET_SAVE, LDG_SET_RECALL,
LDG_SET_LIST, LDG_RECORD_WRITE, LDG_RECORD_READ, LDG_ERASE, LDG_COUNTERS, EVR_CLEAR, EVR_ARCHIVE, EVR_ARCHIVE_READ. (R549, R550, R554,
R556, R557, R563, R564, R565, R577, R578, R582, R583) -/
def Obligations.LedgerCommands : Prop :=
  (∀ x ∈ ([(.ldgQuery, ldgQueryInfo), (.ldgSetSave, ldgSetSaveInfo), (.ldgSetRecall, ldgSetRecallInfo), (.ldgSetList, ldgSetListInfo),
        (.ldgRecordWrite, ldgRecordWriteInfo), (.ldgRecordRead, ldgRecordReadInfo), (.ldgErase, ldgEraseInfo), (.ldgCounters, ldgCountersInfo),
        (.evrClear, evrClearInfo), (.evrArchive, evrArchiveInfo), (.evrArchiveRead, evrArchiveReadInfo)] : List ((HostCmd → Instr) × CmdInfo)),
      ∀ (c : HostCmd) (s : State), s.accepts c x.2 = true →
      let u := s.taken c x.2
      (s.ledgerMounting = true → exec (x.1 c) s = .next { u with l := { u.l with waiting := u.l.waiting ++ [(x.1 c, s.waiterOf c x.2)] } }) ∧
      (s.ledgerMounting = false → s.ledgerUp = false → exec (x.1 c) s = .next (s.ended c x.2 (.of stResource) id))) ∧
    (∀ (c : HostCmd) (s : State), s.ledgerUp = true → par c 0 8 % 8 = 0 → parZero c 28 4 = true →
      (s.accepts c ldgQueryInfo = true → 64 ≤ par c 8 4 → exec (.ldgQuery c) s = .next (s.ended c ldgQueryInfo (.of stOK)
        (writeHost (par c 0 8) (s.taken c ldgQueryInfo).ledgerReport))) ∧
      (s.accepts c ldgSetListInfo = true → 3072 ≤ par c 8 4 → exec (.ldgSetList c) s = .next (s.ended c ldgSetListInfo (.of stOK)
        (writeHost (par c 0 8) ((List.range 64).foldr (fun i acc => (s.taken c ldgSetListInfo).setEntry i ++ acc) [])))) ∧
      (s.accepts c ldgCountersInfo = true → 4352 ≤ par c 8 4 → exec (.ldgCounters c) s = .next (s.ended c ldgCountersInfo (.of stOK)
        (writeHost (par c 0 8) s.l.cnt.bytes)))) ∧
    (∀ (c : HostCmd) (s : State), s.ledgerUp = true → par c 0 8 % 8 = 0 → parZero c 28 4 = true → s.accepts c ldgRecordWriteInfo = true → par c 8 4 ≤ 65484 →
      let u := s.taken c ldgRecordWriteInfo
      let data := fit (par c 8 4) c.data
      (64 ≤ u.writesWaiting → exec (.ldgRecordWrite c) s = .next (s.ended c ldgRecordWriteInfo (.of stBusy) id)) ∧
      (u.writesWaiting < 64 → u.room 1 (recSize data.length) = none →
        exec (.ldgRecordWrite c) s = .next (s.ended c ldgRecordWriteInfo (.of stLedgerFull) (fun v => post 0x0B07 1 [] v))) ∧
      (∀ v, u.writesWaiting < 64 → u.room 1 (recSize data.length) = some v →
        let r : FlashRec := { typ := 2, key := par c 12 2, seq := v.l.seq, payload := data, okA := true, okB := true, differ := false }
        let j : LJob := { ops := [.program 1 r, .commit 1 r], after := .complete (s.waiterOf c ldgRecordWriteInfo) 0 0, write := true }
        exec (.ldgRecordWrite c) s = .next { v with l := { v.l with seq := v.l.seq + 1, jobs := v.l.jobs ++ [j] } })) ∧
    (∀ (c : HostCmd) (s : State), s.ledgerUp = true → par c 0 8 % 8 = 0 → parZero c 28 4 = true → s.accepts c ldgRecordReadInfo = true →
      let reg := (s.taken c ldgRecordReadInfo).region 1
      (∀ r, reg.current 2 (par c 12 2) = some r →
        (par c 8 4 < r.payload.length → exec (.ldgRecordRead c) s = .next (s.ended c ldgRecordReadInfo (.of stParam r.payload.length) id)) ∧
        (r.payload.length ≤ par c 8 4 → exec (.ldgRecordRead c) s = .next (s.ended c ldgRecordReadInfo (.of stOK r.payload.length (lo32 r.seq))
          (fun v => writeHost (par c 0 8) r.payload (mirrorRead 1 r v))))) ∧
      (reg.current 2 (par c 12 2) = none →
        let seen := reg.records.any (fun r => r.typ == 2 && r.key == par c 12 2)
        exec (.ldgRecordRead c) s = .next (s.ended c ldgRecordReadInfo (.of (if seen then stPoison else stParam)) id))) ∧
    (∀ (c : HostCmd) (s : State) (k : Nat), s.ledgerUp = true → parZero c 28 4 = true → s.accepts c ldgEraseInfo = true → par c 14 1 = k → 1 ≤ k → k ≤ 4 →
      let u := newNonce (s.taken c ldgEraseInfo)
      let right : Prop := parBytes c 32 32 = expectedToken 2 k s.l.nonce
      (u.tokenHold = false → right → exec (.ldgErase c) s = .next
        (startJob { ops := eraseOps k (u.region k), after := .erased k (s.waiterOf c ldgEraseInfo), write := false } u)) ∧
      (u.tokenHold = false → ¬ right → exec (.ldgErase c) s = .next (complete (s.waiterOf c ldgEraseInfo) (.of stAuth)
        (let v := bump 0x11028 7 0 u
         post 0x0D01 0 [] { v with l := { v.l with authHold := some v.t.now } }))) ∧
      (u.tokenHold = true → exec (.ldgErase c) s = .next (complete (s.waiterOf c ldgEraseInfo) (.of stAuth) (bump 0x11028 7 0 u)))) ∧
    (∀ (c : HostCmd) (s : State), s.ledgerUp = true → s.accepts c ldgSetSaveInfo = true → par c 12 2 < 64 → par c 15 1 < 16 → parZero c 28 4 = true →
        parZero c 48 16 = true →
      let u := s.taken c ldgSetSaveInfo
      let n := par c 12 2
      let sel := (List.range 4).filter (fun i => bitOf (par c 15 1) i)
      let lens := (List.range 4).map (fun i => if bitOf (par c 15 1) i then (u.itemImage i).length else 0)
      let stream := sel.foldr (fun i acc => u.itemImage i ++ acc) []
      let parts := cutParts (stream.length / 65484 + 1) stream
      (u.setFits (parts.map List.length ++ [48]) = false → exec (.ldgSetSave c) s = .next (s.ended c ldgSetSaveInfo (.of stLedgerFull)
        (fun v => post 0x0B07 2 [] v))) ∧
      (u.setFits (parts.map List.length ++ [48]) = true →
        let ends := (List.range 4).map (fun i => (lens.take (i + 1)).foldl (· + ·) 0)
        let marks := sel.map (fun i => (i, u.itemMark i, lastPart u.l.seq (lget 0 ends i)))
        let v := (partRecords n 0 parts u).2
        let fields := fit 16 (parBytes c 32 16) ++ leBytes 1 (par c 15 1) ++ zeros 3 ++ leBytes 4 parts.length ++ leBytes 8 u.l.seq ++
          lens.foldr (fun v acc => leBytes 4 v ++ acc) []
        let close : FlashRec := { typ := 5, key := n, seq := v.l.seq, payload := fields, okA := true, okB := true, differ := false }
        let ops := ((partRecords n 0 parts u).1 ++ [close]).foldr (fun r acc => [.program 2 r, .commit 2 r] ++ acc) []
        exec (.ldgSetSave c) s = .next (startJob { ops := ops, after := .setSaved (s.waiterOf c ldgSetSaveInfo) marks, write := true }
          { v with l := { v.l with seq := v.l.seq + 1 } }))) ∧
    (∀ (c : HostCmd) (s : State), s.ledgerUp = true → s.accepts c ldgSetRecallInfo = true → s.inDormant = false → par c 12 2 < 64 → par c 15 1 < 16 →
        parZero c 28 4 = true → parZero c 48 16 = true →
      let u := s.taken c ldgSetRecallInfo
      let lacks := fun (cl : FlashRec) => closeMask cl.payload = 0 ∨ (List.range 4).any (fun i => bitOf (par c 15 1) i && !bitOf (closeMask cl.payload) i) = true
      ((u.region 2).setClose (par c 12 2) = none ∨ (∃ cl, (u.region 2).setClose (par c 12 2) = some cl ∧ lacks cl) →
        exec (.ldgSetRecall c) s = .next (s.ended c ldgSetRecallInfo (.of stParam) id)) ∧
      (∀ cl, (u.region 2).setClose (par c 12 2) = some cl → ¬ lacks cl →
        let res := loadItems cl ((u.region 2).stream cl) ((List.range 4).filter (fun i => bitOf (par c 15 1) i)) 0 (readSet (par c 12 2) u)
        exec (.ldgSetRecall c) s = .next (complete (s.waiterOf c ldgSetRecallInfo) res.1 res.2)))

/-- EVR_READ and EVR_ARCHIVE_READ, with COUNT 1-4096, an aligned buffer of 32 x COUNT bytes and reserved bytes 0, write each record that
exists and zeros for the others, and RESULT0 counts those that exist. EVR_ARCHIVE queues every closed record not yet on its way, 16 to
a batch, and completes with the last one, at once with none. EVR_CLEAR with the right token closes the open record, queues the
unarchived ones and then empties the recorder, posts 0x0C02 with the nonce and completes; a wrong token, or any token in the 1 s hold,
is AUTH_FAIL. Outside Maintain the FW commands complete with NOT_IN_MODE. In Maintain with the ledger up, FW_WRITE of whole pages at
OFFSET 0 queues the erases of the sectors that the image needs and its pages (a re-start of the sequence, log 50), at the next offset
of an open sequence its pages, and elsewhere it is BAD_PARAM. FW_VERIFY checks the slot when its turn comes: OK with the version and
the security version, and the slot counts as verified; or AUTH_FAIL with the reason. FW_ACTIVATE needs a verified slot, then a mode
that the twin setting allows, then no transition going on (BUSY), then admission (REJECTED_BUDGET), and queues the boot record that
names the slot as trial, or is LEDGER_FULL with event 0x0B07. Gives the next state that exec answers for EVR_READ, EVR_CLEAR,
EVR_ARCHIVE, EVR_ARCHIVE_READ, FW_WRITE, FW_VERIFY, FW_ACTIVATE. (R574, R577, R578, R579, R582, R583, R610, R611, R612, R613,
17_ledger_recorder.md, 18_power_modes.md) -/
def Obligations.RecorderAndFirmwareCommands : Prop :=
  (∀ (c : HostCmd) (s : State) (n : Nat), par c 24 4 = n → 1 ≤ n → n ≤ 4096 → par c 0 8 % 8 = 0 → parZero c 28 4 = true → 32 * n ≤ par c 8 4 →
      (s.accepts c evrReadInfo = true →
        let res := recordRun (fun q => ((s.taken c evrReadInfo).record? q).map (fun r => r.bytes false)) (par c 16 8) n
        exec (.evrRead c) s = .next (s.ended c evrReadInfo (.of stOK res.2) (writeHost (par c 0 8) res.1))) ∧
      (s.accepts c evrArchiveReadInfo = true → s.ledgerUp = true →
        let res := recordRun (s.taken c evrArchiveReadInfo).archivedRecord (par c 16 8) n
        exec (.evrArchiveRead c) s = .next (s.ended c evrArchiveReadInfo (.of stOK res.2) (writeHost (par c 0 8) res.1)))) ∧
    (∀ (c : HostCmd) (s : State), s.accepts c evrArchiveInfo = true → s.ledgerUp = true → parZero c 28 4 = true →
      let u := s.taken c evrArchiveInfo
      let w := s.waiterOf c evrArchiveInfo
      exec (.evrArchive c) s = .next (queueAll (chunks16 256 u.toArchive) (complete w (.of stOK)) (some w) u) ∧
      (u.toArchive = [] → exec (.evrArchive c) s = .next (complete w (.of stOK) u)) ∧
      (∀ k r v, u.toArchive.length ≤ 16 → u.toArchive.getLast? = some (k, r) →
        appendRecord 3 6 0 (batchPayload u.toArchive 0) (.archived (k + 1) (some w)) u = some v → exec (.evrArchive c) s = .next v)) ∧
    (∀ (c : HostCmd) (s : State), s.accepts c evrClearInfo = true → s.ledgerUp = true → parZero c 28 4 = true →
      let u := newNonce (s.taken c evrClearInfo)
      let w := s.waiterOf c evrClearInfo
      let right : Prop := parBytes c 32 32 = expectedToken 1 0 s.l.nonce
      (u.tokenHold = false → right →
        let v := queueAll (chunks16 256 (closeRecord u).toArchive) id none (closeRecord u)
        exec (.evrClear c) s = .next (startJob { ops := [], after := .cleared w s.l.nonce, write := false } v) ∧
        let x := closeRecord v
        let y : State := { x with ev := { x.ev with ram := [] } }
        (v.l.jobs = [] → x.toArchive = [] → exec (.evrClear c) s =
          .next (complete w (.of stOK) (writeRecord (newRecord 0x0C02 0 (a8 s.l.nonce) y) y))) ∧
        (v.l.jobs = [] → x.toArchive ≠ [] → exec (.evrClear c) s = .next (
          let z := queueAll (chunks16 256 x.toArchive) id none x
          if z.l.jobs.length = x.l.jobs.length then complete w (.of stLedgerFull) z else addJob { ops := [], after := .cleared w s.l.nonce, write := false } z))) ∧
      (u.tokenHold = false → ¬ right → exec (.evrClear c) s = .next (complete w (.of stAuth)
        (let v := bump 0x11028 7 0 u
         post 0x0D01 0 [] { v with l := { v.l with authHold := some v.t.now } }))) ∧
      (u.tokenHold = true → exec (.evrClear c) s = .next (complete w (.of stAuth) (bump 0x11028 7 0 u)))) ∧
    (∀ (c : HostCmd) (s : State), s.inMaintain = false →
      (s.accepts c fwWriteInfo = true → exec (.fwWrite c) s = .next (s.ended c fwWriteInfo (.of stMode) id)) ∧
      (s.accepts c fwVerifyInfo = true → exec (.fwVerify c) s = .next (s.ended c fwVerifyInfo (.of stMode) id)) ∧
      (s.accepts c fwActivateInfo = true → exec (.fwActivate c) s = .next (s.ended c fwActivateInfo (.of stMode) id))) ∧
    (∀ (c : HostCmd) (s : State) (len off : Nat), s.inMaintain = true → s.ledgerUp = true → s.accepts c fwWriteInfo = true → par c 8 4 = len → par c 24 4 = off →
        256 ≤ len → len ≤ 1048576 → len % 256 = 0 → parZero c 32 32 = true → par c 0 8 % 8 = 0 → off + len ≤ 16777216 →
      let u := s.taken c fwWriteInfo
      let data := fit len c.data
      let pages := slotPages u.p.fwSlot off data
      let v : State := { u with p := { u.p with fwOpen := true, fwNext := off + len, fwVerified := false } }
      let job := fun (ops : List FlashOp) => ({ ops := ops, after := .complete (s.waiterOf c fwWriteInfo) 0 0, write := true } : LJob)
      (off = 0 → getLE data 12 4 ≤ 16777216 - 4096 →
        exec (.fwWrite c) s = .next (startJob (job (slotErase u.p.fwSlot ((getLE data 12 4 + 4096 + 65535) / 65536) ++ pages)) v)) ∧
      (off ≠ 0 → s.p.fwOpen = true → off = s.p.fwNext → exec (.fwWrite c) s = .next (startJob (job pages) v)) ∧
      (off ≠ 0 → s.p.fwOpen = false ∨ off ≠ s.p.fwNext → exec (.fwWrite c) s = .next (s.ended c fwWriteInfo (.of stParam) id))) ∧
    (∀ (c : HostCmd) (s : State), s.inMaintain = true → s.ledgerUp = true → s.accepts c fwVerifyInfo = true → parZero c 32 32 = true →
      let u := s.taken c fwVerifyInfo
      let w := s.waiterOf c fwVerifyInfo
      let img := s.slotImage s.p.fwSlot
      exec (.fwVerify c) s = .next (startJob { ops := [], after := .verify w, write := false } u) ∧
      (s.l.jobs = [] → s.imageFault img = none → exec (.fwVerify c) s = .next (complete w (.of stOK (getLE img 4 4) (getLE img 8 4))
        { u with p := { u.p with fwVerified := true } })) ∧
      (∀ r, s.l.jobs = [] → s.imageFault img = some r → exec (.fwVerify c) s = .next (complete w (.of stAuth r) u))) ∧
    (∀ (c : HostCmd) (s : State) (m : Mode) (q : Nat), s.inMaintain = true → s.ledgerUp = true → s.accepts c fwActivateInfo = true → parZero c 32 32 = true →
        s.activateMode (par c 12 1) = some m → (s.taken c fwActivateInfo).planned.named (par c 16 8) = some q →
      let u := s.taken c fwActivateInfo
      let r : ModeReq := { target := m, pick := q, resume := 0, who := none }
      let twinOk := (m = .shadow → s.w.en = true) ∧ (m = .measure → s.w.en = false)
      (s.p.fwVerified = false → exec (.fwActivate c) s = .next (s.ended c fwActivateInfo (.of stParam) id)) ∧
      (s.p.fwVerified = true → ¬ twinOk → exec (.fwActivate c) s = .next (s.ended c fwActivateInfo (.of stMode) id)) ∧
      (s.p.fwVerified = true → twinOk → u.changing = true → exec (.fwActivate c) s = .next (s.ended c fwActivateInfo (.of stBusy) id)) ∧
      (s.p.fwVerified = true → twinOk → u.changing = false →
        (s.m.start = false → m ≠ .maintain → (pushSched q false none (.mode r) u).inBudget q = false →
          exec (.fwActivate c) s = .next (s.ended c fwActivateInfo (.of stBudget) id)) ∧
        (s.m.start = true ∨ m = .maintain ∨ (pushSched q false none (.mode r) u).inBudget q = true →
          let room := appendRecord 0 1 0 ({ u.boot with trial := s.p.fwSlot, attempted := 0 } : BootRecord).bytes (.activate (s.waiterOf c fwActivateInfo) r) u
          (∀ v, room = some v → exec (.fwActivate c) s = .next v) ∧
          (room = none → exec (.fwActivate c) s = .next (s.ended c fwActivateInfo (.of stLedgerFull) (post 0x0B07 0 []))))))

/-- FLASH_OP_COMPLETE with the ledger up and an operation at the head: where every channel in use took it and it reads back equal, it has
its effect and leaves the job, whose end follows with its last one; a save whose set was swapped before its data had been read ends
with BUSY instead. An error on a channel in use is counted as a program or an erase error, the third in a row while the other channel
succeeds fails that channel with 0x0B02, the sector is retired and the operation is made again; bytes that read back unequal relocate
the sector once before that. LEDGER_MOUNT_COMPLETE with both channels failed posts 0x0B02 twice and the waiting commands run; with one
at least the ledger is mounted, erases that were cut are made again, SEQ goes on from the highest found, the counters are restored,
bad copies are relocated, 0x0B01 and after a cut flush 0x0B21 are posted, and the waiting commands run. LEDGER_REBUILD_COMPLETE makes
both copies whole and posts 0x0B03. COUNTERS_SAVE queues a counters record. NONCE_EXPIRY, 60 s after the first read, draws a new
nonce; AUTH_HOLD_END ends the hold after 1 s. LEDGER_SCRUB, 30 days after the last, relocates the sectors of R562 and posts 0x0B05.
Gives the next state that exec answers for FLASH_OP_COMPLETE, LEDGER_MOUNT_COMPLETE, LEDGER_REBUILD_COMPLETE, LEDGER_SCRUB,
COUNTERS_SAVE, NONCE_EXPIRY, AUTH_HOLD_END. (R548, R549, R550, R554, R555, R556, R558, R562, R564, R566, R578, 17_ledger_recorder.md) -/
def Obligations.LedgerRows : Prop :=
  (∀ (t : Nat) (res : FlashResult) (s : State) (j : LJob) (rest : List LJob) (op : FlashOp) (ops : List FlashOp), s.ledgerUp = true →
      s.l.jobs = j :: rest → j.ops = op :: ops →
      let a := s.l.fa.state == 1
      let b := s.l.fb.state == 1
      let u := advance t s
      let sec := u.opSector op
      (res.okA = true → res.okB = true → res.verified = true ∨ op.erases = true → s.l.fa.errs < 3 → s.l.fb.errs < 3 →
        let u1 : State := { u with l := { u.l with fa := { u.l.fa with errs := 0 }, fb := { u.l.fb with errs := 0 } } }
        let j' : LJob := { j with ops := ops, retried := false }
        let v := applyOp op { u1 with l := { u1.l with jobs := j' :: rest } }
        (j'.overtaken v = false → exec (.flashOpComplete t res) s = .next (settleAll v)) ∧
        (j'.overtaken v = true → exec (.flashOpComplete t res) s = .next
          (settleAll (completeOpt j.after.waiter (.of stBusy) { v with l := { v.l with jobs := rest } })))) ∧
      ((a && !res.okA) = true ∨ (b && !res.okB) = true →
        let u1 := channelErrors (a && !res.okA) (b && !res.okB) u
        let v := retireSector sec.1 sec.2 (if op.erases then bump 0x11010 15 8 u1 else bump 0x11010 7 0 u1)
        exec (.flashOpComplete t res) s = .next { v with l := { v.l with jobs := { j with retried := false } :: rest } }) ∧
      (a = true → b = true → res.okA = false → res.okB = true → s.l.fa.errs = 2 → s.l.fb.errs < 3 →
        channelErrors (a && !res.okA) (b && !res.okB) u = post 0x0B02 0 [] { u with l := { u.l with
          fa := { u.l.fa with errs := 3, state := 3 }, fb := { u.l.fb with errs := 0 } } }) ∧
      (∀ k id, res.okA = true → res.okB = true → res.verified = false → op.erases = false → j.retried = false → s.l.fa.errs < 3 → s.l.fb.errs < 3 →
        sec = (k, some id) → k < 5 →
        let u1 : State := { u with l := { u.l with fa := { u.l.fa with errs := 0 }, fb := { u.l.fb with errs := 0 } } }
        let v := setRegion k (relocateSector u1.seconds u1.channels (u1.region k) id) u1
        exec (.flashOpComplete t res) s = .next { v with l := { v.l with jobs := { j with retried := true } :: rest } })) ∧
    (∀ (t : Nat) (f : MountFound) (s : State), s.l.mounting = true →
      let a := s.l.fa.state == 1
      let b := s.l.fb.state == 1
      let u0 := if a then advance t s else post 0x0B02 0 [] (advance t s)
      let u1 := if b then u0 else post 0x0B02 0 [] u0
      let u2 : State := { u1 with l := { u1.l with mounting := false } }
      (a = false → b = false → exec (.ledgerMountComplete t f) s = .next (runWaiting u2)) ∧
      (a = true ∨ b = true →
        let ga := a && !f.blankA
        let gb := b && !f.blankB
        let u3 := if ga || gb then { u2 with l := { u2.l with regions := u2.l.regions.map (fun r => r.onChannels ga gb) } } else blankLedger u2
        let u4 := reErase { u3 with l := { u3.l with rebuild := a && b && (ga != gb), mTorn := f.torn, mMarginal := f.marginal, mReloc := 0 } }
        let old := match (u4.region 1).current 3 0 with
          | some r => getLE r.payload 0 4
          | none => 0
        let u5 : State := { u4 with l := { u4.l with seq := max u4.l.seq u4.l.topSeq, mounted := true }, w := { u4.w with epoch := max u4.w.epoch old } }
        let u6 := restoreCounters (relocateBad u5)
        let u7 := post 0x0B01 0 (leBytes 2 (satN 0xFFFF f.torn) ++ leBytes 2 (satN 0xFFFF u6.l.mReerased) ++ leBytes 2 (satN 0xFFFF f.marginal)) u6
        exec (.ledgerMountComplete t f) s = .next (runWaiting
          (if u7.l.flushCut = true then post 0x0B21 0 [] { u7 with l := { u7.l with flushCut := false } } else u7)))) ∧
    (∀ (t : Nat) (s : State), s.l.rebuild = true →
      let whole := fun (r : Region) => ({ r with used := r.used.map (fun sec => { sec with
        recs := sec.recs.map (fun x => { x with okA := x.valid, okB := x.valid, differ := false }) }) } : Region)
      exec (.ledgerRebuildComplete t) s = .next (post 0x0B03 0 []
        { advance t s with l := { s.l with rebuild := false, regions := s.l.regions.map whole } })) ∧
    (∀ (t : Nat) (s : State), s.ledgerUp = true →
      let u := advance t s
      (∀ v, u.room 4 (recSize s.l.cnt.bytes.length) = some v →
        let r : FlashRec := { typ := 7, key := 0, seq := v.l.seq, payload := s.l.cnt.bytes, okA := true, okB := true, differ := false }
        let j : LJob := { ops := [.program 4 r, .commit 4 r], after := .nothing, write := true }
        exec (.countersSave t) s = .next { v with l := { v.l with seq := v.l.seq + 1, jobs := v.l.jobs ++ [j] } }) ∧
      (u.room 4 (recSize s.l.cnt.bytes.length) = none → exec (.countersSave t) s = .next (post 0x0B07 4 [] u))) ∧
    (∀ (t r : Nat) (s : State),
      (s.l.nonceRead = some r → exec (.nonceExpiry t) s = .next
        (if r + 60 * secU ≤ max s.t.now t then newNonce (advance t s) else advance t s)) ∧
      (s.l.authHold = some r → exec (.authHoldEnd t) s = .next
        (if r + secU ≤ max s.t.now t then { advance t s with l := { s.l with authHold := none } } else advance t s))) ∧
    (∀ (t : Nat) (s : State), s.ledgerUp = true → (∀ d, s.l.lastScrub = some d → d + 30 * 86400 * secU ≤ max s.t.now t) →
      let res := (List.range 5).foldl (fun acc k => ((scrubRegion k acc.1).1, acc.2 + (scrubRegion k acc.1).2)) (advance t s, 0)
      exec (.ledgerScrub t) s = .next (post 0x0B05 0 (leBytes 2 (satN 0xFFFF res.2))
        (bumpBy res.2 0x1101C 31 16 { res.1 with l := { res.1.l with lastScrub := some res.1.t.now } }))) ∧
    (∀ (k : Nat) (s : State),
      let bad := (s.region k).used.filter s.scrubs
      scrubRegion k s = (bad.foldl (fun v x => setRegion k (relocateSector v.seconds v.channels (v.region k) x.id) v) s, bad.length))

/-- EVENT_POST, after the close of an open record 1 s old: of the code and source of the record before it, open or staged, it adds to the
repeat count. Another one, with the FIFO empty and no record written at this edge nor any unarchived one in the way, closes the open
record, is written as the next one, over the record 4,096 before it, and goes to EVQ0; otherwise it is staged, or counted as lost with
the FIFO full. Of a lower source than this instant's record it takes its place. RECORD_CLOSE_TIMER closes a record after 1 s without
repeat. RECORDER_FIFO_DRAIN writes the oldest staged one; the lost-events record then follows the last one. ARCHIVE_BATCH queues up to
16 closed records when 16 wait or the oldest closed 1 s ago. FW_READY_RISE of running firmware ends the freeze, restarts a stopped
PTP, takes up the mode asked for and then the held commands; in Maintain with no mode asked for, the firmware stops again (log 46); a
repeated one only takes up held commands. TRIAL_CONFIRM after 60 s makes the trial slot ACTIVE, raises the least security version and
posts 0x0B12. TRIAL_FAIL of an attempted trial boots ACTIVE with 0x0B11. CONTROL_STALL posts an event of class 9, whose code is free
(log 16). Gives the next state that exec answers for FW_READY_RISE, TRIAL_CONFIRM, TRIAL_FAIL, EVENT_POST, RECORD_CLOSE_TIMER,
RECORDER_FIFO_DRAIN, ARCHIVE_BATCH, CONTROL_STALL. (R36, R568, R569, R570, R571, R572, R573, R574, R605, R613, R614,
18_power_modes.md) -/
def Obligations.RecorderAndBootRows : Prop :=
  (∀ (t code src : Nat) (args : List Byte) (s : State),
      let u := closeTimer (advance t s)
      let r := newRecord (code % 65536) src args u
      let blocked := u.ev.lastEdge = some u.edge ∨ (u.l.mounted = true ∧ u.ramFull = true)
      let staged : EvRec := { r with staged := true }
      (∀ o, u.ev.fifo = [] → u.openRecord = some o → o.same r = true → exec (.eventPost t code src args) s = .next
        { u with ev := { u.ev with ram := nset u.ev.ram (u.ev.nextSeq - 1) { o with rep := satN 0xFFFF (o.rep + 1), lastT := u.t.now } } }) ∧
      (u.ev.fifo = [] → (∀ o, u.openRecord = some o → o.same r = false) → ¬ blocked →
        let c := closeRecord u
        let d := if c.ramFull then bump 0x12014 31 16 c else c
        let n := c.ev.nextSeq
        let ram := if 4096 ≤ n then ndel d.ev.ram (n - 4096) else d.ev.ram
        exec (.eventPost t code src args) s = .next
          (evqWrite n r { d with ev := { d.ev with ram := nset ram n r, nextSeq := n + 1, lastEdge := some d.edge } })) ∧
      (u.ev.fifo = [] → (∀ o, u.openRecord = some o → o.same r = false ∧ (o.edge ≠ r.edge ∨ o.staged = true ∨ o.source ≤ r.source)) → blocked →
        exec (.eventPost t code src args) s = .next { u with ev := { u.ev with fifo := [staged] } }) ∧
      (∀ o, u.ev.fifo = [] → u.openRecord = some o → o.same r = false → blocked → o.edge = r.edge → o.staged = false → r.source < o.source →
        exec (.eventPost t code src args) s = .next (evqWrite (u.ev.nextSeq - 1) r { u with ev := { u.ev with
          fifo := [{ o with staged := true, told := true }], ram := nset u.ev.ram (u.ev.nextSeq - 1) r } })) ∧
      (∀ o, u.ev.fifo.getLast? = some o → (∀ x ∈ u.ev.fifo, x.edge ≠ r.edge ∨ x.source ≤ r.source) →
        (o.same r = true → exec (.eventPost t code src args) s = .next
          { u with ev := { u.ev with fifo := u.ev.fifo.dropLast ++ [{ o with rep := satN 0xFFFF (o.rep + 1), lastT := u.t.now }] } }) ∧
        (o.same r = false → u.ev.fifo.length < 16 → exec (.eventPost t code src args) s = .next
          { u with ev := { u.ev with fifo := u.ev.fifo ++ [staged] } }) ∧
        (o.same r = false → u.ev.fifo.length = 16 → exec (.eventPost t code src args) s = .next (bumpBy 1 0x12014 15 0 { u with ev := { u.ev with
          lost := u.ev.lost + 1, lostFirst := if u.ev.lost = 0 then u.ns else u.ev.lostFirst, lostLast := u.ns } })))) ∧
    (∀ (t : Nat) (r : EvRec) (s : State), s.openRecord = some r → r.lastT + secU ≤ max s.t.now t →
      let u := advance t s
      let r' : EvRec := { r with closed := true, closedAt := max s.t.now t }
      let v : State := { u with ev := { u.ev with ram := nset u.ev.ram (u.ev.nextSeq - 1) r' } }
      exec (.recordCloseTimer t) s = .next (if 1 < r.rep then evqWrite (s.ev.nextSeq - 1) r' v else v)) ∧
    (∀ (t : Nat) (r : EvRec) (rest : List EvRec) (s : State), s.ev.fifo = r :: rest → s.ev.lastEdge ≠ some (advance t s).edge →
      s.l.mounted = false ∨ s.ramFull = false →
      let u := advance t s
      let v := writeRecord r { u with ev := { u.ev with fifo := rest } }
      (rest ≠ [] ∨ v.ev.lost = 0 → exec (.recorderFifoDrain t) s = .next v) ∧
      (rest = [] → v.ev.lost ≠ 0 → exec (.recorderFifoDrain t) s = .next { v with ev := { v.ev with fifo := [lostRecord v], lost := 0 } } ∧
        (lostRecord v).code = 0x0C01 ∧ (lostRecord v).args = fit 16 (leBytes 2 (satN 0xFFFF v.ev.lost) ++ leBytes 8 v.ev.lostFirst ++
          leBytes 4 (satN 0xFFFFFFFF ((v.ev.lostLast - v.ev.lostFirst) / 1000))))) ∧
    (∀ (t k : Nat) (r : EvRec) (rest : List (Nat × EvRec)) (s : State), s.toArchive = (k, r) :: rest → s.ledgerUp = true →
      (16 ≤ s.toArchive.length ∨ r.closedAt + secU ≤ max s.t.now t → exec (.archiveBatch t) s = .next (queueBatch (s.toArchive.take 16) none (advance t s))) ∧
      (s.toArchive.length < 16 → max s.t.now t < r.closedAt + secU → exec (.archiveBatch t) s = .next (advance t s))) ∧
    (∀ (t : Nat) (s : State), s.m.cpRun = true → s.coreUp = true →
      let u := advance t s
      (s.m.fwReady = true → exec (.fwReadyRise t) s = .next (acceptHeld s.h.holdQ u)) ∧
      (s.m.fwReady = false → s.m.mode = .maintain → s.m.afterReady = none →
        exec (.fwReadyRise t) s = .next { u with m := { u.m with cpRun := false } }) ∧
      (s.m.fwReady = false → s.m.mode ≠ .maintain ∨ s.m.afterReady.isSome = true →
        let v : State := { u with m := { u.m with fwReady := true, readyAt := some (max s.t.now t), maint := false } }
        let v2 : State := if s.m.maint then { v with o := { v.o with freezeEnd := v.m.pick } } else v
        let v3 := if v2.t.ptpState = 0 then restartPtp .master v2 else v2
        exec (.fwReadyRise t) s = .next (acceptHeld v3.h.holdQ (leaveMaintain v3)) ∧
        (∀ r, v3.m.afterReady = some r → v3.m.start = false → r.target ≠ .maintain →
          let w : State := { v3 with m := { v3.m with afterReady := none } }
          let q := max r.pick w.planned.nextPick
          leaveMaintain v3 = pushSched q (decide (r.pick < q)) none (.mode r) { w with m := { w.m with transPick := some q } }))) ∧
    (∀ (t since : Nat) (s : State), s.m.trial = true → s.m.fwReady = true → s.m.readyAt = some since → since + 60 * secU ≤ max s.t.now t →
      (∀ f, s.m.lastFault = some f → f < since ∨ f + 60 * secU ≤ max s.t.now t) →
      let u := advance t s
      let v := writeBoot { u.boot with active := s.m.slot, trial := 0xFF } u
      exec (.trialConfirm t) s = .next (post 0x0B12 0 [] { v with
        l := { v.l with otpRaised := max v.l.otpRaised (getLE (v.slotImage v.m.slot) 8 4) }, m := { v.m with trial := false } })) ∧
    (∀ (t : Nat) (s : State), s.m.trial = true → s.coreUp = true →
      let v : State := { advance t s with m := { s.m with fwReady := false }, p := { s.p with fwOpen := false, fwNext := 0, fwVerified := false, fwData := [] } }
      s.p.straps % 4 = 0 → v.boot.trial < 2 → v.boot.attempted ≠ 0 → v.bootable v.boot.active = true →
      exec (.trialFail t) s = .next (bootImage v.boot.active false (post 0x0B11 0 [] (writeBoot { v.boot with trial := 0xFF } v)))) ∧
    (∀ (t : Nat) (s : State), s.coreUp = true → s.m.cpRun = true →
      exec (.controlStall t) s = .next (post (0x0900 + Config.controlStallLow.toNat) 0 [] (advance t s)))

/-- ENGINE_BLOCK_START of an engine that the pick needs, whose producers have finished: it finds the memory errors of its reads, and the
filter chain works on its block. ENGINE_FINISH of such an engine with its own work done, at its deadline at the latest, leaves its
results and records the time and the steps, which for the Reed's two engines the command brings (log 58); later it does nothing.
PICK_START_MARK at the next pick's start: the pick that ends is closed, overrunning with the first unfinished engine whose producers
have finished as cause; buffers change hands, gate lists swap, Bobbin channels start, the link frame leaves, and the next pick begins
with its changes. An overrun is counted by cause, the core voltage goes to 800 mV and 0x0120 is posted. AVS_WINDOW of 16 picks moves
the voltage 5 mV up with the least slack below the target, 5 mV down with it more than 5 points above, within 650-800 mV, with the
loop on and no hold. VCORE_HOLD_EXPIRY ends the hold 1 s after the overrun and starts a new window. Gives the next state that exec
answers for PICK_START_MARK, ENGINE_BLOCK_START, ENGINE_FINISH, AVS_WINDOW, VCORE_HOLD_EXPIRY. (R26, R40, R42, R44, R51, R52, R53,
R56, R58, R590, 02_pick_budget.md, 18_power_modes.md) -/
def Obligations.PickRows : Prop :=
  (∀ (t e : Nat) (pdm : List (List Nat)) (errs : List EccError) (s : State), s.m.dpRun = true → s.neededEngines.contains e = true → s.fed e = true →
      (s.use e).finished = false →
      let u := advance t s
      let u1 : State := { u with b := { u.b with cur := lset u.b.cur e { u.use e with started := true } } }
      let v := (inLogOrder errs).foldl (engineError e) u1
      exec (.engineBlockStart t e pdm errs) s = .next (if e = 5 then fchBlock pdm v else v)) ∧
    (∀ (t e steps : Nat) (s : State), s.m.dpRun = true → s.neededEngines.contains e = true → s.fed e = true → (s.use e).finished = false →
      (advance t s).canFinish e = true →
      let u := advance t s
      (max s.t.now t ≤ u.pickAt (s.m.pick + 1) →
        let v := engineResult e u
        let r : EngineUse := { started := true, finished := true, used := satN 0xFFFFFFFF (u.stepsUsed e steps),
                               fin := satN 0xFFFE ((v.t.now - v.pickAt v.m.pick) * v.fs / (v.t.pickLen * 1000000000)), at_ := v.t.now }
        exec (.engineFinish t e steps) s = .next { v with b := { v.b with cur := lset v.b.cur e r } }) ∧
      (u.pickAt (s.m.pick + 1) < max s.t.now t → exec (.engineFinish t e steps) s = .next u)) ∧
    (∀ (t : Nat) (haq : List HaqRead) (s : State),
      let u := advance t s
      let p := u.m.pick + 1
      (s.m.dpRun = true → u.pickAt p ≤ max s.t.now t →
        let v1 := netTransmit p (turnBuffers (endPick p (u.pickAt p) u))
        let v2 := bobPickMark ((List.range 4).foldl (fun st k => gateSwapDue p k st) v1)
        let v3 := handover p (sendFrame (p - 1) (if v2.w.en = true ∧ v2.w.role = 1 then v2.closedSet p else []) v2)
        exec (.pickStartMark t haq) s = .next (beginPick haq p v3)) ∧
      (s.m.dpRun = false ∨ max s.t.now t < u.pickAt p → exec (.pickStartMark t haq) s = .next u)) ∧
    (∀ (s : State) (cause b : Nat),
      s.overrunCause = (s.neededEngines.filter (fun e => !(s.use e).finished)).find? (fun e => s.fed e) ∧
      (let x : State := { s with b := { s.b with cause := cause, overruns := satN 0xFFFFFFFF (s.b.overruns + 1), lastOverrun := some b } }
       let y := setCnt (fun c => { c with overruns := satN 0xFFFFFFFF (c.overruns + 1) }) (bump 0x110 15 0 x)
       let z := post 0x0120 0 (leBytes 1 cause ++ leBytes 8 s.m.pick) { y with p := { y.p with vset := 800, holdSince := some b } }
       let recent := z.b.counted.filter (fun d => decide (b ≤ d + secU)) ++ [b]
       (recent.length < 3 → countOverrun cause b s = { z with b := { z.b with counted := recent } }) ∧
       (3 ≤ recent.length → countOverrun cause b s = { z with b := { z.b with counted := [], due := some z.m.pick } }))) ∧
    (∀ (t : Nat) (s : State),
      let u : State := { advance t s with b := { s.b with winMin := 0xFFFF, winCount := 0 } }
      (s.b.winCount < 16 → exec (.avsWindow t) s = .next (advance t s)) ∧
      (16 ≤ s.b.winCount → s.p.avs ≠ .loop ∨ s.p.holdSince.isSome = true ∨ s.m.dpRun = false → exec (.avsWindow t) s = .next u) ∧
      (16 ≤ s.b.winCount → s.p.avs = .loop → s.p.holdSince = none → s.m.dpRun = true → exec (.avsWindow t) s = .next (
        if s.b.winMin < s.b.target * 65536 / 100 then { u with p := { s.p with vset := clampN 650 800 (s.p.vset + 5) } }
        else if (s.b.target + 5) * 65536 / 100 < s.b.winMin then { u with p := { s.p with vset := clampN 650 800 (s.p.vset - 5) } }
        else u))) ∧
    (∀ (t h : Nat) (s : State), s.p.holdSince = some h →
      (max s.t.now t < h + secU → exec (.vcoreHoldExpiry t) s = .next (advance t s)) ∧
      (h + secU ≤ max s.t.now t →
        let v := match s.p.avs with | .fixed v => v | .loop => s.p.vset
        exec (.vcoreHoldExpiry t) s = .next { advance t s with
          b := { s.b with winMin := 0xFFFF, winCount := 0 }, p := { s.p with holdSince := none, vset := v } }))
end

