-- ==== Sys2Proof/Laws/Host.lean ====
section
/-!
SUPPORT. Sys2Proof/Laws/Host.lean: what taking a host command can do, once for all of them (14_host_interface R449–R455).
-/
namespace Sys2Proof.Machine

theorem popRing_m (q : Nat) (s : State) : (popRing q s).m = s.m := by
  delta popRing; dsimp only; split <;> rfl

theorem popRing_t (q : Nat) (s : State) : (popRing q s).t = s.t := by
  delta popRing; dsimp only; split <;> rfl

/-- A command that is not taken stays in its ring: only time has passed. -/
theorem hostCommand_waits {s : State} {c : HostCmd} {info : CmdInfo} (i : Instr) (body : Body) (h : s.takesNow c info = false) :
    hostCommand info i c body s = advance c.t s := by
  unfold State.takesNow at h
  simp [hostCommand, h]

/-- A command that is accepted does its body's work in the state `taken`. -/
theorem hostCommand_accepts {s : State} {c : HostCmd} {info : CmdInfo} (i : Instr) (body : Body) (h : s.accepts c info = true) :
    hostCommand info i c body s = body c (s.waiterOf c info) (s.taken c info) := by
  simp only [State.accepts, State.takesNow, State.late, Bool.and_eq_true, Bool.not_eq_true', Bool.or_eq_true, beq_iff_eq] at h
  obtain ⟨⟨⟨h1, h2⟩, h3⟩, h4⟩ := h
  simp only [hostCommand, h1, if_true]
  have hm : ∀ k, (popRing c.ring { advance c.t s with h := k }).m = s.m := fun k => popRing_m _ _
  have ht : ∀ k, (popRing c.ring { advance c.t s with h := k }).t = (advance c.t s).t := fun k => popRing_t _ _
  rw [hm]
  have hj : ∀ k, judge body c ((advance c.t s).headStamp c.ring) (newWaiter c info.opcode (advance c.t s))
      (popRing c.ring { advance c.t s with h := k }) =
      body c (newWaiter c info.opcode (advance c.t s))
        (accepted (newWaiter c info.opcode (advance c.t s)) (popRing c.ring { advance c.t s with h := k })) := by
    intro k
    have : (accepted (newWaiter c info.opcode (advance c.t s)) (popRing c.ring { advance c.t s with h := k })).t = (advance c.t s).t := ht k
    unfold judge
    simp only [h3, this, h4, Bool.false_eq_true, if_false]
  rcases h2 with h2 | h2
  · simp only [h2, Bool.false_eq_true, if_false]
    exact hj _
  · simp only [h2]
    split
    · exact hj _
    · exact hj _

/-- Each of the 93 host commands goes through `hostCommand`, with a body of its own. -/
theorem hostForm_exec {i : Instr} {c : HostCmd} {info : CmdInfo} (h : hostForm i = some (c, info)) (s : State) :
    ∃ body, exec i s = .next (hostCommand info i c body s) := by
  cases i <;> cases h <;> exact ⟨_, rfl⟩

end Sys2Proof.Machine
end

