-- ==== Sys2Proof/Laws/State.lean ====
section
/-!
SUPPORT. Sys2Proof/Laws/State.lean: one lemma for each field of State under each update of one of its blocks, true by rfl.
-/
namespace Sys2Proof.Machine

variable (s : State)

section
variable (k : TimeS → TimeS)

@[simp] theorem setT_pending : (setT k s).pending = s.pending := rfl
@[simp] theorem setT_freeCtr : (setT k s).freeCtr = s.freeCtr := rfl
@[simp] theorem setT_regs : (setT k s).regs = s.regs := rfl
@[simp] theorem setT_sched : (setT k s).sched = s.sched := rfl
@[simp] theorem setT_t : (setT k s).t = k s.t := rfl
@[simp] theorem setT_m : (setT k s).m = s.m := rfl
@[simp] theorem setT_p : (setT k s).p = s.p := rfl
@[simp] theorem setT_b : (setT k s).b = s.b := rfl
@[simp] theorem setT_h : (setT k s).h = s.h := rfl
@[simp] theorem setT_ev : (setT k s).ev = s.ev := rfl
@[simp] theorem setT_l : (setT k s).l = s.l := rfl
@[simp] theorem setT_o : (setT k s).o = s.o := rfl
@[simp] theorem setT_x : (setT k s).x = s.x := rfl
@[simp] theorem setT_r : (setT k s).r = s.r := rfl
@[simp] theorem setT_d : (setT k s).d = s.d := rfl
@[simp] theorem setT_f : (setT k s).f = s.f := rfl
@[simp] theorem setT_a : (setT k s).a = s.a := rfl
@[simp] theorem setT_n : (setT k s).n = s.n := rfl
@[simp] theorem setT_c : (setT k s).c = s.c := rfl
@[simp] theorem setT_g : (setT k s).g = s.g := rfl
@[simp] theorem setT_w : (setT k s).w = s.w := rfl

end

section
variable (k : ModeS → ModeS)

@[simp] theorem setM_pending : (setM k s).pending = s.pending := rfl
@[simp] theorem setM_freeCtr : (setM k s).freeCtr = s.freeCtr := rfl
@[simp] theorem setM_regs : (setM k s).regs = s.regs := rfl
@[simp] theorem setM_sched : (setM k s).sched = s.sched := rfl
@[simp] theorem setM_t : (setM k s).t = s.t := rfl
@[simp] theorem setM_m : (setM k s).m = k s.m := rfl
@[simp] theorem setM_p : (setM k s).p = s.p := rfl
@[simp] theorem setM_b : (setM k s).b = s.b := rfl
@[simp] theorem setM_h : (setM k s).h = s.h := rfl
@[simp] theorem setM_ev : (setM k s).ev = s.ev := rfl
@[simp] theorem setM_l : (setM k s).l = s.l := rfl
@[simp] theorem setM_o : (setM k s).o = s.o := rfl
@[simp] theorem setM_x : (setM k s).x = s.x := rfl
@[simp] theorem setM_r : (setM k s).r = s.r := rfl
@[simp] theorem setM_d : (setM k s).d = s.d := rfl
@[simp] theorem setM_f : (setM k s).f = s.f := rfl
@[simp] theorem setM_a : (setM k s).a = s.a := rfl
@[simp] theorem setM_n : (setM k s).n = s.n := rfl
@[simp] theorem setM_c : (setM k s).c = s.c := rfl
@[simp] theorem setM_g : (setM k s).g = s.g := rfl
@[simp] theorem setM_w : (setM k s).w = s.w := rfl

end

section
variable (k : PowerS → PowerS)

@[simp] theorem setP_pending : (setP k s).pending = s.pending := rfl
@[simp] theorem setP_freeCtr : (setP k s).freeCtr = s.freeCtr := rfl
@[simp] theorem setP_regs : (setP k s).regs = s.regs := rfl
@[simp] theorem setP_sched : (setP k s).sched = s.sched := rfl
@[simp] theorem setP_t : (setP k s).t = s.t := rfl
@[simp] theorem setP_m : (setP k s).m = s.m := rfl
@[simp] theorem setP_p : (setP k s).p = k s.p := rfl
@[simp] theorem setP_b : (setP k s).b = s.b := rfl
@[simp] theorem setP_h : (setP k s).h = s.h := rfl
@[simp] theorem setP_ev : (setP k s).ev = s.ev := rfl
@[simp] theorem setP_l : (setP k s).l = s.l := rfl
@[simp] theorem setP_o : (setP k s).o = s.o := rfl
@[simp] theorem setP_x : (setP k s).x = s.x := rfl
@[simp] theorem setP_r : (setP k s).r = s.r := rfl
@[simp] theorem setP_d : (setP k s).d = s.d := rfl
@[simp] theorem setP_f : (setP k s).f = s.f := rfl
@[simp] theorem setP_a : (setP k s).a = s.a := rfl
@[simp] theorem setP_n : (setP k s).n = s.n := rfl
@[simp] theorem setP_c : (setP k s).c = s.c := rfl
@[simp] theorem setP_g : (setP k s).g = s.g := rfl
@[simp] theorem setP_w : (setP k s).w = s.w := rfl

end

section
variable (k : BudgetS → BudgetS)

@[simp] theorem setB_pending : (setB k s).pending = s.pending := rfl
@[simp] theorem setB_freeCtr : (setB k s).freeCtr = s.freeCtr := rfl
@[simp] theorem setB_regs : (setB k s).regs = s.regs := rfl
@[simp] theorem setB_sched : (setB k s).sched = s.sched := rfl
@[simp] theorem setB_t : (setB k s).t = s.t := rfl
@[simp] theorem setB_m : (setB k s).m = s.m := rfl
@[simp] theorem setB_p : (setB k s).p = s.p := rfl
@[simp] theorem setB_b : (setB k s).b = k s.b := rfl
@[simp] theorem setB_h : (setB k s).h = s.h := rfl
@[simp] theorem setB_ev : (setB k s).ev = s.ev := rfl
@[simp] theorem setB_l : (setB k s).l = s.l := rfl
@[simp] theorem setB_o : (setB k s).o = s.o := rfl
@[simp] theorem setB_x : (setB k s).x = s.x := rfl
@[simp] theorem setB_r : (setB k s).r = s.r := rfl
@[simp] theorem setB_d : (setB k s).d = s.d := rfl
@[simp] theorem setB_f : (setB k s).f = s.f := rfl
@[simp] theorem setB_a : (setB k s).a = s.a := rfl
@[simp] theorem setB_n : (setB k s).n = s.n := rfl
@[simp] theorem setB_c : (setB k s).c = s.c := rfl
@[simp] theorem setB_g : (setB k s).g = s.g := rfl
@[simp] theorem setB_w : (setB k s).w = s.w := rfl

end

section
variable (k : HostS → HostS)

@[simp] theorem setH_pending : (setH k s).pending = s.pending := rfl
@[simp] theorem setH_freeCtr : (setH k s).freeCtr = s.freeCtr := rfl
@[simp] theorem setH_regs : (setH k s).regs = s.regs := rfl
@[simp] theorem setH_sched : (setH k s).sched = s.sched := rfl
@[simp] theorem setH_t : (setH k s).t = s.t := rfl
@[simp] theorem setH_m : (setH k s).m = s.m := rfl
@[simp] theorem setH_p : (setH k s).p = s.p := rfl
@[simp] theorem setH_b : (setH k s).b = s.b := rfl
@[simp] theorem setH_h : (setH k s).h = k s.h := rfl
@[simp] theorem setH_ev : (setH k s).ev = s.ev := rfl
@[simp] theorem setH_l : (setH k s).l = s.l := rfl
@[simp] theorem setH_o : (setH k s).o = s.o := rfl
@[simp] theorem setH_x : (setH k s).x = s.x := rfl
@[simp] theorem setH_r : (setH k s).r = s.r := rfl
@[simp] theorem setH_d : (setH k s).d = s.d := rfl
@[simp] theorem setH_f : (setH k s).f = s.f := rfl
@[simp] theorem setH_a : (setH k s).a = s.a := rfl
@[simp] theorem setH_n : (setH k s).n = s.n := rfl
@[simp] theorem setH_c : (setH k s).c = s.c := rfl
@[simp] theorem setH_g : (setH k s).g = s.g := rfl
@[simp] theorem setH_w : (setH k s).w = s.w := rfl

end

section
variable (k : LdgS → LdgS)

@[simp] theorem setL_pending : (setL k s).pending = s.pending := rfl
@[simp] theorem setL_freeCtr : (setL k s).freeCtr = s.freeCtr := rfl
@[simp] theorem setL_regs : (setL k s).regs = s.regs := rfl
@[simp] theorem setL_sched : (setL k s).sched = s.sched := rfl
@[simp] theorem setL_t : (setL k s).t = s.t := rfl
@[simp] theorem setL_m : (setL k s).m = s.m := rfl
@[simp] theorem setL_p : (setL k s).p = s.p := rfl
@[simp] theorem setL_b : (setL k s).b = s.b := rfl
@[simp] theorem setL_h : (setL k s).h = s.h := rfl
@[simp] theorem setL_ev : (setL k s).ev = s.ev := rfl
@[simp] theorem setL_l : (setL k s).l = k s.l := rfl
@[simp] theorem setL_o : (setL k s).o = s.o := rfl
@[simp] theorem setL_x : (setL k s).x = s.x := rfl
@[simp] theorem setL_r : (setL k s).r = s.r := rfl
@[simp] theorem setL_d : (setL k s).d = s.d := rfl
@[simp] theorem setL_f : (setL k s).f = s.f := rfl
@[simp] theorem setL_a : (setL k s).a = s.a := rfl
@[simp] theorem setL_n : (setL k s).n = s.n := rfl
@[simp] theorem setL_c : (setL k s).c = s.c := rfl
@[simp] theorem setL_g : (setL k s).g = s.g := rfl
@[simp] theorem setL_w : (setL k s).w = s.w := rfl

end

section
variable (k : ObjS → ObjS)

@[simp] theorem setO_pending : (setO k s).pending = s.pending := rfl
@[simp] theorem setO_freeCtr : (setO k s).freeCtr = s.freeCtr := rfl
@[simp] theorem setO_regs : (setO k s).regs = s.regs := rfl
@[simp] theorem setO_sched : (setO k s).sched = s.sched := rfl
@[simp] theorem setO_t : (setO k s).t = s.t := rfl
@[simp] theorem setO_m : (setO k s).m = s.m := rfl
@[simp] theorem setO_p : (setO k s).p = s.p := rfl
@[simp] theorem setO_b : (setO k s).b = s.b := rfl
@[simp] theorem setO_h : (setO k s).h = s.h := rfl
@[simp] theorem setO_ev : (setO k s).ev = s.ev := rfl
@[simp] theorem setO_l : (setO k s).l = s.l := rfl
@[simp] theorem setO_o : (setO k s).o = k s.o := rfl
@[simp] theorem setO_x : (setO k s).x = s.x := rfl
@[simp] theorem setO_r : (setO k s).r = s.r := rfl
@[simp] theorem setO_d : (setO k s).d = s.d := rfl
@[simp] theorem setO_f : (setO k s).f = s.f := rfl
@[simp] theorem setO_a : (setO k s).a = s.a := rfl
@[simp] theorem setO_n : (setO k s).n = s.n := rfl
@[simp] theorem setO_c : (setO k s).c = s.c := rfl
@[simp] theorem setO_g : (setO k s).g = s.g := rfl
@[simp] theorem setO_w : (setO k s).w = s.w := rfl

end

section
variable (k : LoomS → LoomS)

@[simp] theorem setX_pending : (setX k s).pending = s.pending := rfl
@[simp] theorem setX_freeCtr : (setX k s).freeCtr = s.freeCtr := rfl
@[simp] theorem setX_regs : (setX k s).regs = s.regs := rfl
@[simp] theorem setX_sched : (setX k s).sched = s.sched := rfl
@[simp] theorem setX_t : (setX k s).t = s.t := rfl
@[simp] theorem setX_m : (setX k s).m = s.m := rfl
@[simp] theorem setX_p : (setX k s).p = s.p := rfl
@[simp] theorem setX_b : (setX k s).b = s.b := rfl
@[simp] theorem setX_h : (setX k s).h = s.h := rfl
@[simp] theorem setX_ev : (setX k s).ev = s.ev := rfl
@[simp] theorem setX_l : (setX k s).l = s.l := rfl
@[simp] theorem setX_o : (setX k s).o = s.o := rfl
@[simp] theorem setX_x : (setX k s).x = k s.x := rfl
@[simp] theorem setX_r : (setX k s).r = s.r := rfl
@[simp] theorem setX_d : (setX k s).d = s.d := rfl
@[simp] theorem setX_f : (setX k s).f = s.f := rfl
@[simp] theorem setX_a : (setX k s).a = s.a := rfl
@[simp] theorem setX_n : (setX k s).n = s.n := rfl
@[simp] theorem setX_c : (setX k s).c = s.c := rfl
@[simp] theorem setX_g : (setX k s).g = s.g := rfl
@[simp] theorem setX_w : (setX k s).w = s.w := rfl

end

section
variable (k : ReedS → ReedS)

@[simp] theorem setR_pending : (setR k s).pending = s.pending := rfl
@[simp] theorem setR_freeCtr : (setR k s).freeCtr = s.freeCtr := rfl
@[simp] theorem setR_regs : (setR k s).regs = s.regs := rfl
@[simp] theorem setR_sched : (setR k s).sched = s.sched := rfl
@[simp] theorem setR_t : (setR k s).t = s.t := rfl
@[simp] theorem setR_m : (setR k s).m = s.m := rfl
@[simp] theorem setR_p : (setR k s).p = s.p := rfl
@[simp] theorem setR_b : (setR k s).b = s.b := rfl
@[simp] theorem setR_h : (setR k s).h = s.h := rfl
@[simp] theorem setR_ev : (setR k s).ev = s.ev := rfl
@[simp] theorem setR_l : (setR k s).l = s.l := rfl
@[simp] theorem setR_o : (setR k s).o = s.o := rfl
@[simp] theorem setR_x : (setR k s).x = s.x := rfl
@[simp] theorem setR_r : (setR k s).r = k s.r := rfl
@[simp] theorem setR_d : (setR k s).d = s.d := rfl
@[simp] theorem setR_f : (setR k s).f = s.f := rfl
@[simp] theorem setR_a : (setR k s).a = s.a := rfl
@[simp] theorem setR_n : (setR k s).n = s.n := rfl
@[simp] theorem setR_c : (setR k s).c = s.c := rfl
@[simp] theorem setR_g : (setR k s).g = s.g := rfl
@[simp] theorem setR_w : (setR k s).w = s.w := rfl

end

section
variable (k : HeddleS → HeddleS)

@[simp] theorem setD_pending : (setD k s).pending = s.pending := rfl
@[simp] theorem setD_freeCtr : (setD k s).freeCtr = s.freeCtr := rfl
@[simp] theorem setD_regs : (setD k s).regs = s.regs := rfl
@[simp] theorem setD_sched : (setD k s).sched = s.sched := rfl
@[simp] theorem setD_t : (setD k s).t = s.t := rfl
@[simp] theorem setD_m : (setD k s).m = s.m := rfl
@[simp] theorem setD_p : (setD k s).p = s.p := rfl
@[simp] theorem setD_b : (setD k s).b = s.b := rfl
@[simp] theorem setD_h : (setD k s).h = s.h := rfl
@[simp] theorem setD_ev : (setD k s).ev = s.ev := rfl
@[simp] theorem setD_l : (setD k s).l = s.l := rfl
@[simp] theorem setD_o : (setD k s).o = s.o := rfl
@[simp] theorem setD_x : (setD k s).x = s.x := rfl
@[simp] theorem setD_r : (setD k s).r = s.r := rfl
@[simp] theorem setD_d : (setD k s).d = k s.d := rfl
@[simp] theorem setD_f : (setD k s).f = s.f := rfl
@[simp] theorem setD_a : (setD k s).a = s.a := rfl
@[simp] theorem setD_n : (setD k s).n = s.n := rfl
@[simp] theorem setD_c : (setD k s).c = s.c := rfl
@[simp] theorem setD_g : (setD k s).g = s.g := rfl
@[simp] theorem setD_w : (setD k s).w = s.w := rfl

end

section
variable (k : FchS → FchS)

@[simp] theorem setF_pending : (setF k s).pending = s.pending := rfl
@[simp] theorem setF_freeCtr : (setF k s).freeCtr = s.freeCtr := rfl
@[simp] theorem setF_regs : (setF k s).regs = s.regs := rfl
@[simp] theorem setF_sched : (setF k s).sched = s.sched := rfl
@[simp] theorem setF_t : (setF k s).t = s.t := rfl
@[simp] theorem setF_m : (setF k s).m = s.m := rfl
@[simp] theorem setF_p : (setF k s).p = s.p := rfl
@[simp] theorem setF_b : (setF k s).b = s.b := rfl
@[simp] theorem setF_h : (setF k s).h = s.h := rfl
@[simp] theorem setF_ev : (setF k s).ev = s.ev := rfl
@[simp] theorem setF_l : (setF k s).l = s.l := rfl
@[simp] theorem setF_o : (setF k s).o = s.o := rfl
@[simp] theorem setF_x : (setF k s).x = s.x := rfl
@[simp] theorem setF_r : (setF k s).r = s.r := rfl
@[simp] theorem setF_d : (setF k s).d = s.d := rfl
@[simp] theorem setF_f : (setF k s).f = k s.f := rfl
@[simp] theorem setF_a : (setF k s).a = s.a := rfl
@[simp] theorem setF_n : (setF k s).n = s.n := rfl
@[simp] theorem setF_c : (setF k s).c = s.c := rfl
@[simp] theorem setF_g : (setF k s).g = s.g := rfl
@[simp] theorem setF_w : (setF k s).w = s.w := rfl

end

section
variable (k : PortS → PortS)

@[simp] theorem setA_pending : (setA k s).pending = s.pending := rfl
@[simp] theorem setA_freeCtr : (setA k s).freeCtr = s.freeCtr := rfl
@[simp] theorem setA_regs : (setA k s).regs = s.regs := rfl
@[simp] theorem setA_sched : (setA k s).sched = s.sched := rfl
@[simp] theorem setA_t : (setA k s).t = s.t := rfl
@[simp] theorem setA_m : (setA k s).m = s.m := rfl
@[simp] theorem setA_p : (setA k s).p = s.p := rfl
@[simp] theorem setA_b : (setA k s).b = s.b := rfl
@[simp] theorem setA_h : (setA k s).h = s.h := rfl
@[simp] theorem setA_ev : (setA k s).ev = s.ev := rfl
@[simp] theorem setA_l : (setA k s).l = s.l := rfl
@[simp] theorem setA_o : (setA k s).o = s.o := rfl
@[simp] theorem setA_x : (setA k s).x = s.x := rfl
@[simp] theorem setA_r : (setA k s).r = s.r := rfl
@[simp] theorem setA_d : (setA k s).d = s.d := rfl
@[simp] theorem setA_f : (setA k s).f = s.f := rfl
@[simp] theorem setA_a : (setA k s).a = k s.a := rfl
@[simp] theorem setA_n : (setA k s).n = s.n := rfl
@[simp] theorem setA_c : (setA k s).c = s.c := rfl
@[simp] theorem setA_g : (setA k s).g = s.g := rfl
@[simp] theorem setA_w : (setA k s).w = s.w := rfl

end

section
variable (k : NetS → NetS)

@[simp] theorem setN_pending : (setN k s).pending = s.pending := rfl
@[simp] theorem setN_freeCtr : (setN k s).freeCtr = s.freeCtr := rfl
@[simp] theorem setN_regs : (setN k s).regs = s.regs := rfl
@[simp] theorem setN_sched : (setN k s).sched = s.sched := rfl
@[simp] theorem setN_t : (setN k s).t = s.t := rfl
@[simp] theorem setN_m : (setN k s).m = s.m := rfl
@[simp] theorem setN_p : (setN k s).p = s.p := rfl
@[simp] theorem setN_b : (setN k s).b = s.b := rfl
@[simp] theorem setN_h : (setN k s).h = s.h := rfl
@[simp] theorem setN_ev : (setN k s).ev = s.ev := rfl
@[simp] theorem setN_l : (setN k s).l = s.l := rfl
@[simp] theorem setN_o : (setN k s).o = s.o := rfl
@[simp] theorem setN_x : (setN k s).x = s.x := rfl
@[simp] theorem setN_r : (setN k s).r = s.r := rfl
@[simp] theorem setN_d : (setN k s).d = s.d := rfl
@[simp] theorem setN_f : (setN k s).f = s.f := rfl
@[simp] theorem setN_a : (setN k s).a = s.a := rfl
@[simp] theorem setN_n : (setN k s).n = k s.n := rfl
@[simp] theorem setN_c : (setN k s).c = s.c := rfl
@[simp] theorem setN_g : (setN k s).g = s.g := rfl
@[simp] theorem setN_w : (setN k s).w = s.w := rfl

end

section
variable (k : BatS → BatS)

@[simp] theorem setC_pending : (setC k s).pending = s.pending := rfl
@[simp] theorem setC_freeCtr : (setC k s).freeCtr = s.freeCtr := rfl
@[simp] theorem setC_regs : (setC k s).regs = s.regs := rfl
@[simp] theorem setC_sched : (setC k s).sched = s.sched := rfl
@[simp] theorem setC_t : (setC k s).t = s.t := rfl
@[simp] theorem setC_m : (setC k s).m = s.m := rfl
@[simp] theorem setC_p : (setC k s).p = s.p := rfl
@[simp] theorem setC_b : (setC k s).b = s.b := rfl
@[simp] theorem setC_h : (setC k s).h = s.h := rfl
@[simp] theorem setC_ev : (setC k s).ev = s.ev := rfl
@[simp] theorem setC_l : (setC k s).l = s.l := rfl
@[simp] theorem setC_o : (setC k s).o = s.o := rfl
@[simp] theorem setC_x : (setC k s).x = s.x := rfl
@[simp] theorem setC_r : (setC k s).r = s.r := rfl
@[simp] theorem setC_d : (setC k s).d = s.d := rfl
@[simp] theorem setC_f : (setC k s).f = s.f := rfl
@[simp] theorem setC_a : (setC k s).a = s.a := rfl
@[simp] theorem setC_n : (setC k s).n = s.n := rfl
@[simp] theorem setC_c : (setC k s).c = k s.c := rfl
@[simp] theorem setC_g : (setC k s).g = s.g := rfl
@[simp] theorem setC_w : (setC k s).w = s.w := rfl

end

section
variable (k : FabS → FabS)

@[simp] theorem setG_pending : (setG k s).pending = s.pending := rfl
@[simp] theorem setG_freeCtr : (setG k s).freeCtr = s.freeCtr := rfl
@[simp] theorem setG_regs : (setG k s).regs = s.regs := rfl
@[simp] theorem setG_sched : (setG k s).sched = s.sched := rfl
@[simp] theorem setG_t : (setG k s).t = s.t := rfl
@[simp] theorem setG_m : (setG k s).m = s.m := rfl
@[simp] theorem setG_p : (setG k s).p = s.p := rfl
@[simp] theorem setG_b : (setG k s).b = s.b := rfl
@[simp] theorem setG_h : (setG k s).h = s.h := rfl
@[simp] theorem setG_ev : (setG k s).ev = s.ev := rfl
@[simp] theorem setG_l : (setG k s).l = s.l := rfl
@[simp] theorem setG_o : (setG k s).o = s.o := rfl
@[simp] theorem setG_x : (setG k s).x = s.x := rfl
@[simp] theorem setG_r : (setG k s).r = s.r := rfl
@[simp] theorem setG_d : (setG k s).d = s.d := rfl
@[simp] theorem setG_f : (setG k s).f = s.f := rfl
@[simp] theorem setG_a : (setG k s).a = s.a := rfl
@[simp] theorem setG_n : (setG k s).n = s.n := rfl
@[simp] theorem setG_c : (setG k s).c = s.c := rfl
@[simp] theorem setG_g : (setG k s).g = k s.g := rfl
@[simp] theorem setG_w : (setG k s).w = s.w := rfl

end

section
variable (k : TwinS → TwinS)

@[simp] theorem setW_pending : (setW k s).pending = s.pending := rfl
@[simp] theorem setW_freeCtr : (setW k s).freeCtr = s.freeCtr := rfl
@[simp] theorem setW_regs : (setW k s).regs = s.regs := rfl
@[simp] theorem setW_sched : (setW k s).sched = s.sched := rfl
@[simp] theorem setW_t : (setW k s).t = s.t := rfl
@[simp] theorem setW_m : (setW k s).m = s.m := rfl
@[simp] theorem setW_p : (setW k s).p = s.p := rfl
@[simp] theorem setW_b : (setW k s).b = s.b := rfl
@[simp] theorem setW_h : (setW k s).h = s.h := rfl
@[simp] theorem setW_ev : (setW k s).ev = s.ev := rfl
@[simp] theorem setW_l : (setW k s).l = s.l := rfl
@[simp] theorem setW_o : (setW k s).o = s.o := rfl
@[simp] theorem setW_x : (setW k s).x = s.x := rfl
@[simp] theorem setW_r : (setW k s).r = s.r := rfl
@[simp] theorem setW_d : (setW k s).d = s.d := rfl
@[simp] theorem setW_f : (setW k s).f = s.f := rfl
@[simp] theorem setW_a : (setW k s).a = s.a := rfl
@[simp] theorem setW_n : (setW k s).n = s.n := rfl
@[simp] theorem setW_c : (setW k s).c = s.c := rfl
@[simp] theorem setW_g : (setW k s).g = s.g := rfl
@[simp] theorem setW_w : (setW k s).w = k s.w := rfl

end

@[simp] theorem advance_pending (t : Nat) : (advance t s).pending = s.pending := rfl
@[simp] theorem advance_freeCtr (t : Nat) : (advance t s).freeCtr = s.freeCtr := rfl
@[simp] theorem advance_regs (t : Nat) : (advance t s).regs = s.regs := rfl
@[simp] theorem advance_sched (t : Nat) : (advance t s).sched = s.sched := rfl
@[simp] theorem advance_t (t : Nat) : (advance t s).t = { s.t with now := max s.t.now t } := rfl
@[simp] theorem advance_m (t : Nat) : (advance t s).m = s.m := rfl
@[simp] theorem advance_p (t : Nat) : (advance t s).p = s.p := rfl
@[simp] theorem advance_b (t : Nat) : (advance t s).b = s.b := rfl
@[simp] theorem advance_h (t : Nat) : (advance t s).h = s.h := rfl
@[simp] theorem advance_ev (t : Nat) : (advance t s).ev = s.ev := rfl
@[simp] theorem advance_l (t : Nat) : (advance t s).l = s.l := rfl
@[simp] theorem advance_o (t : Nat) : (advance t s).o = s.o := rfl
@[simp] theorem advance_x (t : Nat) : (advance t s).x = s.x := rfl
@[simp] theorem advance_r (t : Nat) : (advance t s).r = s.r := rfl
@[simp] theorem advance_d (t : Nat) : (advance t s).d = s.d := rfl
@[simp] theorem advance_f (t : Nat) : (advance t s).f = s.f := rfl
@[simp] theorem advance_a (t : Nat) : (advance t s).a = s.a := rfl
@[simp] theorem advance_n (t : Nat) : (advance t s).n = s.n := rfl
@[simp] theorem advance_c (t : Nat) : (advance t s).c = s.c := rfl
@[simp] theorem advance_g (t : Nat) : (advance t s).g = s.g := rfl
@[simp] theorem advance_w (t : Nat) : (advance t s).w = s.w := rfl

@[simp] theorem setReg_pending (off : Nat) (v : Word) : (setReg off v s).pending = s.pending := rfl
@[simp] theorem setReg_freeCtr (off : Nat) (v : Word) : (setReg off v s).freeCtr = s.freeCtr := rfl
@[simp] theorem setReg_regs (off : Nat) (v : Word) : (setReg off v s).regs = nset s.regs off v := rfl
@[simp] theorem setReg_sched (off : Nat) (v : Word) : (setReg off v s).sched = s.sched := rfl
@[simp] theorem setReg_t (off : Nat) (v : Word) : (setReg off v s).t = s.t := rfl
@[simp] theorem setReg_m (off : Nat) (v : Word) : (setReg off v s).m = s.m := rfl
@[simp] theorem setReg_p (off : Nat) (v : Word) : (setReg off v s).p = s.p := rfl
@[simp] theorem setReg_b (off : Nat) (v : Word) : (setReg off v s).b = s.b := rfl
@[simp] theorem setReg_h (off : Nat) (v : Word) : (setReg off v s).h = s.h := rfl
@[simp] theorem setReg_ev (off : Nat) (v : Word) : (setReg off v s).ev = s.ev := rfl
@[simp] theorem setReg_l (off : Nat) (v : Word) : (setReg off v s).l = s.l := rfl
@[simp] theorem setReg_o (off : Nat) (v : Word) : (setReg off v s).o = s.o := rfl
@[simp] theorem setReg_x (off : Nat) (v : Word) : (setReg off v s).x = s.x := rfl
@[simp] theorem setReg_r (off : Nat) (v : Word) : (setReg off v s).r = s.r := rfl
@[simp] theorem setReg_d (off : Nat) (v : Word) : (setReg off v s).d = s.d := rfl
@[simp] theorem setReg_f (off : Nat) (v : Word) : (setReg off v s).f = s.f := rfl
@[simp] theorem setReg_a (off : Nat) (v : Word) : (setReg off v s).a = s.a := rfl
@[simp] theorem setReg_n (off : Nat) (v : Word) : (setReg off v s).n = s.n := rfl
@[simp] theorem setReg_c (off : Nat) (v : Word) : (setReg off v s).c = s.c := rfl
@[simp] theorem setReg_g (off : Nat) (v : Word) : (setReg off v s).g = s.g := rfl
@[simp] theorem setReg_w (off : Nat) (v : Word) : (setReg off v s).w = s.w := rfl

@[simp] theorem putField_pending (off hi lo v : Nat) : (putField off hi lo v s).pending = s.pending := rfl
@[simp] theorem putField_freeCtr (off hi lo v : Nat) : (putField off hi lo v s).freeCtr = s.freeCtr := rfl
@[simp] theorem putField_regs (off hi lo v : Nat) : (putField off hi lo v s).regs = nset s.regs off (wset (s.reg off) hi lo v) := rfl
@[simp] theorem putField_sched (off hi lo v : Nat) : (putField off hi lo v s).sched = s.sched := rfl
@[simp] theorem putField_t (off hi lo v : Nat) : (putField off hi lo v s).t = s.t := rfl
@[simp] theorem putField_m (off hi lo v : Nat) : (putField off hi lo v s).m = s.m := rfl
@[simp] theorem putField_p (off hi lo v : Nat) : (putField off hi lo v s).p = s.p := rfl
@[simp] theorem putField_b (off hi lo v : Nat) : (putField off hi lo v s).b = s.b := rfl
@[simp] theorem putField_h (off hi lo v : Nat) : (putField off hi lo v s).h = s.h := rfl
@[simp] theorem putField_ev (off hi lo v : Nat) : (putField off hi lo v s).ev = s.ev := rfl
@[simp] theorem putField_l (off hi lo v : Nat) : (putField off hi lo v s).l = s.l := rfl
@[simp] theorem putField_o (off hi lo v : Nat) : (putField off hi lo v s).o = s.o := rfl
@[simp] theorem putField_x (off hi lo v : Nat) : (putField off hi lo v s).x = s.x := rfl
@[simp] theorem putField_r (off hi lo v : Nat) : (putField off hi lo v s).r = s.r := rfl
@[simp] theorem putField_d (off hi lo v : Nat) : (putField off hi lo v s).d = s.d := rfl
@[simp] theorem putField_f (off hi lo v : Nat) : (putField off hi lo v s).f = s.f := rfl
@[simp] theorem putField_a (off hi lo v : Nat) : (putField off hi lo v s).a = s.a := rfl
@[simp] theorem putField_n (off hi lo v : Nat) : (putField off hi lo v s).n = s.n := rfl
@[simp] theorem putField_c (off hi lo v : Nat) : (putField off hi lo v s).c = s.c := rfl
@[simp] theorem putField_g (off hi lo v : Nat) : (putField off hi lo v s).g = s.g := rfl
@[simp] theorem putField_w (off hi lo v : Nat) : (putField off hi lo v s).w = s.w := rfl

@[simp] theorem setRing_pending (q : Nat) (r : Ring) : (setRing q r s).pending = s.pending := rfl
@[simp] theorem setRing_freeCtr (q : Nat) (r : Ring) : (setRing q r s).freeCtr = s.freeCtr := rfl
@[simp] theorem setRing_regs (q : Nat) (r : Ring) : (setRing q r s).regs = s.regs := rfl
@[simp] theorem setRing_sched (q : Nat) (r : Ring) : (setRing q r s).sched = s.sched := rfl
@[simp] theorem setRing_t (q : Nat) (r : Ring) : (setRing q r s).t = s.t := rfl
@[simp] theorem setRing_m (q : Nat) (r : Ring) : (setRing q r s).m = s.m := rfl
@[simp] theorem setRing_p (q : Nat) (r : Ring) : (setRing q r s).p = s.p := rfl
@[simp] theorem setRing_b (q : Nat) (r : Ring) : (setRing q r s).b = s.b := rfl
@[simp] theorem setRing_h (q : Nat) (r : Ring) : (setRing q r s).h = { s.h with rings := nset s.h.rings q r } := rfl
@[simp] theorem setRing_ev (q : Nat) (r : Ring) : (setRing q r s).ev = s.ev := rfl
@[simp] theorem setRing_l (q : Nat) (r : Ring) : (setRing q r s).l = s.l := rfl
@[simp] theorem setRing_o (q : Nat) (r : Ring) : (setRing q r s).o = s.o := rfl
@[simp] theorem setRing_x (q : Nat) (r : Ring) : (setRing q r s).x = s.x := rfl
@[simp] theorem setRing_r (q : Nat) (r : Ring) : (setRing q r s).r = s.r := rfl
@[simp] theorem setRing_d (q : Nat) (r : Ring) : (setRing q r s).d = s.d := rfl
@[simp] theorem setRing_f (q : Nat) (r : Ring) : (setRing q r s).f = s.f := rfl
@[simp] theorem setRing_a (q : Nat) (r : Ring) : (setRing q r s).a = s.a := rfl
@[simp] theorem setRing_n (q : Nat) (r : Ring) : (setRing q r s).n = s.n := rfl
@[simp] theorem setRing_c (q : Nat) (r : Ring) : (setRing q r s).c = s.c := rfl
@[simp] theorem setRing_g (q : Nat) (r : Ring) : (setRing q r s).g = s.g := rfl
@[simp] theorem setRing_w (q : Nat) (r : Ring) : (setRing q r s).w = s.w := rfl

@[simp] theorem writeHost_pending (a : Nat) (bytes : List Byte) : (writeHost a bytes s).pending = s.pending := rfl
@[simp] theorem writeHost_freeCtr (a : Nat) (bytes : List Byte) : (writeHost a bytes s).freeCtr = s.freeCtr := rfl
@[simp] theorem writeHost_regs (a : Nat) (bytes : List Byte) : (writeHost a bytes s).regs = s.regs := rfl
@[simp] theorem writeHost_sched (a : Nat) (bytes : List Byte) : (writeHost a bytes s).sched = s.sched := rfl
@[simp] theorem writeHost_t (a : Nat) (bytes : List Byte) : (writeHost a bytes s).t = s.t := rfl
@[simp] theorem writeHost_m (a : Nat) (bytes : List Byte) : (writeHost a bytes s).m = s.m := rfl
@[simp] theorem writeHost_p (a : Nat) (bytes : List Byte) : (writeHost a bytes s).p = s.p := rfl
@[simp] theorem writeHost_b (a : Nat) (bytes : List Byte) : (writeHost a bytes s).b = s.b := rfl
@[simp] theorem writeHost_h (a : Nat) (bytes : List Byte) : (writeHost a bytes s).h = { s.h with mem := if s.masters then memWriteAll s.h.mem a bytes else s.h.mem } := rfl
@[simp] theorem writeHost_ev (a : Nat) (bytes : List Byte) : (writeHost a bytes s).ev = s.ev := rfl
@[simp] theorem writeHost_l (a : Nat) (bytes : List Byte) : (writeHost a bytes s).l = s.l := rfl
@[simp] theorem writeHost_o (a : Nat) (bytes : List Byte) : (writeHost a bytes s).o = s.o := rfl
@[simp] theorem writeHost_x (a : Nat) (bytes : List Byte) : (writeHost a bytes s).x = s.x := rfl
@[simp] theorem writeHost_r (a : Nat) (bytes : List Byte) : (writeHost a bytes s).r = s.r := rfl
@[simp] theorem writeHost_d (a : Nat) (bytes : List Byte) : (writeHost a bytes s).d = s.d := rfl
@[simp] theorem writeHost_f (a : Nat) (bytes : List Byte) : (writeHost a bytes s).f = s.f := rfl
@[simp] theorem writeHost_a (a : Nat) (bytes : List Byte) : (writeHost a bytes s).a = s.a := rfl
@[simp] theorem writeHost_n (a : Nat) (bytes : List Byte) : (writeHost a bytes s).n = s.n := rfl
@[simp] theorem writeHost_c (a : Nat) (bytes : List Byte) : (writeHost a bytes s).c = s.c := rfl
@[simp] theorem writeHost_g (a : Nat) (bytes : List Byte) : (writeHost a bytes s).g = s.g := rfl
@[simp] theorem writeHost_w (a : Nat) (bytes : List Byte) : (writeHost a bytes s).w = s.w := rfl

@[simp] theorem accepted_pending (v : Waiter) : (accepted v s).pending = s.pending := rfl
@[simp] theorem accepted_freeCtr (v : Waiter) : (accepted v s).freeCtr = s.freeCtr := rfl
@[simp] theorem accepted_regs (v : Waiter) : (accepted v s).regs = s.regs := rfl
@[simp] theorem accepted_sched (v : Waiter) : (accepted v s).sched = s.sched := rfl
@[simp] theorem accepted_t (v : Waiter) : (accepted v s).t = s.t := rfl
@[simp] theorem accepted_m (v : Waiter) : (accepted v s).m = s.m := rfl
@[simp] theorem accepted_p (v : Waiter) : (accepted v s).p = s.p := rfl
@[simp] theorem accepted_b (v : Waiter) : (accepted v s).b = s.b := rfl
@[simp] theorem accepted_h (v : Waiter) : (accepted v s).h = { s.h with accepted := s.h.accepted ++ [v] } := rfl
@[simp] theorem accepted_ev (v : Waiter) : (accepted v s).ev = s.ev := rfl
@[simp] theorem accepted_l (v : Waiter) : (accepted v s).l = s.l := rfl
@[simp] theorem accepted_o (v : Waiter) : (accepted v s).o = s.o := rfl
@[simp] theorem accepted_x (v : Waiter) : (accepted v s).x = s.x := rfl
@[simp] theorem accepted_r (v : Waiter) : (accepted v s).r = s.r := rfl
@[simp] theorem accepted_d (v : Waiter) : (accepted v s).d = s.d := rfl
@[simp] theorem accepted_f (v : Waiter) : (accepted v s).f = s.f := rfl
@[simp] theorem accepted_a (v : Waiter) : (accepted v s).a = s.a := rfl
@[simp] theorem accepted_n (v : Waiter) : (accepted v s).n = s.n := rfl
@[simp] theorem accepted_c (v : Waiter) : (accepted v s).c = s.c := rfl
@[simp] theorem accepted_g (v : Waiter) : (accepted v s).g = s.g := rfl
@[simp] theorem accepted_w (v : Waiter) : (accepted v s).w = s.w := rfl

@[simp] theorem withPending_pending (q : List Instr) : (s.withPending q).pending = q := rfl
@[simp] theorem withPending_freeCtr (q : List Instr) : (s.withPending q).freeCtr = s.freeCtr := rfl
@[simp] theorem withPending_regs (q : List Instr) : (s.withPending q).regs = s.regs := rfl
@[simp] theorem withPending_sched (q : List Instr) : (s.withPending q).sched = s.sched := rfl
@[simp] theorem withPending_t (q : List Instr) : (s.withPending q).t = s.t := rfl
@[simp] theorem withPending_m (q : List Instr) : (s.withPending q).m = s.m := rfl
@[simp] theorem withPending_p (q : List Instr) : (s.withPending q).p = s.p := rfl
@[simp] theorem withPending_b (q : List Instr) : (s.withPending q).b = s.b := rfl
@[simp] theorem withPending_h (q : List Instr) : (s.withPending q).h = s.h := rfl
@[simp] theorem withPending_ev (q : List Instr) : (s.withPending q).ev = s.ev := rfl
@[simp] theorem withPending_l (q : List Instr) : (s.withPending q).l = s.l := rfl
@[simp] theorem withPending_o (q : List Instr) : (s.withPending q).o = s.o := rfl
@[simp] theorem withPending_x (q : List Instr) : (s.withPending q).x = s.x := rfl
@[simp] theorem withPending_r (q : List Instr) : (s.withPending q).r = s.r := rfl
@[simp] theorem withPending_d (q : List Instr) : (s.withPending q).d = s.d := rfl
@[simp] theorem withPending_f (q : List Instr) : (s.withPending q).f = s.f := rfl
@[simp] theorem withPending_a (q : List Instr) : (s.withPending q).a = s.a := rfl
@[simp] theorem withPending_n (q : List Instr) : (s.withPending q).n = s.n := rfl
@[simp] theorem withPending_c (q : List Instr) : (s.withPending q).c = s.c := rfl
@[simp] theorem withPending_g (q : List Instr) : (s.withPending q).g = s.g := rfl
@[simp] theorem withPending_w (q : List Instr) : (s.withPending q).w = s.w := rfl

end Sys2Proof.Machine
end

