-- ==== Sys2Proof/Laws/Frames.lean ====
section
/-!
SUPPORT. Sys2Proof/Laws/Frames.lean: what the shared operations of Ops.lean can change: a signal, a ring entry and a completion only the host
block; an event the recorder, its counters among the registers, and the host block.
-/
namespace Sys2Proof.Machine

/-- Only the host block differs. -/
def OnlyH (s t : State) : Prop := ∃ k, t = { s with h := k }

/-- Only the host block, the registers and the recorder differ. -/
def OnlyE (s t : State) : Prop := ∃ k r e, t = { s with h := k, regs := r, ev := e }

theorem OnlyH.refl (s : State) : OnlyH s s := ⟨s.h, rfl⟩

theorem OnlyH.trans {s t u : State} (a : OnlyH s t) (b : OnlyH t u) : OnlyH s u := by
  obtain ⟨_, rfl⟩ := a
  obtain ⟨k, rfl⟩ := b
  exact ⟨k, rfl⟩

theorem OnlyE.refl (s : State) : OnlyE s s := ⟨s.h, s.regs, s.ev, rfl⟩

theorem OnlyE.trans {s t u : State} (a : OnlyE s t) (b : OnlyE t u) : OnlyE s u := by
  obtain ⟨_, _, _, rfl⟩ := a
  obtain ⟨k, r, e, rfl⟩ := b
  exact ⟨k, r, e, rfl⟩

theorem OnlyH.toE {s t : State} (a : OnlyH s t) : OnlyE s t := by
  obtain ⟨k, rfl⟩ := a
  exact ⟨k, _, _, rfl⟩

theorem onlyE_ev (s : State) (e : EvrS) : OnlyE s { s with ev := e } := ⟨_, _, e, rfl⟩

theorem onlyE_reg (s : State) (off : Nat) (v : Word) : OnlyE s (setReg off v s) := ⟨_, _, _, rfl⟩

theorem pushEntry_only (q size : Nat) (bytes : List Byte) (s : State) : OnlyH s (pushEntry q size bytes s) := ⟨_, rfl⟩

theorem signal_only (v : Nat) (s : State) : OnlyH s (signal v s) := by
  unfold signal
  split <;> exact ⟨_, rfl⟩

theorem countCompletion_only (s : State) : OnlyH s (countCompletion s) := by
  unfold countCompletion
  extract_lets n k u
  have hu : OnlyH s u := ⟨_, rfl⟩
  split
  · exact hu.trans (OnlyH.trans ⟨_, rfl⟩ (signal_only _ _))
  · exact hu

theorem writeCompletion_only (e : List Byte) (n : Bool) (s : State) : OnlyH s (writeCompletion e n s) := by
  unfold writeCompletion
  extract_lets r b2 cq bytes u
  have hu : OnlyH s u := pushEntry_only _ _ _ _
  split
  · exact hu
  · exact hu.trans (countCompletion_only _)

theorem releaseHeld_only (l : List (List Byte × Bool)) (s : State) : OnlyH s (releaseHeld l s) := by
  induction l generalizing s with
  | nil => exact ⟨_, rfl⟩
  | cons a r ih =>
    obtain ⟨e, n⟩ := a
    rw [releaseHeld]
    split
    · exact (writeCompletion_only _ _ _).trans (ih _)
    · exact ⟨_, rfl⟩

theorem complete_only (w : Waiter) (e : Ending) (s : State) : OnlyH s (complete w e s) := by
  unfold complete
  split
  · exact OnlyH.trans ⟨_, rfl⟩ (releaseHeld_only _ _)
  · exact OnlyH.refl s

theorem completeOpt_only (w : Option Waiter) (e : Ending) (s : State) : OnlyH s (completeOpt w e s) := by
  unfold completeOpt
  split
  · exact complete_only _ _ _
  · exact OnlyH.refl s

theorem tellLost_only (s : State) : OnlyH s (tellLost s) := by
  unfold tellLost
  split
  · extract_lets r u
    exact (pushEntry_only _ _ _ _).trans (OnlyH.trans ⟨_, rfl⟩ (signal_only _ _))
  · exact OnlyH.refl s

theorem evqWrite_only (seq : Nat) (r : EvRec) (s : State) : OnlyE s (evqWrite seq r s) := by
  unfold evqWrite
  split
  · extract_lets u
    have hu : OnlyE s u := (tellLost_only s).toE
    split
    · exact hu.trans ((pushEntry_only _ _ _ _).trans (signal_only _ _)).toE
    · exact (hu.trans (OnlyH.toE ⟨_, rfl⟩)).trans ((onlyE_reg _ _ _).trans (signal_only _ _).toE)
  · exact OnlyE.refl s

theorem closeRecord_only (s : State) : OnlyE s (closeRecord s) := by
  unfold closeRecord
  split
  · exact OnlyE.refl s
  · extract_lets seq r k u
    split
    · exact (onlyE_ev s _).trans (evqWrite_only _ _ _)
    · exact onlyE_ev s _

theorem writeRecord_only (r : EvRec) (s : State) : OnlyE s (writeRecord r s) := by
  unfold writeRecord
  extract_lets u seq v ram k w
  have hv : OnlyE s v := by
    refine (closeRecord_only s).trans ?_
    change OnlyE u (if u.ramFull = true then bump 0x12014 31 16 u else u)
    split
    · exact onlyE_reg _ _ _
    · exact OnlyE.refl _
  have hw : OnlyE s w := hv.trans (onlyE_ev _ _)
  split
  · exact hw
  · exact hw.trans (evqWrite_only _ _ _)

theorem putStaged_only (f : List EvRec) (s : State) : OnlyE s (putStaged f s) := by
  unfold putStaged
  extract_lets n k u
  split
  · exact onlyE_ev _ _
  · exact ((onlyE_ev s _).trans (onlyE_ev u _)).trans (onlyE_reg _ _ _)

theorem stageEvent_only (r : EvRec) (s : State) : OnlyE s (stageEvent r s) := by
  unfold stageEvent
  extract_lets front back
  split
  · split
    · exact onlyE_ev _ _
    · exact putStaged_only _ _
  · exact putStaged_only _ _

theorem closeTimer_only (s : State) : OnlyE s (closeTimer s) := by
  unfold closeTimer
  split
  · split
    · exact closeRecord_only s
    · exact OnlyE.refl s
  · exact OnlyE.refl s

theorem postBefore_only (o r : EvRec) (s : State) : OnlyE s (postBefore o r s) := by
  unfold postBefore
  extract_lets seq u k
  exact ((putStaged_only _ s).trans (onlyE_ev _ _)).trans (evqWrite_only _ _ _)

theorem takePost_only (r : EvRec) (s : State) : OnlyE s (takePost r s) := by
  unfold takePost
  split
  · exact stageEvent_only _ _
  · extract_lets free
    split
    · split
      · exact onlyE_ev _ _
      · split
        · exact writeRecord_only _ _
        · split
          · exact postBefore_only _ _ _
          · exact stageEvent_only _ _
    · split
      · exact writeRecord_only _ _
      · exact stageEvent_only _ _

theorem post_only (code inst : Nat) (args : List Byte) (s : State) : OnlyE s (post code inst args s) :=
  (closeTimer_only s).trans (takePost_only _ _)

theorem popRing_only (q : Nat) (s : State) : OnlyH s (popRing q s) := by
  unfold popRing
  extract_lets r
  split
  · exact OnlyH.refl s
  · exact ⟨_, rfl⟩

theorem taken_only (s : State) (c : HostCmd) (info : CmdInfo) : OnlyH (advance c.t s) (s.taken c info) :=
  OnlyH.trans ⟨_, rfl⟩ ((popRing_only _ _).trans ⟨_, rfl⟩)

@[simp] theorem signal_pending (v : Nat) (s : State) : (signal v s).pending = s.pending := by
  obtain ⟨_, e⟩ := signal_only v s; rw [e]
@[simp] theorem signal_freeCtr (v : Nat) (s : State) : (signal v s).freeCtr = s.freeCtr := by
  obtain ⟨_, e⟩ := signal_only v s; rw [e]
@[simp] theorem signal_regs (v : Nat) (s : State) : (signal v s).regs = s.regs := by
  obtain ⟨_, e⟩ := signal_only v s; rw [e]
@[simp] theorem signal_sched (v : Nat) (s : State) : (signal v s).sched = s.sched := by
  obtain ⟨_, e⟩ := signal_only v s; rw [e]
@[simp] theorem signal_t (v : Nat) (s : State) : (signal v s).t = s.t := by
  obtain ⟨_, e⟩ := signal_only v s; rw [e]
@[simp] theorem signal_m (v : Nat) (s : State) : (signal v s).m = s.m := by
  obtain ⟨_, e⟩ := signal_only v s; rw [e]
@[simp] theorem signal_p (v : Nat) (s : State) : (signal v s).p = s.p := by
  obtain ⟨_, e⟩ := signal_only v s; rw [e]
@[simp] theorem signal_b (v : Nat) (s : State) : (signal v s).b = s.b := by
  obtain ⟨_, e⟩ := signal_only v s; rw [e]
@[simp] theorem signal_ev (v : Nat) (s : State) : (signal v s).ev = s.ev := by
  obtain ⟨_, e⟩ := signal_only v s; rw [e]
@[simp] theorem signal_l (v : Nat) (s : State) : (signal v s).l = s.l := by
  obtain ⟨_, e⟩ := signal_only v s; rw [e]
@[simp] theorem signal_o (v : Nat) (s : State) : (signal v s).o = s.o := by
  obtain ⟨_, e⟩ := signal_only v s; rw [e]
@[simp] theorem signal_x (v : Nat) (s : State) : (signal v s).x = s.x := by
  obtain ⟨_, e⟩ := signal_only v s; rw [e]
@[simp] theorem signal_r (v : Nat) (s : State) : (signal v s).r = s.r := by
  obtain ⟨_, e⟩ := signal_only v s; rw [e]
@[simp] theorem signal_d (v : Nat) (s : State) : (signal v s).d = s.d := by
  obtain ⟨_, e⟩ := signal_only v s; rw [e]
@[simp] theorem signal_f (v : Nat) (s : State) : (signal v s).f = s.f := by
  obtain ⟨_, e⟩ := signal_only v s; rw [e]
@[simp] theorem signal_a (v : Nat) (s : State) : (signal v s).a = s.a := by
  obtain ⟨_, e⟩ := signal_only v s; rw [e]
@[simp] theorem signal_n (v : Nat) (s : State) : (signal v s).n = s.n := by
  obtain ⟨_, e⟩ := signal_only v s; rw [e]
@[simp] theorem signal_c (v : Nat) (s : State) : (signal v s).c = s.c := by
  obtain ⟨_, e⟩ := signal_only v s; rw [e]
@[simp] theorem signal_g (v : Nat) (s : State) : (signal v s).g = s.g := by
  obtain ⟨_, e⟩ := signal_only v s; rw [e]
@[simp] theorem signal_w (v : Nat) (s : State) : (signal v s).w = s.w := by
  obtain ⟨_, e⟩ := signal_only v s; rw [e]

@[simp] theorem complete_pending (v : Waiter) (u : Ending) (s : State) : (complete v u s).pending = s.pending := by
  obtain ⟨_, e⟩ := complete_only v u s; rw [e]
@[simp] theorem complete_freeCtr (v : Waiter) (u : Ending) (s : State) : (complete v u s).freeCtr = s.freeCtr := by
  obtain ⟨_, e⟩ := complete_only v u s; rw [e]
@[simp] theorem complete_regs (v : Waiter) (u : Ending) (s : State) : (complete v u s).regs = s.regs := by
  obtain ⟨_, e⟩ := complete_only v u s; rw [e]
@[simp] theorem complete_sched (v : Waiter) (u : Ending) (s : State) : (complete v u s).sched = s.sched := by
  obtain ⟨_, e⟩ := complete_only v u s; rw [e]
@[simp] theorem complete_t (v : Waiter) (u : Ending) (s : State) : (complete v u s).t = s.t := by
  obtain ⟨_, e⟩ := complete_only v u s; rw [e]
@[simp] theorem complete_m (v : Waiter) (u : Ending) (s : State) : (complete v u s).m = s.m := by
  obtain ⟨_, e⟩ := complete_only v u s; rw [e]
@[simp] theorem complete_p (v : Waiter) (u : Ending) (s : State) : (complete v u s).p = s.p := by
  obtain ⟨_, e⟩ := complete_only v u s; rw [e]
@[simp] theorem complete_b (v : Waiter) (u : Ending) (s : State) : (complete v u s).b = s.b := by
  obtain ⟨_, e⟩ := complete_only v u s; rw [e]
@[simp] theorem complete_ev (v : Waiter) (u : Ending) (s : State) : (complete v u s).ev = s.ev := by
  obtain ⟨_, e⟩ := complete_only v u s; rw [e]
@[simp] theorem complete_l (v : Waiter) (u : Ending) (s : State) : (complete v u s).l = s.l := by
  obtain ⟨_, e⟩ := complete_only v u s; rw [e]
@[simp] theorem complete_o (v : Waiter) (u : Ending) (s : State) : (complete v u s).o = s.o := by
  obtain ⟨_, e⟩ := complete_only v u s; rw [e]
@[simp] theorem complete_x (v : Waiter) (u : Ending) (s : State) : (complete v u s).x = s.x := by
  obtain ⟨_, e⟩ := complete_only v u s; rw [e]
@[simp] theorem complete_r (v : Waiter) (u : Ending) (s : State) : (complete v u s).r = s.r := by
  obtain ⟨_, e⟩ := complete_only v u s; rw [e]
@[simp] theorem complete_d (v : Waiter) (u : Ending) (s : State) : (complete v u s).d = s.d := by
  obtain ⟨_, e⟩ := complete_only v u s; rw [e]
@[simp] theorem complete_f (v : Waiter) (u : Ending) (s : State) : (complete v u s).f = s.f := by
  obtain ⟨_, e⟩ := complete_only v u s; rw [e]
@[simp] theorem complete_a (v : Waiter) (u : Ending) (s : State) : (complete v u s).a = s.a := by
  obtain ⟨_, e⟩ := complete_only v u s; rw [e]
@[simp] theorem complete_n (v : Waiter) (u : Ending) (s : State) : (complete v u s).n = s.n := by
  obtain ⟨_, e⟩ := complete_only v u s; rw [e]
@[simp] theorem complete_c (v : Waiter) (u : Ending) (s : State) : (complete v u s).c = s.c := by
  obtain ⟨_, e⟩ := complete_only v u s; rw [e]
@[simp] theorem complete_g (v : Waiter) (u : Ending) (s : State) : (complete v u s).g = s.g := by
  obtain ⟨_, e⟩ := complete_only v u s; rw [e]
@[simp] theorem complete_w (v : Waiter) (u : Ending) (s : State) : (complete v u s).w = s.w := by
  obtain ⟨_, e⟩ := complete_only v u s; rw [e]

@[simp] theorem completeOpt_pending (v : Option Waiter) (u : Ending) (s : State) : (completeOpt v u s).pending = s.pending := by
  obtain ⟨_, e⟩ := completeOpt_only v u s; rw [e]
@[simp] theorem completeOpt_freeCtr (v : Option Waiter) (u : Ending) (s : State) : (completeOpt v u s).freeCtr = s.freeCtr := by
  obtain ⟨_, e⟩ := completeOpt_only v u s; rw [e]
@[simp] theorem completeOpt_regs (v : Option Waiter) (u : Ending) (s : State) : (completeOpt v u s).regs = s.regs := by
  obtain ⟨_, e⟩ := completeOpt_only v u s; rw [e]
@[simp] theorem completeOpt_sched (v : Option Waiter) (u : Ending) (s : State) : (completeOpt v u s).sched = s.sched := by
  obtain ⟨_, e⟩ := completeOpt_only v u s; rw [e]
@[simp] theorem completeOpt_t (v : Option Waiter) (u : Ending) (s : State) : (completeOpt v u s).t = s.t := by
  obtain ⟨_, e⟩ := completeOpt_only v u s; rw [e]
@[simp] theorem completeOpt_m (v : Option Waiter) (u : Ending) (s : State) : (completeOpt v u s).m = s.m := by
  obtain ⟨_, e⟩ := completeOpt_only v u s; rw [e]
@[simp] theorem completeOpt_p (v : Option Waiter) (u : Ending) (s : State) : (completeOpt v u s).p = s.p := by
  obtain ⟨_, e⟩ := completeOpt_only v u s; rw [e]
@[simp] theorem completeOpt_b (v : Option Waiter) (u : Ending) (s : State) : (completeOpt v u s).b = s.b := by
  obtain ⟨_, e⟩ := completeOpt_only v u s; rw [e]
@[simp] theorem completeOpt_ev (v : Option Waiter) (u : Ending) (s : State) : (completeOpt v u s).ev = s.ev := by
  obtain ⟨_, e⟩ := completeOpt_only v u s; rw [e]
@[simp] theorem completeOpt_l (v : Option Waiter) (u : Ending) (s : State) : (completeOpt v u s).l = s.l := by
  obtain ⟨_, e⟩ := completeOpt_only v u s; rw [e]
@[simp] theorem completeOpt_o (v : Option Waiter) (u : Ending) (s : State) : (completeOpt v u s).o = s.o := by
  obtain ⟨_, e⟩ := completeOpt_only v u s; rw [e]
@[simp] theorem completeOpt_x (v : Option Waiter) (u : Ending) (s : State) : (completeOpt v u s).x = s.x := by
  obtain ⟨_, e⟩ := completeOpt_only v u s; rw [e]
@[simp] theorem completeOpt_r (v : Option Waiter) (u : Ending) (s : State) : (completeOpt v u s).r = s.r := by
  obtain ⟨_, e⟩ := completeOpt_only v u s; rw [e]
@[simp] theorem completeOpt_d (v : Option Waiter) (u : Ending) (s : State) : (completeOpt v u s).d = s.d := by
  obtain ⟨_, e⟩ := completeOpt_only v u s; rw [e]
@[simp] theorem completeOpt_f (v : Option Waiter) (u : Ending) (s : State) : (completeOpt v u s).f = s.f := by
  obtain ⟨_, e⟩ := completeOpt_only v u s; rw [e]
@[simp] theorem completeOpt_a (v : Option Waiter) (u : Ending) (s : State) : (completeOpt v u s).a = s.a := by
  obtain ⟨_, e⟩ := completeOpt_only v u s; rw [e]
@[simp] theorem completeOpt_n (v : Option Waiter) (u : Ending) (s : State) : (completeOpt v u s).n = s.n := by
  obtain ⟨_, e⟩ := completeOpt_only v u s; rw [e]
@[simp] theorem completeOpt_c (v : Option Waiter) (u : Ending) (s : State) : (completeOpt v u s).c = s.c := by
  obtain ⟨_, e⟩ := completeOpt_only v u s; rw [e]
@[simp] theorem completeOpt_g (v : Option Waiter) (u : Ending) (s : State) : (completeOpt v u s).g = s.g := by
  obtain ⟨_, e⟩ := completeOpt_only v u s; rw [e]
@[simp] theorem completeOpt_w (v : Option Waiter) (u : Ending) (s : State) : (completeOpt v u s).w = s.w := by
  obtain ⟨_, e⟩ := completeOpt_only v u s; rw [e]

@[simp] theorem post_pending (code inst : Nat) (args : List Byte) (s : State) : (post code inst args s).pending = s.pending := by
  obtain ⟨_, _, _, e⟩ := post_only code inst args s; rw [e]
@[simp] theorem post_freeCtr (code inst : Nat) (args : List Byte) (s : State) : (post code inst args s).freeCtr = s.freeCtr := by
  obtain ⟨_, _, _, e⟩ := post_only code inst args s; rw [e]
@[simp] theorem post_sched (code inst : Nat) (args : List Byte) (s : State) : (post code inst args s).sched = s.sched := by
  obtain ⟨_, _, _, e⟩ := post_only code inst args s; rw [e]
@[simp] theorem post_t (code inst : Nat) (args : List Byte) (s : State) : (post code inst args s).t = s.t := by
  obtain ⟨_, _, _, e⟩ := post_only code inst args s; rw [e]
@[simp] theorem post_m (code inst : Nat) (args : List Byte) (s : State) : (post code inst args s).m = s.m := by
  obtain ⟨_, _, _, e⟩ := post_only code inst args s; rw [e]
@[simp] theorem post_p (code inst : Nat) (args : List Byte) (s : State) : (post code inst args s).p = s.p := by
  obtain ⟨_, _, _, e⟩ := post_only code inst args s; rw [e]
@[simp] theorem post_b (code inst : Nat) (args : List Byte) (s : State) : (post code inst args s).b = s.b := by
  obtain ⟨_, _, _, e⟩ := post_only code inst args s; rw [e]
@[simp] theorem post_l (code inst : Nat) (args : List Byte) (s : State) : (post code inst args s).l = s.l := by
  obtain ⟨_, _, _, e⟩ := post_only code inst args s; rw [e]
@[simp] theorem post_o (code inst : Nat) (args : List Byte) (s : State) : (post code inst args s).o = s.o := by
  obtain ⟨_, _, _, e⟩ := post_only code inst args s; rw [e]
@[simp] theorem post_x (code inst : Nat) (args : List Byte) (s : State) : (post code inst args s).x = s.x := by
  obtain ⟨_, _, _, e⟩ := post_only code inst args s; rw [e]
@[simp] theorem post_r (code inst : Nat) (args : List Byte) (s : State) : (post code inst args s).r = s.r := by
  obtain ⟨_, _, _, e⟩ := post_only code inst args s; rw [e]
@[simp] theorem post_d (code inst : Nat) (args : List Byte) (s : State) : (post code inst args s).d = s.d := by
  obtain ⟨_, _, _, e⟩ := post_only code inst args s; rw [e]
@[simp] theorem post_f (code inst : Nat) (args : List Byte) (s : State) : (post code inst args s).f = s.f := by
  obtain ⟨_, _, _, e⟩ := post_only code inst args s; rw [e]
@[simp] theorem post_a (code inst : Nat) (args : List Byte) (s : State) : (post code inst args s).a = s.a := by
  obtain ⟨_, _, _, e⟩ := post_only code inst args s; rw [e]
@[simp] theorem post_n (code inst : Nat) (args : List Byte) (s : State) : (post code inst args s).n = s.n := by
  obtain ⟨_, _, _, e⟩ := post_only code inst args s; rw [e]
@[simp] theorem post_c (code inst : Nat) (args : List Byte) (s : State) : (post code inst args s).c = s.c := by
  obtain ⟨_, _, _, e⟩ := post_only code inst args s; rw [e]
@[simp] theorem post_g (code inst : Nat) (args : List Byte) (s : State) : (post code inst args s).g = s.g := by
  obtain ⟨_, _, _, e⟩ := post_only code inst args s; rw [e]
@[simp] theorem post_w (code inst : Nat) (args : List Byte) (s : State) : (post code inst args s).w = s.w := by
  obtain ⟨_, _, _, e⟩ := post_only code inst args s; rw [e]

@[simp] theorem taken_pending (s : State) (c : HostCmd) (info : CmdInfo) : (s.taken c info).pending = s.pending := by
  obtain ⟨_, e⟩ := taken_only s c info; rw [e]; rfl
@[simp] theorem taken_freeCtr (s : State) (c : HostCmd) (info : CmdInfo) : (s.taken c info).freeCtr = s.freeCtr := by
  obtain ⟨_, e⟩ := taken_only s c info; rw [e]; rfl
@[simp] theorem taken_regs (s : State) (c : HostCmd) (info : CmdInfo) : (s.taken c info).regs = s.regs := by
  obtain ⟨_, e⟩ := taken_only s c info; rw [e]; rfl
@[simp] theorem taken_sched (s : State) (c : HostCmd) (info : CmdInfo) : (s.taken c info).sched = s.sched := by
  obtain ⟨_, e⟩ := taken_only s c info; rw [e]; rfl
@[simp] theorem taken_t (s : State) (c : HostCmd) (info : CmdInfo) : (s.taken c info).t = { s.t with now := max s.t.now c.t } := by
  obtain ⟨_, e⟩ := taken_only s c info; rw [e]; rfl
@[simp] theorem taken_m (s : State) (c : HostCmd) (info : CmdInfo) : (s.taken c info).m = s.m := by
  obtain ⟨_, e⟩ := taken_only s c info; rw [e]; rfl
@[simp] theorem taken_p (s : State) (c : HostCmd) (info : CmdInfo) : (s.taken c info).p = s.p := by
  obtain ⟨_, e⟩ := taken_only s c info; rw [e]; rfl
@[simp] theorem taken_b (s : State) (c : HostCmd) (info : CmdInfo) : (s.taken c info).b = s.b := by
  obtain ⟨_, e⟩ := taken_only s c info; rw [e]; rfl
@[simp] theorem taken_ev (s : State) (c : HostCmd) (info : CmdInfo) : (s.taken c info).ev = s.ev := by
  obtain ⟨_, e⟩ := taken_only s c info; rw [e]; rfl
@[simp] theorem taken_l (s : State) (c : HostCmd) (info : CmdInfo) : (s.taken c info).l = s.l := by
  obtain ⟨_, e⟩ := taken_only s c info; rw [e]; rfl
@[simp] theorem taken_o (s : State) (c : HostCmd) (info : CmdInfo) : (s.taken c info).o = s.o := by
  obtain ⟨_, e⟩ := taken_only s c info; rw [e]; rfl
@[simp] theorem taken_x (s : State) (c : HostCmd) (info : CmdInfo) : (s.taken c info).x = s.x := by
  obtain ⟨_, e⟩ := taken_only s c info; rw [e]; rfl
@[simp] theorem taken_r (s : State) (c : HostCmd) (info : CmdInfo) : (s.taken c info).r = s.r := by
  obtain ⟨_, e⟩ := taken_only s c info; rw [e]; rfl
@[simp] theorem taken_d (s : State) (c : HostCmd) (info : CmdInfo) : (s.taken c info).d = s.d := by
  obtain ⟨_, e⟩ := taken_only s c info; rw [e]; rfl
@[simp] theorem taken_f (s : State) (c : HostCmd) (info : CmdInfo) : (s.taken c info).f = s.f := by
  obtain ⟨_, e⟩ := taken_only s c info; rw [e]; rfl
@[simp] theorem taken_a (s : State) (c : HostCmd) (info : CmdInfo) : (s.taken c info).a = s.a := by
  obtain ⟨_, e⟩ := taken_only s c info; rw [e]; rfl
@[simp] theorem taken_n (s : State) (c : HostCmd) (info : CmdInfo) : (s.taken c info).n = s.n := by
  obtain ⟨_, e⟩ := taken_only s c info; rw [e]; rfl
@[simp] theorem taken_c (s : State) (c : HostCmd) (info : CmdInfo) : (s.taken c info).c = s.c := by
  obtain ⟨_, e⟩ := taken_only s c info; rw [e]; rfl
@[simp] theorem taken_g (s : State) (c : HostCmd) (info : CmdInfo) : (s.taken c info).g = s.g := by
  obtain ⟨_, e⟩ := taken_only s c info; rw [e]; rfl
@[simp] theorem taken_w (s : State) (c : HostCmd) (info : CmdInfo) : (s.taken c info).w = s.w := by
  obtain ⟨_, e⟩ := taken_only s c info; rw [e]; rfl

end Sys2Proof.Machine
end

