-- ==== Sys2Proof/Laws/Map.lean ====
section
/-!
SUPPORT. Sys2Proof/Laws/Map.lean: laws of the finite maps of Map.lean and of the byte memories of Ops.lean: a read after a write, and the
canonical form.
-/
namespace Sys2Proof.Machine

theorem nget_nset {α : Type} (d v : α) (m : NMap α) (k j : Nat) :
    nget d (nset m k v) j = if j = k then v else nget d m j := by
  induction m with
  | nil => simp only [nset, nget]; split <;> simp_all
  | cons a r ih =>
    obtain ⟨k', v'⟩ := a
    simp only [nset]
    split
    · subst_vars; simp only [nget]; split <;> (try split) <;> simp_all
    · split
      · simp only [nget]; split <;> (try split) <;> (try split) <;> simp_all <;> omega
      · simp only [nget, ih]; split <;> (try split) <;> (try split) <;> simp_all <;> omega

theorem mem_nset {α : Type} {m : NMap α} {k : Nat} {v : α} {x : Nat × α} (h : x ∈ nset m k v) : x = (k, v) ∨ x ∈ m := by
  induction m with
  | nil => simp_all [nset]
  | cons a r ih =>
    simp only [nset] at h
    split at h
    · simp_all; tauto
    · split at h
      · simp_all
      · simp only [List.mem_cons] at h ⊢
        rcases h with h | h
        · exact .inr (.inl h)
        · rcases ih h with h | h
          · exact .inl h
          · exact .inr (.inr h)

theorem mem_ndel {α : Type} {m : NMap α} {k : Nat} {x : Nat × α} (h : x ∈ ndel m k) : x ∈ m := by
  induction m with
  | nil => simp_all [ndel]
  | cons a r ih =>
    simp only [ndel] at h
    split at h
    · exact .tail _ h
    · split at h
      · exact h
      · simp only [List.mem_cons] at h ⊢
        rcases h with h | h
        · exact .inl h
        · exact .inr (ih h)

theorem sorted_cons {α : Type} {a : Nat × α} {r : NMap α} (h : NMap.sorted (a :: r) = true) :
    NMap.sorted r = true ∧ ∀ x ∈ r, a.1 < x.1 := by
  induction r generalizing a with
  | nil => simp [NMap.sorted]
  | cons b r ih =>
    obtain ⟨a, x⟩ := a
    obtain ⟨b, y⟩ := b
    simp only [NMap.sorted, Bool.and_eq_true, decide_eq_true_eq] at h
    refine ⟨h.2, fun z hz => ?_⟩
    rcases List.mem_cons.mp hz with rfl | hz
    · exact h.1
    · exact Nat.lt_trans h.1 ((ih h.2).2 z hz)

theorem sorted_of_cons {α : Type} {a : Nat × α} {r : NMap α} (h : NMap.sorted r = true) (g : ∀ x ∈ r, a.1 < x.1) :
    NMap.sorted (a :: r) = true := by
  cases r with
  | nil => rfl
  | cons b r => simp only [NMap.sorted, Bool.and_eq_true, decide_eq_true_eq]; exact ⟨g b (.head _), h⟩

theorem sorted_nset {α : Type} {m : NMap α} (k : Nat) (v : α) (h : NMap.sorted m = true) : NMap.sorted (nset m k v) = true := by
  induction m with
  | nil => rfl
  | cons a r ih =>
    have g := sorted_cons h
    simp only [nset]
    split
    · rename_i e; exact sorted_of_cons g.1 (fun x hx => e ▸ g.2 x hx)
    · split
      · rename_i e
        exact sorted_of_cons h (fun x hx => by
          rcases List.mem_cons.mp hx with rfl | hx
          · exact e
          · exact Nat.lt_trans e (g.2 x hx))
      · refine sorted_of_cons (ih g.1) (fun x hx => ?_)
        rcases mem_nset hx with rfl | hx
        · simp only; omega
        · exact g.2 x hx

theorem sorted_ndel {α : Type} {m : NMap α} (k : Nat) (h : NMap.sorted m = true) : NMap.sorted (ndel m k) = true := by
  induction m with
  | nil => rfl
  | cons a r ih =>
    have g := sorted_cons h
    simp only [ndel]
    split
    · exact g.1
    · split
      · exact h
      · exact sorted_of_cons (ih g.1) (fun x hx => g.2 x (mem_ndel hx))

theorem ndel_ne {α : Type} {m : NMap α} {k : Nat} (h : NMap.sorted m = true) {x : Nat × α} (hx : x ∈ ndel m k) : x.1 ≠ k := by
  induction m with
  | nil => simp [ndel] at hx
  | cons a r ih =>
    have g := sorted_cons h
    simp only [ndel] at hx
    split at hx
    · rename_i e; have := g.2 x hx; omega
    · split at hx
      · rcases List.mem_cons.mp hx with rfl | hx
        · omega
        · have := g.2 x hx; omega
      · rcases List.mem_cons.mp hx with rfl | hx
        · simp only; omega
        · exact ih g.1 hx

theorem sorted_map {α : Type} (f : Nat × α → Nat × α) (hf : ∀ x, (f x).1 = x.1) {m : NMap α} (h : NMap.sorted m = true) :
    NMap.sorted (m.map f) = true := by
  induction m with
  | nil => rfl
  | cons a r ih =>
    have g := sorted_cons h
    refine sorted_of_cons (ih g.1) (fun x hx => ?_)
    obtain ⟨y, hy, rfl⟩ := List.mem_map.mp hx
    rw [hf, hf]; exact g.2 y hy

theorem mem_of_nfind {α : Type} {m : NMap α} {k : Nat} {v : α} (h : nfind m k = some v) : (k, v) ∈ m := by
  induction m with
  | nil => simp [nfind] at h
  | cons a r ih =>
    obtain ⟨k', v'⟩ := a
    simp only [nfind] at h
    split at h
    · simp_all
    · split at h
      · simp at h
      · exact .tail _ (ih h)

/-! ### Byte memories -/

theorem memWf_cons {a : Nat} {b : Byte} {r : List Host.Cell} (h : Memory.wf ((a, b) :: r) = true) :
    b ≠ 0 ∧ Memory.wf r = true ∧ ∀ x ∈ r, a < x.1 := by
  induction r generalizing a b with
  | nil => simp_all [Memory.wf]
  | cons c r ih =>
    obtain ⟨a', b'⟩ := c
    simp only [Memory.wf, Bool.and_eq_true, decide_eq_true_eq, bne_iff_ne] at h
    refine ⟨h.1.1, h.2, fun z hz => ?_⟩
    rcases List.mem_cons.mp hz with rfl | hz
    · exact h.1.2
    · exact Nat.lt_trans h.1.2 ((ih h.2).2.2 z hz)

theorem memWf_of_cons {a : Nat} {b : Byte} {r : List Host.Cell} (hb : b ≠ 0) (h : Memory.wf r = true) (g : ∀ x ∈ r, a < x.1) :
    Memory.wf ((a, b) :: r) = true := by
  cases r with
  | nil => simpa [Memory.wf] using hb
  | cons c r =>
    simp only [Memory.wf, Bool.and_eq_true, decide_eq_true_eq, bne_iff_ne]
    exact ⟨⟨hb, g c (.head _)⟩, h⟩

theorem mem_memWrite {m : List Host.Cell} {a : Nat} {b : Byte} {x : Host.Cell} (h : x ∈ memWrite m a b) : x = (a, b) ∨ x ∈ m := by
  induction m with
  | nil => simp only [memWrite] at h; split at h <;> simp_all
  | cons c r ih =>
    obtain ⟨a', b'⟩ := c
    simp only [memWrite] at h
    split at h
    · split at h
      · exact .inr (.tail _ h)
      · rcases List.mem_cons.mp h with h | h
        · exact .inl h
        · exact .inr (.tail _ h)
    · split at h
      · split at h
        · exact .inr h
        · rcases List.mem_cons.mp h with h | h
          · exact .inl h
          · exact .inr h
      · rcases List.mem_cons.mp h with rfl | h
        · exact .inr (.head _)
        · rcases ih h with h | h
          · exact .inl h
          · exact .inr (.tail _ h)

/-- A byte written keeps the canonical form. -/
theorem wf_memWrite {m : List Host.Cell} (a : Nat) (b : Byte) (h : Memory.wf m = true) : Memory.wf (memWrite m a b) = true := by
  induction m with
  | nil => simp only [memWrite]; split <;> simp_all [Memory.wf]
  | cons c r ih =>
    obtain ⟨a', b'⟩ := c
    have g := memWf_cons h
    simp only [memWrite]
    split
    · split
      · exact g.2.1
      · rename_i e e2; exact memWf_of_cons e2 g.2.1 (fun x hx => e ▸ g.2.2 x hx)
    · split
      · split
        · exact h
        · rename_i e e2
          exact memWf_of_cons e2 h (fun x hx => by
            rcases List.mem_cons.mp hx with rfl | hx
            · exact e
            · exact Nat.lt_trans e (g.2.2 x hx))
      · refine memWf_of_cons g.1 (ih g.2.1) (fun x hx => ?_)
        rcases mem_memWrite hx with rfl | hx
        · simp only; omega
        · exact g.2.2 x hx

/-- So does a run of bytes. -/
theorem wf_memWriteAll (l : List Byte) {m : List Host.Cell} (a : Nat) (h : Memory.wf m = true) : Memory.wf (memWriteAll m a l) = true := by
  induction l generalizing m a with
  | nil => exact h
  | cons b r ih => exact ih (a + 1) (wf_memWrite a b h)

theorem memByte_below {m : List Host.Cell} {j : Nat} (h : ∀ x ∈ m, j < x.1) : memByte m j = 0 := by
  cases m with
  | nil => rfl
  | cons c r =>
    obtain ⟨a, b⟩ := c
    have := h _ (.head _)
    simp only [memByte] at *
    rw [if_neg (by omega), if_pos this]

/-- A read after a write of one byte. -/
theorem memByte_memWrite {m : List Host.Cell} (a : Nat) (b : Byte) (j : Nat) (h : Memory.wf m = true) :
    memByte (memWrite m a b) j = if j = a then b else memByte m j := by
  induction m with
  | nil => simp only [memWrite]; split <;> simp only [memByte] <;> split <;> simp_all
  | cons c r ih =>
    obtain ⟨a', b'⟩ := c
    have g := memWf_cons h
    simp only [memWrite]
    split
    · rename_i e
      subst e
      split
      · by_cases q : j = a
        · subst q; rw [memByte_below g.2.2]; simp_all
        · by_cases q2 : j < a
          · rw [memByte_below (fun x hx => Nat.lt_trans q2 (g.2.2 x hx))]; simp [memByte, q, q2]
          · simp [memByte, q, q2]
      · simp only [memByte]; split <;> simp_all
    · split
      · split
        · by_cases q : j = a
          · subst q; rw [memByte_below (fun x hx => by
              rcases List.mem_cons.mp hx with rfl | hx
              · assumption
              · exact Nat.lt_trans (by assumption) (g.2.2 x hx))]; simp_all
          · simp [q]
        · simp only [memByte]; split <;> (try split) <;> (try split) <;> simp_all <;> omega
      · simp only [memByte, ih g.2.1]; split <;> (try split) <;> (try split) <;> simp_all <;> omega

end Sys2Proof.Machine
end

