-- ==== Sys2Proof/Laws/Kept.lean ====
section
/-!
SUPPORT. Sys2Proof/Laws/Kept.lean: `Kept q s`: the queue of commands is `q` and the invariant of Safety.lean holds. This file proves it of
the shared operations of Ops.lean; the Kept… files beside it prove it of every other operation, one lemma each.
-/
namespace Sys2Proof.Machine

/-- The parts of the state that the invariant speaks of. -/
def KeptOf (q pending : List Instr) (mem : List Host.Cell) (rings : NMap Ring) (held : List Held) (boxes : NMap (List DWord))
    (fifo : List EvRec) (ram : NMap EvRec) (next : Nat) : Prop :=
  pending = q ∧ Memory.wf mem = true ∧ RingsOk rings ∧ held.length ≤ 256 ∧ BoxesOk boxes ∧ fifo.length ≤ 16 ∧ LogOk ram next

/-- The queue is `q` and the state is sound. -/
def Kept (q : List Instr) (s : State) : Prop :=
  KeptOf q s.pending s.h.mem s.h.rings s.h.holdQ s.h.mbx s.ev.fifo s.ev.ram s.ev.nextSeq

variable {q : List Instr} {s : State}

theorem kept_iff : Kept q s ↔ s.pending = q ∧ s.Sound := Iff.rfl

theorem kept_of {s : State} (h : Kept q s) : KeptOf q s.pending s.h.mem s.h.rings s.h.holdQ s.h.mbx s.ev.fifo s.ev.ram s.ev.nextSeq := h

theorem kept_mk {pd : List Instr} {fc : Nat} {rg : NMap Word} {sc : List Sched} {t : TimeS} {m : ModeS} {pw : PowerS} {b : BudgetS}
    {h : HostS} {ev : EvrS} {l : LdgS} {o : ObjS} {x : LoomS} {r : ReedS} {d : HeddleS} {f : FchS} {a : PortS} {n : NetS} {c : BatS}
    {g : FabS} {w : TwinS} (k : KeptOf q pd h.mem h.rings h.holdQ h.mbx ev.fifo ev.ram ev.nextSeq) :
    Kept q ⟨pd, fc, rg, sc, t, m, pw, b, h, ev, l, o, x, r, d, f, a, n, c, g, w⟩ := k

theorem kept_ite {c : Prop} [Decidable c] {a b : State} (ha : c → Kept q a) (hb : ¬ c → Kept q b) : Kept q (if c then a else b) := by
  split
  · exact ha ‹_›
  · exact hb ‹_›

theorem kept_foldl {α : Type} {f : State → α → State} {l : List α} (hf : ∀ s a, Kept q s → Kept q (f s a)) (h : Kept q s) :
    Kept q (l.foldl f s) := by
  induction l generalizing s with
  | nil => exact h
  | cons a r ih => exact ih (hf s a h)

theorem kept_foldl1 {α β : Type} {f : State × β → α → State × β} {l : List α} {p : State × β}
    (hf : ∀ p a, Kept q p.1 → Kept q (f p a).1) (h : Kept q p.1) : Kept q (l.foldl f p).1 := by
  induction l generalizing p with
  | nil => exact h
  | cons a r ih => exact ih (hf p a h)

theorem kept_foldl2 {α β : Type} {f : β × State → α → β × State} {l : List α} {p : β × State}
    (hf : ∀ p a, Kept q p.2 → Kept q (f p a).2) (h : Kept q p.2) : Kept q (l.foldl f p).2 := by
  induction l generalizing p with
  | nil => exact h
  | cons a r ih => exact ih (hf p a h)

theorem kept_upto {n : Nat} {f : Nat → State → State} (hf : ∀ i s, Kept q s → Kept q (f i s)) (h : Kept q s) : Kept q (upto n f s) :=
  kept_foldl (fun s i => hf i s) h

theorem held_le {s : State} (h : Kept q s) : s.h.holdQ.length ≤ 256 := h.2.2.2.1

theorem kept_getD {o : Option State} {b : State} (h : ∀ t, o = some t → Kept q t) (g : Kept q b) : Kept q (o.getD b) := by
  cases o with
  | none => exact g
  | some t => exact h t rfl

theorem kept_cut1 {α : Type} {p : State × α} {b : State} (h : Kept q p.1) (g : Kept q p.1 → Kept q b) : Kept q b := g h

theorem kept_cut2 {α : Type} {p : α × State} {b : State} (h : Kept q p.2) (g : Kept q p.2 → Kept q b) : Kept q b := g h

theorem kept_cut {a b : State} (h : Kept q a) (g : Kept q a → Kept q b) : Kept q b := g h

/-! ### One block of the state replaced -/

theorem setH_kept {f : HostS → HostS} (e1 : (f s.h).mem = s.h.mem) (e2 : (f s.h).rings = s.h.rings) (e3 : (f s.h).holdQ = s.h.holdQ)
    (e4 : (f s.h).mbx = s.h.mbx) (h : Kept q s) : Kept q (setH f s) := by
  have := kept_of h
  rw [← e1, ← e2, ← e3, ← e4] at this
  exact this

theorem setT_kept {f : TimeS → TimeS} (h : Kept q s) : Kept q (setT f s) := h

theorem setM_kept {f : ModeS → ModeS} (h : Kept q s) : Kept q (setM f s) := h

theorem setP_kept {f : PowerS → PowerS} (h : Kept q s) : Kept q (setP f s) := h

theorem setB_kept {f : BudgetS → BudgetS} (h : Kept q s) : Kept q (setB f s) := h

theorem setL_kept {f : LdgS → LdgS} (h : Kept q s) : Kept q (setL f s) := h

theorem setO_kept {f : ObjS → ObjS} (h : Kept q s) : Kept q (setO f s) := h

theorem setX_kept {f : LoomS → LoomS} (h : Kept q s) : Kept q (setX f s) := h

theorem setR_kept {f : ReedS → ReedS} (h : Kept q s) : Kept q (setR f s) := h

theorem setD_kept {f : HeddleS → HeddleS} (h : Kept q s) : Kept q (setD f s) := h

theorem setF_kept {f : FchS → FchS} (h : Kept q s) : Kept q (setF f s) := h

theorem setA_kept {f : PortS → PortS} (h : Kept q s) : Kept q (setA f s) := h

theorem setN_kept {f : NetS → NetS} (h : Kept q s) : Kept q (setN f s) := h

theorem setC_kept {f : BatS → BatS} (h : Kept q s) : Kept q (setC f s) := h

theorem setG_kept {f : FabS → FabS} (h : Kept q s) : Kept q (setG f s) := h

theorem setW_kept {f : TwinS → TwinS} (h : Kept q s) : Kept q (setW f s) := h

theorem setMg_kept {f : MgS → MgS} (h : Kept q s) : Kept q (setMg f s) := h

theorem setCnt_kept {f : Counters → Counters} (h : Kept q s) : Kept q (setCnt f s) := h

theorem kept_fst {α : Type} {p : State × α} {t : State} {v : α} (e : p = (t, v)) (h : Kept q p.1) : Kept q t := by
  subst e; exact h

theorem kept_snd {α : Type} {p : α × State} {t : State} {v : α} (e : p = (v, t)) (h : Kept q p.2) : Kept q t := by
  subst e; exact h

end Sys2Proof.Machine
end

