-- ==== Sys2Proof/Laws/KeptOps.lean ====
section
/-!
SUPPORT. Sys2Proof/Laws/KeptOps.lean: the operations of Machine/Ops.lean keep the queue and the invariant of Safety.lean.
-/
namespace Sys2Proof.Machine

set_option linter.all false

variable {q : List Instr}

theorem advance_kept (t : Nat) {s : State} (h : Kept q s) : Kept q (advance t s) := by
  delta advance
  repeat' (first
    | (with_reducible assumption) | (with_reducible refine kept_ite (fun _ => ?_) (fun _ => ?_)) | split | (clear_value *; split)
    | (with_reducible exact kept_mk (kept_of (by assumption))) | (with_reducible apply kept_mk; dsimp only)
    | (with_reducible apply kept_of) | (dsimp only) | (intro _) | (dsimp only [id])
    | (fail_if_no_progress with_reducible refine kept_mk (kept_of ?_)) | (dsimp +zetaDelta -zeta only))

theorem draw_kept {s : State} (h : Kept q s) : Kept q (draw s).2 := by
  delta draw
  repeat' (first
    | (with_reducible assumption) | (with_reducible refine kept_ite (fun _ => ?_) (fun _ => ?_)) | split | (clear_value *; split)
    | (with_reducible exact kept_mk (kept_of (by assumption))) | (with_reducible apply kept_mk; dsimp only)
    | (with_reducible apply kept_of) | (dsimp only) | (intro _) | (dsimp only [id])
    | (fail_if_no_progress with_reducible refine kept_mk (kept_of ?_)) | (dsimp +zetaDelta -zeta only))

theorem setReg_kept (off : Nat) (w : Word) {s : State} (h : Kept q s) : Kept q (setReg off w s) := by
  delta setReg
  repeat' (first
    | (with_reducible assumption) | (with_reducible refine kept_ite (fun _ => ?_) (fun _ => ?_)) | split | (clear_value *; split)
    | (with_reducible exact kept_mk (kept_of (by assumption))) | (with_reducible apply kept_mk; dsimp only)
    | (with_reducible apply kept_of) | (dsimp only) | (intro _) | (dsimp only [id])
    | (fail_if_no_progress with_reducible refine kept_mk (kept_of ?_)) | (dsimp +zetaDelta -zeta only))

theorem putField_kept (off : Nat) (hi : Nat) (lo : Nat) (v : Nat) {s : State} (h : Kept q s) : Kept q (putField off hi lo v s) := by
  delta putField
  repeat' (first
    | (with_reducible assumption) | (with_reducible apply setReg_kept) | (with_reducible refine kept_ite (fun _ => ?_) (fun _ => ?_))
    | split | (clear_value *; split) | (with_reducible exact kept_mk (kept_of (by assumption)))
    | (with_reducible apply kept_mk; dsimp only) | (with_reducible apply kept_of) | (dsimp only) | (intro _) | (dsimp only [id])
    | (fail_if_no_progress with_reducible refine kept_mk (kept_of ?_)) | (dsimp +zetaDelta -zeta only))

theorem bumpBy_kept (n : Nat) (off : Nat) (hi : Nat) (lo : Nat) {s : State} (h : Kept q s) : Kept q (bumpBy n off hi lo s) := by
  delta bumpBy
  repeat' (first
    | (with_reducible assumption) | (with_reducible apply putField_kept)
    | (with_reducible refine kept_ite (fun _ => ?_) (fun _ => ?_)) | split | (clear_value *; split)
    | (with_reducible exact kept_mk (kept_of (by assumption))) | (with_reducible apply kept_mk; dsimp only)
    | (with_reducible apply kept_of) | (dsimp only) | (intro _) | (dsimp only [id])
    | (fail_if_no_progress with_reducible refine kept_mk (kept_of ?_)) | (dsimp +zetaDelta -zeta only))

theorem bump_kept (off : Nat) (hi : Nat) (lo : Nat) {s : State} (h : Kept q s) : Kept q (bump off hi lo s) := by
  delta bump
  repeat' (first
    | (with_reducible assumption) | (with_reducible apply bumpBy_kept) | (with_reducible refine kept_ite (fun _ => ?_) (fun _ => ?_))
    | split | (clear_value *; split) | (with_reducible exact kept_mk (kept_of (by assumption)))
    | (with_reducible apply kept_mk; dsimp only) | (with_reducible apply kept_of) | (dsimp only) | (intro _) | (dsimp only [id])
    | (fail_if_no_progress with_reducible refine kept_mk (kept_of ?_)) | (dsimp +zetaDelta -zeta only))

theorem raiseTo_kept (off : Nat) (hi : Nat) (lo : Nat) (v : Nat) {s : State} (h : Kept q s) : Kept q (raiseTo off hi lo v s) := by
  delta raiseTo
  repeat' (first
    | (with_reducible assumption) | (with_reducible apply putField_kept)
    | (with_reducible refine kept_ite (fun _ => ?_) (fun _ => ?_)) | split | (clear_value *; split)
    | (with_reducible exact kept_mk (kept_of (by assumption))) | (with_reducible apply kept_mk; dsimp only)
    | (with_reducible apply kept_of) | (dsimp only) | (intro _) | (dsimp only [id])
    | (fail_if_no_progress with_reducible refine kept_mk (kept_of ?_)) | (dsimp +zetaDelta -zeta only))

theorem writeHost_kept (a : Nat) (bytes : List Byte) {s : State} (h : Kept q s) : Kept q (writeHost a bytes s) := by
  refine ⟨h.1, ?_, h.2.2⟩
  show Memory.wf (if s.masters then memWriteAll s.h.mem a bytes else s.h.mem) = true
  split
  · exact wf_memWriteAll bytes a h.2.1
  · exact h.2.1

theorem signal_kept (v : Nat) {s : State} (h : Kept q s) : Kept q (signal v s) := by
  delta signal
  repeat' (first
    | (with_reducible assumption)
    | (extract_lets +onlyGivenNames y; refine kept_cut (a := y) ?_ ?_; (on_goal 2 => (intro hy; clear_value y)); subst y)
    | (extract_lets +onlyGivenNames y) | (with_reducible apply writeHost_kept)
    | (with_reducible refine kept_ite (fun _ => ?_) (fun _ => ?_)) | split | (clear_value *; split)
    | (with_reducible exact kept_mk (kept_of (by assumption))) | (with_reducible apply kept_mk; dsimp only)
    | (with_reducible apply kept_of) | (dsimp only) | (intro _) | (dsimp only [id])
    | (fail_if_no_progress with_reducible refine kept_mk (kept_of ?_)) | (dsimp +zetaDelta -zeta only))

theorem setRing_kept {k : Nat} {r : Ring} {s : State} (e : r.en = true → r.head < r.depth ∧ r.tail < r.depth) (h : Kept q s) :
    Kept q (setRing k r s) := by
  refine ⟨h.1, h.2.1, fun j => ?_, h.2.2.2⟩
  rw [show (setRing k r s).h.rings = nset s.h.rings k r from rfl, nget_nset]
  split
  · exact e
  · exact h.2.2.1 j

theorem pushed_ok {r : Ring} (h : r.en = true → r.head < r.depth ∧ r.tail < r.depth) :
    r.pushed.en = true → r.pushed.head < r.pushed.depth ∧ r.pushed.tail < r.pushed.depth := by
  unfold Ring.pushed
  split
  · rename_i e; exact fun g => ⟨(h g).1, e⟩
  · exact fun g => ⟨(h g).1, Nat.lt_of_le_of_lt (Nat.zero_le _) (h g).1⟩

theorem pushEntry_kept (k size : Nat) (bytes : List Byte) {s : State} (h : Kept q s) : Kept q (pushEntry k size bytes s) :=
  setRing_kept (pushed_ok (h.2.2.1 k)) (writeHost_kept _ _ h)

theorem writeIndex_kept (q0 : Nat) (i : Nat) {s : State} (h : Kept q s) : Kept q (writeIndex q0 i s) := by
  delta writeIndex
  repeat' (first
    | (with_reducible assumption) | (with_reducible apply writeHost_kept)
    | (with_reducible refine kept_ite (fun _ => ?_) (fun _ => ?_)) | split | (clear_value *; split)
    | (with_reducible exact kept_mk (kept_of (by assumption))) | (with_reducible apply kept_mk; dsimp only)
    | (with_reducible apply kept_of) | (dsimp only) | (intro _) | (dsimp only [id])
    | (fail_if_no_progress with_reducible refine kept_mk (kept_of ?_)) | (dsimp +zetaDelta -zeta only))

theorem countCompletion_kept {s : State} (h : Kept q s) : Kept q (countCompletion s) := by
  delta countCompletion
  repeat' (first
    | (with_reducible assumption)
    | (extract_lets +onlyGivenNames y; refine kept_cut (a := y) ?_ ?_; (on_goal 2 => (intro hy; clear_value y)); subst y)
    | (extract_lets +onlyGivenNames y) | (with_reducible apply signal_kept)
    | (with_reducible refine kept_ite (fun _ => ?_) (fun _ => ?_)) | split | (clear_value *; split)
    | (with_reducible exact kept_mk (kept_of (by assumption))) | (with_reducible apply kept_mk; dsimp only)
    | (with_reducible apply kept_of) | (dsimp only) | (intro _) | (dsimp only [id])
    | (fail_if_no_progress with_reducible refine kept_mk (kept_of ?_)) | (dsimp +zetaDelta -zeta only))

theorem writeCompletion_kept (e : List Byte) (noirq : Bool) {s : State} (h : Kept q s) : Kept q (writeCompletion e noirq s) := by
  delta writeCompletion
  repeat' (first
    | (with_reducible assumption)
    | (extract_lets +onlyGivenNames y; refine kept_cut (a := y) ?_ ?_; (on_goal 2 => (intro hy; clear_value y)); subst y)
    | (extract_lets +onlyGivenNames y) | (with_reducible apply pushEntry_kept) | (with_reducible apply countCompletion_kept)
    | (with_reducible refine kept_ite (fun _ => ?_) (fun _ => ?_)) | split | (clear_value *; split)
    | (with_reducible exact kept_mk (kept_of (by assumption))) | (with_reducible apply kept_mk; dsimp only)
    | (with_reducible apply kept_of) | (dsimp only) | (intro _) | (dsimp only [id])
    | (fail_if_no_progress with_reducible refine kept_mk (kept_of ?_)) | (dsimp +zetaDelta -zeta only))

theorem releaseHeld_kept (l : List (List Byte × Bool)) {s : State} (h : Kept q s) : Kept q (releaseHeld l s) := by
  induction l generalizing s with
  | nil => exact h
  | cons a r ih =>
    obtain ⟨e, n⟩ := a
    rw [releaseHeld]
    split
    · exact ih (writeCompletion_kept e n h)
    · exact h

theorem deliver_kept (e : List Byte) (noirq : Bool) {s : State} (h : Kept q s) : Kept q (deliver e noirq s) := by
  delta deliver
  repeat' (first
    | (with_reducible assumption) | (with_reducible apply releaseHeld_kept)
    | (with_reducible refine kept_ite (fun _ => ?_) (fun _ => ?_)) | split | (clear_value *; split)
    | (with_reducible exact kept_mk (kept_of (by assumption))) | (with_reducible apply kept_mk; dsimp only)
    | (with_reducible apply kept_of) | (dsimp only) | (intro _) | (dsimp only [id])
    | (fail_if_no_progress with_reducible refine kept_mk (kept_of ?_)) | (dsimp +zetaDelta -zeta only))

theorem complete_kept (w : Waiter) (e : Ending) {s : State} (h : Kept q s) : Kept q (complete w e s) := by
  delta complete
  repeat' (first
    | (with_reducible assumption) | (with_reducible apply deliver_kept)
    | (with_reducible refine kept_ite (fun _ => ?_) (fun _ => ?_)) | split | (clear_value *; split)
    | (with_reducible exact kept_mk (kept_of (by assumption))) | (with_reducible apply kept_mk; dsimp only)
    | (with_reducible apply kept_of) | (dsimp only) | (intro _) | (dsimp only [id])
    | (fail_if_no_progress with_reducible refine kept_mk (kept_of ?_)) | (dsimp +zetaDelta -zeta only))

theorem completeOpt_kept (w : Option Waiter) (e : Ending) {s : State} (h : Kept q s) : Kept q (completeOpt w e s) := by
  delta completeOpt
  repeat' (first
    | (with_reducible assumption) | (with_reducible apply complete_kept)
    | (with_reducible refine kept_ite (fun _ => ?_) (fun _ => ?_)) | split | (clear_value *; split)
    | (with_reducible exact kept_mk (kept_of (by assumption))) | (with_reducible apply kept_mk; dsimp only)
    | (with_reducible apply kept_of) | (dsimp only) | (intro _) | (dsimp only [id])
    | (fail_if_no_progress with_reducible refine kept_mk (kept_of ?_)) | (dsimp +zetaDelta -zeta only))

theorem tellLost_kept {s : State} (h : Kept q s) : Kept q (tellLost s) := by
  delta tellLost
  repeat' (first
    | (with_reducible assumption)
    | (extract_lets +onlyGivenNames y; refine kept_cut (a := y) ?_ ?_; (on_goal 2 => (intro hy; clear_value y)); subst y)
    | (extract_lets +onlyGivenNames y) | (with_reducible apply pushEntry_kept) | (with_reducible apply signal_kept)
    | (with_reducible refine kept_ite (fun _ => ?_) (fun _ => ?_)) | split | (clear_value *; split)
    | (with_reducible exact kept_mk (kept_of (by assumption))) | (with_reducible apply kept_mk; dsimp only)
    | (with_reducible apply kept_of) | (dsimp only) | (intro _) | (dsimp only [id])
    | (fail_if_no_progress with_reducible refine kept_mk (kept_of ?_)) | (dsimp +zetaDelta -zeta only))

theorem evqWrite_kept (seq : Nat) (r : EvRec) {s : State} (h : Kept q s) : Kept q (evqWrite seq r s) := by
  delta evqWrite
  repeat' (first
    | (with_reducible assumption)
    | (extract_lets +onlyGivenNames y; refine kept_cut (a := y) ?_ ?_; (on_goal 2 => (intro hy; clear_value y)); subst y)
    | (extract_lets +onlyGivenNames y) | (with_reducible apply tellLost_kept) | (with_reducible apply signal_kept)
    | (with_reducible apply pushEntry_kept) | (with_reducible apply bump_kept)
    | (with_reducible refine kept_ite (fun _ => ?_) (fun _ => ?_)) | split | (clear_value *; split)
    | (with_reducible exact kept_mk (kept_of (by assumption))) | (with_reducible apply kept_mk; dsimp only)
    | (with_reducible apply kept_of) | (dsimp only) | (intro _) | (dsimp only [id])
    | (fail_if_no_progress with_reducible refine kept_mk (kept_of ?_)) | (dsimp +zetaDelta -zeta only))

theorem logOk_put {ram : NMap EvRec} {n k : Nat} {r : EvRec} (h : LogOk ram n) (h1 : k < n) (h2 : n ≤ k + 4096) : LogOk (nset ram k r) n :=
  ⟨sorted_nset k r h.1, fun x hx => by
    rcases mem_nset hx with rfl | hx
    · exact ⟨h1, h2⟩
    · exact h.2 x hx⟩

theorem openRecord_next {s : State} {r : EvRec} (h : s.openRecord = some r) : s.ev.nextSeq ≠ 0 := by
  unfold State.openRecord at h
  split at h
  · simp at h
  · assumption

theorem putNewest_kept {r o : EvRec} {s : State} (e : s.openRecord = some o) (h : Kept q s) :
    Kept q { s with ev := { s.ev with ram := nset s.ev.ram (s.ev.nextSeq - 1) r } } := by
  have n := openRecord_next e
  have h1 : s.ev.nextSeq - 1 < s.ev.nextSeq := by omega
  have h2 : s.ev.nextSeq ≤ s.ev.nextSeq - 1 + 4096 := by omega
  exact ⟨h.1, h.2.1, h.2.2.1, h.2.2.2.1, h.2.2.2.2.1, h.2.2.2.2.2.1, logOk_put h.2.2.2.2.2.2 h1 h2⟩

theorem closeRecord_kept {s : State} (h : Kept q s) : Kept q (closeRecord s) := by
  delta closeRecord
  split
  · exact h
  · rename_i r e
    refine kept_ite (fun _ => evqWrite_kept _ _ ?_) (fun _ => ?_)
    · exact putNewest_kept e h
    · exact putNewest_kept e h

theorem closeTimer_kept {s : State} (h : Kept q s) : Kept q (closeTimer s) := by
  delta closeTimer
  repeat' (first
    | (with_reducible assumption) | (with_reducible apply closeRecord_kept)
    | (with_reducible refine kept_ite (fun _ => ?_) (fun _ => ?_)) | split | (clear_value *; split)
    | (with_reducible exact kept_mk (kept_of (by assumption))) | (with_reducible apply kept_mk; dsimp only)
    | (with_reducible apply kept_of) | (dsimp only) | (intro _) | (dsimp only [id])
    | (fail_if_no_progress with_reducible refine kept_mk (kept_of ?_)) | (dsimp +zetaDelta -zeta only))

theorem logOk_push {ram : NMap EvRec} {n : Nat} {r : EvRec} (h : LogOk ram n) :
    LogOk (nset (if 4096 ≤ n then ndel ram (n - 4096) else ram) n r) (n + 1) := by
  split
  · rename_i g
    refine ⟨sorted_nset _ _ (sorted_ndel _ h.1), fun x hx => ?_⟩
    rcases mem_nset hx with rfl | hx
    · simp only; omega
    · have := ndel_ne h.1 hx
      have := h.2 x (mem_ndel hx)
      omega
  · refine ⟨sorted_nset _ _ h.1, fun x hx => ?_⟩
    rcases mem_nset hx with rfl | hx
    · simp only; omega
    · have := h.2 x hx
      omega

theorem pushRecord_kept {r : EvRec} {e : Option Nat} {s : State} (h : Kept q s) :
    Kept q { s with ev := { s.ev with
      ram := nset (if 4096 ≤ s.ev.nextSeq then ndel s.ev.ram (s.ev.nextSeq - 4096) else s.ev.ram) s.ev.nextSeq r,
      nextSeq := s.ev.nextSeq + 1, lastEdge := e } } :=
  ⟨h.1, h.2.1, h.2.2.1, h.2.2.2.1, h.2.2.2.2.1, h.2.2.2.2.2.1, logOk_push h.2.2.2.2.2.2⟩

theorem bump_ev (off hi lo : Nat) (s : State) : (bump off hi lo s).ev = s.ev := rfl

theorem writeRecord_kept (r : EvRec) {s : State} (h : Kept q s) : Kept q (writeRecord r s) := by
  have key : ∀ u, Kept q u → ∀ r' : EvRec, Kept q { (if u.ramFull then bump 0x12014 31 16 u else u) with ev := {
      (if u.ramFull then bump 0x12014 31 16 u else u).ev with
        ram := nset (if 4096 ≤ u.ev.nextSeq then ndel (if u.ramFull then bump 0x12014 31 16 u else u).ev.ram (u.ev.nextSeq - 4096)
          else (if u.ramFull then bump 0x12014 31 16 u else u).ev.ram) u.ev.nextSeq r',
        nextSeq := u.ev.nextSeq + 1, lastEdge := some (if u.ramFull then bump 0x12014 31 16 u else u).edge } } := by
    intro u hu r'
    split
    · exact pushRecord_kept (bump_kept 0x12014 31 16 hu)
    · exact pushRecord_kept hu
  have h1 := key _ (closeRecord_kept h) r
  delta writeRecord
  refine kept_ite (fun _ => h1) (fun _ => evqWrite_kept _ _ h1)

theorem setFifo_kept {e : EvrS} {s : State} (h1 : e.fifo.length ≤ 16) (h2 : e.ram = s.ev.ram) (h3 : e.nextSeq = s.ev.nextSeq)
    (h : Kept q s) : Kept q { s with ev := e } :=
  ⟨h.1, h.2.1, h.2.2.1, h.2.2.2.1, h.2.2.2.2.1, h1, by
    have := h.2.2.2.2.2.2
    rw [← h2, ← h3] at this
    exact this⟩

theorem putStaged_kept (f : List EvRec) {s : State} (h : Kept q s) : Kept q (putStaged f s) := by
  have h1 : Kept q { s with ev := { s.ev with fifo := f.take 16 } } :=
    setFifo_kept (by simp only [List.length_take]; omega) rfl rfl h
  delta putStaged
  refine kept_ite (fun _ => h1) (fun _ => bumpBy_kept _ _ _ _ ?_)
  exact setFifo_kept h1.2.2.2.2.2.1 rfl rfl h1

theorem front_length (r : EvRec) (f : List EvRec) : (stagedBefore r f).length + (f.drop (stagedBefore r f).length).length = f.length := by
  have h : (stagedBefore r f).length ≤ f.length := (List.takeWhile_prefix _).length_le
  rw [List.length_drop]; omega

theorem stageEvent_kept (r : EvRec) {s : State} (h : Kept q s) : Kept q (stageEvent r s) := by
  have hl : s.ev.fifo.length ≤ 16 := h.2.2.2.2.2.1
  have hf := front_length r s.ev.fifo
  delta stageEvent
  dsimp only
  split
  · rename_i n e
    have hn : stagedBefore r s.ev.fifo ≠ [] := by
      intro z
      rw [z] at e
      simp at e
    have := List.length_pos_iff.mpr hn
    refine kept_ite (fun _ => ?_) (fun _ => putStaged_kept _ h)
    exact setFifo_kept (by simp only [List.length_append, List.length_dropLast, List.length_cons]; omega) rfl rfl h
  · exact putStaged_kept _ h

theorem putStaged_ram (f : List EvRec) (s : State) : (putStaged f s).ev.ram = s.ev.ram ∧ (putStaged f s).ev.nextSeq = s.ev.nextSeq := by
  unfold putStaged
  dsimp only
  split
  · exact ⟨rfl, rfl⟩
  · exact ⟨rfl, rfl⟩

theorem postBefore_kept (o r : EvRec) {s : State} (n : s.ev.nextSeq ≠ 0) (h : Kept q s) : Kept q (postBefore o r s) := by
  delta postBefore
  dsimp only
  refine evqWrite_kept _ _ ?_
  have e := putStaged_ram ({ o with staged := true, told := true } :: s.ev.fifo) s
  have k := putStaged_kept ({ o with staged := true, told := true } :: s.ev.fifo) h
  generalize putStaged _ s = u at e k
  have h1 : s.ev.nextSeq - 1 < u.ev.nextSeq := by omega
  have h2 : u.ev.nextSeq ≤ s.ev.nextSeq - 1 + 4096 := by omega
  exact ⟨k.1, k.2.1, k.2.2.1, k.2.2.2.1, k.2.2.2.2.1, k.2.2.2.2.2.1, logOk_put k.2.2.2.2.2.2 h1 h2⟩

theorem takePost_kept (r : EvRec) {s : State} (h : Kept q s) : Kept q (takePost r s) := by
  delta takePost
  refine kept_ite (fun _ => stageEvent_kept r h) (fun _ => ?_)
  extract_lets free
  split
  · rename_i o e
    exact kept_ite (fun _ => putNewest_kept e h) (fun _ => kept_ite (fun _ => writeRecord_kept r h)
      (fun _ => kept_ite (fun _ => postBefore_kept o r (openRecord_next e) h) (fun _ => stageEvent_kept r h)))
  · exact kept_ite (fun _ => writeRecord_kept r h) (fun _ => stageEvent_kept r h)

theorem post_kept (code : Nat) (inst : Nat) (args : List Byte) {s : State} (h : Kept q s) : Kept q (post code inst args s) :=
  takePost_kept _ (closeTimer_kept h)

theorem logMemError_kept (inst : Nat) (word : Nat) (syn : Nat) (dbl : Bool) {s : State} (h : Kept q s) : Kept q (logMemError inst word
    syn dbl s) := by
  delta logMemError
  repeat' (first
    | (with_reducible assumption)
    | (extract_lets +onlyGivenNames y; refine kept_cut (a := y) ?_ ?_; (on_goal 2 => (intro hy; clear_value y)); subst y)
    | (extract_lets +onlyGivenNames y) | (with_reducible apply setReg_kept) | (with_reducible apply putField_kept)
    | (with_reducible refine kept_ite (fun _ => ?_) (fun _ => ?_)) | split | (clear_value *; split)
    | (with_reducible exact kept_mk (kept_of (by assumption))) | (with_reducible apply kept_mk; dsimp only)
    | (with_reducible apply kept_of) | (dsimp only) | (intro _) | (dsimp only [id])
    | (fail_if_no_progress with_reducible refine kept_mk (kept_of ?_)) | (dsimp +zetaDelta -zeta only))

theorem memError_kept (inst : Nat) (word : Nat) (dbl : Bool) {s : State} (h : Kept q s) : Kept q (memError inst word dbl s) := by
  delta memError
  repeat' (first
    | (with_reducible assumption)
    | (extract_lets +onlyGivenNames y; refine kept_cut (a := y) ?_ ?_; (on_goal 2 => (intro hy; clear_value y)); subst y)
    | (extract_lets +onlyGivenNames y) | (with_reducible apply bump_kept) | (with_reducible apply logMemError_kept)
    | (with_reducible apply setReg_kept) | (with_reducible refine kept_ite (fun _ => ?_) (fun _ => ?_)) | split
    | (clear_value *; split) | (with_reducible exact kept_mk (kept_of (by assumption))) | (with_reducible apply kept_mk; dsimp only)
    | (with_reducible apply kept_of) | (dsimp only) | (intro _) | (dsimp only [id])
    | (fail_if_no_progress with_reducible refine kept_mk (kept_of ?_)) | (dsimp +zetaDelta -zeta only))

theorem rangeWritten_kept (inst : Nat) (lo : Nat) (n : Nat) {s : State} (h : Kept q s) : Kept q (rangeWritten inst lo n s) := by
  delta rangeWritten
  repeat' (first
    | (with_reducible assumption)
    | (extract_lets +onlyGivenNames y; refine kept_cut (a := y) ?_ ?_; (on_goal 2 => (intro hy; clear_value y)); subst y)
    | (extract_lets +onlyGivenNames y) | (with_reducible apply putField_kept) | (with_reducible apply setG_kept)
    | (with_reducible refine kept_ite (fun _ => ?_) (fun _ => ?_)) | split | (clear_value *; split)
    | (with_reducible exact kept_mk (kept_of (by assumption))) | (with_reducible apply kept_mk; dsimp only)
    | (with_reducible apply kept_of) | (dsimp only) | (intro _) | (dsimp only [id])
    | (fail_if_no_progress with_reducible refine kept_mk (kept_of ?_)) | (dsimp +zetaDelta -zeta only))

theorem wordWritten_kept (inst : Nat) (word : Nat) {s : State} (h : Kept q s) : Kept q (wordWritten inst word s) := by
  delta wordWritten
  repeat' (first
    | (with_reducible assumption) | (with_reducible apply rangeWritten_kept)
    | (with_reducible refine kept_ite (fun _ => ?_) (fun _ => ?_)) | split | (clear_value *; split)
    | (with_reducible exact kept_mk (kept_of (by assumption))) | (with_reducible apply kept_mk; dsimp only)
    | (with_reducible apply kept_of) | (dsimp only) | (intro _) | (dsimp only [id])
    | (fail_if_no_progress with_reducible refine kept_mk (kept_of ?_)) | (dsimp +zetaDelta -zeta only))

theorem wordRead_kept (inst : Nat) (word : Nat) {s : State} (h : Kept q s) : Kept q (wordRead inst word s) := by
  delta wordRead
  repeat' (first
    | (with_reducible assumption) | (with_reducible apply memError_kept)
    | (with_reducible refine kept_ite (fun _ => ?_) (fun _ => ?_)) | split | (clear_value *; split)
    | (with_reducible exact kept_mk (kept_of (by assumption))) | (with_reducible apply kept_mk; dsimp only)
    | (with_reducible apply kept_of) | (dsimp only) | (intro _) | (dsimp only [id])
    | (fail_if_no_progress with_reducible refine kept_mk (kept_of ?_)) | (dsimp +zetaDelta -zeta only))

theorem memErrors_kept (l : List EccError) {s : State} (h : Kept q s) : Kept q (memErrors l s) := by
  delta memErrors
  repeat' (first
    | (with_reducible assumption) | (with_reducible apply memError_kept)
    | (with_reducible refine kept_ite (fun _ => ?_) (fun _ => ?_)) | (with_reducible refine kept_foldl (fun _ _ _ => ?_) ?_)
    | (with_reducible refine kept_foldl1 (fun _ _ _ => ?_) ?_) | (with_reducible refine kept_foldl2 (fun _ _ _ => ?_) ?_) | split
    | (clear_value *; split) | (with_reducible exact kept_mk (kept_of (by assumption))) | (with_reducible apply kept_mk; dsimp only)
    | (with_reducible apply kept_of) | (dsimp only) | (intro _) | (dsimp only [id])
    | (fail_if_no_progress with_reducible refine kept_mk (kept_of ?_)) | (dsimp +zetaDelta -zeta only))

end Sys2Proof.Machine
end

