-- ==== Sys2Proof/Laws/KeptAccept.lean ====
section
/-!
SUPPORT. Sys2Proof/Laws/KeptAccept.lean: the operations of Machine/Accept.lean keep the queue and the invariant of Safety.lean.
-/
namespace Sys2Proof.Machine

set_option linter.all false

variable {q : List Instr}

theorem next_lt {r : Ring} {i : Nat} (h : i < r.depth) : r.next i < r.depth := by
  unfold Ring.next
  split
  · assumption
  · omega

theorem popRing_kept (k : Nat) {s : State} (h : Kept q s) : Kept q (popRing k s) := by
  delta popRing
  exact kept_ite (fun _ => h) (fun _ => setRing_kept (fun e => ⟨next_lt (h.2.2.1 k e).1, (h.2.2.1 k e).2⟩) h)

theorem accepted_kept (w : Waiter) {s : State} (h : Kept q s) : Kept q (accepted w s) := by
  delta accepted
  repeat' (first
    | (with_reducible assumption) | (with_reducible refine kept_ite (fun _ => ?_) (fun _ => ?_)) | split | (clear_value *; split)
    | (with_reducible exact kept_mk (kept_of (by assumption))) | (with_reducible apply kept_mk; dsimp only)
    | (with_reducible apply kept_of) | (dsimp only) | (intro _) | (dsimp only [id])
    | (fail_if_no_progress with_reducible refine kept_mk (kept_of ?_)) | (dsimp +zetaDelta -zeta only))

theorem judge_kept {body : Body} (c : HostCmd) (stamp : Nat) (w : Waiter) {s : State} (h0 : ∀ c w s, Kept q s → Kept q (body c w s)) (h
    : Kept q s) : Kept q (judge body c stamp w s) := by
  delta judge
  repeat' (first
    | (with_reducible assumption)
    | (extract_lets +onlyGivenNames y; refine kept_cut (a := y) ?_ ?_; (on_goal 2 => (intro hy; clear_value y)); subst y)
    | (extract_lets +onlyGivenNames y) | (with_reducible apply h0) | (with_reducible apply accepted_kept)
    | (with_reducible apply complete_kept) | (with_reducible refine kept_ite (fun _ => ?_) (fun _ => ?_)) | split
    | (clear_value *; split) | (with_reducible exact kept_mk (kept_of (by assumption))) | (with_reducible apply kept_mk; dsimp only)
    | (with_reducible apply kept_of) | (dsimp only) | (intro _) | (dsimp only [id])
    | (fail_if_no_progress with_reducible refine kept_mk (kept_of ?_)) | (dsimp +zetaDelta -zeta only))

theorem popRing_holdQ (k : Nat) (s : State) : (popRing k s).h.holdQ = s.h.holdQ := by
  delta popRing
  dsimp only
  split <;> rfl

theorem setHeld_kept {l : List Held} {s : State} (g : l.length ≤ 256) (h : Kept q s) : Kept q { s with h := { s.h with holdQ := l } } :=
  ⟨h.1, h.2.1, h.2.2.1, g, h.2.2.2.2⟩

theorem hostCommand_kept (info : CmdInfo) (i : Instr) (c : HostCmd) {body : Body} {s : State}
    (h0 : ∀ c w s, Kept q s → Kept q (body c w s)) (h1 : Kept q s) : Kept q (hostCommand info i c body s) := by
  delta hostCommand
  extract_lets +onlyGivenNames u
  have hu : Kept q u := advance_kept _ h1
  clear_value u
  refine kept_ite (fun g => ?_) (fun _ => hu)
  extract_lets +onlyGivenNames stamp w h v
  have hv : Kept q v := popRing_kept _ hu
  have hm : v.m = u.m := by
    subst v
    delta popRing
    dsimp only
    split <;> rfl
  have hh : v.h.holdQ = u.h.holdQ := popRing_holdQ _ _
  clear_value v
  refine kept_ite (fun gm => ?_) (fun _ => judge_kept c stamp w h0 hv)
  split
  · exact judge_kept c stamp w h0 hv
  · exact judge_kept c stamp w (fun c w s h => complete_kept _ _ h) hv
  · rename_i e
    refine kept_ite (fun _ => judge_kept c stamp w h0 hv) (fun _ => kept_ite (fun _ => judge_kept c stamp w h0 hv) (fun _ => ?_))
    refine setHeld_kept ?_ hv
    rw [hm] at gm
    simp only [State.takes, gm, e, Bool.and_eq_true, Bool.or_eq_true, Bool.not_eq_true', decide_eq_true_eq] at g
    have := g.2
    rw [hh, List.length_append, List.length_singleton]
    rcases this with g | g
    · simp at g
    · omega

theorem schedule_kept (pick : Nat) (who : Option Waiter) (chg : Change) {s : State} (h : Kept q s) : Kept q (schedule pick who chg s)
    := by
  delta schedule
  repeat' (first
    | (with_reducible assumption) | (with_reducible refine kept_ite (fun _ => ?_) (fun _ => ?_)) | split | (clear_value *; split)
    | (with_reducible exact kept_mk (kept_of (by assumption))) | (with_reducible apply kept_mk; dsimp only)
    | (with_reducible apply kept_of) | (dsimp only) | (intro _) | (dsimp only [id])
    | (fail_if_no_progress with_reducible refine kept_mk (kept_of ?_)) | (dsimp +zetaDelta -zeta only))

theorem atNamed_kept (p : Nat) (w : Waiter) {s : State} {k : Nat → State} (h : Kept q s) (h1 : ∀ n, Kept q (k n)) : Kept q (atNamed p w
    s k) := by
  delta atNamed
  repeat' (first
    | (with_reducible assumption) | (with_reducible apply h1) | (with_reducible apply complete_kept)
    | (with_reducible refine kept_ite (fun _ => ?_) (fun _ => ?_)) | split | (clear_value *; split)
    | (with_reducible exact kept_mk (kept_of (by assumption))) | (with_reducible apply kept_mk; dsimp only)
    | (with_reducible apply kept_of) | (dsimp only) | (intro _) | (dsimp only [id])
    | (fail_if_no_progress with_reducible refine kept_mk (kept_of ?_)) | (dsimp +zetaDelta -zeta only))

end Sys2Proof.Machine
end

