-- ==== Sys2Proof/Laws/KeptLoomOps.lean ====
section
/-!
SUPPORT. Sys2Proof/Laws/KeptLoomOps.lean: the operations of Machine/LoomOps.lean keep the queue and the invariant of Safety.lean.
-/
namespace Sys2Proof.Machine

set_option linter.all false

variable {q : List Instr}

theorem countGeometry_kept (i : Nat) (pl : InputPlan) {s : State} (h : Kept q s) : Kept q (countGeometry i pl s) := by
  delta countGeometry
  repeat' (first
    | (with_reducible assumption)
    | (extract_lets +onlyGivenNames y; refine kept_cut (a := y) ?_ ?_; (on_goal 2 => (intro hy; clear_value y)); subst y)
    | (extract_lets +onlyGivenNames y) | (with_reducible apply bump_kept) | (with_reducible apply post_kept)
    | (with_reducible apply setX_kept) | (with_reducible refine kept_ite (fun _ => ?_) (fun _ => ?_))
    | (with_reducible refine kept_foldl (fun _ _ _ => ?_) ?_) | (with_reducible refine kept_foldl1 (fun _ _ _ => ?_) ?_)
    | (with_reducible refine kept_foldl2 (fun _ _ _ => ?_) ?_) | split | (clear_value *; split)
    | (with_reducible exact kept_mk (kept_of (by assumption))) | (with_reducible apply kept_mk; dsimp only)
    | (with_reducible apply kept_of) | (dsimp only) | (intro _) | (dsimp only [id])
    | (fail_if_no_progress with_reducible refine kept_mk (kept_of ?_)) | (dsimp +zetaDelta -zeta only))

theorem countDefers_kept (i : Nat) (pl : InputPlan) {s : State} (h : Kept q s) : Kept q (countDefers i pl s) := by
  delta countDefers
  repeat' (first
    | (with_reducible assumption)
    | (extract_lets +onlyGivenNames y; refine kept_cut (a := y) ?_ ?_; (on_goal 2 => (intro hy; clear_value y)); subst y)
    | (extract_lets +onlyGivenNames y) | (with_reducible apply bump_kept) | (with_reducible apply post_kept)
    | (with_reducible apply setX_kept) | (with_reducible refine kept_ite (fun _ => ?_) (fun _ => ?_)) | split
    | (clear_value *; split) | (with_reducible exact kept_mk (kept_of (by assumption))) | (with_reducible apply kept_mk; dsimp only)
    | (with_reducible apply kept_of) | (dsimp only) | (intro _) | (dsimp only [id])
    | (fail_if_no_progress with_reducible refine kept_mk (kept_of ?_)) | (dsimp +zetaDelta -zeta only))

theorem foundPoison_kept (i : Nat) (slot : Nat) {s : State} (h : Kept q s) : Kept q (foundPoison i slot s) := by
  delta foundPoison
  repeat' (first
    | (with_reducible assumption)
    | (extract_lets +onlyGivenNames y; refine kept_cut (a := y) ?_ ?_; (on_goal 2 => (intro hy; clear_value y)); subst y)
    | (extract_lets +onlyGivenNames y) | (with_reducible apply post_kept) | (with_reducible apply setReg_kept)
    | (with_reducible apply bump_kept) | (with_reducible apply setX_kept)
    | (with_reducible refine kept_ite (fun _ => ?_) (fun _ => ?_)) | split | (clear_value *; split)
    | (with_reducible exact kept_mk (kept_of (by assumption))) | (with_reducible apply kept_mk; dsimp only)
    | (with_reducible apply kept_of) | (dsimp only) | (intro _) | (dsimp only [id])
    | (fail_if_no_progress with_reducible refine kept_mk (kept_of ?_)) | (dsimp +zetaDelta -zeta only))

theorem loomControl_kept (geoDone : Bool) (plans : List (Nat × InputPlan)) (acc : LaneAcc) (insts : Nat) {s : State} (h : Kept q s) :
    Kept q (loomControl geoDone plans acc insts s) := by
  delta loomControl
  repeat' (first
    | (with_reducible assumption)
    | (extract_lets +onlyGivenNames y; refine kept_cut (a := y) ?_ ?_; (on_goal 2 => (intro hy; clear_value y)); subst y)
    | (extract_lets +onlyGivenNames y) | (with_reducible apply countGeometry_kept) | (with_reducible apply countDefers_kept)
    | (with_reducible apply bump_kept) | (with_reducible apply post_kept) | (with_reducible apply raiseTo_kept)
    | (with_reducible apply setX_kept) | (with_reducible refine kept_ite (fun _ => ?_) (fun _ => ?_))
    | (with_reducible refine kept_foldl (fun _ _ _ => ?_) ?_) | (with_reducible refine kept_foldl1 (fun _ _ _ => ?_) ?_)
    | (with_reducible refine kept_foldl2 (fun _ _ _ => ?_) ?_) | split | (clear_value *; split)
    | (with_reducible exact kept_mk (kept_of (by assumption))) | (with_reducible apply kept_mk; dsimp only)
    | (with_reducible apply kept_of) | (dsimp only) | (intro _) | (dsimp only [id])
    | (fail_if_no_progress with_reducible refine kept_mk (kept_of ?_)) | (dsimp +zetaDelta -zeta only))

theorem loomPick_kept (xin : Nat → List Int) {s : State} (h : Kept q s) : Kept q (loomPick xin s) := by
  delta loomPick
  repeat' (first
    | (with_reducible assumption)
    | (extract_lets +onlyGivenNames y; refine kept_cut (a := y) ?_ ?_; (on_goal 2 => (intro hy; clear_value y)); subst y)
    | (extract_lets +onlyGivenNames y) | (with_reducible apply loomControl_kept) | (with_reducible apply foundPoison_kept)
    | (with_reducible apply bumpBy_kept) | (with_reducible apply putField_kept) | (with_reducible apply post_kept)
    | (with_reducible apply setX_kept) | (with_reducible refine kept_ite (fun _ => ?_) (fun _ => ?_))
    | (with_reducible refine kept_foldl (fun _ _ _ => ?_) ?_) | (with_reducible refine kept_foldl1 (fun _ _ _ => ?_) ?_)
    | (with_reducible refine kept_foldl2 (fun _ _ _ => ?_) ?_) | split | (clear_value *; split)
    | (with_reducible exact kept_mk (kept_of (by assumption))) | (with_reducible apply kept_mk; dsimp only)
    | (with_reducible apply kept_of) | (dsimp only) | (intro _) | (dsimp only [id])
    | (fail_if_no_progress with_reducible refine kept_mk (kept_of ?_)) | (dsimp +zetaDelta -zeta only))

theorem appendLines_kept {s : State} (h : Kept q s) : Kept q (appendLines s) := by
  delta appendLines
  repeat' (first
    | (with_reducible assumption)
    | (extract_lets +onlyGivenNames y; refine kept_cut (a := y) ?_ ?_; (on_goal 2 => (intro hy; clear_value y)); subst y)
    | (extract_lets +onlyGivenNames y) | (with_reducible apply setX_kept)
    | (with_reducible refine kept_ite (fun _ => ?_) (fun _ => ?_)) | (with_reducible refine kept_foldl (fun _ _ _ => ?_) ?_)
    | (with_reducible refine kept_foldl1 (fun _ _ _ => ?_) ?_) | (with_reducible refine kept_foldl2 (fun _ _ _ => ?_) ?_) | split
    | (clear_value *; split) | (with_reducible exact kept_mk (kept_of (by assumption))) | (with_reducible apply kept_mk; dsimp only)
    | (with_reducible apply kept_of) | (dsimp only) | (intro _) | (dsimp only [id])
    | (fail_if_no_progress with_reducible refine kept_mk (kept_of ?_)) | (dsimp +zetaDelta -zeta only))

theorem loomStop_kept (geoDone : Bool) (xin : Nat → List Int) {s : State} (h : Kept q s) : Kept q (loomStop geoDone xin s) := by
  delta loomStop
  repeat' (first
    | (with_reducible assumption)
    | (extract_lets +onlyGivenNames y; refine kept_cut (a := y) ?_ ?_; (on_goal 2 => (intro hy; clear_value y)); subst y)
    | (extract_lets +onlyGivenNames y) | (with_reducible apply loomControl_kept) | (with_reducible apply setX_kept)
    | (with_reducible refine kept_ite (fun _ => ?_) (fun _ => ?_)) | split | (clear_value *; split)
    | (with_reducible exact kept_mk (kept_of (by assumption))) | (with_reducible apply kept_mk; dsimp only)
    | (with_reducible apply kept_of) | (dsimp only) | (intro _) | (dsimp only [id])
    | (fail_if_no_progress with_reducible refine kept_mk (kept_of ?_)) | (dsimp +zetaDelta -zeta only))

theorem loomStart_kept {s : State} (h : Kept q s) : Kept q (loomStart s) := by
  delta loomStart
  repeat' (first
    | (with_reducible assumption) | (with_reducible apply setX_kept) | (with_reducible refine kept_ite (fun _ => ?_) (fun _ => ?_))
    | split | (clear_value *; split) | (with_reducible exact kept_mk (kept_of (by assumption)))
    | (with_reducible apply kept_mk; dsimp only) | (with_reducible apply kept_of) | (dsimp only) | (intro _) | (dsimp only [id])
    | (fail_if_no_progress with_reducible refine kept_mk (kept_of ?_)) | (dsimp +zetaDelta -zeta only))

theorem loomForget_kept {s : State} (h : Kept q s) : Kept q (loomForget s) := by
  delta loomForget
  repeat' (first
    | (with_reducible assumption) | (with_reducible apply setX_kept) | (with_reducible refine kept_ite (fun _ => ?_) (fun _ => ?_))
    | split | (clear_value *; split) | (with_reducible exact kept_mk (kept_of (by assumption)))
    | (with_reducible apply kept_mk; dsimp only) | (with_reducible apply kept_of) | (dsimp only) | (intro _) | (dsimp only [id])
    | (fail_if_no_progress with_reducible refine kept_mk (kept_of ?_)) | (dsimp +zetaDelta -zeta only))

theorem loomSnapshot_kept {s : State} (h : Kept q s) : Kept q (loomSnapshot s) := by
  delta loomSnapshot
  repeat' (first
    | (with_reducible assumption)
    | (extract_lets +onlyGivenNames y; refine kept_cut (a := y) ?_ ?_; (on_goal 2 => (intro hy; clear_value y)); subst y)
    | (extract_lets +onlyGivenNames y) | (with_reducible apply setReg_kept) | (with_reducible apply putField_kept)
    | (with_reducible apply setX_kept) | (with_reducible refine kept_ite (fun _ => ?_) (fun _ => ?_))
    | (with_reducible refine kept_foldl (fun _ _ _ => ?_) ?_) | (with_reducible refine kept_foldl1 (fun _ _ _ => ?_) ?_)
    | (with_reducible refine kept_foldl2 (fun _ _ _ => ?_) ?_) | split | (clear_value *; split)
    | (with_reducible exact kept_mk (kept_of (by assumption))) | (with_reducible apply kept_mk; dsimp only)
    | (with_reducible apply kept_of) | (dsimp only) | (intro _) | (dsimp only [id])
    | (fail_if_no_progress with_reducible refine kept_mk (kept_of ?_)) | (dsimp +zetaDelta -zeta only))

theorem loomDumps_kept (p : Nat) {s : State} (h : Kept q s) : Kept q (loomDumps p s) := by
  delta loomDumps
  repeat' (first
    | (with_reducible assumption) | (with_reducible apply complete_kept) | (with_reducible apply writeHost_kept)
    | (with_reducible apply setX_kept) | (with_reducible refine kept_ite (fun _ => ?_) (fun _ => ?_))
    | (with_reducible refine kept_foldl (fun _ _ _ => ?_) ?_) | (with_reducible refine kept_foldl1 (fun _ _ _ => ?_) ?_)
    | (with_reducible refine kept_foldl2 (fun _ _ _ => ?_) ?_) | split | (clear_value *; split)
    | (with_reducible exact kept_mk (kept_of (by assumption))) | (with_reducible apply kept_mk; dsimp only)
    | (with_reducible apply kept_of) | (dsimp only) | (intro _) | (dsimp only [id])
    | (fail_if_no_progress with_reducible refine kept_mk (kept_of ?_)) | (dsimp +zetaDelta -zeta only))

end Sys2Proof.Machine
end

