-- ==== Sys2Proof/Laws/KeptReedOps.lean ====
section
/-!
SUPPORT. Sys2Proof/Laws/KeptReedOps.lean: the operations of Machine/ReedOps.lean keep the queue and the invariant of Safety.lean.
-/
namespace Sys2Proof.Machine

set_option linter.all false

variable {q : List Instr}

theorem putReedInactive_kept (b : ReedBank) {s : State} (h : Kept q s) : Kept q (putReedInactive b s) := by
  delta putReedInactive
  repeat' (first
    | (with_reducible assumption) | (with_reducible apply setR_kept) | (with_reducible refine kept_ite (fun _ => ?_) (fun _ => ?_))
    | split | (clear_value *; split) | (with_reducible exact kept_mk (kept_of (by assumption)))
    | (with_reducible apply kept_mk; dsimp only) | (with_reducible apply kept_of) | (dsimp only) | (intro _) | (dsimp only [id])
    | (fail_if_no_progress with_reducible refine kept_mk (kept_of ?_)) | (dsimp +zetaDelta -zeta only))

theorem keepChains_kept (runs : List (Nat × ChainRun)) (xin : Nat → List Int) {s : State} (h : Kept q s) : Kept q (keepChains runs xin
    s) := by
  delta keepChains
  repeat' (first
    | (with_reducible assumption) | (with_reducible apply setR_kept) | (with_reducible refine kept_ite (fun _ => ?_) (fun _ => ?_))
    | (with_reducible refine kept_foldl (fun _ _ _ => ?_) ?_) | (with_reducible refine kept_foldl1 (fun _ _ _ => ?_) ?_)
    | (with_reducible refine kept_foldl2 (fun _ _ _ => ?_) ?_) | split | (clear_value *; split)
    | (with_reducible exact kept_mk (kept_of (by assumption))) | (with_reducible apply kept_mk; dsimp only)
    | (with_reducible apply kept_of) | (dsimp only) | (intro _) | (dsimp only [id])
    | (fail_if_no_progress with_reducible refine kept_mk (kept_of ?_)) | (dsimp +zetaDelta -zeta only))

theorem reedPick_kept {s : State} (h : Kept q s) : Kept q (reedPick s) := by
  delta reedPick
  repeat' (first
    | (with_reducible assumption)
    | (extract_lets +onlyGivenNames y; refine kept_cut (a := y) ?_ ?_; (on_goal 2 => (intro hy; clear_value y)); subst y)
    | (extract_lets +onlyGivenNames y) | (with_reducible apply keepChains_kept) | (with_reducible apply bumpBy_kept)
    | (with_reducible apply putField_kept) | (with_reducible apply post_kept) | (with_reducible apply setR_kept)
    | (with_reducible refine kept_ite (fun _ => ?_) (fun _ => ?_)) | (with_reducible refine kept_foldl (fun _ _ _ => ?_) ?_)
    | (with_reducible refine kept_foldl1 (fun _ _ _ => ?_) ?_) | (with_reducible refine kept_foldl2 (fun _ _ _ => ?_) ?_) | split
    | (clear_value *; split) | (with_reducible exact kept_mk (kept_of (by assumption))) | (with_reducible apply kept_mk; dsimp only)
    | (with_reducible apply kept_of) | (dsimp only) | (intro _) | (dsimp only [id])
    | (fail_if_no_progress with_reducible refine kept_mk (kept_of ?_)) | (dsimp +zetaDelta -zeta only))

theorem reedRepeat_kept {s : State} (h : Kept q s) : Kept q (reedRepeat s) := by
  delta reedRepeat
  repeat' (first
    | (with_reducible assumption)
    | (extract_lets +onlyGivenNames y; refine kept_cut (a := y) ?_ ?_; (on_goal 2 => (intro hy; clear_value y)); subst y)
    | (extract_lets +onlyGivenNames y) | (with_reducible apply keepChains_kept) | (with_reducible apply setR_kept)
    | (with_reducible refine kept_ite (fun _ => ?_) (fun _ => ?_)) | split | (clear_value *; split)
    | (with_reducible exact kept_mk (kept_of (by assumption))) | (with_reducible apply kept_mk; dsimp only)
    | (with_reducible apply kept_of) | (dsimp only) | (intro _) | (dsimp only [id])
    | (fail_if_no_progress with_reducible refine kept_mk (kept_of ?_)) | (dsimp +zetaDelta -zeta only))

theorem reedEnd_kept (finished : Bool) {s : State} (h : Kept q s) : Kept q (reedEnd finished s) := by
  delta reedEnd
  repeat' (first
    | (with_reducible assumption) | (with_reducible apply setR_kept) | (with_reducible refine kept_ite (fun _ => ?_) (fun _ => ?_))
    | split | (clear_value *; split) | (with_reducible exact kept_mk (kept_of (by assumption)))
    | (with_reducible apply kept_mk; dsimp only) | (with_reducible apply kept_of) | (dsimp only) | (intro _) | (dsimp only [id])
    | (fail_if_no_progress with_reducible refine kept_mk (kept_of ?_)) | (dsimp +zetaDelta -zeta only))

theorem loseLine_kept (o : Nat) (w : Nat) {s : State} (h : Kept q s) : Kept q (loseLine o w s) := by
  delta loseLine
  repeat' (first
    | (with_reducible assumption)
    | (extract_lets +onlyGivenNames y; refine kept_cut (a := y) ?_ ?_; (on_goal 2 => (intro hy; clear_value y)); subst y)
    | (extract_lets +onlyGivenNames y) | (with_reducible apply setR_kept)
    | (with_reducible refine kept_ite (fun _ => ?_) (fun _ => ?_)) | split | (clear_value *; split)
    | (with_reducible exact kept_mk (kept_of (by assumption))) | (with_reducible apply kept_mk; dsimp only)
    | (with_reducible apply kept_of) | (dsimp only) | (intro _) | (dsimp only [id])
    | (fail_if_no_progress with_reducible refine kept_mk (kept_of ?_)) | (dsimp +zetaDelta -zeta only))

theorem loseHist_kept (o : Nat) (w : Nat) {s : State} (h : Kept q s) : Kept q (loseHist o w s) := by
  delta loseHist
  repeat' (first
    | (with_reducible assumption)
    | (extract_lets +onlyGivenNames y; refine kept_cut (a := y) ?_ ?_; (on_goal 2 => (intro hy; clear_value y)); subst y)
    | (extract_lets +onlyGivenNames y) | (with_reducible apply setR_kept)
    | (with_reducible refine kept_ite (fun _ => ?_) (fun _ => ?_)) | split | (clear_value *; split)
    | (with_reducible exact kept_mk (kept_of (by assumption))) | (with_reducible apply kept_mk; dsimp only)
    | (with_reducible apply kept_of) | (dsimp only) | (intro _) | (dsimp only [id])
    | (fail_if_no_progress with_reducible refine kept_mk (kept_of ?_)) | (dsimp +zetaDelta -zeta only))

theorem loseSpectrum_kept (o : Nat) (w : Nat) {s : State} (h : Kept q s) : Kept q (loseSpectrum o w s) := by
  delta loseSpectrum
  repeat' (first
    | (with_reducible assumption)
    | (extract_lets +onlyGivenNames y; refine kept_cut (a := y) ?_ ?_; (on_goal 2 => (intro hy; clear_value y)); subst y)
    | (extract_lets +onlyGivenNames y) | (with_reducible apply setR_kept)
    | (with_reducible refine kept_ite (fun _ => ?_) (fun _ => ?_)) | split | (clear_value *; split)
    | (with_reducible exact kept_mk (kept_of (by assumption))) | (with_reducible apply kept_mk; dsimp only)
    | (with_reducible apply kept_of) | (dsimp only) | (intro _) | (dsimp only [id])
    | (fail_if_no_progress with_reducible refine kept_mk (kept_of ?_)) | (dsimp +zetaDelta -zeta only))

theorem reedStart_kept {s : State} (h : Kept q s) : Kept q (reedStart s) := by
  delta reedStart
  repeat' (first
    | (with_reducible assumption) | (with_reducible apply setR_kept) | (with_reducible refine kept_ite (fun _ => ?_) (fun _ => ?_))
    | (with_reducible refine kept_foldl (fun _ _ _ => ?_) ?_) | (with_reducible refine kept_foldl1 (fun _ _ _ => ?_) ?_)
    | (with_reducible refine kept_foldl2 (fun _ _ _ => ?_) ?_) | split | (clear_value *; split)
    | (with_reducible exact kept_mk (kept_of (by assumption))) | (with_reducible apply kept_mk; dsimp only)
    | (with_reducible apply kept_of) | (dsimp only) | (intro _) | (dsimp only [id])
    | (fail_if_no_progress with_reducible refine kept_mk (kept_of ?_)) | (dsimp +zetaDelta -zeta only))

theorem endMeas_kept (status : Nat) {s : State} (h : Kept q s) : Kept q (endMeas status s) := by
  delta endMeas
  repeat' (first
    | (with_reducible assumption)
    | (extract_lets +onlyGivenNames y; refine kept_cut (a := y) ?_ ?_; (on_goal 2 => (intro hy; clear_value y)); subst y)
    | (extract_lets +onlyGivenNames y) | (with_reducible apply post_kept) | (with_reducible apply complete_kept)
    | (with_reducible apply setR_kept) | (with_reducible refine kept_ite (fun _ => ?_) (fun _ => ?_)) | split
    | (clear_value *; split) | (with_reducible exact kept_mk (kept_of (by assumption))) | (with_reducible apply kept_mk; dsimp only)
    | (with_reducible apply kept_of) | (dsimp only) | (intro _) | (dsimp only [id])
    | (fail_if_no_progress with_reducible refine kept_mk (kept_of ?_)) | (dsimp +zetaDelta -zeta only))

theorem reedSnapshot_kept {s : State} (h : Kept q s) : Kept q (reedSnapshot s) := by
  delta reedSnapshot
  repeat' (first
    | (with_reducible assumption)
    | (extract_lets +onlyGivenNames y; refine kept_cut (a := y) ?_ ?_; (on_goal 2 => (intro hy; clear_value y)); subst y)
    | (extract_lets +onlyGivenNames y; refine kept_cut2 (p := y) ?_ ?_; (on_goal 2 => (intro hy; clear_value y)); subst y)
    | (extract_lets +onlyGivenNames y) | (with_reducible apply draw_kept) | (with_reducible apply setReg_kept)
    | (with_reducible apply putField_kept) | (with_reducible apply setR_kept)
    | (with_reducible refine kept_ite (fun _ => ?_) (fun _ => ?_)) | (with_reducible refine kept_foldl (fun _ _ _ => ?_) ?_)
    | (with_reducible refine kept_foldl1 (fun _ _ _ => ?_) ?_) | (with_reducible refine kept_foldl2 (fun _ _ _ => ?_) ?_)
    | (refine kept_snd (by assumption) ?_) | split | (clear_value *; split)
    | (with_reducible exact kept_mk (kept_of (by assumption))) | (with_reducible apply kept_mk; dsimp only)
    | (with_reducible apply kept_of) | (dsimp only) | (intro _) | (dsimp only [id])
    | (fail_if_no_progress with_reducible refine kept_mk (kept_of ?_)) | (dsimp +zetaDelta -zeta only))

end Sys2Proof.Machine
end

