-- ==== Sys2Proof/Laws/KeptHeddleOps.lean ====
section
/-!
SUPPORT. Sys2Proof/Laws/KeptHeddleOps.lean: the operations of Machine/HeddleOps.lean keep the queue and the invariant of Safety.lean.
-/
namespace Sys2Proof.Machine

set_option linter.all false

variable {q : List Instr}

theorem keepRoutes_kept (done : List RouteRun) {s : State} (h : Kept q s) : Kept q (keepRoutes done s) := by
  delta keepRoutes
  repeat' (first
    | (with_reducible assumption) | (with_reducible apply setD_kept) | (with_reducible refine kept_ite (fun _ => ?_) (fun _ => ?_))
    | split | (clear_value *; split) | (with_reducible exact kept_mk (kept_of (by assumption)))
    | (with_reducible apply kept_mk; dsimp only) | (with_reducible apply kept_of) | (dsimp only) | (intro _) | (dsimp only [id])
    | (fail_if_no_progress with_reducible refine kept_mk (kept_of ?_)) | (dsimp +zetaDelta -zeta only))

theorem filterSources_kept (xin : Nat → List Int) {s : State} (h : Kept q s) : Kept q (filterSources xin s) := by
  delta filterSources
  repeat' (first
    | (with_reducible assumption)
    | (extract_lets +onlyGivenNames y; refine kept_cut (a := y) ?_ ?_; (on_goal 2 => (intro hy; clear_value y)); subst y)
    | (extract_lets +onlyGivenNames y) | (with_reducible apply setD_kept)
    | (with_reducible refine kept_ite (fun _ => ?_) (fun _ => ?_)) | (with_reducible refine kept_foldl (fun _ _ _ => ?_) ?_)
    | (with_reducible refine kept_foldl1 (fun _ _ _ => ?_) ?_) | (with_reducible refine kept_foldl2 (fun _ _ _ => ?_) ?_) | split
    | (clear_value *; split) | (with_reducible exact kept_mk (kept_of (by assumption))) | (with_reducible apply kept_mk; dsimp only)
    | (with_reducible apply kept_of) | (dsimp only) | (intro _) | (dsimp only [id])
    | (fail_if_no_progress with_reducible refine kept_mk (kept_of ?_)) | (dsimp +zetaDelta -zeta only))

theorem heddleInput_kept (bat : NMap (List Int)) {s : State} (h : Kept q s) : Kept q (heddleInput bat s) := by
  delta heddleInput
  repeat' (first
    | (with_reducible assumption)
    | (extract_lets +onlyGivenNames y; refine kept_cut (a := y) ?_ ?_; (on_goal 2 => (intro hy; clear_value y)); subst y)
    | (extract_lets +onlyGivenNames y) | (with_reducible apply filterSources_kept) | (with_reducible apply bumpBy_kept)
    | (with_reducible apply keepRoutes_kept) | (with_reducible apply setD_kept)
    | (with_reducible refine kept_ite (fun _ => ?_) (fun _ => ?_)) | split | (clear_value *; split)
    | (with_reducible exact kept_mk (kept_of (by assumption))) | (with_reducible apply kept_mk; dsimp only)
    | (with_reducible apply kept_of) | (dsimp only) | (intro _) | (dsimp only [id])
    | (fail_if_no_progress with_reducible refine kept_mk (kept_of ?_)) | (dsimp +zetaDelta -zeta only))

theorem heddleOutput_kept (bat : NMap (List Int)) {s : State} (h : Kept q s) : Kept q (heddleOutput bat s) := by
  delta heddleOutput
  repeat' (first
    | (with_reducible assumption)
    | (extract_lets +onlyGivenNames y; refine kept_cut (a := y) ?_ ?_; (on_goal 2 => (intro hy; clear_value y)); subst y)
    | (extract_lets +onlyGivenNames y) | (with_reducible apply bumpBy_kept) | (with_reducible apply keepRoutes_kept)
    | (with_reducible apply setD_kept) | (with_reducible refine kept_ite (fun _ => ?_) (fun _ => ?_))
    | (with_reducible refine kept_foldl (fun _ _ _ => ?_) ?_) | (with_reducible refine kept_foldl1 (fun _ _ _ => ?_) ?_)
    | (with_reducible refine kept_foldl2 (fun _ _ _ => ?_) ?_) | split | (clear_value *; split)
    | (with_reducible exact kept_mk (kept_of (by assumption))) | (with_reducible apply kept_mk; dsimp only)
    | (with_reducible apply kept_of) | (dsimp only) | (intro _) | (dsimp only [id])
    | (fail_if_no_progress with_reducible refine kept_mk (kept_of ?_)) | (dsimp +zetaDelta -zeta only))

theorem settleSteps_kept (p : RouteRun → Bool) {s : State} (h : Kept q s) : Kept q (settleSteps p s) := by
  delta settleSteps
  repeat' (first
    | (with_reducible assumption)
    | (extract_lets +onlyGivenNames y; refine kept_cut (a := y) ?_ ?_; (on_goal 2 => (intro hy; clear_value y)); subst y)
    | (extract_lets +onlyGivenNames y) | (with_reducible apply bumpBy_kept) | (with_reducible apply setD_kept)
    | (with_reducible refine kept_ite (fun _ => ?_) (fun _ => ?_)) | split | (clear_value *; split)
    | (with_reducible exact kept_mk (kept_of (by assumption))) | (with_reducible apply kept_mk; dsimp only)
    | (with_reducible apply kept_of) | (dsimp only) | (intro _) | (dsimp only [id])
    | (fail_if_no_progress with_reducible refine kept_mk (kept_of ?_)) | (dsimp +zetaDelta -zeta only))

theorem heddleStopped_kept (inOk : Bool) (outOk : Bool) {s : State} (h : Kept q s) : Kept q (heddleStopped inOk outOk s) := by
  delta heddleStopped
  repeat' (first
    | (with_reducible assumption)
    | (extract_lets +onlyGivenNames y; refine kept_cut (a := y) ?_ ?_; (on_goal 2 => (intro hy; clear_value y)); subst y)
    | (extract_lets +onlyGivenNames y) | (with_reducible apply filterSources_kept) | (with_reducible apply keepRoutes_kept)
    | (with_reducible apply setD_kept) | (with_reducible refine kept_ite (fun _ => ?_) (fun _ => ?_))
    | (with_reducible refine kept_foldl (fun _ _ _ => ?_) ?_) | (with_reducible refine kept_foldl1 (fun _ _ _ => ?_) ?_)
    | (with_reducible refine kept_foldl2 (fun _ _ _ => ?_) ?_) | split | (clear_value *; split)
    | (with_reducible exact kept_mk (kept_of (by assumption))) | (with_reducible apply kept_mk; dsimp only)
    | (with_reducible apply kept_of) | (dsimp only) | (intro _) | (dsimp only [id])
    | (fail_if_no_progress with_reducible refine kept_mk (kept_of ?_)) | (dsimp +zetaDelta -zeta only))

theorem heddleEnd_kept (bat : NMap (List Int)) (inOk : Bool) (outOk : Bool) {s : State} (h : Kept q s) : Kept q (heddleEnd bat inOk
    outOk s) := by
  delta heddleEnd
  repeat' (first
    | (with_reducible assumption)
    | (extract_lets +onlyGivenNames y; refine kept_cut (a := y) ?_ ?_; (on_goal 2 => (intro hy; clear_value y)); subst y)
    | (extract_lets +onlyGivenNames y) | (with_reducible apply heddleStopped_kept) | (with_reducible apply bumpBy_kept)
    | (with_reducible apply putField_kept) | (with_reducible apply post_kept) | (with_reducible apply settleSteps_kept)
    | (with_reducible apply setD_kept) | (with_reducible refine kept_ite (fun _ => ?_) (fun _ => ?_))
    | (with_reducible refine kept_foldl (fun _ _ _ => ?_) ?_) | (with_reducible refine kept_foldl1 (fun _ _ _ => ?_) ?_)
    | (with_reducible refine kept_foldl2 (fun _ _ _ => ?_) ?_) | split | (clear_value *; split)
    | (with_reducible exact kept_mk (kept_of (by assumption))) | (with_reducible apply kept_mk; dsimp only)
    | (with_reducible apply kept_of) | (dsimp only) | (intro _) | (dsimp only [id])
    | (fail_if_no_progress with_reducible refine kept_mk (kept_of ?_)) | (dsimp +zetaDelta -zeta only))

theorem heddleHalt_kept {s : State} (h : Kept q s) : Kept q (heddleHalt s) := by
  delta heddleHalt
  repeat' (first
    | (with_reducible assumption) | (with_reducible apply settleSteps_kept) | (with_reducible apply setD_kept)
    | (with_reducible refine kept_ite (fun _ => ?_) (fun _ => ?_)) | split | (clear_value *; split)
    | (with_reducible exact kept_mk (kept_of (by assumption))) | (with_reducible apply kept_mk; dsimp only)
    | (with_reducible apply kept_of) | (dsimp only) | (intro _) | (dsimp only [id])
    | (fail_if_no_progress with_reducible refine kept_mk (kept_of ?_)) | (dsimp +zetaDelta -zeta only))

theorem heddleStart_kept {s : State} (h : Kept q s) : Kept q (heddleStart s) := by
  delta heddleStart
  repeat' (first
    | (with_reducible assumption) | (with_reducible apply setD_kept) | (with_reducible refine kept_ite (fun _ => ?_) (fun _ => ?_))
    | split | (clear_value *; split) | (with_reducible exact kept_mk (kept_of (by assumption)))
    | (with_reducible apply kept_mk; dsimp only) | (with_reducible apply kept_of) | (dsimp only) | (intro _) | (dsimp only [id])
    | (fail_if_no_progress with_reducible refine kept_mk (kept_of ?_)) | (dsimp +zetaDelta -zeta only))

end Sys2Proof.Machine
end

