-- ==== Sys2Proof/Laws/KeptFchOps.lean ====
section
/-!
SUPPORT. Sys2Proof/Laws/KeptFchOps.lean: the operations of Machine/FchOps.lean keep the queue and the invariant of Safety.lean.
-/
namespace Sys2Proof.Machine

set_option linter.all false

variable {q : List Instr}

theorem putFchIdle_kept (b : Option FchBank) {s : State} (h : Kept q s) : Kept q (putFchIdle b s) := by
  delta putFchIdle
  repeat' (first
    | (with_reducible assumption) | (with_reducible apply setF_kept) | (with_reducible refine kept_ite (fun _ => ?_) (fun _ => ?_))
    | split | (clear_value *; split) | (with_reducible exact kept_mk (kept_of (by assumption)))
    | (with_reducible apply kept_mk; dsimp only) | (with_reducible apply kept_of) | (dsimp only) | (intro _) | (dsimp only [id])
    | (fail_if_no_progress with_reducible refine kept_mk (kept_of ?_)) | (dsimp +zetaDelta -zeta only))

theorem fchSat_kept (n : Nat) (chan : Nat) {s : State} (h : Kept q s) : Kept q (fchSat n chan s) := by
  delta fchSat
  repeat' (first
    | (with_reducible assumption) | (with_reducible apply putField_kept) | (with_reducible apply bumpBy_kept)
    | (with_reducible apply setF_kept) | (with_reducible refine kept_ite (fun _ => ?_) (fun _ => ?_)) | split
    | (clear_value *; split) | (with_reducible exact kept_mk (kept_of (by assumption))) | (with_reducible apply kept_mk; dsimp only)
    | (with_reducible apply kept_of) | (dsimp only) | (intro _) | (dsimp only [id])
    | (fail_if_no_progress with_reducible refine kept_mk (kept_of ?_)) | (dsimp +zetaDelta -zeta only))

theorem rsPick_kept (p : Nat) (c : RsChan) {s : State} (h : Kept q s) : Kept q (rsPick p c s) := by
  delta rsPick
  repeat' (first
    | (with_reducible assumption)
    | (extract_lets +onlyGivenNames y; refine kept_cut (a := y) ?_ ?_; (on_goal 2 => (intro hy; clear_value y)); subst y)
    | (extract_lets +onlyGivenNames y) | (with_reducible apply setF_kept)
    | (with_reducible refine kept_ite (fun _ => ?_) (fun _ => ?_)) | split | (clear_value *; split)
    | (with_reducible exact kept_mk (kept_of (by assumption))) | (with_reducible apply kept_mk; dsimp only)
    | (with_reducible apply kept_of) | (dsimp only) | (intro _) | (dsimp only [id])
    | (fail_if_no_progress with_reducible refine kept_mk (kept_of ?_)) | (dsimp +zetaDelta -zeta only))

theorem countSats_kept (l : List (Nat × Nat × Nat)) {s : State} (h : Kept q s) : Kept q (countSats l s) := by
  delta countSats
  repeat' (first
    | (with_reducible assumption) | (with_reducible apply fchSat_kept) | (with_reducible refine kept_ite (fun _ => ?_) (fun _ => ?_))
    | (with_reducible refine kept_foldl (fun _ _ _ => ?_) ?_) | (with_reducible refine kept_foldl1 (fun _ _ _ => ?_) ?_)
    | (with_reducible refine kept_foldl2 (fun _ _ _ => ?_) ?_) | split | (clear_value *; split)
    | (with_reducible exact kept_mk (kept_of (by assumption))) | (with_reducible apply kept_mk; dsimp only)
    | (with_reducible apply kept_of) | (dsimp only) | (intro _) | (dsimp only [id])
    | (fail_if_no_progress with_reducible refine kept_mk (kept_of ?_)) | (dsimp +zetaDelta -zeta only))

theorem rsAll_kept {s : State} (h : Kept q s) : Kept q (rsAll s) := by
  delta rsAll
  repeat' (first
    | (with_reducible assumption)
    | (extract_lets +onlyGivenNames y; refine kept_cut (a := y) ?_ ?_; (on_goal 2 => (intro hy; clear_value y)); subst y)
    | (extract_lets +onlyGivenNames y) | (with_reducible apply rsPick_kept) | (with_reducible apply countSats_kept)
    | (with_reducible refine kept_ite (fun _ => ?_) (fun _ => ?_)) | (with_reducible refine kept_foldl (fun _ _ _ => ?_) ?_)
    | (with_reducible refine kept_foldl1 (fun _ _ _ => ?_) ?_) | (with_reducible refine kept_foldl2 (fun _ _ _ => ?_) ?_) | split
    | (clear_value *; split) | (with_reducible exact kept_mk (kept_of (by assumption))) | (with_reducible apply kept_mk; dsimp only)
    | (with_reducible apply kept_of) | (dsimp only) | (intro _) | (dsimp only [id])
    | (fail_if_no_progress with_reducible refine kept_mk (kept_of ?_)) | (dsimp +zetaDelta -zeta only))

theorem rsTakeInputs_kept {s : State} (h : Kept q s) : Kept q (rsTakeInputs s) := by
  delta rsTakeInputs
  repeat' (first
    | (with_reducible assumption) | (with_reducible apply setF_kept) | (with_reducible refine kept_ite (fun _ => ?_) (fun _ => ?_))
    | split | (clear_value *; split) | (with_reducible exact kept_mk (kept_of (by assumption)))
    | (with_reducible apply kept_mk; dsimp only) | (with_reducible apply kept_of) | (dsimp only) | (intro _) | (dsimp only [id])
    | (fail_if_no_progress with_reducible refine kept_mk (kept_of ?_)) | (dsimp +zetaDelta -zeta only))

theorem rsRedo_kept (k : Nat) {s : State} (h : Kept q s) : Kept q (rsRedo k s) := by
  delta rsRedo
  repeat' (first
    | (with_reducible assumption)
    | (extract_lets +onlyGivenNames y; refine kept_cut (a := y) ?_ ?_; (on_goal 2 => (intro hy; clear_value y)); subst y)
    | (extract_lets +onlyGivenNames y) | (with_reducible apply countSats_kept) | (with_reducible apply setF_kept)
    | (with_reducible refine kept_ite (fun _ => ?_) (fun _ => ?_)) | (with_reducible refine kept_foldl (fun _ _ _ => ?_) ?_)
    | (with_reducible refine kept_foldl1 (fun _ _ _ => ?_) ?_) | (with_reducible refine kept_foldl2 (fun _ _ _ => ?_) ?_) | split
    | (clear_value *; split) | (with_reducible exact kept_mk (kept_of (by assumption))) | (with_reducible apply kept_mk; dsimp only)
    | (with_reducible apply kept_of) | (dsimp only) | (intro _) | (dsimp only [id])
    | (fail_if_no_progress with_reducible refine kept_mk (kept_of ?_)) | (dsimp +zetaDelta -zeta only))

theorem fchReset_kept (r : Nat) (k : Nat) {s : State} (h : Kept q s) : Kept q (fchReset r k s) := by
  delta fchReset
  repeat' (first
    | (with_reducible assumption)
    | (extract_lets +onlyGivenNames y; refine kept_cut (a := y) ?_ ?_; (on_goal 2 => (intro hy; clear_value y)); subst y)
    | (extract_lets +onlyGivenNames y) | (with_reducible apply post_kept) | (with_reducible apply rsRedo_kept)
    | (with_reducible apply setF_kept) | (with_reducible refine kept_ite (fun _ => ?_) (fun _ => ?_))
    | (with_reducible refine kept_foldl (fun _ _ _ => ?_) ?_) | (with_reducible refine kept_foldl1 (fun _ _ _ => ?_) ?_)
    | (with_reducible refine kept_foldl2 (fun _ _ _ => ?_) ?_) | split | (clear_value *; split)
    | (with_reducible exact kept_mk (kept_of (by assumption))) | (with_reducible apply kept_mk; dsimp only)
    | (with_reducible apply kept_of) | (dsimp only) | (intro _) | (dsimp only [id])
    | (fail_if_no_progress with_reducible refine kept_mk (kept_of ?_)) | (dsimp +zetaDelta -zeta only))

theorem fchSwap_kept (k : Nat) (w : Waiter) {s : State} (h : Kept q s) : Kept q (fchSwap k w s) := by
  delta fchSwap
  repeat' (first
    | (with_reducible assumption)
    | (extract_lets +onlyGivenNames y; refine kept_cut (a := y) ?_ ?_; (on_goal 2 => (intro hy; clear_value y)); subst y)
    | (extract_lets +onlyGivenNames y) | (with_reducible apply post_kept) | (with_reducible apply rsRedo_kept)
    | (with_reducible apply complete_kept) | (with_reducible apply setF_kept)
    | (with_reducible refine kept_ite (fun _ => ?_) (fun _ => ?_)) | split | (clear_value *; split)
    | (with_reducible exact kept_mk (kept_of (by assumption))) | (with_reducible apply kept_mk; dsimp only)
    | (with_reducible apply kept_of) | (dsimp only) | (intro _) | (dsimp only [id])
    | (fail_if_no_progress with_reducible refine kept_mk (kept_of ?_)) | (dsimp +zetaDelta -zeta only))

theorem fchDue_kept (k : Nat) {s : State} (h : Kept q s) : Kept q (fchDue k s) := by
  delta fchDue
  repeat' (first
    | (with_reducible assumption)
    | (extract_lets +onlyGivenNames y; refine kept_cut (a := y) ?_ ?_; (on_goal 2 => (intro hy; clear_value y)); subst y)
    | (extract_lets +onlyGivenNames y) | (with_reducible apply fchSwap_kept) | (with_reducible apply fchReset_kept)
    | (with_reducible apply setF_kept) | (with_reducible refine kept_ite (fun _ => ?_) (fun _ => ?_))
    | (with_reducible refine kept_foldl (fun _ _ _ => ?_) ?_) | (with_reducible refine kept_foldl1 (fun _ _ _ => ?_) ?_)
    | (with_reducible refine kept_foldl2 (fun _ _ _ => ?_) ?_) | split | (clear_value *; split)
    | (with_reducible exact kept_mk (kept_of (by assumption))) | (with_reducible apply kept_mk; dsimp only)
    | (with_reducible apply kept_of) | (dsimp only) | (intro _) | (dsimp only [id])
    | (fail_if_no_progress with_reducible refine kept_mk (kept_of ?_)) | (dsimp +zetaDelta -zeta only))

theorem fchOutput_kept (k : Nat) (bits : List Nat) (sw : Int) {s : State} (m : Nat) (h : Kept q s) : Kept q (fchOutput k bits sw s m)
    := by
  delta fchOutput
  repeat' (first
    | (with_reducible assumption)
    | (extract_lets +onlyGivenNames y; refine kept_cut (a := y) ?_ ?_; (on_goal 2 => (intro hy; clear_value y)); subst y)
    | (extract_lets +onlyGivenNames y) | (with_reducible apply fchSat_kept) | (with_reducible apply setF_kept)
    | (with_reducible apply setD_kept) | (with_reducible refine kept_ite (fun _ => ?_) (fun _ => ?_)) | split
    | (clear_value *; split) | (with_reducible exact kept_mk (kept_of (by assumption))) | (with_reducible apply kept_mk; dsimp only)
    | (with_reducible apply kept_of) | (dsimp only) | (intro _) | (dsimp only [id])
    | (fail_if_no_progress with_reducible refine kept_mk (kept_of ?_)) | (dsimp +zetaDelta -zeta only))

theorem fchSample_kept (bits : List Nat) {s : State} (h : Kept q s) : Kept q (fchSample bits s) := by
  delta fchSample
  repeat' (first
    | (with_reducible assumption)
    | (extract_lets +onlyGivenNames y; refine kept_cut (a := y) ?_ ?_; (on_goal 2 => (intro hy; clear_value y)); subst y)
    | (extract_lets +onlyGivenNames y) | (with_reducible apply fchDue_kept) | (with_reducible apply fchOutput_kept)
    | (with_reducible apply setF_kept) | (with_reducible refine kept_ite (fun _ => ?_) (fun _ => ?_))
    | (with_reducible refine kept_foldl (fun _ _ _ => ?_) ?_) | (with_reducible refine kept_foldl1 (fun _ _ _ => ?_) ?_)
    | (with_reducible refine kept_foldl2 (fun _ _ _ => ?_) ?_) | split | (clear_value *; split)
    | (with_reducible exact kept_mk (kept_of (by assumption))) | (with_reducible apply kept_mk; dsimp only)
    | (with_reducible apply kept_of) | (dsimp only) | (intro _) | (dsimp only [id])
    | (fail_if_no_progress with_reducible refine kept_mk (kept_of ?_)) | (dsimp +zetaDelta -zeta only))

theorem fchCatch_kept {s : State} (h : Kept q s) : Kept q (fchCatch s) := by
  delta fchCatch
  repeat' (first
    | (with_reducible assumption) | (with_reducible apply fchSample_kept)
    | (with_reducible refine kept_ite (fun _ => ?_) (fun _ => ?_)) | (with_reducible refine kept_upto (fun _ _ _ => ?_) ?_) | split
    | (clear_value *; split) | (with_reducible exact kept_mk (kept_of (by assumption))) | (with_reducible apply kept_mk; dsimp only)
    | (with_reducible apply kept_of) | (dsimp only) | (intro _) | (dsimp only [id])
    | (fail_if_no_progress with_reducible refine kept_mk (kept_of ?_)) | (dsimp +zetaDelta -zeta only))

theorem fchBlock_kept (pdm : List (List Nat)) {s : State} (h : Kept q s) : Kept q (fchBlock pdm s) := by
  delta fchBlock
  repeat' (first
    | (with_reducible assumption) | (with_reducible apply fchSample_kept) | (with_reducible apply fchCatch_kept)
    | (with_reducible refine kept_ite (fun _ => ?_) (fun _ => ?_)) | (with_reducible refine kept_foldl (fun _ _ _ => ?_) ?_)
    | (with_reducible refine kept_foldl1 (fun _ _ _ => ?_) ?_) | (with_reducible refine kept_foldl2 (fun _ _ _ => ?_) ?_) | split
    | (clear_value *; split) | (with_reducible exact kept_mk (kept_of (by assumption))) | (with_reducible apply kept_mk; dsimp only)
    | (with_reducible apply kept_of) | (dsimp only) | (intro _) | (dsimp only [id])
    | (fail_if_no_progress with_reducible refine kept_mk (kept_of ?_)) | (dsimp +zetaDelta -zeta only))

theorem fchFinish_kept {s : State} (h : Kept q s) : Kept q (fchFinish s) := by
  delta fchFinish
  repeat' (first
    | (with_reducible assumption) | (with_reducible apply rsAll_kept) | (with_reducible apply fchCatch_kept)
    | (with_reducible refine kept_ite (fun _ => ?_) (fun _ => ?_)) | split | (clear_value *; split)
    | (with_reducible exact kept_mk (kept_of (by assumption))) | (with_reducible apply kept_mk; dsimp only)
    | (with_reducible apply kept_of) | (dsimp only) | (intro _) | (dsimp only [id])
    | (fail_if_no_progress with_reducible refine kept_mk (kept_of ?_)) | (dsimp +zetaDelta -zeta only))

theorem fchPass_kept {s : State} (h : Kept q s) : Kept q (fchPass s) := by
  delta fchPass
  repeat' (first
    | (with_reducible assumption)
    | (extract_lets +onlyGivenNames y; refine kept_cut (a := y) ?_ ?_; (on_goal 2 => (intro hy; clear_value y)); subst y)
    | (extract_lets +onlyGivenNames y; refine kept_cut2 (p := y) ?_ ?_; (on_goal 2 => (intro hy; clear_value y)); subst y)
    | (extract_lets +onlyGivenNames y) | (with_reducible apply fchDue_kept) | (with_reducible apply draw_kept)
    | (with_reducible apply setF_kept) | (with_reducible refine kept_ite (fun _ => ?_) (fun _ => ?_))
    | (with_reducible refine kept_foldl (fun _ _ _ => ?_) ?_) | (with_reducible refine kept_foldl1 (fun _ _ _ => ?_) ?_)
    | (with_reducible refine kept_foldl2 (fun _ _ _ => ?_) ?_) | (refine kept_snd (by assumption) ?_) | split
    | (clear_value *; split) | (with_reducible exact kept_mk (kept_of (by assumption))) | (with_reducible apply kept_mk; dsimp only)
    | (with_reducible apply kept_of) | (dsimp only) | (intro _) | (dsimp only [id])
    | (fail_if_no_progress with_reducible refine kept_mk (kept_of ?_)) | (dsimp +zetaDelta -zeta only))

theorem fchRepeat_kept {s : State} (h : Kept q s) : Kept q (fchRepeat s) := by
  delta fchRepeat
  repeat' (first
    | (with_reducible assumption)
    | (extract_lets +onlyGivenNames y; refine kept_cut (a := y) ?_ ?_; (on_goal 2 => (intro hy; clear_value y)); subst y)
    | (extract_lets +onlyGivenNames y) | (with_reducible apply fchPass_kept) | (with_reducible apply setD_kept)
    | (with_reducible apply setF_kept) | (with_reducible refine kept_ite (fun _ => ?_) (fun _ => ?_))
    | (with_reducible refine kept_foldl (fun _ _ _ => ?_) ?_) | (with_reducible refine kept_foldl1 (fun _ _ _ => ?_) ?_)
    | (with_reducible refine kept_foldl2 (fun _ _ _ => ?_) ?_) | (with_reducible refine kept_upto (fun _ _ _ => ?_) ?_) | split
    | (clear_value *; split) | (with_reducible exact kept_mk (kept_of (by assumption))) | (with_reducible apply kept_mk; dsimp only)
    | (with_reducible apply kept_of) | (dsimp only) | (intro _) | (dsimp only [id])
    | (fail_if_no_progress with_reducible refine kept_mk (kept_of ?_)) | (dsimp +zetaDelta -zeta only))

theorem fchStart_kept {s : State} (h : Kept q s) : Kept q (fchStart s) := by
  delta fchStart
  repeat' (first
    | (with_reducible assumption) | (with_reducible apply setF_kept) | (with_reducible refine kept_ite (fun _ => ?_) (fun _ => ?_))
    | (with_reducible refine kept_foldl (fun _ _ _ => ?_) ?_) | (with_reducible refine kept_foldl1 (fun _ _ _ => ?_) ?_)
    | (with_reducible refine kept_foldl2 (fun _ _ _ => ?_) ?_) | split | (clear_value *; split)
    | (with_reducible exact kept_mk (kept_of (by assumption))) | (with_reducible apply kept_mk; dsimp only)
    | (with_reducible apply kept_of) | (dsimp only) | (intro _) | (dsimp only [id])
    | (fail_if_no_progress with_reducible refine kept_mk (kept_of ?_)) | (dsimp +zetaDelta -zeta only))

theorem fchSnapshot_kept {s : State} (h : Kept q s) : Kept q (fchSnapshot s) := by
  delta fchSnapshot
  repeat' (first
    | (with_reducible assumption)
    | (extract_lets +onlyGivenNames y; refine kept_cut (a := y) ?_ ?_; (on_goal 2 => (intro hy; clear_value y)); subst y)
    | (extract_lets +onlyGivenNames y) | (with_reducible apply setReg_kept) | (with_reducible apply putField_kept)
    | (with_reducible apply setF_kept) | (with_reducible refine kept_ite (fun _ => ?_) (fun _ => ?_))
    | (with_reducible refine kept_foldl (fun _ _ _ => ?_) ?_) | (with_reducible refine kept_foldl1 (fun _ _ _ => ?_) ?_)
    | (with_reducible refine kept_foldl2 (fun _ _ _ => ?_) ?_) | split | (clear_value *; split)
    | (with_reducible exact kept_mk (kept_of (by assumption))) | (with_reducible apply kept_mk; dsimp only)
    | (with_reducible apply kept_of) | (dsimp only) | (intro _) | (dsimp only [id])
    | (fail_if_no_progress with_reducible refine kept_mk (kept_of ?_)) | (dsimp +zetaDelta -zeta only))

end Sys2Proof.Machine
end

