-- ==== Sys2Proof/Laws/KeptHostIf.lean ====
section
/-!
SUPPORT. Sys2Proof/Laws/KeptHostIf.lean: the operations of Machine/HostIf.lean keep the queue and the invariant of Safety.lean.
-/
namespace Sys2Proof.Machine

set_option linter.all false

variable {q : List Instr}

theorem answer_kept (m : Nat) (v : Word) {s : State} (h : Kept q s) : Kept q (answer m v s) := by
  delta answer
  repeat' (first
    | (with_reducible assumption) | (with_reducible refine setH_kept rfl rfl rfl rfl ?_)
    | (with_reducible refine kept_ite (fun _ => ?_) (fun _ => ?_)) | split | (clear_value *; split)
    | (with_reducible exact kept_mk (kept_of (by assumption))) | (with_reducible apply kept_mk; dsimp only)
    | (with_reducible apply kept_of) | (dsimp only) | (intro _) | (dsimp only [id])
    | (fail_if_no_progress with_reducible refine kept_mk (kept_of ?_)) | (dsimp +zetaDelta -zeta only))

theorem hostCompletes_kept (k : CplKind) {s : State} (h : Kept q s) : Kept q (hostCompletes k s) := by
  delta hostCompletes
  repeat' (first
    | (with_reducible assumption) | (with_reducible refine setH_kept rfl rfl rfl rfl ?_)
    | (with_reducible refine kept_ite (fun _ => ?_) (fun _ => ?_)) | split | (clear_value *; split)
    | (with_reducible exact kept_mk (kept_of (by assumption))) | (with_reducible apply kept_mk; dsimp only)
    | (with_reducible apply kept_of) | (dsimp only) | (intro _) | (dsimp only [id])
    | (fail_if_no_progress with_reducible refine kept_mk (kept_of ?_)) | (dsimp +zetaDelta -zeta only))

theorem sysNopBody_kept (x1 : HostCmd) (x2 : Waiter) {s : State} (h : Kept q s) : Kept q (sysNopBody x1 x2 s) := by
  delta sysNopBody
  repeat' (first
    | (with_reducible assumption) | (with_reducible apply complete_kept)
    | (with_reducible refine kept_ite (fun _ => ?_) (fun _ => ?_)) | split | (clear_value *; split)
    | (with_reducible exact kept_mk (kept_of (by assumption))) | (with_reducible apply kept_mk; dsimp only)
    | (with_reducible apply kept_of) | (dsimp only) | (intro _) | (dsimp only [id])
    | (fail_if_no_progress with_reducible refine kept_mk (kept_of ?_)) | (dsimp +zetaDelta -zeta only))

theorem execSysNop_kept (c : HostCmd) {s : State} {t' : State} (e : execSysNop c s = .next t') (h : Kept q s) : Kept q t' := by
  cases e
  repeat' (first
    | (with_reducible assumption) | (with_reducible apply hostCommand_kept) | (with_reducible apply sysNopBody_kept)
    | (with_reducible refine kept_ite (fun _ => ?_) (fun _ => ?_)) | split | (clear_value *; split)
    | (with_reducible exact kept_mk (kept_of (by assumption))) | (with_reducible apply kept_mk; dsimp only)
    | (with_reducible apply kept_of) | (dsimp only) | (intro _) | (dsimp only [id])
    | (fail_if_no_progress with_reducible refine kept_mk (kept_of ?_)) | (dsimp +zetaDelta -zeta only))

theorem sysInfoBody_kept (x1 : HostCmd) (x2 : Waiter) {s : State} (h : Kept q s) : Kept q (sysInfoBody x1 x2 s) := by
  delta sysInfoBody
  repeat' (first
    | (with_reducible assumption) | (with_reducible apply complete_kept) | (with_reducible apply writeHost_kept)
    | (with_reducible refine kept_ite (fun _ => ?_) (fun _ => ?_)) | split | (clear_value *; split)
    | (with_reducible exact kept_mk (kept_of (by assumption))) | (with_reducible apply kept_mk; dsimp only)
    | (with_reducible apply kept_of) | (dsimp only) | (intro _) | (dsimp only [id])
    | (fail_if_no_progress with_reducible refine kept_mk (kept_of ?_)) | (dsimp +zetaDelta -zeta only))

theorem execSysInfo_kept (c : HostCmd) {s : State} {t' : State} (e : execSysInfo c s = .next t') (h : Kept q s) : Kept q t' := by
  cases e
  repeat' (first
    | (with_reducible assumption) | (with_reducible apply hostCommand_kept) | (with_reducible apply sysInfoBody_kept)
    | (with_reducible refine kept_ite (fun _ => ?_) (fun _ => ?_)) | split | (clear_value *; split)
    | (with_reducible exact kept_mk (kept_of (by assumption))) | (with_reducible apply kept_mk; dsimp only)
    | (with_reducible apply kept_of) | (dsimp only) | (intro _) | (dsimp only [id])
    | (fail_if_no_progress with_reducible refine kept_mk (kept_of ?_)) | (dsimp +zetaDelta -zeta only))

theorem execCommandReservedOpcode_kept (c : HostCmd) (opcode : Nat) {s : State} {t' : State} (e : execCommandReservedOpcode c opcode s
    = .next t') (h : Kept q s) : Kept q t' := by
  cases e
  repeat' (first
    | (with_reducible assumption) | (with_reducible apply hostCommand_kept) | (with_reducible apply complete_kept)
    | (with_reducible apply advance_kept) | (with_reducible refine kept_ite (fun _ => ?_) (fun _ => ?_)) | split
    | (clear_value *; split) | (with_reducible exact kept_mk (kept_of (by assumption))) | (with_reducible apply kept_mk; dsimp only)
    | (with_reducible apply kept_of) | (dsimp only) | (intro _) | (dsimp only [id])
    | (fail_if_no_progress with_reducible refine kept_mk (kept_of ?_)) | (dsimp +zetaDelta -zeta only))

theorem setMbox_kept {k : Nat} {l : List DWord} {s : State} (g : l.length ≤ 4) (h : Kept q s) : Kept q (setMbox k l s) := by
  refine ⟨h.1, h.2.1, h.2.2.1, h.2.2.2.1, fun j => ?_, h.2.2.2.2.2⟩
  rw [show (setMbox k l s).h.mbx = nset s.h.mbx k l from rfl, nget_nset]
  split
  · exact g
  · exact h.2.2.2.2.1 j

theorem mbox_le {s : State} (h : Kept q s) (k : Nat) : (s.mbox k).length ≤ 4 := h.2.2.2.2.1 k

theorem mailboxReject_kept (k : Nat) {s : State} (h : Kept q s) : Kept q (mailboxReject k s) := by
  delta mailboxReject
  repeat' (first
    | (with_reducible assumption) | (with_reducible apply post_kept) | (with_reducible apply signal_kept)
    | (with_reducible apply bump_kept) | (with_reducible apply putField_kept)
    | (with_reducible refine kept_ite (fun _ => ?_) (fun _ => ?_)) | split | (clear_value *; split)
    | (with_reducible exact kept_mk (kept_of (by assumption))) | (with_reducible apply kept_mk; dsimp only)
    | (with_reducible apply kept_of) | (dsimp only) | (intro _) | (dsimp only [id])
    | (fail_if_no_progress with_reducible refine kept_mk (kept_of ?_)) | (dsimp +zetaDelta -zeta only))

theorem mbxDataWrite_kept (m k : Nat) (hi : Bool) (v : Word) {s : State} (h : Kept q s) : Kept q (mbxDataWrite m k hi v s) := by
  delta mbxDataWrite
  refine kept_ite (fun _ => h) (fun _ => kept_ite (fun _ => ?_) (fun _ => setH_kept rfl rfl rfl rfl h))
  split
  · exact h
  · rename_i lo e
    extract_lets +onlyGivenNames u
    have hu : Kept q u := setH_kept rfl rfl rfl rfl h
    clear_value u
    refine kept_ite (fun g => setMbox_kept ?_ hu) (fun _ => mailboxReject_kept _ hu)
    rw [List.length_append, List.length_singleton]
    omega

theorem execMbxDataWrite_kept (t : Nat) (k : Nat) (hi : Bool) (v : Word) {s : State} {t' : State} (e : execMbxDataWrite t k hi v s =
    .next t') (h : Kept q s) : Kept q t' := by
  cases e
  repeat' (first
    | (with_reducible assumption) | (with_reducible apply mbxDataWrite_kept) | (with_reducible apply advance_kept)
    | (with_reducible refine kept_ite (fun _ => ?_) (fun _ => ?_)) | split | (clear_value *; split)
    | (with_reducible exact kept_mk (kept_of (by assumption))) | (with_reducible apply kept_mk; dsimp only)
    | (with_reducible apply kept_of) | (dsimp only) | (intro _) | (dsimp only [id])
    | (fail_if_no_progress with_reducible refine kept_mk (kept_of ?_)) | (dsimp +zetaDelta -zeta only))

theorem sendNotice_kept (k : Nat) (n : DWord) {s : State} (h : Kept q s) : Kept q (sendNotice k n s) := by
  delta sendNotice
  refine kept_ite (fun g => ?_) (fun _ => setH_kept rfl rfl rfl rfl h)
  extract_lets +onlyGivenNames u
  have hu : Kept q u := setMbox_kept (by rw [List.length_append, List.length_singleton]; omega) h
  clear_value u
  exact kept_ite (fun _ => signal_kept _ hu) (fun _ => hu)

theorem admitWaiting_kept (k : Nat) {s : State} (g : (s.mbox k).length < 4) (h : Kept q s) : Kept q (admitWaiting k s) := by
  delta admitWaiting
  dsimp only
  split
  · have hu : ∀ x : DWord, Kept q (setMbox k (s.mbox k ++ [x]) (setH (fun h => { h with mbxWait := h.mbxWait.erase (k, x) }) s)) :=
      fun x => setMbox_kept (by rw [List.length_append, List.length_singleton]; omega) (setH_kept rfl rfl rfl rfl h)
    rename_i x e
    have hv : Kept q (setMbox k ((setH (fun h => { h with mbxWait := h.mbxWait.erase x }) s).mbox k ++ [x.2])
        (setH (fun h => { h with mbxWait := h.mbxWait.erase x }) s)) :=
      setMbox_kept (by rw [List.length_append, List.length_singleton]; exact g) (setH_kept rfl rfl rfl rfl h)
    exact kept_ite (fun _ => signal_kept _ hv) (fun _ => hv)
  · exact h

theorem mbxDataRead_kept (m k : Nat) (hi : Bool) {s : State} (h : Kept q s) : Kept q (mbxDataRead m k hi s) := by
  delta mbxDataRead
  refine kept_ite (fun _ => answer_kept _ _ h) (fun _ => ?_)
  split
  · exact answer_kept _ _ (setH_kept rfl rfl rfl rfl h)
  · exact answer_kept _ _ (setH_kept rfl rfl rfl rfl h)
  · rename_i n r e
    split
    · exact answer_kept _ _ h
    · have hl := mbox_le h k
      rw [e, List.length_cons] at hl
      refine answer_kept _ _ (admitWaiting_kept k ?_ (setMbox_kept (by omega) (setH_kept rfl rfl rfl rfl h)))
      rw [show ∀ u : State, (setMbox k r u).mbox k = nget [] (nset u.h.mbx k r) k from fun _ => rfl, nget_nset, if_pos rfl]
      omega

theorem execMbxDataRead_kept (t : Nat) (k : Nat) (hi : Bool) {s : State} {t' : State} (e : execMbxDataRead t k hi s = .next t') (h :
    Kept q s) : Kept q t' := by
  cases e
  repeat' (first
    | (with_reducible assumption) | (with_reducible apply mbxDataRead_kept) | (with_reducible apply advance_kept)
    | (with_reducible refine kept_ite (fun _ => ?_) (fun _ => ?_)) | split | (clear_value *; split)
    | (with_reducible exact kept_mk (kept_of (by assumption))) | (with_reducible apply kept_mk; dsimp only)
    | (with_reducible apply kept_of) | (dsimp only) | (intro _) | (dsimp only [id])
    | (fail_if_no_progress with_reducible refine kept_mk (kept_of ?_)) | (dsimp +zetaDelta -zeta only))

theorem hostNotice_kept (k : Nat) (msg : List Byte) {s : State} (h : Kept q s) : Kept q (hostNotice k msg s) := by
  delta hostNotice
  split
  · exact h
  · rename_i n r e
    have hl := mbox_le h k
    rw [e, List.length_cons] at hl
    refine kept_ite (fun _ => h) (fun _ => ?_)
    extract_lets +onlyGivenNames u
    have hu : Kept q u := setMbox_kept (by omega) h
    clear_value u
    refine kept_ite (fun _ => post_kept _ _ _ hu) (fun _ => ?_)
    extract_lets svc len
    exact kept_ite (fun _ => setH_kept rfl rfl rfl rfl hu)
      (fun _ => kept_ite (fun _ => sendNotice_kept _ _ hu) (fun _ => post_kept _ _ _ hu))

theorem execHostNoticeService_kept (t : Nat) (k : Nat) (msg : List Byte) {s : State} {t' : State} (e : execHostNoticeService t k msg s
    = .next t') (h : Kept q s) : Kept q t' := by
  cases e
  repeat' (first
    | (with_reducible assumption) | (with_reducible apply hostNotice_kept) | (with_reducible apply advance_kept)
    | (with_reducible refine kept_ite (fun _ => ?_) (fun _ => ?_)) | split | (clear_value *; split)
    | (with_reducible exact kept_mk (kept_of (by assumption))) | (with_reducible apply kept_mk; dsimp only)
    | (with_reducible apply kept_of) | (dsimp only) | (intro _) | (dsimp only [id])
    | (fail_if_no_progress with_reducible refine kept_mk (kept_of ?_)) | (dsimp +zetaDelta -zeta only))

theorem badAccess_kept (off : Nat) (width : Nat) {s : State} (h : Kept q s) : Kept q (badAccess off width s) := by
  delta badAccess
  repeat' (first
    | (with_reducible assumption) | (with_reducible apply signal_kept) | (with_reducible apply bump_kept)
    | (with_reducible apply hostCompletes_kept) | (with_reducible refine kept_ite (fun _ => ?_) (fun _ => ?_)) | split
    | (clear_value *; split) | (with_reducible exact kept_mk (kept_of (by assumption))) | (with_reducible apply kept_mk; dsimp only)
    | (with_reducible apply kept_of) | (dsimp only) | (intro _) | (dsimp only [id])
    | (fail_if_no_progress with_reducible refine kept_mk (kept_of ?_)) | (dsimp +zetaDelta -zeta only))

theorem execBar0BadAccess_kept (t : Nat) (off : Nat) (width : Nat) {s : State} {t' : State} (e : execBar0BadAccess t off width s =
    .next t') (h : Kept q s) : Kept q t' := by
  cases e
  repeat' (first
    | (with_reducible assumption) | (with_reducible apply badAccess_kept) | (with_reducible apply advance_kept)
    | (with_reducible refine kept_ite (fun _ => ?_) (fun _ => ?_)) | split | (clear_value *; split)
    | (with_reducible exact kept_mk (kept_of (by assumption))) | (with_reducible apply kept_mk; dsimp only)
    | (with_reducible apply kept_of) | (dsimp only) | (intro _) | (dsimp only [id])
    | (fail_if_no_progress with_reducible refine kept_mk (kept_of ?_)) | (dsimp +zetaDelta -zeta only))

theorem execD3hotEntry_kept (t : Nat) {s : State} {t' : State} (e : execD3hotEntry t s = .next t') (h : Kept q s) : Kept q t' := by
  cases e
  repeat' (first
    | (with_reducible assumption) | (with_reducible apply advance_kept) | (with_reducible refine setH_kept rfl rfl rfl rfl ?_)
    | (with_reducible refine kept_ite (fun _ => ?_) (fun _ => ?_)) | split | (clear_value *; split)
    | (with_reducible exact kept_mk (kept_of (by assumption))) | (with_reducible apply kept_mk; dsimp only)
    | (with_reducible apply kept_of) | (dsimp only) | (intro _) | (dsimp only [id])
    | (fail_if_no_progress with_reducible refine kept_mk (kept_of ?_)) | (dsimp +zetaDelta -zeta only))

theorem linkReturn_kept (width : Nat) (speed : Nat) {s : State} (h : Kept q s) : Kept q (linkReturn width speed s) := by
  delta linkReturn
  repeat' (first
    | (with_reducible assumption)
    | (extract_lets +onlyGivenNames y; refine kept_cut (a := y) ?_ ?_; (on_goal 2 => (intro hy; clear_value y)); subst y)
    | (extract_lets +onlyGivenNames y) | (with_reducible apply post_kept) | (with_reducible refine setH_kept rfl rfl rfl rfl ?_)
    | (with_reducible refine kept_ite (fun _ => ?_) (fun _ => ?_)) | split | (clear_value *; split)
    | (with_reducible exact kept_mk (kept_of (by assumption))) | (with_reducible apply kept_mk; dsimp only)
    | (with_reducible apply kept_of) | (dsimp only) | (intro _) | (dsimp only [id])
    | (fail_if_no_progress with_reducible refine kept_mk (kept_of ?_)) | (dsimp +zetaDelta -zeta only))

theorem execPcieLinkReturn_kept (t : Nat) (width : Nat) (speed : Nat) {s : State} {t' : State} (e : execPcieLinkReturn t width speed s
    = .next t') (h : Kept q s) : Kept q t' := by
  cases e
  repeat' (first
    | (with_reducible assumption) | (with_reducible apply linkReturn_kept) | (with_reducible apply advance_kept)
    | (with_reducible refine kept_ite (fun _ => ?_) (fun _ => ?_)) | split | (clear_value *; split)
    | (with_reducible exact kept_mk (kept_of (by assumption))) | (with_reducible apply kept_mk; dsimp only)
    | (with_reducible apply kept_of) | (dsimp only) | (intro _) | (dsimp only [id])
    | (fail_if_no_progress with_reducible refine kept_mk (kept_of ?_)) | (dsimp +zetaDelta -zeta only))

theorem cplTimer_kept {s : State} (h : Kept q s) : Kept q (cplTimer s) := by
  delta cplTimer
  repeat' (first
    | (with_reducible assumption)
    | (extract_lets +onlyGivenNames y; refine kept_cut (a := y) ?_ ?_; (on_goal 2 => (intro hy; clear_value y)); subst y)
    | (extract_lets +onlyGivenNames y) | (with_reducible apply signal_kept) | (with_reducible refine setH_kept rfl rfl rfl rfl ?_)
    | (with_reducible refine kept_ite (fun _ => ?_) (fun _ => ?_)) | split | (clear_value *; split)
    | (with_reducible exact kept_mk (kept_of (by assumption))) | (with_reducible apply kept_mk; dsimp only)
    | (with_reducible apply kept_of) | (dsimp only) | (intro _) | (dsimp only [id])
    | (fail_if_no_progress with_reducible refine kept_mk (kept_of ?_)) | (dsimp +zetaDelta -zeta only))

theorem execCplIrqTimer_kept (t : Nat) {s : State} {t' : State} (e : execCplIrqTimer t s = .next t') (h : Kept q s) : Kept q t' := by
  cases e
  repeat' (first
    | (with_reducible assumption) | (with_reducible apply cplTimer_kept) | (with_reducible apply advance_kept)
    | (with_reducible refine kept_ite (fun _ => ?_) (fun _ => ?_)) | split | (clear_value *; split)
    | (with_reducible exact kept_mk (kept_of (by assumption))) | (with_reducible apply kept_mk; dsimp only)
    | (with_reducible apply kept_of) | (dsimp only) | (intro _) | (dsimp only [id])
    | (fail_if_no_progress with_reducible refine kept_mk (kept_of ?_)) | (dsimp +zetaDelta -zeta only))

theorem wdogExpiry_kept {s : State} (h : Kept q s) : Kept q (wdogExpiry s) := by
  delta wdogExpiry
  repeat' (first
    | (with_reducible assumption)
    | (extract_lets +onlyGivenNames y; refine kept_cut (a := y) ?_ ?_; (on_goal 2 => (intro hy; clear_value y)); subst y)
    | (extract_lets +onlyGivenNames y) | (with_reducible apply post_kept) | (with_reducible apply signal_kept)
    | (with_reducible refine setH_kept rfl rfl rfl rfl ?_) | (with_reducible refine kept_ite (fun _ => ?_) (fun _ => ?_)) | split
    | (clear_value *; split) | (with_reducible exact kept_mk (kept_of (by assumption))) | (with_reducible apply kept_mk; dsimp only)
    | (with_reducible apply kept_of) | (dsimp only) | (intro _) | (dsimp only [id])
    | (fail_if_no_progress with_reducible refine kept_mk (kept_of ?_)) | (dsimp +zetaDelta -zeta only))

theorem execHostWdogExpiry_kept (t : Nat) {s : State} {t' : State} (e : execHostWdogExpiry t s = .next t') (h : Kept q s) : Kept q t'
    := by
  cases e
  repeat' (first
    | (with_reducible assumption) | (with_reducible apply wdogExpiry_kept) | (with_reducible apply advance_kept)
    | (with_reducible refine kept_ite (fun _ => ?_) (fun _ => ?_)) | split | (clear_value *; split)
    | (with_reducible exact kept_mk (kept_of (by assumption))) | (with_reducible apply kept_mk; dsimp only)
    | (with_reducible apply kept_of) | (dsimp only) | (intro _) | (dsimp only [id])
    | (fail_if_no_progress with_reducible refine kept_mk (kept_of ?_)) | (dsimp +zetaDelta -zeta only))

end Sys2Proof.Machine
end

