-- ==== Sys2Proof/Laws/KeptFabricOps.lean ====
section
/-!
SUPPORT. Sys2Proof/Laws/KeptFabricOps.lean: the operations of Machine/FabricOps.lean keep the queue and the invariant of Safety.lean.
-/
namespace Sys2Proof.Machine

set_option linter.all false

variable {q : List Instr}

theorem putBattenWord_kept (o : Nat) (w : Nat) {s : State} (h : Kept q s) : Kept q (putBattenWord o w s) := by
  delta putBattenWord
  repeat' (first
    | (with_reducible assumption)
    | (extract_lets +onlyGivenNames y; refine kept_cut (a := y) ?_ ?_; (on_goal 2 => (intro hy; clear_value y)); subst y)
    | (extract_lets +onlyGivenNames y) | (with_reducible apply putPcore_kept)
    | (with_reducible refine kept_ite (fun _ => ?_) (fun _ => ?_)) | split | (clear_value *; split)
    | (with_reducible exact kept_mk (kept_of (by assumption))) | (with_reducible apply kept_mk; dsimp only)
    | (with_reducible apply kept_of) | (dsimp only) | (intro _) | (dsimp only [id])
    | (fail_if_no_progress with_reducible refine kept_mk (kept_of ?_)) | (dsimp +zetaDelta -zeta only))

theorem putHostByte_kept (a : Nat) (b : Byte) {s : State} (h : Kept q s) :
    Kept q (setH (fun h => { h with mem := memWrite h.mem a b }) s) :=
  ⟨h.1, wf_memWrite a b h.2.1, h.2.2⟩

theorem putOnChipByte_kept (a : Nat) (b : Byte) {s : State} (h : Kept q s) : Kept q (putOnChipByte a b s) := by
  delta putOnChipByte
  split
  · exact h
  · repeat' (first
      | (with_reducible assumption) | (with_reducible refine kept_ite (fun _ => ?_) (fun _ => ?_))
      | (extract_lets +onlyGivenNames y) | (with_reducible apply setG_kept) | (with_reducible apply putHostByte_kept)
      | (with_reducible apply putBattenWord_kept))

theorem putOnChip_kept (a : Nat) (bytes : List (Bool × Byte)) {s : State} (h : Kept q s) : Kept q (putOnChip a bytes s) := by
  delta putOnChip
  repeat' (first
    | (with_reducible assumption)
    | (extract_lets +onlyGivenNames y; refine kept_cut (a := y) ?_ ?_; (on_goal 2 => (intro hy; clear_value y)); subst y)
    | (extract_lets +onlyGivenNames y) | (with_reducible apply putOnChipByte_kept) | (with_reducible apply wordWritten_kept)
    | (with_reducible refine kept_ite (fun _ => ?_) (fun _ => ?_)) | (with_reducible refine kept_foldl (fun _ _ _ => ?_) ?_)
    | (with_reducible refine kept_foldl1 (fun _ _ _ => ?_) ?_) | (with_reducible refine kept_foldl2 (fun _ _ _ => ?_) ?_) | split
    | (clear_value *; split) | (with_reducible exact kept_mk (kept_of (by assumption))) | (with_reducible apply kept_mk; dsimp only)
    | (with_reducible apply kept_of) | (dsimp only) | (intro _) | (dsimp only [id])
    | (fail_if_no_progress with_reducible refine kept_mk (kept_of ?_)) | (dsimp +zetaDelta -zeta only))

theorem writeOnChip_kept (a : Nat) (bytes : List Byte) {s : State} (h : Kept q s) : Kept q (writeOnChip a bytes s) := by
  delta writeOnChip
  repeat' (first
    | (with_reducible assumption) | (with_reducible apply putOnChip_kept)
    | (with_reducible refine kept_ite (fun _ => ?_) (fun _ => ?_)) | split | (clear_value *; split)
    | (with_reducible exact kept_mk (kept_of (by assumption))) | (with_reducible apply kept_mk; dsimp only)
    | (with_reducible apply kept_of) | (dsimp only) | (intro _) | (dsimp only [id])
    | (fail_if_no_progress with_reducible refine kept_mk (kept_of ?_)) | (dsimp +zetaDelta -zeta only))

theorem busErrorBy_kept (code : Nat) (m : Nat) (target : Nat) (off : Nat) (args : List Byte) {s : State} (h : Kept q s) : Kept q
    (busErrorBy code m target off args s) := by
  delta busErrorBy
  repeat' (first
    | (with_reducible assumption)
    | (extract_lets +onlyGivenNames y; refine kept_cut (a := y) ?_ ?_; (on_goal 2 => (intro hy; clear_value y)); subst y)
    | (extract_lets +onlyGivenNames y) | (with_reducible apply putField_kept) | (with_reducible apply bump_kept)
    | (with_reducible apply answer_kept) | (with_reducible apply post_kept) | (with_reducible apply setReg_kept)
    | (with_reducible refine kept_ite (fun _ => ?_) (fun _ => ?_)) | split | (clear_value *; split)
    | (with_reducible exact kept_mk (kept_of (by assumption))) | (with_reducible apply kept_mk; dsimp only)
    | (with_reducible apply kept_of) | (dsimp only) | (intro _) | (dsimp only [id])
    | (fail_if_no_progress with_reducible refine kept_mk (kept_of ?_)) | (dsimp +zetaDelta -zeta only))

theorem busError_kept (m : Nat) (target : Nat) (off : Nat) {s : State} (h : Kept q s) : Kept q (busError m target off s) := by
  delta busError
  repeat' (first
    | (with_reducible assumption) | (with_reducible apply busErrorBy_kept)
    | (with_reducible refine kept_ite (fun _ => ?_) (fun _ => ?_)) | split | (clear_value *; split)
    | (with_reducible exact kept_mk (kept_of (by assumption))) | (with_reducible apply kept_mk; dsimp only)
    | (with_reducible apply kept_of) | (dsimp only) | (intro _) | (dsimp only [id])
    | (fail_if_no_progress with_reducible refine kept_mk (kept_of ?_)) | (dsimp +zetaDelta -zeta only))

theorem semRead_kept (m : Nat) (k : Nat) {s : State} (h : Kept q s) : Kept q (semRead m k s) := by
  delta semRead
  repeat' (first
    | (with_reducible assumption) | (with_reducible apply busError_kept) | (with_reducible apply answer_kept)
    | (with_reducible apply setG_kept) | (with_reducible refine kept_ite (fun _ => ?_) (fun _ => ?_)) | split
    | (clear_value *; split) | (with_reducible exact kept_mk (kept_of (by assumption))) | (with_reducible apply kept_mk; dsimp only)
    | (with_reducible apply kept_of) | (dsimp only) | (intro _) | (dsimp only [id])
    | (fail_if_no_progress with_reducible refine kept_mk (kept_of ?_)) | (dsimp +zetaDelta -zeta only))

theorem semWrite_kept (m : Nat) (k : Nat) (v : Word) {s : State} (h : Kept q s) : Kept q (semWrite m k v s) := by
  delta semWrite
  repeat' (first
    | (with_reducible assumption) | (with_reducible apply busError_kept) | (with_reducible apply post_kept)
    | (with_reducible apply bump_kept) | (with_reducible apply setG_kept)
    | (with_reducible refine kept_ite (fun _ => ?_) (fun _ => ?_)) | split | (clear_value *; split)
    | (with_reducible exact kept_mk (kept_of (by assumption))) | (with_reducible apply kept_mk; dsimp only)
    | (with_reducible apply kept_of) | (dsimp only) | (intro _) | (dsimp only [id])
    | (fail_if_no_progress with_reducible refine kept_mk (kept_of ?_)) | (dsimp +zetaDelta -zeta only))

theorem releaseLocks_kept (m : Nat) {s : State} (h : Kept q s) : Kept q (releaseLocks m s) := by
  delta releaseLocks
  repeat' (first
    | (with_reducible assumption) | (with_reducible apply post_kept) | (with_reducible apply bump_kept)
    | (with_reducible apply setG_kept) | (with_reducible refine kept_ite (fun _ => ?_) (fun _ => ?_))
    | (with_reducible refine kept_foldl (fun _ _ _ => ?_) ?_) | (with_reducible refine kept_foldl1 (fun _ _ _ => ?_) ?_)
    | (with_reducible refine kept_foldl2 (fun _ _ _ => ?_) ?_) | split | (clear_value *; split)
    | (with_reducible exact kept_mk (kept_of (by assumption))) | (with_reducible apply kept_mk; dsimp only)
    | (with_reducible apply kept_of) | (dsimp only) | (intro _) | (dsimp only [id])
    | (fail_if_no_progress with_reducible refine kept_mk (kept_of ?_)) | (dsimp +zetaDelta -zeta only))

theorem setOc_kept (k : Nat) (l : List (Nat × DWord)) {s : State} (h : Kept q s) : Kept q (setOc k l s) := by
  delta setOc
  repeat' (first
    | (with_reducible assumption) | (with_reducible apply setG_kept) | (with_reducible refine kept_ite (fun _ => ?_) (fun _ => ?_))
    | split | (clear_value *; split) | (with_reducible exact kept_mk (kept_of (by assumption)))
    | (with_reducible apply kept_mk; dsimp only) | (with_reducible apply kept_of) | (dsimp only) | (intro _) | (dsimp only [id])
    | (fail_if_no_progress with_reducible refine kept_mk (kept_of ?_)) | (dsimp +zetaDelta -zeta only))

theorem ungate_kept (k : Nat) {s : State} (h : Kept q s) : Kept q (ungate k s) := by
  delta ungate
  repeat' (first
    | (with_reducible assumption) | (with_reducible apply setG_kept) | (with_reducible refine kept_ite (fun _ => ?_) (fun _ => ?_))
    | split | (clear_value *; split) | (with_reducible exact kept_mk (kept_of (by assumption)))
    | (with_reducible apply kept_mk; dsimp only) | (with_reducible apply kept_of) | (dsimp only) | (intro _) | (dsimp only [id])
    | (fail_if_no_progress with_reducible refine kept_mk (kept_of ?_)) | (dsimp +zetaDelta -zeta only))

theorem wakeReceiver_kept (k : Nat) {s : State} (h : Kept q s) : Kept q (wakeReceiver k s) := by
  delta wakeReceiver
  repeat' (first
    | (with_reducible assumption) | (with_reducible apply post_kept) | (with_reducible apply bump_kept)
    | (with_reducible apply ungate_kept) | (with_reducible refine kept_ite (fun _ => ?_) (fun _ => ?_)) | split
    | (clear_value *; split) | (with_reducible exact kept_mk (kept_of (by assumption))) | (with_reducible apply kept_mk; dsimp only)
    | (with_reducible apply kept_of) | (dsimp only) | (intro _) | (dsimp only [id])
    | (fail_if_no_progress with_reducible refine kept_mk (kept_of ?_)) | (dsimp +zetaDelta -zeta only))

theorem ocPost_kept (m : Nat) (k : Nat) (v : DWord) {s : State} (h : Kept q s) : Kept q (ocPost m k v s) := by
  delta ocPost
  repeat' (first
    | (with_reducible assumption)
    | (extract_lets +onlyGivenNames y; refine kept_cut (a := y) ?_ ?_; (on_goal 2 => (intro hy; clear_value y)); subst y)
    | (extract_lets +onlyGivenNames y) | (with_reducible apply busError_kept) | (with_reducible apply wakeReceiver_kept)
    | (with_reducible apply setOc_kept) | (with_reducible apply post_kept) | (with_reducible apply bump_kept)
    | (with_reducible apply setG_kept) | (with_reducible refine kept_ite (fun _ => ?_) (fun _ => ?_)) | split
    | (clear_value *; split) | (with_reducible exact kept_mk (kept_of (by assumption))) | (with_reducible apply kept_mk; dsimp only)
    | (with_reducible apply kept_of) | (dsimp only) | (intro _) | (dsimp only [id])
    | (fail_if_no_progress with_reducible refine kept_mk (kept_of ?_)) | (dsimp +zetaDelta -zeta only))

theorem ocRead_kept (m : Nat) (k : Nat) {s : State} (h : Kept q s) : Kept q (ocRead m k s) := by
  delta ocRead
  repeat' (first
    | (with_reducible assumption)
    | (extract_lets +onlyGivenNames y; refine kept_cut (a := y) ?_ ?_; (on_goal 2 => (intro hy; clear_value y)); subst y)
    | (extract_lets +onlyGivenNames y) | (with_reducible apply busError_kept) | (with_reducible apply answer_kept)
    | (with_reducible apply setOc_kept) | (with_reducible refine kept_ite (fun _ => ?_) (fun _ => ?_)) | split
    | (clear_value *; split) | (with_reducible exact kept_mk (kept_of (by assumption))) | (with_reducible apply kept_mk; dsimp only)
    | (with_reducible apply kept_of) | (dsimp only) | (intro _) | (dsimp only [id])
    | (fail_if_no_progress with_reducible refine kept_mk (kept_of ?_)) | (dsimp +zetaDelta -zeta only))

theorem deliverLatch_kept {s : State} (h : Kept q s) : Kept q (deliverLatch s) := by
  delta deliverLatch
  repeat' (first
    | (with_reducible assumption) | (with_reducible apply ocPost_kept) | (with_reducible apply setG_kept)
    | (with_reducible refine kept_ite (fun _ => ?_) (fun _ => ?_)) | split | (clear_value *; split)
    | (with_reducible exact kept_mk (kept_of (by assumption))) | (with_reducible apply kept_mk; dsimp only)
    | (with_reducible apply kept_of) | (dsimp only) | (intro _) | (dsimp only [id])
    | (fail_if_no_progress with_reducible refine kept_mk (kept_of ?_)) | (dsimp +zetaDelta -zeta only))

theorem clearBox_kept (k : Nat) {s : State} (h : Kept q s) : Kept q (clearBox k s) := by
  delta clearBox
  repeat' (first
    | (with_reducible assumption)
    | (extract_lets +onlyGivenNames y; refine kept_cut (a := y) ?_ ?_; (on_goal 2 => (intro hy; clear_value y)); subst y)
    | (extract_lets +onlyGivenNames y) | (with_reducible apply wakeReceiver_kept) | (with_reducible apply setOc_kept)
    | (with_reducible apply bump_kept) | (with_reducible apply post_kept)
    | (with_reducible refine kept_ite (fun _ => ?_) (fun _ => ?_)) | (with_reducible refine kept_foldl (fun _ _ _ => ?_) ?_)
    | (with_reducible refine kept_foldl1 (fun _ _ _ => ?_) ?_) | (with_reducible refine kept_foldl2 (fun _ _ _ => ?_) ?_) | split
    | (clear_value *; split) | (with_reducible exact kept_mk (kept_of (by assumption))) | (with_reducible apply kept_mk; dsimp only)
    | (with_reducible apply kept_of) | (dsimp only) | (intro _) | (dsimp only [id])
    | (fail_if_no_progress with_reducible refine kept_mk (kept_of ?_)) | (dsimp +zetaDelta -zeta only))

theorem clearReceiver_kept (m : Nat) {s : State} (h : Kept q s) : Kept q (clearReceiver m s) := by
  delta clearReceiver
  repeat' (first
    | (with_reducible assumption) | (with_reducible apply clearBox_kept)
    | (with_reducible refine kept_ite (fun _ => ?_) (fun _ => ?_)) | (with_reducible refine kept_foldl (fun _ _ _ => ?_) ?_)
    | (with_reducible refine kept_foldl1 (fun _ _ _ => ?_) ?_) | (with_reducible refine kept_foldl2 (fun _ _ _ => ?_) ?_) | split
    | (clear_value *; split) | (with_reducible exact kept_mk (kept_of (by assumption))) | (with_reducible apply kept_mk; dsimp only)
    | (with_reducible apply kept_of) | (dsimp only) | (intro _) | (dsimp only [id])
    | (fail_if_no_progress with_reducible refine kept_mk (kept_of ?_)) | (dsimp +zetaDelta -zeta only))

theorem nextEpoch_kept (m : Nat) {s : State} (h : Kept q s) : Kept q (nextEpoch m s) := by
  delta nextEpoch
  repeat' (first
    | (with_reducible assumption) | (with_reducible apply setG_kept) | (with_reducible refine kept_ite (fun _ => ?_) (fun _ => ?_))
    | split | (clear_value *; split) | (with_reducible exact kept_mk (kept_of (by assumption)))
    | (with_reducible apply kept_mk; dsimp only) | (with_reducible apply kept_of) | (dsimp only) | (intro _) | (dsimp only [id])
    | (fail_if_no_progress with_reducible refine kept_mk (kept_of ?_)) | (dsimp +zetaDelta -zeta only))

theorem setBob_kept (c : Nat) (x : BobCh) {s : State} (h : Kept q s) : Kept q (setBob c x s) := by
  delta setBob
  repeat' (first
    | (with_reducible assumption) | (with_reducible apply setG_kept) | (with_reducible refine kept_ite (fun _ => ?_) (fun _ => ?_))
    | split | (clear_value *; split) | (with_reducible exact kept_mk (kept_of (by assumption)))
    | (with_reducible apply kept_mk; dsimp only) | (with_reducible apply kept_of) | (dsimp only) | (intro _) | (dsimp only [id])
    | (fail_if_no_progress with_reducible refine kept_mk (kept_of ?_)) | (dsimp +zetaDelta -zeta only))

theorem bobFetch_kept (c : Nat) (off : Nat) {s : State} (h : Kept q s) : Kept q (bobFetch c off s) := by
  delta bobFetch
  repeat' (first
    | (with_reducible assumption)
    | (extract_lets +onlyGivenNames y; refine kept_cut (a := y) ?_ ?_; (on_goal 2 => (intro hy; clear_value y)); subst y)
    | (extract_lets +onlyGivenNames y) | (with_reducible apply setBob_kept) | (with_reducible apply post_kept)
    | (with_reducible apply bump_kept) | (with_reducible refine kept_ite (fun _ => ?_) (fun _ => ?_)) | split
    | (clear_value *; split) | (with_reducible exact kept_mk (kept_of (by assumption))) | (with_reducible apply kept_mk; dsimp only)
    | (with_reducible apply kept_of) | (dsimp only) | (intro _) | (dsimp only [id])
    | (fail_if_no_progress with_reducible refine kept_mk (kept_of ?_)) | (dsimp +zetaDelta -zeta only))

theorem bobStart_kept (c : Nat) {s : State} (h : Kept q s) : Kept q (bobStart c s) := by
  delta bobStart
  repeat' (first
    | (with_reducible assumption)
    | (extract_lets +onlyGivenNames y; refine kept_cut (a := y) ?_ ?_; (on_goal 2 => (intro hy; clear_value y)); subst y)
    | (extract_lets +onlyGivenNames y) | (with_reducible apply bobFetch_kept)
    | (with_reducible refine kept_ite (fun _ => ?_) (fun _ => ?_)) | split | (clear_value *; split)
    | (with_reducible exact kept_mk (kept_of (by assumption))) | (with_reducible apply kept_mk; dsimp only)
    | (with_reducible apply kept_of) | (dsimp only) | (intro _) | (dsimp only [id])
    | (fail_if_no_progress with_reducible refine kept_mk (kept_of ?_)) | (dsimp +zetaDelta -zeta only))

theorem bobReread_kept (c : Nat) {s : State} (h : Kept q s) : Kept q (bobReread c s) := by
  delta bobReread
  repeat' (first
    | (with_reducible assumption)
    | (extract_lets +onlyGivenNames y; refine kept_cut (a := y) ?_ ?_; (on_goal 2 => (intro hy; clear_value y)); subst y)
    | (extract_lets +onlyGivenNames y) | (with_reducible apply bobFetch_kept)
    | (with_reducible refine kept_ite (fun _ => ?_) (fun _ => ?_)) | split | (clear_value *; split)
    | (with_reducible exact kept_mk (kept_of (by assumption))) | (with_reducible apply kept_mk; dsimp only)
    | (with_reducible apply kept_of) | (dsimp only) | (intro _) | (dsimp only [id])
    | (fail_if_no_progress with_reducible refine kept_mk (kept_of ?_)) | (dsimp +zetaDelta -zeta only))

theorem bobPark_kept (c : Nat) {s : State} (h : Kept q s) : Kept q (bobPark c s) := by
  delta bobPark
  repeat' (first
    | (with_reducible assumption)
    | (extract_lets +onlyGivenNames y; refine kept_cut (a := y) ?_ ?_; (on_goal 2 => (intro hy; clear_value y)); subst y)
    | (extract_lets +onlyGivenNames y) | (with_reducible apply setBob_kept) | (with_reducible apply bobStart_kept)
    | (with_reducible apply bobReread_kept) | (with_reducible refine kept_ite (fun _ => ?_) (fun _ => ?_))
    | (with_reducible refine kept_foldl (fun _ _ _ => ?_) ?_) | (with_reducible refine kept_foldl1 (fun _ _ _ => ?_) ?_)
    | (with_reducible refine kept_foldl2 (fun _ _ _ => ?_) ?_) | split | (clear_value *; split)
    | (with_reducible exact kept_mk (kept_of (by assumption))) | (with_reducible apply kept_mk; dsimp only)
    | (with_reducible apply kept_of) | (dsimp only) | (intro _) | (dsimp only [id])
    | (fail_if_no_progress with_reducible refine kept_mk (kept_of ?_)) | (dsimp +zetaDelta -zeta only))

theorem bobFollow_kept (c : Nat) {s : State} (h : Kept q s) : Kept q (bobFollow c s) := by
  delta bobFollow
  repeat' (first
    | (with_reducible assumption)
    | (extract_lets +onlyGivenNames y; refine kept_cut (a := y) ?_ ?_; (on_goal 2 => (intro hy; clear_value y)); subst y)
    | (extract_lets +onlyGivenNames y) | (with_reducible apply bobPark_kept) | (with_reducible apply bobFetch_kept)
    | (with_reducible refine kept_ite (fun _ => ?_) (fun _ => ?_)) | split | (clear_value *; split)
    | (with_reducible exact kept_mk (kept_of (by assumption))) | (with_reducible apply kept_mk; dsimp only)
    | (with_reducible apply kept_of) | (dsimp only) | (intro _) | (dsimp only [id])
    | (fail_if_no_progress with_reducible refine kept_mk (kept_of ?_)) | (dsimp +zetaDelta -zeta only))

theorem bobRing_kept (m : Nat) (c : Nat) {s : State} (h : Kept q s) : Kept q (bobRing m c s) := by
  delta bobRing
  repeat' (first
    | (with_reducible assumption)
    | (extract_lets +onlyGivenNames y; refine kept_cut (a := y) ?_ ?_; (on_goal 2 => (intro hy; clear_value y)); subst y)
    | (extract_lets +onlyGivenNames y) | (with_reducible apply bump_kept) | (with_reducible apply setBob_kept)
    | (with_reducible apply bobReread_kept) | (with_reducible apply bobStart_kept)
    | (with_reducible refine kept_ite (fun _ => ?_) (fun _ => ?_)) | split | (clear_value *; split)
    | (with_reducible exact kept_mk (kept_of (by assumption))) | (with_reducible apply kept_mk; dsimp only)
    | (with_reducible apply kept_of) | (dsimp only) | (intro _) | (dsimp only [id])
    | (fail_if_no_progress with_reducible refine kept_mk (kept_of ?_)) | (dsimp +zetaDelta -zeta only))

theorem bobConfig_kept (c : Nat) (cfg : Word) (head : Word) {s : State} (h : Kept q s) : Kept q (bobConfig c cfg head s) := by
  delta bobConfig
  repeat' (first
    | (with_reducible assumption)
    | (extract_lets +onlyGivenNames y; refine kept_cut (a := y) ?_ ?_; (on_goal 2 => (intro hy; clear_value y)); subst y)
    | (extract_lets +onlyGivenNames y) | (with_reducible apply setBob_kept)
    | (with_reducible refine kept_ite (fun _ => ?_) (fun _ => ?_)) | split | (clear_value *; split)
    | (with_reducible exact kept_mk (kept_of (by assumption))) | (with_reducible apply kept_mk; dsimp only)
    | (with_reducible apply kept_of) | (dsimp only) | (intro _) | (dsimp only [id])
    | (fail_if_no_progress with_reducible refine kept_mk (kept_of ?_)) | (dsimp +zetaDelta -zeta only))

theorem bobPickMark_kept {s : State} (h : Kept q s) : Kept q (bobPickMark s) := by
  delta bobPickMark
  repeat' (first
    | (with_reducible assumption) | (with_reducible apply bobStart_kept)
    | (with_reducible refine kept_ite (fun _ => ?_) (fun _ => ?_)) | (with_reducible refine kept_foldl (fun _ _ _ => ?_) ?_)
    | (with_reducible refine kept_foldl1 (fun _ _ _ => ?_) ?_) | (with_reducible refine kept_foldl2 (fun _ _ _ => ?_) ?_) | split
    | (clear_value *; split) | (with_reducible exact kept_mk (kept_of (by assumption))) | (with_reducible apply kept_mk; dsimp only)
    | (with_reducible apply kept_of) | (dsimp only) | (intro _) | (dsimp only [id])
    | (fail_if_no_progress with_reducible refine kept_mk (kept_of ?_)) | (dsimp +zetaDelta -zeta only))

theorem setLevel_kept (l : Nat) (x : Level) {s : State} (h : Kept q s) : Kept q (setLevel l x s) := by
  delta setLevel
  repeat' (first
    | (with_reducible assumption) | (with_reducible apply setG_kept) | (with_reducible refine kept_ite (fun _ => ?_) (fun _ => ?_))
    | split | (clear_value *; split) | (with_reducible exact kept_mk (kept_of (by assumption)))
    | (with_reducible apply kept_mk; dsimp only) | (with_reducible apply kept_of) | (dsimp only) | (intro _) | (dsimp only [id])
    | (fail_if_no_progress with_reducible refine kept_mk (kept_of ?_)) | (dsimp +zetaDelta -zeta only))

theorem setFlow_kept (f : Nat) (x : Flow) {s : State} (h : Kept q s) : Kept q (setFlow f x s) := by
  delta setFlow
  repeat' (first
    | (with_reducible assumption) | (with_reducible apply setG_kept) | (with_reducible refine kept_ite (fun _ => ?_) (fun _ => ?_))
    | split | (clear_value *; split) | (with_reducible exact kept_mk (kept_of (by assumption)))
    | (with_reducible apply kept_mk; dsimp only) | (with_reducible apply kept_of) | (dsimp only) | (intro _) | (dsimp only [id])
    | (fail_if_no_progress with_reducible refine kept_mk (kept_of ?_)) | (dsimp +zetaDelta -zeta only))

theorem setExec_kept (e : Nat) (x : Executor) {s : State} (h : Kept q s) : Kept q (setExec e x s) := by
  delta setExec
  repeat' (first
    | (with_reducible assumption) | (with_reducible apply setG_kept) | (with_reducible refine kept_ite (fun _ => ?_) (fun _ => ?_))
    | split | (clear_value *; split) | (with_reducible exact kept_mk (kept_of (by assumption)))
    | (with_reducible apply kept_mk; dsimp only) | (with_reducible apply kept_of) | (dsimp only) | (intro _) | (dsimp only [id])
    | (fail_if_no_progress with_reducible refine kept_mk (kept_of ?_)) | (dsimp +zetaDelta -zeta only))

theorem trace_kept (kind : Nat) (slot : Nat) (ex : Nat) (lvl : Nat) (flow : Option (Nat × Nat)) {s : State} (h : Kept q s) : Kept q
    (trace kind slot ex lvl flow s) := by
  delta trace
  repeat' (first
    | (with_reducible assumption)
    | (extract_lets +onlyGivenNames y; refine kept_cut (a := y) ?_ ?_; (on_goal 2 => (intro hy; clear_value y)); subst y)
    | (extract_lets +onlyGivenNames y) | (with_reducible apply pushEntry_kept) | (with_reducible apply writeIndex_kept)
    | (with_reducible apply signal_kept) | (with_reducible apply bump_kept)
    | (with_reducible refine kept_ite (fun _ => ?_) (fun _ => ?_)) | split | (clear_value *; split)
    | (with_reducible exact kept_mk (kept_of (by assumption))) | (with_reducible apply kept_mk; dsimp only)
    | (with_reducible apply kept_of) | (dsimp only) | (intro _) | (dsimp only [id])
    | (fail_if_no_progress with_reducible refine kept_mk (kept_of ?_)) | (dsimp +zetaDelta -zeta only))

theorem enterLevel_kept (l : Nat) (p : Thread) {s : State} (h : Kept q s) : Kept q (enterLevel l p s) := by
  delta enterLevel
  repeat' (first
    | (with_reducible assumption)
    | (extract_lets +onlyGivenNames y; refine kept_cut (a := y) ?_ ?_; (on_goal 2 => (intro hy; clear_value y)); subst y)
    | (extract_lets +onlyGivenNames y) | (with_reducible apply trace_kept) | (with_reducible apply setLevel_kept)
    | (with_reducible apply bump_kept) | (with_reducible apply post_kept)
    | (with_reducible refine kept_ite (fun _ => ?_) (fun _ => ?_)) | split | (clear_value *; split)
    | (with_reducible exact kept_mk (kept_of (by assumption))) | (with_reducible apply kept_mk; dsimp only)
    | (with_reducible apply kept_of) | (dsimp only) | (intro _) | (dsimp only [id])
    | (fail_if_no_progress with_reducible refine kept_mk (kept_of ?_)) | (dsimp +zetaDelta -zeta only))

theorem refill_kept (l : Nat) {s : State} (h : Kept q s) : Kept q (refill l s) := by
  delta refill
  repeat' (first
    | (with_reducible assumption)
    | (extract_lets +onlyGivenNames y; refine kept_cut (a := y) ?_ ?_; (on_goal 2 => (intro hy; clear_value y)); subst y)
    | (extract_lets +onlyGivenNames y) | (with_reducible apply trace_kept) | (with_reducible apply setLevel_kept)
    | (with_reducible apply bump_kept) | (with_reducible apply post_kept)
    | (with_reducible refine kept_ite (fun _ => ?_) (fun _ => ?_)) | split | (clear_value *; split)
    | (with_reducible exact kept_mk (kept_of (by assumption))) | (with_reducible apply kept_mk; dsimp only)
    | (with_reducible apply kept_of) | (dsimp only) | (intro _) | (dsimp only [id])
    | (fail_if_no_progress with_reducible refine kept_mk (kept_of ?_)) | (dsimp +zetaDelta -zeta only))

theorem dispatchTo_kept (e : Nat) (l : Nat) (p : Thread) {s : State} (h : Kept q s) : Kept q (dispatchTo e l p s) := by
  delta dispatchTo
  repeat' (first
    | (with_reducible assumption)
    | (extract_lets +onlyGivenNames y; refine kept_cut (a := y) ?_ ?_; (on_goal 2 => (intro hy; clear_value y)); subst y)
    | (extract_lets +onlyGivenNames y) | (with_reducible apply setLevel_kept) | (with_reducible apply setFlow_kept)
    | (with_reducible apply setExec_kept) | (with_reducible apply ungate_kept) | (with_reducible apply refill_kept)
    | (with_reducible apply trace_kept) | (with_reducible apply bump_kept) | (with_reducible apply setG_kept)
    | (with_reducible refine kept_ite (fun _ => ?_) (fun _ => ?_)) | split | (clear_value *; split)
    | (with_reducible exact kept_mk (kept_of (by assumption))) | (with_reducible apply kept_mk; dsimp only)
    | (with_reducible apply kept_of) | (dsimp only) | (intro _) | (dsimp only [id])
    | (fail_if_no_progress with_reducible refine kept_mk (kept_of ?_)) | (dsimp +zetaDelta -zeta only))

theorem dispatchAll_kept (x1 : Nat) {s : State} (h : Kept q s) : Kept q (dispatchAll x1 s) := by
  induction x1 generalizing s with
  | zero => exact h
  | succ n ih =>
    rw [dispatchAll]
    repeat' (first
      | (with_reducible assumption) | (with_reducible apply ih)
      | (extract_lets +onlyGivenNames y; refine kept_cut (a := y) ?_ ?_; (on_goal 2 => (intro hy; clear_value y)); subst y)
      | (extract_lets +onlyGivenNames y; refine kept_cut2 (p := y) ?_ ?_; (on_goal 2 => (intro hy; clear_value y)); subst y)
      | (extract_lets +onlyGivenNames y) | (with_reducible apply draw_kept) | (with_reducible apply dispatchTo_kept)
      | (with_reducible refine kept_ite (fun _ => ?_) (fun _ => ?_)) | (refine kept_snd (by assumption) ?_) | split
      | (clear_value *; split) | (with_reducible exact kept_mk (kept_of (by assumption)))
      | (with_reducible apply kept_mk; dsimp only) | (with_reducible apply kept_of) | (dsimp only) | (intro _) | (dsimp only [id])
      | (fail_if_no_progress with_reducible refine kept_mk (kept_of ?_)) | (dsimp +zetaDelta -zeta only))

theorem preemptFor_kept (mp : Bool) {s : State} (h : Kept q s) : Kept q (preemptFor mp s) := by
  delta preemptFor
  repeat' (first
    | (with_reducible assumption)
    | (extract_lets +onlyGivenNames y; refine kept_cut (a := y) ?_ ?_; (on_goal 2 => (intro hy; clear_value y)); subst y)
    | (extract_lets +onlyGivenNames y) | (with_reducible apply trace_kept) | (with_reducible apply setExec_kept)
    | (with_reducible refine kept_ite (fun _ => ?_) (fun _ => ?_)) | (with_reducible refine kept_foldl (fun _ _ _ => ?_) ?_)
    | (with_reducible refine kept_foldl1 (fun _ _ _ => ?_) ?_) | (with_reducible refine kept_foldl2 (fun _ _ _ => ?_) ?_) | split
    | (clear_value *; split) | (with_reducible exact kept_mk (kept_of (by assumption))) | (with_reducible apply kept_mk; dsimp only)
    | (with_reducible apply kept_of) | (dsimp only) | (intro _) | (dsimp only [id])
    | (fail_if_no_progress with_reducible refine kept_mk (kept_of ?_)) | (dsimp +zetaDelta -zeta only))

theorem shuttleDecide_kept {s : State} (h : Kept q s) : Kept q (shuttleDecide s) := by
  delta shuttleDecide
  repeat' (first
    | (with_reducible assumption) | (with_reducible apply preemptFor_kept) | (with_reducible apply dispatchAll_kept)
    | (with_reducible refine kept_ite (fun _ => ?_) (fun _ => ?_)) | split | (clear_value *; split)
    | (with_reducible exact kept_mk (kept_of (by assumption))) | (with_reducible apply kept_mk; dsimp only)
    | (with_reducible apply kept_of) | (dsimp only) | (intro _) | (dsimp only [id])
    | (fail_if_no_progress with_reducible refine kept_mk (kept_of ?_)) | (dsimp +zetaDelta -zeta only))

theorem shuttlePost_kept (slot : Nat) (level : Nat) (mp : Bool) (flow : Option Nat) (arg : Nat) {s : State} (h : Kept q s) : Kept q
    (shuttlePost slot level mp flow arg s) := by
  delta shuttlePost
  repeat' (first
    | (with_reducible assumption)
    | (extract_lets +onlyGivenNames y; refine kept_cut (a := y) ?_ ?_; (on_goal 2 => (intro hy; clear_value y)); subst y)
    | (extract_lets +onlyGivenNames y) | (with_reducible apply setFlow_kept) | (with_reducible apply shuttleDecide_kept)
    | (with_reducible apply enterLevel_kept) | (with_reducible apply setG_kept)
    | (with_reducible refine kept_ite (fun _ => ?_) (fun _ => ?_)) | split | (clear_value *; split)
    | (with_reducible exact kept_mk (kept_of (by assumption))) | (with_reducible apply kept_mk; dsimp only)
    | (with_reducible apply kept_of) | (dsimp only) | (intro _) | (dsimp only [id])
    | (fail_if_no_progress with_reducible refine kept_mk (kept_of ?_)) | (dsimp +zetaDelta -zeta only))

theorem releaseFlow_kept (f : Nat) (x1 : Nat) {s : State} (h : Kept q s) : Kept q (releaseFlow f x1 s) := by
  induction x1 generalizing s with
  | zero => exact h
  | succ n ih =>
    rw [releaseFlow]
    repeat' (first
      | (with_reducible assumption) | (with_reducible apply ih)
      | (extract_lets +onlyGivenNames y; refine kept_cut (a := y) ?_ ?_; (on_goal 2 => (intro hy; clear_value y)); subst y)
      | (extract_lets +onlyGivenNames y) | (with_reducible apply setFlow_kept) | (with_reducible apply trace_kept)
      | (with_reducible refine kept_ite (fun _ => ?_) (fun _ => ?_)) | split | (clear_value *; split)
      | (with_reducible exact kept_mk (kept_of (by assumption))) | (with_reducible apply kept_mk; dsimp only)
      | (with_reducible apply kept_of) | (dsimp only) | (intro _) | (dsimp only [id])
      | (fail_if_no_progress with_reducible refine kept_mk (kept_of ?_)) | (dsimp +zetaDelta -zeta only))

theorem flowEnd_kept (f : Nat) (q0 : Nat) (who : Option (Nat × Nat)) {s : State} (h : Kept q s) : Kept q (flowEnd f q0 who s) := by
  delta flowEnd
  repeat' (first
    | (with_reducible assumption) | (with_reducible apply releaseFlow_kept) | (with_reducible apply setFlow_kept)
    | (with_reducible refine kept_ite (fun _ => ?_) (fun _ => ?_)) | split | (clear_value *; split)
    | (with_reducible exact kept_mk (kept_of (by assumption))) | (with_reducible apply kept_mk; dsimp only)
    | (with_reducible apply kept_of) | (dsimp only) | (intro _) | (dsimp only [id])
    | (fail_if_no_progress with_reducible refine kept_mk (kept_of ?_)) | (dsimp +zetaDelta -zeta only))

theorem flowTake_kept (f : Nat) {s : State} (h : Kept q s) : Kept q (flowTake f s) := by
  delta flowTake
  repeat' (first
    | (with_reducible assumption)
    | (extract_lets +onlyGivenNames y; refine kept_cut (a := y) ?_ ?_; (on_goal 2 => (intro hy; clear_value y)); subst y)
    | (extract_lets +onlyGivenNames y) | (with_reducible apply setFlow_kept)
    | (with_reducible refine kept_ite (fun _ => ?_) (fun _ => ?_)) | split | (clear_value *; split)
    | (with_reducible exact kept_mk (kept_of (by assumption))) | (with_reducible apply kept_mk; dsimp only)
    | (with_reducible apply kept_of) | (dsimp only) | (intro _) | (dsimp only [id])
    | (fail_if_no_progress with_reducible refine kept_mk (kept_of ?_)) | (dsimp +zetaDelta -zeta only))

theorem threadEnd_kept (e : Nat) {s : State} (h : Kept q s) : Kept q (threadEnd e s) := by
  delta threadEnd
  repeat' (first
    | (with_reducible assumption)
    | (extract_lets +onlyGivenNames y; refine kept_cut (a := y) ?_ ?_; (on_goal 2 => (intro hy; clear_value y)); subst y)
    | (extract_lets +onlyGivenNames y) | (with_reducible apply setExec_kept) | (with_reducible apply trace_kept)
    | (with_reducible apply flowEnd_kept) | (with_reducible apply shuttleDecide_kept) | (with_reducible apply setG_kept)
    | (with_reducible refine kept_ite (fun _ => ?_) (fun _ => ?_)) | split | (clear_value *; split)
    | (with_reducible exact kept_mk (kept_of (by assumption))) | (with_reducible apply kept_mk; dsimp only)
    | (with_reducible apply kept_of) | (dsimp only) | (intro _) | (dsimp only [id])
    | (fail_if_no_progress with_reducible refine kept_mk (kept_of ?_)) | (dsimp +zetaDelta -zeta only))

theorem preemptPoint_kept (e : Nat) {s : State} (h : Kept q s) : Kept q (preemptPoint e s) := by
  delta preemptPoint
  repeat' (first
    | (with_reducible assumption)
    | (extract_lets +onlyGivenNames y; refine kept_cut (a := y) ?_ ?_; (on_goal 2 => (intro hy; clear_value y)); subst y)
    | (extract_lets +onlyGivenNames y) | (with_reducible apply shuttleDecide_kept) | (with_reducible apply setLevel_kept)
    | (with_reducible apply setExec_kept) | (with_reducible apply setG_kept)
    | (with_reducible refine kept_ite (fun _ => ?_) (fun _ => ?_)) | split | (clear_value *; split)
    | (with_reducible exact kept_mk (kept_of (by assumption))) | (with_reducible apply kept_mk; dsimp only)
    | (with_reducible apply kept_of) | (dsimp only) | (intro _) | (dsimp only [id])
    | (fail_if_no_progress with_reducible refine kept_mk (kept_of ?_)) | (dsimp +zetaDelta -zeta only))

theorem gateCore_kept (k : Nat) {s : State} (h : Kept q s) : Kept q (gateCore k s) := by
  delta gateCore
  repeat' (first
    | (with_reducible assumption) | (with_reducible apply setG_kept) | (with_reducible refine kept_ite (fun _ => ?_) (fun _ => ?_))
    | split | (clear_value *; split) | (with_reducible exact kept_mk (kept_of (by assumption)))
    | (with_reducible apply kept_mk; dsimp only) | (with_reducible apply kept_of) | (dsimp only) | (intro _) | (dsimp only [id])
    | (fail_if_no_progress with_reducible refine kept_mk (kept_of ?_)) | (dsimp +zetaDelta -zeta only))

end Sys2Proof.Machine
end

