-- ==== Sys2Proof/Laws/KeptLedgerOps.lean ====
section
/-!
SUPPORT. Sys2Proof/Laws/KeptLedgerOps.lean: the operations of Machine/LedgerOps.lean keep the queue and the invariant of Safety.lean.
-/
namespace Sys2Proof.Machine

set_option linter.all false

variable {q : List Instr}

theorem setRegion_kept (code : Nat) (r : Region) {s : State} (h : Kept q s) : Kept q (setRegion code r s) := by
  delta setRegion
  repeat' (first
    | (with_reducible assumption)
    | (extract_lets +onlyGivenNames y; refine kept_cut (a := y) ?_ ?_; (on_goal 2 => (intro hy; clear_value y)); subst y)
    | (extract_lets +onlyGivenNames y) | (with_reducible apply post_kept) | (with_reducible apply setL_kept)
    | (with_reducible refine kept_ite (fun _ => ?_) (fun _ => ?_)) | split | (clear_value *; split)
    | (with_reducible exact kept_mk (kept_of (by assumption))) | (with_reducible apply kept_mk; dsimp only)
    | (with_reducible apply kept_of) | (dsimp only) | (intro _) | (dsimp only [id])
    | (fail_if_no_progress with_reducible refine kept_mk (kept_of ?_)) | (dsimp +zetaDelta -zeta only))

theorem State_room_kept {s : State} (code : Nat) (need : Nat) {t' : State} (e : State.room s code need = some t') (h : Kept q s) : Kept
    q t' := by
  revert e
  delta State.room
  repeat' (first
    | (with_reducible assumption)
    | (extract_lets +onlyGivenNames y; refine kept_cut (a := y) ?_ ?_; (on_goal 2 => (intro hy; clear_value y)); subst y)
    | (extract_lets +onlyGivenNames y) | (with_reducible apply setRegion_kept)
    | (with_reducible refine kept_ite (fun _ => ?_) (fun _ => ?_)) | (cases ‹(none : Option State) = some _›)
    | (cases ‹some (_ : State) = some _›) | split | (clear_value *; split) | (with_reducible exact kept_mk (kept_of (by assumption)))
    | (with_reducible apply kept_mk; dsimp only) | (with_reducible apply kept_of) | (dsimp only) | (intro _) | (dsimp only [id])
    | (fail_if_no_progress with_reducible refine kept_mk (kept_of ?_)) | (dsimp +zetaDelta -zeta only))

theorem addJob_kept (j : LJob) {s : State} (h : Kept q s) : Kept q (addJob j s) := by
  delta addJob
  repeat' (first
    | (with_reducible assumption) | (with_reducible apply setL_kept) | (with_reducible refine kept_ite (fun _ => ?_) (fun _ => ?_))
    | split | (clear_value *; split) | (with_reducible exact kept_mk (kept_of (by assumption)))
    | (with_reducible apply kept_mk; dsimp only) | (with_reducible apply kept_of) | (dsimp only) | (intro _) | (dsimp only [id])
    | (fail_if_no_progress with_reducible refine kept_mk (kept_of ?_)) | (dsimp +zetaDelta -zeta only))

theorem newRec_kept (typ : Nat) (key : Nat) (payload : List Byte) {s : State} (h : Kept q s) : Kept q (newRec typ key payload s).2 := by
  delta newRec
  repeat' (first
    | (with_reducible assumption) | (with_reducible apply setL_kept) | (with_reducible refine kept_ite (fun _ => ?_) (fun _ => ?_))
    | split | (clear_value *; split) | (with_reducible exact kept_mk (kept_of (by assumption)))
    | (with_reducible apply kept_mk; dsimp only) | (with_reducible apply kept_of) | (dsimp only) | (intro _) | (dsimp only [id])
    | (fail_if_no_progress with_reducible refine kept_mk (kept_of ?_)) | (dsimp +zetaDelta -zeta only))

theorem appendRecord_kept (region : Nat) (typ : Nat) (key : Nat) (payload : List Byte) (after : AfterJob) {s : State} {t' : State} (e :
    appendRecord region typ key payload after s = some t') (h : Kept q s) : Kept q t' := by
  revert e
  delta appendRecord
  repeat' (first
    | (with_reducible assumption)
    | (extract_lets +onlyGivenNames y; refine kept_cut (a := y) ?_ ?_; (on_goal 2 => (intro hy; clear_value y)); subst y)
    | (extract_lets +onlyGivenNames y; refine kept_cut2 (p := y) ?_ ?_; (on_goal 2 => (intro hy; clear_value y)); subst y)
    | (extract_lets +onlyGivenNames y) | (refine State_room_kept _ _ (by assumption) ?_) | (with_reducible apply newRec_kept)
    | (with_reducible apply addJob_kept) | (with_reducible refine kept_ite (fun _ => ?_) (fun _ => ?_))
    | (refine kept_snd (by assumption) ?_) | (cases ‹(none : Option State) = some _›) | (cases ‹some (_ : State) = some _›) | split
    | (clear_value *; split) | (with_reducible exact kept_mk (kept_of (by assumption))) | (with_reducible apply kept_mk; dsimp only)
    | (with_reducible apply kept_of) | (dsimp only) | (intro _) | (dsimp only [id])
    | (fail_if_no_progress with_reducible refine kept_mk (kept_of ?_)) | (dsimp +zetaDelta -zeta only))

theorem regionFull_kept (region : Nat) {s : State} (h : Kept q s) : Kept q (regionFull region s) := by
  delta regionFull
  repeat' (first
    | (with_reducible assumption) | (with_reducible apply post_kept) | (with_reducible refine kept_ite (fun _ => ?_) (fun _ => ?_))
    | split | (clear_value *; split) | (with_reducible exact kept_mk (kept_of (by assumption)))
    | (with_reducible apply kept_mk; dsimp only) | (with_reducible apply kept_of) | (dsimp only) | (intro _) | (dsimp only [id])
    | (fail_if_no_progress with_reducible refine kept_mk (kept_of ?_)) | (dsimp +zetaDelta -zeta only))

theorem appendQuiet_kept (region : Nat) (typ : Nat) (key : Nat) (payload : List Byte) {s : State} (h : Kept q s) : Kept q (appendQuiet
    region typ key payload s) := by
  delta appendQuiet
  repeat' (first
    | (with_reducible assumption) | (refine appendRecord_kept _ _ _ _ _ (by assumption) ?_) | (with_reducible apply regionFull_kept)
    | (with_reducible refine kept_ite (fun _ => ?_) (fun _ => ?_)) | (with_reducible refine kept_getD (fun _ _ => ?_) ?_) | split
    | (clear_value *; split) | (with_reducible exact kept_mk (kept_of (by assumption))) | (with_reducible apply kept_mk; dsimp only)
    | (with_reducible apply kept_of) | (dsimp only) | (intro _) | (dsimp only [id])
    | (fail_if_no_progress with_reducible refine kept_mk (kept_of ?_)) | (dsimp +zetaDelta -zeta only))

theorem writeBoot_kept (b : BootRecord) {s : State} (h : Kept q s) : Kept q (writeBoot b s) := by
  delta writeBoot
  repeat' (first
    | (with_reducible assumption)
    | (extract_lets +onlyGivenNames y; refine kept_cut (a := y) ?_ ?_; (on_goal 2 => (intro hy; clear_value y)); subst y)
    | (extract_lets +onlyGivenNames y; refine kept_cut2 (p := y) ?_ ?_; (on_goal 2 => (intro hy; clear_value y)); subst y)
    | (extract_lets +onlyGivenNames y) | (refine State_room_kept _ _ (by assumption) ?_) | (with_reducible apply regionFull_kept)
    | (with_reducible apply newRec_kept) | (with_reducible apply setRegion_kept)
    | (with_reducible refine kept_ite (fun _ => ?_) (fun _ => ?_)) | (refine kept_snd (by assumption) ?_) | split
    | (clear_value *; split) | (with_reducible exact kept_mk (kept_of (by assumption))) | (with_reducible apply kept_mk; dsimp only)
    | (with_reducible apply kept_of) | (dsimp only) | (intro _) | (dsimp only [id])
    | (fail_if_no_progress with_reducible refine kept_mk (kept_of ?_)) | (dsimp +zetaDelta -zeta only))

theorem queueBatch_kept (recs : List (Nat × EvRec)) (w : Option Waiter) {s : State} (h : Kept q s) : Kept q (queueBatch recs w s) := by
  delta queueBatch
  repeat' (first
    | (with_reducible assumption) | (with_reducible apply completeOpt_kept) | (refine appendRecord_kept _ _ _ _ _ (by assumption) ?_)
    | (with_reducible apply regionFull_kept) | (with_reducible refine kept_ite (fun _ => ?_) (fun _ => ?_)) | split
    | (clear_value *; split) | (with_reducible exact kept_mk (kept_of (by assumption))) | (with_reducible apply kept_mk; dsimp only)
    | (with_reducible apply kept_of) | (dsimp only) | (intro _) | (dsimp only [id])
    | (fail_if_no_progress with_reducible refine kept_mk (kept_of ?_)) | (dsimp +zetaDelta -zeta only))

theorem queueAll_kept (l : List (List (Nat × EvRec))) {f : State → State} (w : Option Waiter) {s : State}
    (h0 : ∀ s, Kept q s → Kept q (f s)) (h1 : Kept q s) : Kept q (queueAll l f w s) := by
  induction l generalizing s with
  | nil => exact h0 _ h1
  | cons b r ih =>
    cases r with
    | nil => exact queueBatch_kept _ _ h1
    | cons c r => exact ih (queueBatch_kept _ _ h1)

theorem markArchived_kept (u : Nat) {s : State} (h : Kept q s) : Kept q (markArchived u s) := by
  refine ⟨h.1, h.2.1, h.2.2.1, h.2.2.2.1, h.2.2.2.2.1, h.2.2.2.2.2.1, sorted_map _ (fun x => ?_) h.2.2.2.2.2.2.1, fun x hx => ?_⟩
  · split <;> rfl
  · obtain ⟨y, hy, rfl⟩ := List.mem_map.mp hx
    have := h.2.2.2.2.2.2.2 y hy
    split <;> exact this

theorem emptyLog_kept {s : State} (h : Kept q s) : Kept q { s with ev := { s.ev with ram := [] } } :=
  ⟨h.1, h.2.1, h.2.2.1, h.2.2.2.1, h.2.2.2.2.1, h.2.2.2.2.2.1, rfl, by simp⟩

theorem clearRecorder_kept (w : Waiter) (nonce : Nat) {s : State} (h : Kept q s) : Kept q (clearRecorder w nonce s) := by
  delta clearRecorder
  extract_lets +onlyGivenNames u v
  have hu : Kept q u := closeRecord_kept h
  clear_value u
  have hv : Kept q v := queueAll_kept _ _ (fun _ h => h) hu
  clear_value v
  refine kept_ite (fun _ => kept_ite (fun _ => complete_kept _ _ hv) (fun _ => addJob_kept _ hv)) (fun _ => ?_)
  exact complete_kept _ _ (writeRecord_kept _ (emptyLog_kept hu))

theorem finishJob_kept (a : AfterJob) {s : State} (h : Kept q s) : Kept q (finishJob a s) := by
  cases a with
  | nothing => exact h
  | complete w r0 r1 => exact complete_kept _ _ h
  | activate => exact h
  | archived u w => exact completeOpt_kept _ _ (markArchived_kept u h)
  | cleared w n => exact clearRecorder_kept _ _ h
  | erased k w => exact complete_kept _ _ (post_kept _ _ _ h)
  | setSaved w i => exact complete_kept _ _ h
  | verify w =>
    rw [finishJob]
    repeat' (first
      | (with_reducible assumption) | (extract_lets +onlyGivenNames y) | (with_reducible apply complete_kept)
      | (with_reducible apply setP_kept) | split | (with_reducible exact kept_mk (kept_of (by assumption))))

theorem settleJobs_kept (n : Nat) {s : State} (h : Kept q s) : Kept q (settleJobs n s) := by
  induction n generalizing s with
  | zero => exact h
  | succ n ih =>
    rw [settleJobs]
    repeat' (first
      | (with_reducible assumption) | (with_reducible apply ih) | (with_reducible apply finishJob_kept)
      | (with_reducible apply setL_kept) | split)

theorem startJob_kept (j : LJob) {s : State} (h : Kept q s) : Kept q (startJob j s) := by
  delta startJob
  repeat' (first
    | (with_reducible assumption) | (with_reducible apply settleJobs_kept) | (with_reducible apply addJob_kept)
    | (with_reducible refine kept_ite (fun _ => ?_) (fun _ => ?_)) | split | (clear_value *; split)
    | (with_reducible exact kept_mk (kept_of (by assumption))) | (with_reducible apply kept_mk; dsimp only)
    | (with_reducible apply kept_of) | (dsimp only) | (intro _) | (dsimp only [id])
    | (fail_if_no_progress with_reducible refine kept_mk (kept_of ?_)) | (dsimp +zetaDelta -zeta only))

theorem relocate_kept (code : Nat) (id : Nat) {s : State} (h : Kept q s) : Kept q (relocate code id s) := by
  delta relocate
  repeat' (first
    | (with_reducible assumption) | (with_reducible apply setRegion_kept)
    | (with_reducible refine kept_ite (fun _ => ?_) (fun _ => ?_)) | split | (clear_value *; split)
    | (with_reducible exact kept_mk (kept_of (by assumption))) | (with_reducible apply kept_mk; dsimp only)
    | (with_reducible apply kept_of) | (dsimp only) | (intro _) | (dsimp only [id])
    | (fail_if_no_progress with_reducible refine kept_mk (kept_of ?_)) | (dsimp +zetaDelta -zeta only))

theorem mirrorRead_kept (code : Nat) (x : FlashRec) {s : State} (h : Kept q s) : Kept q (mirrorRead code x s) := by
  delta mirrorRead
  repeat' (first
    | (with_reducible assumption)
    | (extract_lets +onlyGivenNames y; refine kept_cut (a := y) ?_ ?_; (on_goal 2 => (intro hy; clear_value y)); subst y)
    | (extract_lets +onlyGivenNames y) | (with_reducible apply bump_kept) | (with_reducible apply post_kept)
    | (with_reducible apply relocate_kept) | (with_reducible refine kept_ite (fun _ => ?_) (fun _ => ?_)) | split
    | (clear_value *; split) | (with_reducible exact kept_mk (kept_of (by assumption))) | (with_reducible apply kept_mk; dsimp only)
    | (with_reducible apply kept_of) | (dsimp only) | (intro _) | (dsimp only [id])
    | (fail_if_no_progress with_reducible refine kept_mk (kept_of ?_)) | (dsimp +zetaDelta -zeta only))

theorem newNonce_kept {s : State} (h : Kept q s) : Kept q (newNonce s) := by
  delta newNonce
  repeat' (first
    | (with_reducible assumption)
    | (extract_lets +onlyGivenNames y; refine kept_cut (a := y) ?_ ?_; (on_goal 2 => (intro hy; clear_value y)); subst y)
    | (extract_lets +onlyGivenNames y) | (with_reducible apply setL_kept)
    | (with_reducible refine kept_ite (fun _ => ?_) (fun _ => ?_)) | split | (clear_value *; split)
    | (with_reducible exact kept_mk (kept_of (by assumption))) | (with_reducible apply kept_mk; dsimp only)
    | (with_reducible apply kept_of) | (dsimp only) | (intro _) | (dsimp only [id])
    | (fail_if_no_progress with_reducible refine kept_mk (kept_of ?_)) | (dsimp +zetaDelta -zeta only))

theorem presentToken_kept (op : Nat) (region : Nat) (token : List Byte) {s : State} (h : Kept q s) : Kept q (presentToken op region
    token s).2 := by
  delta presentToken
  repeat' (first
    | (with_reducible assumption)
    | (extract_lets +onlyGivenNames y; refine kept_cut (a := y) ?_ ?_; (on_goal 2 => (intro hy; clear_value y)); subst y)
    | (extract_lets +onlyGivenNames y) | (with_reducible apply bump_kept) | (with_reducible apply newNonce_kept)
    | (with_reducible apply post_kept) | (with_reducible apply setL_kept)
    | (with_reducible refine kept_ite (fun _ => ?_) (fun _ => ?_)) | split | (clear_value *; split)
    | (with_reducible exact kept_mk (kept_of (by assumption))) | (with_reducible apply kept_mk; dsimp only)
    | (with_reducible apply kept_of) | (dsimp only) | (intro _) | (dsimp only [id])
    | (fail_if_no_progress with_reducible refine kept_mk (kept_of ?_)) | (dsimp +zetaDelta -zeta only))

end Sys2Proof.Machine
end

