-- ==== Sys2Proof/Laws/KeptRequests.lean ====
section
/-!
SUPPORT. Sys2Proof/Laws/KeptRequests.lean: the operations of Machine/Requests.lean keep the queue and the invariant of Safety.lean.
-/
namespace Sys2Proof.Machine

set_option linter.all false

variable {q : List Instr}

theorem pushSched_kept (q0 : Nat) (late : Bool) (w : Option Waiter) (chg : Change) {s : State} (h : Kept q s) : Kept q (pushSched q0
    late w chg s) := by
  delta pushSched
  repeat' (first
    | (with_reducible assumption) | (with_reducible refine kept_ite (fun _ => ?_) (fun _ => ?_)) | split | (clear_value *; split)
    | (with_reducible exact kept_mk (kept_of (by assumption))) | (with_reducible apply kept_mk; dsimp only)
    | (with_reducible apply kept_of) | (dsimp only) | (intro _) | (dsimp only [id])
    | (fail_if_no_progress with_reducible refine kept_mk (kept_of ?_)) | (dsimp +zetaDelta -zeta only))

theorem request_kept (p : Nat) (w : Waiter) (chg : Change) (adm : Bool) {s : State} (h : Kept q s) : Kept q (request p w chg adm s) :=
    by
  delta request
  repeat' (first
    | (with_reducible assumption)
    | (extract_lets +onlyGivenNames y; refine kept_cut (a := y) ?_ ?_; (on_goal 2 => (intro hy; clear_value y)); subst y)
    | (extract_lets +onlyGivenNames y) | (with_reducible apply complete_kept) | (with_reducible apply pushSched_kept)
    | (with_reducible refine kept_ite (fun _ => ?_) (fun _ => ?_)) | split | (clear_value *; split)
    | (with_reducible exact kept_mk (kept_of (by assumption))) | (with_reducible apply kept_mk; dsimp only)
    | (with_reducible apply kept_of) | (dsimp only) | (intro _) | (dsimp only [id])
    | (fail_if_no_progress with_reducible refine kept_mk (kept_of ?_)) | (dsimp +zetaDelta -zeta only))

theorem requestSwap_kept (p : Nat) (w : Waiter) (chg : Change) (have_ : Bool) (adm : Bool) {s : State} (h : Kept q s) : Kept q
    (requestSwap p w chg have_ adm s) := by
  delta requestSwap
  repeat' (first
    | (with_reducible assumption)
    | (extract_lets +onlyGivenNames y; refine kept_cut (a := y) ?_ ?_; (on_goal 2 => (intro hy; clear_value y)); subst y)
    | (extract_lets +onlyGivenNames y) | (with_reducible apply complete_kept) | (with_reducible apply pushSched_kept)
    | (with_reducible apply completeOpt_kept) | (with_reducible refine kept_ite (fun _ => ?_) (fun _ => ?_)) | split
    | (clear_value *; split) | (with_reducible exact kept_mk (kept_of (by assumption))) | (with_reducible apply kept_mk; dsimp only)
    | (with_reducible apply kept_of) | (dsimp only) | (intro _) | (dsimp only [id])
    | (fail_if_no_progress with_reducible refine kept_mk (kept_of ?_)) | (dsimp +zetaDelta -zeta only))

theorem refusing_kept (refused : Bool) (w : Waiter) {s : State} {k : State} (h0 : Kept q s) (h1 : Kept q k) : Kept q (refusing refused
    w s k) := by
  delta refusing
  repeat' (first
    | (with_reducible assumption) | (with_reducible apply complete_kept)
    | (with_reducible refine kept_ite (fun _ => ?_) (fun _ => ?_)) | split | (clear_value *; split)
    | (with_reducible exact kept_mk (kept_of (by assumption))) | (with_reducible apply kept_mk; dsimp only)
    | (with_reducible apply kept_of) | (dsimp only) | (intro _) | (dsimp only [id])
    | (fail_if_no_progress with_reducible refine kept_mk (kept_of ?_)) | (dsimp +zetaDelta -zeta only))

theorem startLoad_kept (set : ParamSet) (busy : Bool) (c : HostCmd) (arg : Nat) (w : Waiter) {s : State} (h : Kept q s) : Kept q
    (startLoad set busy c arg w s) := by
  delta startLoad
  repeat' (first
    | (with_reducible assumption) | (with_reducible apply complete_kept)
    | (with_reducible refine kept_ite (fun _ => ?_) (fun _ => ?_)) | split | (clear_value *; split)
    | (with_reducible exact kept_mk (kept_of (by assumption))) | (with_reducible apply kept_mk; dsimp only)
    | (with_reducible apply kept_of) | (dsimp only) | (intro _) | (dsimp only [id])
    | (fail_if_no_progress with_reducible refine kept_mk (kept_of ?_)) | (dsimp +zetaDelta -zeta only))

theorem endLoad_kept (l : Load) (e : Ending) {s : State} (h : Kept q s) : Kept q (endLoad l e s) := by
  delta endLoad
  repeat' (first
    | (with_reducible assumption) | (with_reducible apply complete_kept)
    | (with_reducible refine kept_ite (fun _ => ?_) (fun _ => ?_)) | split | (clear_value *; split)
    | (with_reducible exact kept_mk (kept_of (by assumption))) | (with_reducible apply kept_mk; dsimp only)
    | (with_reducible apply kept_of) | (dsimp only) | (intro _) | (dsimp only [id])
    | (fail_if_no_progress with_reducible refine kept_mk (kept_of ?_)) | (dsimp +zetaDelta -zeta only))

theorem settleSwaps_kept (set : ParamSet) (ok : Bool) {s : State} (h : Kept q s) : Kept q (settleSwaps set ok s) := by
  delta settleSwaps
  repeat' (first
    | (with_reducible assumption)
    | (extract_lets +onlyGivenNames y; refine kept_cut (a := y) ?_ ?_; (on_goal 2 => (intro hy; clear_value y)); subst y)
    | (extract_lets +onlyGivenNames y) | (with_reducible apply completeOpt_kept) | (with_reducible apply takeEffect_kept)
    | (with_reducible refine kept_ite (fun _ => ?_) (fun _ => ?_)) | (with_reducible refine kept_foldl (fun _ _ _ => ?_) ?_)
    | (with_reducible refine kept_foldl1 (fun _ _ _ => ?_) ?_) | (with_reducible refine kept_foldl2 (fun _ _ _ => ?_) ?_) | split
    | (clear_value *; split) | (with_reducible exact kept_mk (kept_of (by assumption))) | (with_reducible apply kept_mk; dsimp only)
    | (with_reducible apply kept_of) | (dsimp only) | (intro _) | (dsimp only [id])
    | (fail_if_no_progress with_reducible refine kept_mk (kept_of ?_)) | (dsimp +zetaDelta -zeta only))

theorem budgetQueryBody_kept (x1 : HostCmd) (x2 : Waiter) {s : State} (h : Kept q s) : Kept q (budgetQueryBody x1 x2 s) := by
  delta budgetQueryBody
  repeat' (first
    | (with_reducible assumption) | (with_reducible apply complete_kept) | (with_reducible apply writeHost_kept)
    | (with_reducible apply setB_kept) | (with_reducible refine kept_ite (fun _ => ?_) (fun _ => ?_)) | split
    | (clear_value *; split) | (with_reducible exact kept_mk (kept_of (by assumption))) | (with_reducible apply kept_mk; dsimp only)
    | (with_reducible apply kept_of) | (dsimp only) | (intro _) | (dsimp only [id])
    | (fail_if_no_progress with_reducible refine kept_mk (kept_of ?_)) | (dsimp +zetaDelta -zeta only))

theorem execBudgetQuery_kept (c : HostCmd) {s : State} {t' : State} (e : execBudgetQuery c s = .next t') (h : Kept q s) : Kept q t' :=
    by
  cases e
  repeat' (first
    | (with_reducible assumption) | (with_reducible apply hostCommand_kept) | (with_reducible apply budgetQueryBody_kept)
    | (with_reducible refine kept_ite (fun _ => ?_) (fun _ => ?_)) | split | (clear_value *; split)
    | (with_reducible exact kept_mk (kept_of (by assumption))) | (with_reducible apply kept_mk; dsimp only)
    | (with_reducible apply kept_of) | (dsimp only) | (intro _) | (dsimp only [id])
    | (fail_if_no_progress with_reducible refine kept_mk (kept_of ?_)) | (dsimp +zetaDelta -zeta only))

theorem budgetSetBody_kept (x1 : HostCmd) (x2 : Waiter) {s : State} (h : Kept q s) : Kept q (budgetSetBody x1 x2 s) := by
  delta budgetSetBody
  repeat' (first
    | (with_reducible assumption)
    | (extract_lets +onlyGivenNames y; refine kept_cut (a := y) ?_ ?_; (on_goal 2 => (intro hy; clear_value y)); subst y)
    | (extract_lets +onlyGivenNames y) | (with_reducible apply complete_kept) | (with_reducible apply request_kept)
    | (with_reducible refine kept_ite (fun _ => ?_) (fun _ => ?_)) | split | (clear_value *; split)
    | (with_reducible exact kept_mk (kept_of (by assumption))) | (with_reducible apply kept_mk; dsimp only)
    | (with_reducible apply kept_of) | (dsimp only) | (intro _) | (dsimp only [id])
    | (fail_if_no_progress with_reducible refine kept_mk (kept_of ?_)) | (dsimp +zetaDelta -zeta only))

theorem execBudgetSet_kept (c : HostCmd) {s : State} {t' : State} (e : execBudgetSet c s = .next t') (h : Kept q s) : Kept q t' := by
  cases e
  repeat' (first
    | (with_reducible assumption) | (with_reducible apply hostCommand_kept) | (with_reducible apply budgetSetBody_kept)
    | (with_reducible refine kept_ite (fun _ => ?_) (fun _ => ?_)) | split | (clear_value *; split)
    | (with_reducible exact kept_mk (kept_of (by assumption))) | (with_reducible apply kept_mk; dsimp only)
    | (with_reducible apply kept_of) | (dsimp only) | (intro _) | (dsimp only [id])
    | (fail_if_no_progress with_reducible refine kept_mk (kept_of ?_)) | (dsimp +zetaDelta -zeta only))

theorem budgetRestoreBody_kept (x1 : HostCmd) (x2 : Waiter) {s : State} (h : Kept q s) : Kept q (budgetRestoreBody x1 x2 s) := by
  delta budgetRestoreBody
  repeat' (first
    | (with_reducible assumption) | (with_reducible apply complete_kept) | (with_reducible apply request_kept)
    | (with_reducible refine kept_ite (fun _ => ?_) (fun _ => ?_)) | split | (clear_value *; split)
    | (with_reducible exact kept_mk (kept_of (by assumption))) | (with_reducible apply kept_mk; dsimp only)
    | (with_reducible apply kept_of) | (dsimp only) | (intro _) | (dsimp only [id])
    | (fail_if_no_progress with_reducible refine kept_mk (kept_of ?_)) | (dsimp +zetaDelta -zeta only))

theorem execBudgetRestore_kept (c : HostCmd) {s : State} {t' : State} (e : execBudgetRestore c s = .next t') (h : Kept q s) : Kept q t'
    := by
  cases e
  repeat' (first
    | (with_reducible assumption) | (with_reducible apply hostCommand_kept) | (with_reducible apply budgetRestoreBody_kept)
    | (with_reducible refine kept_ite (fun _ => ?_) (fun _ => ?_)) | split | (clear_value *; split)
    | (with_reducible exact kept_mk (kept_of (by assumption))) | (with_reducible apply kept_mk; dsimp only)
    | (with_reducible apply kept_of) | (dsimp only) | (intro _) | (dsimp only [id])
    | (fail_if_no_progress with_reducible refine kept_mk (kept_of ?_)) | (dsimp +zetaDelta -zeta only))

theorem dropTransition_kept (status : Nat) {s : State} (h : Kept q s) : Kept q (dropTransition status s) := by
  delta dropTransition
  repeat' (first
    | (with_reducible assumption)
    | (extract_lets +onlyGivenNames y; refine kept_cut (a := y) ?_ ?_; (on_goal 2 => (intro hy; clear_value y)); subst y)
    | (extract_lets +onlyGivenNames y) | (with_reducible apply completeOpt_kept) | (with_reducible apply setM_kept)
    | (with_reducible refine kept_ite (fun _ => ?_) (fun _ => ?_)) | split | (clear_value *; split)
    | (with_reducible exact kept_mk (kept_of (by assumption))) | (with_reducible apply kept_mk; dsimp only)
    | (with_reducible apply kept_of) | (dsimp only) | (intro _) | (dsimp only [id])
    | (fail_if_no_progress with_reducible refine kept_mk (kept_of ?_)) | (dsimp +zetaDelta -zeta only))

theorem dropHeld_kept (status : Nat) {s : State} (h : Kept q s) : Kept q (dropHeld status s) := by
  delta dropHeld
  repeat' (first
    | (with_reducible assumption) | (with_reducible apply completeOpt_kept) | (with_reducible apply setM_kept)
    | (with_reducible refine kept_ite (fun _ => ?_) (fun _ => ?_)) | split | (clear_value *; split)
    | (with_reducible exact kept_mk (kept_of (by assumption))) | (with_reducible apply kept_mk; dsimp only)
    | (with_reducible apply kept_of) | (dsimp only) | (intro _) | (dsimp only [id])
    | (fail_if_no_progress with_reducible refine kept_mk (kept_of ?_)) | (dsimp +zetaDelta -zeta only))

theorem passPrecedes_kept (q0 : Nat) {s : State} (h : Kept q s) : Kept q (passPrecedes q0 s) := by
  delta passPrecedes
  repeat' (first
    | (with_reducible assumption)
    | (extract_lets +onlyGivenNames y; refine kept_cut (a := y) ?_ ?_; (on_goal 2 => (intro hy; clear_value y)); subst y)
    | (extract_lets +onlyGivenNames y) | (with_reducible apply dropTransition_kept) | (with_reducible apply dropHeld_kept)
    | (with_reducible refine kept_ite (fun _ => ?_) (fun _ => ?_)) | split | (clear_value *; split)
    | (with_reducible exact kept_mk (kept_of (by assumption))) | (with_reducible apply kept_mk; dsimp only)
    | (with_reducible apply kept_of) | (dsimp only) | (intro _) | (dsimp only [id])
    | (fail_if_no_progress with_reducible refine kept_mk (kept_of ?_)) | (dsimp +zetaDelta -zeta only))

theorem callShed_kept (q0 : Nat) {none_ : State → State} {s : State} (h0 : ∀ s, Kept q s → Kept q (none_ s)) (h : Kept q s) : Kept q
    (callShed q0 none_ s) := by
  delta callShed
  repeat' (first
    | (with_reducible assumption)
    | (extract_lets +onlyGivenNames y; refine kept_cut (a := y) ?_ ?_; (on_goal 2 => (intro hy; clear_value y)); subst y)
    | (extract_lets +onlyGivenNames y) | (with_reducible apply h0) | (with_reducible apply pushSched_kept)
    | (with_reducible apply passPrecedes_kept) | (with_reducible refine kept_ite (fun _ => ?_) (fun _ => ?_)) | split
    | (clear_value *; split) | (with_reducible exact kept_mk (kept_of (by assumption))) | (with_reducible apply kept_mk; dsimp only)
    | (with_reducible apply kept_of) | (dsimp only) | (intro _) | (dsimp only [id])
    | (fail_if_no_progress with_reducible refine kept_mk (kept_of ?_)) | (dsimp +zetaDelta -zeta only))

theorem sheddingStep_kept {s : State} (h : Kept q s) : Kept q (sheddingStep s) := by
  delta sheddingStep
  repeat' (first
    | (with_reducible assumption) | (with_reducible apply callShed_kept) | (with_reducible apply post_kept)
    | (with_reducible apply setB_kept) | (with_reducible refine kept_ite (fun _ => ?_) (fun _ => ?_)) | split
    | (clear_value *; split) | (with_reducible exact kept_mk (kept_of (by assumption))) | (with_reducible apply kept_mk; dsimp only)
    | (with_reducible apply kept_of) | (dsimp only) | (intro _) | (dsimp only [id])
    | (fail_if_no_progress with_reducible refine kept_mk (kept_of ?_)) | (dsimp +zetaDelta -zeta only))

theorem execSheddingStep_kept (t : Nat) {s : State} {t' : State} (e : execSheddingStep t s = .next t') (h : Kept q s) : Kept q t' := by
  cases e
  repeat' (first
    | (with_reducible assumption) | (with_reducible apply sheddingStep_kept) | (with_reducible apply advance_kept)
    | (with_reducible refine kept_ite (fun _ => ?_) (fun _ => ?_)) | split | (clear_value *; split)
    | (with_reducible exact kept_mk (kept_of (by assumption))) | (with_reducible apply kept_mk; dsimp only)
    | (with_reducible apply kept_of) | (dsimp only) | (intro _) | (dsimp only [id])
    | (fail_if_no_progress with_reducible refine kept_mk (kept_of ?_)) | (dsimp +zetaDelta -zeta only))

end Sys2Proof.Machine
end

