-- ==== Sys2Proof/Laws/KeptLoomCmds.lean ====
section
/-!
SUPPORT. Sys2Proof/Laws/KeptLoomCmds.lean: the operations of Machine/LoomCmds.lean keep the queue and the invariant of Safety.lean.
-/
namespace Sys2Proof.Machine

set_option linter.all false

variable {q : List Instr}

theorem layoutLoadBody_kept (x1 : HostCmd) (x2 : Waiter) {s : State} (h : Kept q s) : Kept q (layoutLoadBody x1 x2 s) := by
  delta layoutLoadBody
  repeat' (first
    | (with_reducible assumption) | (with_reducible apply refusing_kept) | (with_reducible apply complete_kept)
    | (with_reducible apply startLoad_kept) | (with_reducible refine kept_ite (fun _ => ?_) (fun _ => ?_)) | split
    | (clear_value *; split) | (with_reducible exact kept_mk (kept_of (by assumption))) | (with_reducible apply kept_mk; dsimp only)
    | (with_reducible apply kept_of) | (dsimp only) | (intro _) | (dsimp only [id])
    | (fail_if_no_progress with_reducible refine kept_mk (kept_of ?_)) | (dsimp +zetaDelta -zeta only))

theorem execLayoutLoad_kept (c : HostCmd) {s : State} {t' : State} (e : execLayoutLoad c s = .next t') (h : Kept q s) : Kept q t' := by
  cases e
  repeat' (first
    | (with_reducible assumption) | (with_reducible apply hostCommand_kept) | (with_reducible apply layoutLoadBody_kept)
    | (with_reducible refine kept_ite (fun _ => ?_) (fun _ => ?_)) | split | (clear_value *; split)
    | (with_reducible exact kept_mk (kept_of (by assumption))) | (with_reducible apply kept_mk; dsimp only)
    | (with_reducible apply kept_of) | (dsimp only) | (intro _) | (dsimp only [id])
    | (fail_if_no_progress with_reducible refine kept_mk (kept_of ?_)) | (dsimp +zetaDelta -zeta only))

theorem takeLayout_kept (img : List Byte) (len : Nat) {s : State} (h : Kept q s) : Kept q (takeLayout img len s).2 := by
  delta takeLayout
  repeat' (first
    | (with_reducible assumption) | (with_reducible apply setX_kept) | (with_reducible refine kept_ite (fun _ => ?_) (fun _ => ?_))
    | split | (clear_value *; split) | (with_reducible exact kept_mk (kept_of (by assumption)))
    | (with_reducible apply kept_mk; dsimp only) | (with_reducible apply kept_of) | (dsimp only) | (intro _) | (dsimp only [id])
    | (fail_if_no_progress with_reducible refine kept_mk (kept_of ?_)) | (dsimp +zetaDelta -zeta only))

theorem commitLayout_kept (l : Load) {s : State} (h : Kept q s) : Kept q (commitLayout l s) := by
  delta commitLayout
  repeat' (first
    | (with_reducible assumption)
    | (extract_lets +onlyGivenNames y; refine kept_cut (a := y) ?_ ?_; (on_goal 2 => (intro hy; clear_value y)); subst y)
    | (extract_lets +onlyGivenNames y; refine kept_cut2 (p := y) ?_ ?_; (on_goal 2 => (intro hy; clear_value y)); subst y)
    | (extract_lets +onlyGivenNames y) | (with_reducible apply takeLayout_kept) | (with_reducible apply endLoad_kept)
    | (with_reducible refine kept_ite (fun _ => ?_) (fun _ => ?_)) | (refine kept_snd (by assumption) ?_) | split
    | (clear_value *; split) | (with_reducible exact kept_mk (kept_of (by assumption))) | (with_reducible apply kept_mk; dsimp only)
    | (with_reducible apply kept_of) | (dsimp only) | (intro _) | (dsimp only [id])
    | (fail_if_no_progress with_reducible refine kept_mk (kept_of ?_)) | (dsimp +zetaDelta -zeta only))

theorem layoutSwapBody_kept (x1 : HostCmd) (x2 : Waiter) {s : State} (h : Kept q s) : Kept q (layoutSwapBody x1 x2 s) := by
  delta layoutSwapBody
  repeat' (first
    | (with_reducible assumption) | (with_reducible apply refusing_kept) | (with_reducible apply complete_kept)
    | (with_reducible apply requestSwap_kept) | (with_reducible refine kept_ite (fun _ => ?_) (fun _ => ?_)) | split
    | (clear_value *; split) | (with_reducible exact kept_mk (kept_of (by assumption))) | (with_reducible apply kept_mk; dsimp only)
    | (with_reducible apply kept_of) | (dsimp only) | (intro _) | (dsimp only [id])
    | (fail_if_no_progress with_reducible refine kept_mk (kept_of ?_)) | (dsimp +zetaDelta -zeta only))

theorem execLayoutSwap_kept (c : HostCmd) {s : State} {t' : State} (e : execLayoutSwap c s = .next t') (h : Kept q s) : Kept q t' := by
  cases e
  repeat' (first
    | (with_reducible assumption) | (with_reducible apply hostCommand_kept) | (with_reducible apply layoutSwapBody_kept)
    | (with_reducible refine kept_ite (fun _ => ?_) (fun _ => ?_)) | split | (clear_value *; split)
    | (with_reducible exact kept_mk (kept_of (by assumption))) | (with_reducible apply kept_mk; dsimp only)
    | (with_reducible apply kept_of) | (dsimp only) | (intro _) | (dsimp only [id])
    | (fail_if_no_progress with_reducible refine kept_mk (kept_of ?_)) | (dsimp +zetaDelta -zeta only))

theorem layoutQueryBody_kept (x1 : HostCmd) (x2 : Waiter) {s : State} (h : Kept q s) : Kept q (layoutQueryBody x1 x2 s) := by
  delta layoutQueryBody
  repeat' (first
    | (with_reducible assumption)
    | (extract_lets +onlyGivenNames y; refine kept_cut (a := y) ?_ ?_; (on_goal 2 => (intro hy; clear_value y)); subst y)
    | (extract_lets +onlyGivenNames y) | (with_reducible apply refusing_kept) | (with_reducible apply complete_kept)
    | (with_reducible apply writeHost_kept) | (with_reducible refine kept_ite (fun _ => ?_) (fun _ => ?_)) | split
    | (clear_value *; split) | (with_reducible exact kept_mk (kept_of (by assumption))) | (with_reducible apply kept_mk; dsimp only)
    | (with_reducible apply kept_of) | (dsimp only) | (intro _) | (dsimp only [id])
    | (fail_if_no_progress with_reducible refine kept_mk (kept_of ?_)) | (dsimp +zetaDelta -zeta only))

theorem execLayoutQuery_kept (c : HostCmd) {s : State} {t' : State} (e : execLayoutQuery c s = .next t') (h : Kept q s) : Kept q t' :=
    by
  cases e
  repeat' (first
    | (with_reducible assumption) | (with_reducible apply hostCommand_kept) | (with_reducible apply layoutQueryBody_kept)
    | (with_reducible refine kept_ite (fun _ => ?_) (fun _ => ?_)) | split | (clear_value *; split)
    | (with_reducible exact kept_mk (kept_of (by assumption))) | (with_reducible apply kept_mk; dsimp only)
    | (with_reducible apply kept_of) | (dsimp only) | (intro _) | (dsimp only [id])
    | (fail_if_no_progress with_reducible refine kept_mk (kept_of ?_)) | (dsimp +zetaDelta -zeta only))

theorem soundSpeedSetBody_kept (x1 : HostCmd) (x2 : Waiter) {s : State} (h : Kept q s) : Kept q (soundSpeedSetBody x1 x2 s) := by
  delta soundSpeedSetBody
  repeat' (first
    | (with_reducible assumption)
    | (extract_lets +onlyGivenNames y; refine kept_cut (a := y) ?_ ?_; (on_goal 2 => (intro hy; clear_value y)); subst y)
    | (extract_lets +onlyGivenNames y) | (with_reducible apply refusing_kept) | (with_reducible apply complete_kept)
    | (with_reducible apply request_kept) | (with_reducible refine kept_ite (fun _ => ?_) (fun _ => ?_)) | split
    | (clear_value *; split) | (with_reducible exact kept_mk (kept_of (by assumption))) | (with_reducible apply kept_mk; dsimp only)
    | (with_reducible apply kept_of) | (dsimp only) | (intro _) | (dsimp only [id])
    | (fail_if_no_progress with_reducible refine kept_mk (kept_of ?_)) | (dsimp +zetaDelta -zeta only))

theorem execSoundSpeedSet_kept (c : HostCmd) {s : State} {t' : State} (e : execSoundSpeedSet c s = .next t') (h : Kept q s) : Kept q t'
    := by
  cases e
  repeat' (first
    | (with_reducible assumption) | (with_reducible apply hostCommand_kept) | (with_reducible apply soundSpeedSetBody_kept)
    | (with_reducible refine kept_ite (fun _ => ?_) (fun _ => ?_)) | split | (clear_value *; split)
    | (with_reducible exact kept_mk (kept_of (by assumption))) | (with_reducible apply kept_mk; dsimp only)
    | (with_reducible apply kept_of) | (dsimp only) | (intro _) | (dsimp only [id])
    | (fail_if_no_progress with_reducible refine kept_mk (kept_of ?_)) | (dsimp +zetaDelta -zeta only))

theorem geomProbeBody_kept (x1 : HostCmd) (x2 : Waiter) {s : State} (h : Kept q s) : Kept q (geomProbeBody x1 x2 s) := by
  delta geomProbeBody
  repeat' (first
    | (with_reducible assumption)
    | (extract_lets +onlyGivenNames y; refine kept_cut (a := y) ?_ ?_; (on_goal 2 => (intro hy; clear_value y)); subst y)
    | (extract_lets +onlyGivenNames y) | (with_reducible apply refusing_kept) | (with_reducible apply complete_kept)
    | (with_reducible apply writeHost_kept) | (with_reducible refine kept_ite (fun _ => ?_) (fun _ => ?_)) | split
    | (clear_value *; split) | (with_reducible exact kept_mk (kept_of (by assumption))) | (with_reducible apply kept_mk; dsimp only)
    | (with_reducible apply kept_of) | (dsimp only) | (intro _) | (dsimp only [id])
    | (fail_if_no_progress with_reducible refine kept_mk (kept_of ?_)) | (dsimp +zetaDelta -zeta only))

theorem execGeomProbe_kept (c : HostCmd) {s : State} {t' : State} (e : execGeomProbe c s = .next t') (h : Kept q s) : Kept q t' := by
  cases e
  repeat' (first
    | (with_reducible assumption) | (with_reducible apply hostCommand_kept) | (with_reducible apply geomProbeBody_kept)
    | (with_reducible refine kept_ite (fun _ => ?_) (fun _ => ?_)) | split | (clear_value *; split)
    | (with_reducible exact kept_mk (kept_of (by assumption))) | (with_reducible apply kept_mk; dsimp only)
    | (with_reducible apply kept_of) | (dsimp only) | (intro _) | (dsimp only [id])
    | (fail_if_no_progress with_reducible refine kept_mk (kept_of ?_)) | (dsimp +zetaDelta -zeta only))

theorem loomCeilSetBody_kept (x1 : HostCmd) (x2 : Waiter) {s : State} (h : Kept q s) : Kept q (loomCeilSetBody x1 x2 s) := by
  delta loomCeilSetBody
  repeat' (first
    | (with_reducible assumption) | (with_reducible apply complete_kept) | (with_reducible apply request_kept)
    | (with_reducible refine kept_ite (fun _ => ?_) (fun _ => ?_)) | split | (clear_value *; split)
    | (with_reducible exact kept_mk (kept_of (by assumption))) | (with_reducible apply kept_mk; dsimp only)
    | (with_reducible apply kept_of) | (dsimp only) | (intro _) | (dsimp only [id])
    | (fail_if_no_progress with_reducible refine kept_mk (kept_of ?_)) | (dsimp +zetaDelta -zeta only))

theorem execLoomCeilSet_kept (c : HostCmd) {s : State} {t' : State} (e : execLoomCeilSet c s = .next t') (h : Kept q s) : Kept q t' :=
    by
  cases e
  repeat' (first
    | (with_reducible assumption) | (with_reducible apply hostCommand_kept) | (with_reducible apply loomCeilSetBody_kept)
    | (with_reducible refine kept_ite (fun _ => ?_) (fun _ => ?_)) | split | (clear_value *; split)
    | (with_reducible exact kept_mk (kept_of (by assumption))) | (with_reducible apply kept_mk; dsimp only)
    | (with_reducible apply kept_of) | (dsimp only) | (intro _) | (dsimp only [id])
    | (fail_if_no_progress with_reducible refine kept_mk (kept_of ?_)) | (dsimp +zetaDelta -zeta only))

theorem loomCeilQueryBody_kept (x1 : HostCmd) (x2 : Waiter) {s : State} (h : Kept q s) : Kept q (loomCeilQueryBody x1 x2 s) := by
  delta loomCeilQueryBody
  repeat' (first
    | (with_reducible assumption) | (with_reducible apply complete_kept) | (with_reducible apply writeHost_kept)
    | (with_reducible refine kept_ite (fun _ => ?_) (fun _ => ?_)) | split | (clear_value *; split)
    | (with_reducible exact kept_mk (kept_of (by assumption))) | (with_reducible apply kept_mk; dsimp only)
    | (with_reducible apply kept_of) | (dsimp only) | (intro _) | (dsimp only [id])
    | (fail_if_no_progress with_reducible refine kept_mk (kept_of ?_)) | (dsimp +zetaDelta -zeta only))

theorem execLoomCeilQuery_kept (c : HostCmd) {s : State} {t' : State} (e : execLoomCeilQuery c s = .next t') (h : Kept q s) : Kept q t'
    := by
  cases e
  repeat' (first
    | (with_reducible assumption) | (with_reducible apply hostCommand_kept) | (with_reducible apply loomCeilQueryBody_kept)
    | (with_reducible refine kept_ite (fun _ => ?_) (fun _ => ?_)) | split | (clear_value *; split)
    | (with_reducible exact kept_mk (kept_of (by assumption))) | (with_reducible apply kept_mk; dsimp only)
    | (with_reducible apply kept_of) | (dsimp only) | (intro _) | (dsimp only [id])
    | (fail_if_no_progress with_reducible refine kept_mk (kept_of ?_)) | (dsimp +zetaDelta -zeta only))

theorem loomXpDumpBody_kept (x1 : HostCmd) (x2 : Waiter) {s : State} (h : Kept q s) : Kept q (loomXpDumpBody x1 x2 s) := by
  delta loomXpDumpBody
  repeat' (first
    | (with_reducible assumption) | (with_reducible apply complete_kept) | (with_reducible apply setX_kept)
    | (with_reducible refine kept_ite (fun _ => ?_) (fun _ => ?_)) | split | (clear_value *; split)
    | (with_reducible exact kept_mk (kept_of (by assumption))) | (with_reducible apply kept_mk; dsimp only)
    | (with_reducible apply kept_of) | (dsimp only) | (intro _) | (dsimp only [id])
    | (fail_if_no_progress with_reducible refine kept_mk (kept_of ?_)) | (dsimp +zetaDelta -zeta only))

theorem execLoomXpDump_kept (c : HostCmd) {s : State} {t' : State} (e : execLoomXpDump c s = .next t') (h : Kept q s) : Kept q t' := by
  cases e
  repeat' (first
    | (with_reducible assumption) | (with_reducible apply hostCommand_kept) | (with_reducible apply loomXpDumpBody_kept)
    | (with_reducible refine kept_ite (fun _ => ?_) (fun _ => ?_)) | split | (clear_value *; split)
    | (with_reducible exact kept_mk (kept_of (by assumption))) | (with_reducible apply kept_mk; dsimp only)
    | (with_reducible apply kept_of) | (dsimp only) | (intro _) | (dsimp only [id])
    | (fail_if_no_progress with_reducible refine kept_mk (kept_of ?_)) | (dsimp +zetaDelta -zeta only))

end Sys2Proof.Machine
end

