-- ==== Sys2Proof/Laws/KeptReedCmds.lean ====
section
/-!
SUPPORT. Sys2Proof/Laws/KeptReedCmds.lean: the operations of Machine/ReedCmds.lean keep the queue and the invariant of Safety.lean.
-/
namespace Sys2Proof.Machine

set_option linter.all false

variable {q : List Instr}

theorem reedOutCfgBody_kept (x1 : HostCmd) (x2 : Waiter) {s : State} (h : Kept q s) : Kept q (reedOutCfgBody x1 x2 s) := by
  delta reedOutCfgBody
  repeat' (first
    | (with_reducible assumption)
    | (extract_lets +onlyGivenNames y; refine kept_cut (a := y) ?_ ?_; (on_goal 2 => (intro hy; clear_value y)); subst y)
    | (extract_lets +onlyGivenNames y) | (with_reducible apply refusing_kept) | (with_reducible apply complete_kept)
    | (with_reducible apply request_kept) | (with_reducible refine kept_ite (fun _ => ?_) (fun _ => ?_)) | split
    | (clear_value *; split) | (with_reducible exact kept_mk (kept_of (by assumption))) | (with_reducible apply kept_mk; dsimp only)
    | (with_reducible apply kept_of) | (dsimp only) | (intro _) | (dsimp only [id])
    | (fail_if_no_progress with_reducible refine kept_mk (kept_of ?_)) | (dsimp +zetaDelta -zeta only))

theorem execReedOutCfg_kept (c : HostCmd) {s : State} {t' : State} (e : execReedOutCfg c s = .next t') (h : Kept q s) : Kept q t' := by
  cases e
  repeat' (first
    | (with_reducible assumption) | (with_reducible apply hostCommand_kept) | (with_reducible apply reedOutCfgBody_kept)
    | (with_reducible refine kept_ite (fun _ => ?_) (fun _ => ?_)) | split | (clear_value *; split)
    | (with_reducible exact kept_mk (kept_of (by assumption))) | (with_reducible apply kept_mk; dsimp only)
    | (with_reducible apply kept_of) | (dsimp only) | (intro _) | (dsimp only [id])
    | (fail_if_no_progress with_reducible refine kept_mk (kept_of ?_)) | (dsimp +zetaDelta -zeta only))

theorem reedBankLoadBody_kept (x1 : HostCmd) (x2 : Waiter) {s : State} (h : Kept q s) : Kept q (reedBankLoadBody x1 x2 s) := by
  delta reedBankLoadBody
  repeat' (first
    | (with_reducible assumption) | (with_reducible apply refusing_kept) | (with_reducible apply complete_kept)
    | (with_reducible apply startLoad_kept) | (with_reducible refine kept_ite (fun _ => ?_) (fun _ => ?_)) | split
    | (clear_value *; split) | (with_reducible exact kept_mk (kept_of (by assumption))) | (with_reducible apply kept_mk; dsimp only)
    | (with_reducible apply kept_of) | (dsimp only) | (intro _) | (dsimp only [id])
    | (fail_if_no_progress with_reducible refine kept_mk (kept_of ?_)) | (dsimp +zetaDelta -zeta only))

theorem execReedBankLoad_kept (c : HostCmd) {s : State} {t' : State} (e : execReedBankLoad c s = .next t') (h : Kept q s) : Kept q t'
    := by
  cases e
  repeat' (first
    | (with_reducible assumption) | (with_reducible apply hostCommand_kept) | (with_reducible apply reedBankLoadBody_kept)
    | (with_reducible refine kept_ite (fun _ => ?_) (fun _ => ?_)) | split | (clear_value *; split)
    | (with_reducible exact kept_mk (kept_of (by assumption))) | (with_reducible apply kept_mk; dsimp only)
    | (with_reducible apply kept_of) | (dsimp only) | (intro _) | (dsimp only [id])
    | (fail_if_no_progress with_reducible refine kept_mk (kept_of ?_)) | (dsimp +zetaDelta -zeta only))

theorem reedBankCopyBody_kept (x1 : HostCmd) (x2 : Waiter) {s : State} (h : Kept q s) : Kept q (reedBankCopyBody x1 x2 s) := by
  delta reedBankCopyBody
  repeat' (first
    | (with_reducible assumption) | (with_reducible apply refusing_kept) | (with_reducible apply complete_kept)
    | (with_reducible apply putReedInactive_kept) | (with_reducible apply setR_kept)
    | (with_reducible refine kept_ite (fun _ => ?_) (fun _ => ?_)) | split | (clear_value *; split)
    | (with_reducible exact kept_mk (kept_of (by assumption))) | (with_reducible apply kept_mk; dsimp only)
    | (with_reducible apply kept_of) | (dsimp only) | (intro _) | (dsimp only [id])
    | (fail_if_no_progress with_reducible refine kept_mk (kept_of ?_)) | (dsimp +zetaDelta -zeta only))

theorem execReedBankCopy_kept (c : HostCmd) {s : State} {t' : State} (e : execReedBankCopy c s = .next t') (h : Kept q s) : Kept q t'
    := by
  cases e
  repeat' (first
    | (with_reducible assumption) | (with_reducible apply hostCommand_kept) | (with_reducible apply reedBankCopyBody_kept)
    | (with_reducible refine kept_ite (fun _ => ?_) (fun _ => ?_)) | split | (clear_value *; split)
    | (with_reducible exact kept_mk (kept_of (by assumption))) | (with_reducible apply kept_mk; dsimp only)
    | (with_reducible apply kept_of) | (dsimp only) | (intro _) | (dsimp only [id])
    | (fail_if_no_progress with_reducible refine kept_mk (kept_of ?_)) | (dsimp +zetaDelta -zeta only))

theorem reedOutLoadBody_kept (x1 : HostCmd) (x2 : Waiter) {s : State} (h : Kept q s) : Kept q (reedOutLoadBody x1 x2 s) := by
  delta reedOutLoadBody
  repeat' (first
    | (with_reducible assumption) | (with_reducible apply refusing_kept) | (with_reducible apply complete_kept)
    | (with_reducible apply startLoad_kept) | (with_reducible refine kept_ite (fun _ => ?_) (fun _ => ?_)) | split
    | (clear_value *; split) | (with_reducible exact kept_mk (kept_of (by assumption))) | (with_reducible apply kept_mk; dsimp only)
    | (with_reducible apply kept_of) | (dsimp only) | (intro _) | (dsimp only [id])
    | (fail_if_no_progress with_reducible refine kept_mk (kept_of ?_)) | (dsimp +zetaDelta -zeta only))

theorem execReedOutLoad_kept (c : HostCmd) {s : State} {t' : State} (e : execReedOutLoad c s = .next t') (h : Kept q s) : Kept q t' :=
    by
  cases e
  repeat' (first
    | (with_reducible assumption) | (with_reducible apply hostCommand_kept) | (with_reducible apply reedOutLoadBody_kept)
    | (with_reducible refine kept_ite (fun _ => ?_) (fun _ => ?_)) | split | (clear_value *; split)
    | (with_reducible exact kept_mk (kept_of (by assumption))) | (with_reducible apply kept_mk; dsimp only)
    | (with_reducible apply kept_of) | (dsimp only) | (intro _) | (dsimp only [id])
    | (fail_if_no_progress with_reducible refine kept_mk (kept_of ?_)) | (dsimp +zetaDelta -zeta only))

theorem takeReed_kept (img : List Byte) (len : Nat) {s : State} (h : Kept q s) : Kept q (takeReed img len s).2 := by
  delta takeReed
  repeat' (first
    | (with_reducible assumption) | (with_reducible apply putReedInactive_kept) | (with_reducible apply setR_kept)
    | (with_reducible refine kept_ite (fun _ => ?_) (fun _ => ?_)) | split | (clear_value *; split)
    | (with_reducible exact kept_mk (kept_of (by assumption))) | (with_reducible apply kept_mk; dsimp only)
    | (with_reducible apply kept_of) | (dsimp only) | (intro _) | (dsimp only [id])
    | (fail_if_no_progress with_reducible refine kept_mk (kept_of ?_)) | (dsimp +zetaDelta -zeta only))

theorem takeOutput_kept (img : List Byte) (len : Nat) {s : State} (h : Kept q s) : Kept q (takeOutput img len s).2 := by
  delta takeOutput
  repeat' (first
    | (with_reducible assumption)
    | (extract_lets +onlyGivenNames y; refine kept_cut (a := y) ?_ ?_; (on_goal 2 => (intro hy; clear_value y)); subst y)
    | (extract_lets +onlyGivenNames y) | (with_reducible apply putReedInactive_kept)
    | (with_reducible refine kept_ite (fun _ => ?_) (fun _ => ?_)) | (with_reducible refine kept_foldl (fun _ _ _ => ?_) ?_)
    | (with_reducible refine kept_foldl1 (fun _ _ _ => ?_) ?_) | (with_reducible refine kept_foldl2 (fun _ _ _ => ?_) ?_) | split
    | (clear_value *; split) | (with_reducible exact kept_mk (kept_of (by assumption))) | (with_reducible apply kept_mk; dsimp only)
    | (with_reducible apply kept_of) | (dsimp only) | (intro _) | (dsimp only [id])
    | (fail_if_no_progress with_reducible refine kept_mk (kept_of ?_)) | (dsimp +zetaDelta -zeta only))

theorem commitReed_kept (l : Load) {s : State} (h : Kept q s) : Kept q (commitReed l s).1 := by
  delta commitReed
  repeat' (first
    | (with_reducible assumption)
    | (extract_lets +onlyGivenNames y; refine kept_cut (a := y) ?_ ?_; (on_goal 2 => (intro hy; clear_value y)); subst y)
    | (extract_lets +onlyGivenNames y; refine kept_cut2 (p := y) ?_ ?_; (on_goal 2 => (intro hy; clear_value y)); subst y)
    | (extract_lets +onlyGivenNames y) | (with_reducible apply takeOutput_kept) | (with_reducible apply takeReed_kept)
    | (with_reducible apply endLoad_kept) | (with_reducible refine kept_ite (fun _ => ?_) (fun _ => ?_))
    | (refine kept_snd (by assumption) ?_) | split | (clear_value *; split)
    | (with_reducible exact kept_mk (kept_of (by assumption))) | (with_reducible apply kept_mk; dsimp only)
    | (with_reducible apply kept_of) | (dsimp only) | (intro _) | (dsimp only [id])
    | (fail_if_no_progress with_reducible refine kept_mk (kept_of ?_)) | (dsimp +zetaDelta -zeta only))

theorem reedBankSwapBody_kept (c : HostCmd) (w : Waiter) {s : State} (h : Kept q s) : Kept q (reedBankSwapBody c w s) := by
  delta reedBankSwapBody
  extract_lets +onlyGivenNames xf
  refine refusing_kept _ _ h ?_
  refine kept_ite (fun _ => complete_kept _ _ h) (fun _ => ?_)
  split
  · exact complete_kept _ _ h
  · rename_i k late e
    extract_lets +onlyGivenNames chg s0
    refine kept_ite (fun _ => complete_kept _ _ h) (fun _ => kept_ite (fun _ => complete_kept _ _ h) (fun _ => ?_))
    have hz : ∀ who u, s0 = some (who, u) → Kept q u := by
      intro who u e2
      subst s0
      split at e2
      · split at e2
        · cases e2; exact kept_mk (kept_of h)
        · cases e2
      · cases e2; exact h
    clear_value s0
    split
    · exact complete_kept _ _ h
    · rename_i who u
      have hu : Kept q u := hz _ _ rfl
      extract_lets +onlyGivenNames v
      have hv : Kept q v := pushSched_kept _ _ _ _ hu
      clear_value v
      split
      · exact complete_kept _ _ h
      · exact completeOpt_kept _ _ hv

theorem execReedBankSwap_kept (c : HostCmd) {s : State} {t' : State} (e : execReedBankSwap c s = .next t') (h : Kept q s) : Kept q t'
    := by
  cases e
  repeat' (first
    | (with_reducible assumption) | (with_reducible apply hostCommand_kept) | (with_reducible apply reedBankSwapBody_kept)
    | (with_reducible refine kept_ite (fun _ => ?_) (fun _ => ?_)) | split | (clear_value *; split)
    | (with_reducible exact kept_mk (kept_of (by assumption))) | (with_reducible apply kept_mk; dsimp only)
    | (with_reducible apply kept_of) | (dsimp only) | (intro _) | (dsimp only [id])
    | (fail_if_no_progress with_reducible refine kept_mk (kept_of ?_)) | (dsimp +zetaDelta -zeta only))

theorem settleBankSwap_kept (ok : Bool) {s : State} (h : Kept q s) : Kept q (settleBankSwap ok s) := by
  delta settleBankSwap
  repeat' (first
    | (with_reducible assumption)
    | (extract_lets +onlyGivenNames y; refine kept_cut (a := y) ?_ ?_; (on_goal 2 => (intro hy; clear_value y)); subst y)
    | (extract_lets +onlyGivenNames y) | (with_reducible apply completeOpt_kept)
    | (with_reducible refine kept_ite (fun _ => ?_) (fun _ => ?_)) | split | (clear_value *; split)
    | (with_reducible exact kept_mk (kept_of (by assumption))) | (with_reducible apply kept_mk; dsimp only)
    | (with_reducible apply kept_of) | (dsimp only) | (intro _) | (dsimp only [id])
    | (fail_if_no_progress with_reducible refine kept_mk (kept_of ?_)) | (dsimp +zetaDelta -zeta only))

theorem reedBankQueryBody_kept (x1 : HostCmd) (x2 : Waiter) {s : State} (h : Kept q s) : Kept q (reedBankQueryBody x1 x2 s) := by
  delta reedBankQueryBody
  repeat' (first
    | (with_reducible assumption) | (with_reducible apply refusing_kept) | (with_reducible apply complete_kept)
    | (with_reducible apply writeHost_kept) | (with_reducible refine kept_ite (fun _ => ?_) (fun _ => ?_)) | split
    | (clear_value *; split) | (with_reducible exact kept_mk (kept_of (by assumption))) | (with_reducible apply kept_mk; dsimp only)
    | (with_reducible apply kept_of) | (dsimp only) | (intro _) | (dsimp only [id])
    | (fail_if_no_progress with_reducible refine kept_mk (kept_of ?_)) | (dsimp +zetaDelta -zeta only))

theorem execReedBankQuery_kept (c : HostCmd) {s : State} {t' : State} (e : execReedBankQuery c s = .next t') (h : Kept q s) : Kept q t'
    := by
  cases e
  repeat' (first
    | (with_reducible assumption) | (with_reducible apply hostCommand_kept) | (with_reducible apply reedBankQueryBody_kept)
    | (with_reducible refine kept_ite (fun _ => ?_) (fun _ => ?_)) | split | (clear_value *; split)
    | (with_reducible exact kept_mk (kept_of (by assumption))) | (with_reducible apply kept_mk; dsimp only)
    | (with_reducible apply kept_of) | (dsimp only) | (intro _) | (dsimp only [id])
    | (fail_if_no_progress with_reducible refine kept_mk (kept_of ?_)) | (dsimp +zetaDelta -zeta only))

theorem reedMeasRunBody_kept (x1 : HostCmd) (x2 : Waiter) {s : State} (h : Kept q s) : Kept q (reedMeasRunBody x1 x2 s) := by
  delta reedMeasRunBody
  repeat' (first
    | (with_reducible assumption)
    | (extract_lets +onlyGivenNames y; refine kept_cut (a := y) ?_ ?_; (on_goal 2 => (intro hy; clear_value y)); subst y)
    | (extract_lets +onlyGivenNames y) | (with_reducible apply refusing_kept) | (with_reducible apply complete_kept)
    | (with_reducible apply putReedInactive_kept) | (with_reducible apply post_kept) | (with_reducible apply setR_kept)
    | (with_reducible refine kept_ite (fun _ => ?_) (fun _ => ?_)) | split | (clear_value *; split)
    | (with_reducible exact kept_mk (kept_of (by assumption))) | (with_reducible apply kept_mk; dsimp only)
    | (with_reducible apply kept_of) | (dsimp only) | (intro _) | (dsimp only [id])
    | (fail_if_no_progress with_reducible refine kept_mk (kept_of ?_)) | (dsimp +zetaDelta -zeta only))

theorem execReedMeasRun_kept (c : HostCmd) {s : State} {t' : State} (e : execReedMeasRun c s = .next t') (h : Kept q s) : Kept q t' :=
    by
  cases e
  repeat' (first
    | (with_reducible assumption) | (with_reducible apply hostCommand_kept) | (with_reducible apply reedMeasRunBody_kept)
    | (with_reducible refine kept_ite (fun _ => ?_) (fun _ => ?_)) | split | (clear_value *; split)
    | (with_reducible exact kept_mk (kept_of (by assumption))) | (with_reducible apply kept_mk; dsimp only)
    | (with_reducible apply kept_of) | (dsimp only) | (intro _) | (dsimp only [id])
    | (fail_if_no_progress with_reducible refine kept_mk (kept_of ?_)) | (dsimp +zetaDelta -zeta only))

theorem reedMeasAbortBody_kept (x1 : HostCmd) (x2 : Waiter) {s : State} (h : Kept q s) : Kept q (reedMeasAbortBody x1 x2 s) := by
  delta reedMeasAbortBody
  repeat' (first
    | (with_reducible assumption) | (with_reducible apply refusing_kept) | (with_reducible apply complete_kept)
    | (with_reducible apply endMeas_kept) | (with_reducible apply stopStimulus_kept)
    | (with_reducible refine kept_ite (fun _ => ?_) (fun _ => ?_)) | split | (clear_value *; split)
    | (with_reducible exact kept_mk (kept_of (by assumption))) | (with_reducible apply kept_mk; dsimp only)
    | (with_reducible apply kept_of) | (dsimp only) | (intro _) | (dsimp only [id])
    | (fail_if_no_progress with_reducible refine kept_mk (kept_of ?_)) | (dsimp +zetaDelta -zeta only))

theorem execReedMeasAbort_kept (c : HostCmd) {s : State} {t' : State} (e : execReedMeasAbort c s = .next t') (h : Kept q s) : Kept q t'
    := by
  cases e
  repeat' (first
    | (with_reducible assumption) | (with_reducible apply hostCommand_kept) | (with_reducible apply reedMeasAbortBody_kept)
    | (with_reducible refine kept_ite (fun _ => ?_) (fun _ => ?_)) | split | (clear_value *; split)
    | (with_reducible exact kept_mk (kept_of (by assumption))) | (with_reducible apply kept_mk; dsimp only)
    | (with_reducible apply kept_of) | (dsimp only) | (intro _) | (dsimp only [id])
    | (fail_if_no_progress with_reducible refine kept_mk (kept_of ?_)) | (dsimp +zetaDelta -zeta only))

theorem measCaptureEnd_kept {s : State} (h : Kept q s) : Kept q (measCaptureEnd s) := by
  delta measCaptureEnd
  repeat' (first
    | (with_reducible assumption) | (with_reducible apply setR_kept) | (with_reducible refine kept_ite (fun _ => ?_) (fun _ => ?_))
    | split | (clear_value *; split) | (with_reducible exact kept_mk (kept_of (by assumption)))
    | (with_reducible apply kept_mk; dsimp only) | (with_reducible apply kept_of) | (dsimp only) | (intro _) | (dsimp only [id])
    | (fail_if_no_progress with_reducible refine kept_mk (kept_of ?_)) | (dsimp +zetaDelta -zeta only))

theorem execMeasCaptureEnd_kept (t : Nat) {s : State} {t' : State} (e : execMeasCaptureEnd t s = .next t') (h : Kept q s) : Kept q t'
    := by
  cases e
  repeat' (first
    | (with_reducible assumption) | (with_reducible apply measCaptureEnd_kept) | (with_reducible apply advance_kept)
    | (with_reducible refine kept_ite (fun _ => ?_) (fun _ => ?_)) | split | (clear_value *; split)
    | (with_reducible exact kept_mk (kept_of (by assumption))) | (with_reducible apply kept_mk; dsimp only)
    | (with_reducible apply kept_of) | (dsimp only) | (intro _) | (dsimp only [id])
    | (fail_if_no_progress with_reducible refine kept_mk (kept_of ?_)) | (dsimp +zetaDelta -zeta only))

theorem measRunComplete_kept {s : State} (h : Kept q s) : Kept q (measRunComplete s) := by
  delta measRunComplete
  repeat' (first
    | (with_reducible assumption) | (with_reducible apply endMeas_kept) | (with_reducible apply writeHost_kept)
    | (with_reducible refine kept_ite (fun _ => ?_) (fun _ => ?_)) | split | (clear_value *; split)
    | (with_reducible exact kept_mk (kept_of (by assumption))) | (with_reducible apply kept_mk; dsimp only)
    | (with_reducible apply kept_of) | (dsimp only) | (intro _) | (dsimp only [id])
    | (fail_if_no_progress with_reducible refine kept_mk (kept_of ?_)) | (dsimp +zetaDelta -zeta only))

theorem execMeasRunComplete_kept (t : Nat) {s : State} {t' : State} (e : execMeasRunComplete t s = .next t') (h : Kept q s) : Kept q t'
    := by
  cases e
  repeat' (first
    | (with_reducible assumption) | (with_reducible apply measRunComplete_kept) | (with_reducible apply advance_kept)
    | (with_reducible refine kept_ite (fun _ => ?_) (fun _ => ?_)) | split | (clear_value *; split)
    | (with_reducible exact kept_mk (kept_of (by assumption))) | (with_reducible apply kept_mk; dsimp only)
    | (with_reducible apply kept_of) | (dsimp only) | (intro _) | (dsimp only [id])
    | (fail_if_no_progress with_reducible refine kept_mk (kept_of ?_)) | (dsimp +zetaDelta -zeta only))

end Sys2Proof.Machine
end

