-- ==== Sys2Proof/Laws/KeptRings.lean ====
section
/-!
SUPPORT. Sys2Proof/Laws/KeptRings.lean: the operations of Machine/Rings.lean keep the queue and the invariant of Safety.lean.
-/
namespace Sys2Proof.Machine

set_option linter.all false

variable {q : List Instr}

theorem doorbellBad_kept (q0 : Nat) (hi : Nat) (lo : Nat) {s : State} (h : Kept q s) : Kept q (doorbellBad q0 hi lo s) := by
  delta doorbellBad
  repeat' (first
    | (with_reducible assumption) | (with_reducible apply post_kept) | (with_reducible apply signal_kept)
    | (with_reducible apply bump_kept) | (with_reducible refine kept_ite (fun _ => ?_) (fun _ => ?_)) | split
    | (clear_value *; split) | (with_reducible exact kept_mk (kept_of (by assumption))) | (with_reducible apply kept_mk; dsimp only)
    | (with_reducible apply kept_of) | (dsimp only) | (intro _) | (dsimp only [id])
    | (fail_if_no_progress with_reducible refine kept_mk (kept_of ?_)) | (dsimp +zetaDelta -zeta only))

theorem ringDoorbell_kept (k v : Nat) {s : State} (g : v < (s.ring k).depth) (h : Kept q s) : Kept q (ringDoorbell k v s) := by
  have ok := h.2.2.1 k
  delta ringDoorbell
  extract_lets +onlyGivenNames r
  refine kept_ite (fun _ => ?_) (fun _ => ?_)
  · extract_lets +onlyGivenNames u
    have hu : Kept q u := setRing_kept (fun e => ⟨g, (ok e).2⟩) h
    clear_value u
    exact kept_ite (fun _ => releaseHeld_kept _ hu) (fun _ => kept_ite (fun _ => tellLost_kept hu) (fun _ => hu))
  · extract_lets +onlyGivenNames n u
    have hu : Kept q u := setRing_kept (fun e => ⟨(ok e).1, g⟩) h
    clear_value u
    exact kept_ite (fun _ => mq1Posted_kept hu) (fun _ => hu)

theorem msixWrite_kept (i : Nat) (v : Word) {s : State} (h : Kept q s) : Kept q (msixWrite i v s) := by
  delta msixWrite
  repeat' (first
    | (with_reducible assumption)
    | (extract_lets +onlyGivenNames y; refine kept_cut (a := y) ?_ ?_; (on_goal 2 => (intro hy; clear_value y)); subst y)
    | (extract_lets +onlyGivenNames y) | (with_reducible apply signal_kept) | (with_reducible refine setH_kept rfl rfl rfl rfl ?_)
    | (with_reducible refine kept_ite (fun _ => ?_) (fun _ => ?_)) | split | (clear_value *; split)
    | (with_reducible exact kept_mk (kept_of (by assumption))) | (with_reducible apply kept_mk; dsimp only)
    | (with_reducible apply kept_of) | (dsimp only) | (intro _) | (dsimp only [id])
    | (fail_if_no_progress with_reducible refine kept_mk (kept_of ?_)) | (dsimp +zetaDelta -zeta only))

theorem doorbellWrite_kept (off width : Nat) (v : Word) {s : State} (h : Kept q s) : Kept q (doorbellWrite off width v s) := by
  delta doorbellWrite
  refine kept_ite (fun _ => h) (fun _ => kept_ite (fun _ => ?_) (fun _ => kept_ite (fun _ => msixWrite_kept _ _ h) (fun _ => h)))
  extract_lets k r
  exact kept_ite (fun _ => doorbellBad_kept _ _ _ h) (fun _ => kept_ite (fun _ => doorbellBad_kept _ _ _ h)
    (fun g => ringDoorbell_kept k v.toNat (Nat.lt_of_not_le g) h))

theorem execDoorbellWrite_kept (t : Nat) (off : Nat) (width : Nat) (v : Word) {s : State} {t' : State} (e : execDoorbellWrite t off
    width v s = .next t') (h : Kept q s) : Kept q t' := by
  cases e
  repeat' (first
    | (with_reducible assumption) | (with_reducible apply doorbellWrite_kept) | (with_reducible apply advance_kept)
    | (with_reducible refine kept_ite (fun _ => ?_) (fun _ => ?_)) | split | (clear_value *; split)
    | (with_reducible exact kept_mk (kept_of (by assumption))) | (with_reducible apply kept_mk; dsimp only)
    | (with_reducible apply kept_of) | (dsimp only) | (intro _) | (dsimp only [id])
    | (fail_if_no_progress with_reducible refine kept_mk (kept_of ?_)) | (dsimp +zetaDelta -zeta only))

theorem enableRing_kept (k d nch : Nat) {s : State} (g : 0 < d) (h : Kept q s) : Kept q (enableRing k d nch s) := by
  delta enableRing
  dsimp only
  have hu : Kept q (setRing k { Ring.off with en := true, depth := d, nch := nch } s) := setRing_kept (fun _ => ⟨g, g⟩) h
  exact kept_ite (fun _ => releaseHeld_kept _ hu) (fun _ => kept_ite (fun _ => tellLost_kept hu) (fun _ => hu))

theorem depthOk_pos {d : Nat} (h : depthOk d = true) : 0 < d := by
  simp only [depthOk, List.any_eq_true, decide_eq_true_eq] at h
  obtain ⟨k, _, rfl⟩ := h
  exact Nat.two_pow_pos _

theorem ringCfgWrite_kept (k : Nat) (v : Word) {s : State} (h : Kept q s) : Kept q (ringCfgWrite k v s) := by
  delta ringCfgWrite
  extract_lets r d nch
  refine kept_ite (fun _ => h) (fun _ => kept_ite (fun _ => setRing_kept (fun e => ?_) h) (fun _ => kept_ite (fun _ => h) (fun g =>
    kept_ite (fun gd => enableRing_kept k d nch (depthOk_pos gd.1) h) (fun _ => setRing_kept (fun e => absurd e g) h))))
  exact absurd e (by simp)

theorem bar2Discard_kept {s : State} (h : Kept q s) : Kept q (bar2Discard s) := by
  delta bar2Discard
  repeat' (first
    | (with_reducible assumption) | (with_reducible apply post_kept) | (with_reducible apply signal_kept)
    | (with_reducible apply bump_kept) | (with_reducible refine kept_ite (fun _ => ?_) (fun _ => ?_)) | split
    | (clear_value *; split) | (with_reducible exact kept_mk (kept_of (by assumption))) | (with_reducible apply kept_mk; dsimp only)
    | (with_reducible apply kept_of) | (dsimp only) | (intro _) | (dsimp only [id])
    | (fail_if_no_progress with_reducible refine kept_mk (kept_of ?_)) | (dsimp +zetaDelta -zeta only))

theorem bar2Write_kept (off : Nat) (bytes : List Byte) {s : State} (h : Kept q s) : Kept q (bar2Write off bytes s) := by
  delta bar2Write
  repeat' (first
    | (with_reducible assumption) | (with_reducible apply writeOnChip_kept) | (with_reducible apply bar2Discard_kept)
    | (with_reducible refine kept_ite (fun _ => ?_) (fun _ => ?_)) | split | (clear_value *; split)
    | (with_reducible exact kept_mk (kept_of (by assumption))) | (with_reducible apply kept_mk; dsimp only)
    | (with_reducible apply kept_of) | (dsimp only) | (intro _) | (dsimp only [id])
    | (fail_if_no_progress with_reducible refine kept_mk (kept_of ?_)) | (dsimp +zetaDelta -zeta only))

theorem execBar2Write_kept (t : Nat) (off : Nat) (bytes : List Byte) {s : State} {t' : State} (e : execBar2Write t off bytes s = .next
    t') (h : Kept q s) : Kept q t' := by
  cases e
  repeat' (first
    | (with_reducible assumption) | (with_reducible apply bar2Write_kept) | (with_reducible apply advance_kept)
    | (with_reducible refine kept_ite (fun _ => ?_) (fun _ => ?_)) | split | (clear_value *; split)
    | (with_reducible exact kept_mk (kept_of (by assumption))) | (with_reducible apply kept_mk; dsimp only)
    | (with_reducible apply kept_of) | (dsimp only) | (intro _) | (dsimp only [id])
    | (fail_if_no_progress with_reducible refine kept_mk (kept_of ?_)) | (dsimp +zetaDelta -zeta only))

end Sys2Proof.Machine
end

