-- ==== Sys2Proof/Laws/KeptHostReset.lean ====
section
/-!
SUPPORT. Sys2Proof/Laws/KeptHostReset.lean: the operations of Machine/HostReset.lean keep the queue and the invariant of Safety.lean.
-/
namespace Sys2Proof.Machine

set_option linter.all false

variable {q : List Instr}

theorem emptyCopy_kept (set : ParamSet) {s : State} (h : Kept q s) : Kept q (emptyCopy set s) := by
  delta emptyCopy
  repeat' (first
    | (with_reducible assumption)
    | (extract_lets +onlyGivenNames y; refine kept_cut (a := y) ?_ ?_; (on_goal 2 => (intro hy; clear_value y)); subst y)
    | (extract_lets +onlyGivenNames y) | (with_reducible apply settleSwaps_kept) | (with_reducible apply emptyInactive_kept)
    | (with_reducible apply settleBankSwap_kept) | (with_reducible apply putReedInactive_kept)
    | (with_reducible apply putFchIdle_kept) | (with_reducible apply complete_kept) | (with_reducible apply freeHeld_kept)
    | (with_reducible apply putLcore_kept) | (with_reducible apply putPcore_kept) | (with_reducible apply setX_kept)
    | (with_reducible apply setR_kept) | (with_reducible apply setF_kept)
    | (with_reducible refine kept_ite (fun _ => ?_) (fun _ => ?_)) | split | (clear_value *; split)
    | (with_reducible exact kept_mk (kept_of (by assumption))) | (with_reducible apply kept_mk; dsimp only)
    | (with_reducible apply kept_of) | (dsimp only) | (intro _) | (dsimp only [id])
    | (fail_if_no_progress with_reducible refine kept_mk (kept_of ?_)) | (dsimp +zetaDelta -zeta only))

theorem dropLoad_kept {s : State} (l : Load) (h : Kept q s) : Kept q (dropLoad s l) := by
  delta dropLoad
  repeat' (first
    | (with_reducible assumption) | (with_reducible apply emptyCopy_kept) | (with_reducible refine setH_kept rfl rfl rfl rfl ?_)
    | (with_reducible refine kept_ite (fun _ => ?_) (fun _ => ?_)) | split | (clear_value *; split)
    | (with_reducible exact kept_mk (kept_of (by assumption))) | (with_reducible apply kept_mk; dsimp only)
    | (with_reducible apply kept_of) | (dsimp only) | (intro _) | (dsimp only [id])
    | (fail_if_no_progress with_reducible refine kept_mk (kept_of ?_)) | (dsimp +zetaDelta -zeta only))

theorem filterHeld_kept (p : Held → Bool) {s : State} (h : Kept q s) : Kept q (setH (fun h => { h with holdQ := h.holdQ.filter p }) s) :=
  ⟨h.1, h.2.1, h.2.2.1, Nat.le_trans (List.length_filter_le _ _) h.2.2.2.1, h.2.2.2.2⟩

theorem cmdAbortBody_kept (c : HostCmd) (w : Waiter) {s : State} (h : Kept q s) : Kept q (cmdAbortBody c w s) := by
  delta cmdAbortBody
  refine kept_ite (fun _ => complete_kept _ _ h) (fun _ => ?_)
  split
  · exact complete_kept _ _ (complete_kept _ _ (accepted_kept _ (filterHeld_kept _ h)))
  · split
    · exact complete_kept _ _ (complete_kept _ _ (accepted_kept _ (dropLoad_kept _ h)))
    · exact complete_kept _ _ h

theorem execCmdAbort_kept (c : HostCmd) {s : State} {t' : State} (e : execCmdAbort c s = .next t') (h : Kept q s) : Kept q t' := by
  cases e
  repeat' (first
    | (with_reducible assumption) | (with_reducible apply hostCommand_kept) | (with_reducible apply cmdAbortBody_kept)
    | (with_reducible refine kept_ite (fun _ => ?_) (fun _ => ?_)) | split | (clear_value *; split)
    | (with_reducible exact kept_mk (kept_of (by assumption))) | (with_reducible apply kept_mk; dsimp only)
    | (with_reducible apply kept_of) | (dsimp only) | (intro _) | (dsimp only [id])
    | (fail_if_no_progress with_reducible refine kept_mk (kept_of ?_)) | (dsimp +zetaDelta -zeta only))

theorem ringsOk_nil : RingsOk [] := fun k h => absurd h (by simp [nget, Ring.off])

theorem boxesOk_nil : BoxesOk [] := fun k => by simp [nget]

theorem noHeld_kept {s : State} (h : Kept q s) : Kept q (setH (fun h => { h with accepted := [], holdQ := [] }) s) :=
  ⟨h.1, h.2.1, h.2.2.1, by simp [setH], h.2.2.2.2⟩

theorem hostClear_kept {s : State} (h : Kept q s) : Kept q (hostClear s) := by
  delta hostClear
  extract_lets +onlyGivenNames lost orphans u v w
  have hu : Kept q u := putField_kept _ _ _ _ (putField_kept _ _ _ _ h)
  clear_value u
  have hv : Kept q v := kept_foldl (fun s l h => dropLoad_kept l h) (noHeld_kept hu)
  clear_value v
  have hw : Kept q w := ⟨hv.1, hv.2.1, ringsOk_nil, hv.2.2.2.1, boxesOk_nil, hv.2.2.2.2.2⟩
  clear_value w
  exact resetRegs_kept _ _ (resetRegs_kept _ _ hw)

theorem hostSideReset_kept (kind : HostReset) {s : State} (h : Kept q s) : Kept q (hostSideReset kind s) := by
  delta hostSideReset
  repeat' (first
    | (with_reducible assumption)
    | (extract_lets +onlyGivenNames y; refine kept_cut (a := y) ?_ ?_; (on_goal 2 => (intro hy; clear_value y)); subst y)
    | (extract_lets +onlyGivenNames y) | (with_reducible apply hostClear_kept) | (with_reducible apply bump_kept)
    | (with_reducible apply post_kept) | (with_reducible refine setH_kept rfl rfl rfl rfl ?_)
    | (with_reducible refine kept_ite (fun _ => ?_) (fun _ => ?_)) | split | (clear_value *; split)
    | (with_reducible exact kept_mk (kept_of (by assumption))) | (with_reducible apply kept_mk; dsimp only)
    | (with_reducible apply kept_of) | (dsimp only) | (intro _) | (dsimp only [id])
    | (fail_if_no_progress with_reducible refine kept_mk (kept_of ?_)) | (dsimp +zetaDelta -zeta only))

theorem execHostSideReset_kept (t : Nat) (kind : HostReset) {s : State} {t' : State} (e : execHostSideReset t kind s = .next t') (h :
    Kept q s) : Kept q t' := by
  cases e
  repeat' (first
    | (with_reducible assumption) | (with_reducible apply hostSideReset_kept) | (with_reducible apply advance_kept)
    | (with_reducible refine kept_ite (fun _ => ?_) (fun _ => ?_)) | split | (clear_value *; split)
    | (with_reducible exact kept_mk (kept_of (by assumption))) | (with_reducible apply kept_mk; dsimp only)
    | (with_reducible apply kept_of) | (dsimp only) | (intro _) | (dsimp only [id])
    | (fail_if_no_progress with_reducible refine kept_mk (kept_of ?_)) | (dsimp +zetaDelta -zeta only))

theorem d3hotExit_kept {s : State} (h : Kept q s) : Kept q (d3hotExit s) := by
  delta d3hotExit
  repeat' (first
    | (with_reducible assumption) | (with_reducible apply hostClear_kept)
    | (with_reducible refine kept_ite (fun _ => ?_) (fun _ => ?_)) | split | (clear_value *; split)
    | (with_reducible exact kept_mk (kept_of (by assumption))) | (with_reducible apply kept_mk; dsimp only)
    | (with_reducible apply kept_of) | (dsimp only) | (intro _) | (dsimp only [id])
    | (fail_if_no_progress with_reducible refine kept_mk (kept_of ?_)) | (dsimp +zetaDelta -zeta only))

theorem execD3hotExit_kept (t : Nat) {s : State} {t' : State} (e : execD3hotExit t s = .next t') (h : Kept q s) : Kept q t' := by
  cases e
  repeat' (first
    | (with_reducible assumption) | (with_reducible apply d3hotExit_kept) | (with_reducible apply advance_kept)
    | (with_reducible refine kept_ite (fun _ => ?_) (fun _ => ?_)) | split | (clear_value *; split)
    | (with_reducible exact kept_mk (kept_of (by assumption))) | (with_reducible apply kept_mk; dsimp only)
    | (with_reducible apply kept_of) | (dsimp only) | (intro _) | (dsimp only [id])
    | (fail_if_no_progress with_reducible refine kept_mk (kept_of ?_)) | (dsimp +zetaDelta -zeta only))

end Sys2Proof.Machine
end

