-- ==== Sys2Proof/Laws/KeptBoot.lean ====
section
/-!
SUPPORT. Sys2Proof/Laws/KeptBoot.lean: the operations of Machine/Boot.lean keep the queue and the invariant of Safety.lean.
-/
namespace Sys2Proof.Machine

set_option linter.all false

variable {q : List Instr}

theorem bootRecovery_kept {s : State} (h : Kept q s) : Kept q (bootRecovery s) := by
  delta bootRecovery
  repeat' (first
    | (with_reducible assumption)
    | (extract_lets +onlyGivenNames y; refine kept_cut (a := y) ?_ ?_; (on_goal 2 => (intro hy; clear_value y)); subst y)
    | (extract_lets +onlyGivenNames y) | (with_reducible apply post_kept) | (with_reducible apply writeOnChip_kept)
    | (with_reducible apply setM_kept) | (with_reducible apply setP_kept)
    | (with_reducible refine kept_ite (fun _ => ?_) (fun _ => ?_)) | split | (clear_value *; split)
    | (with_reducible exact kept_mk (kept_of (by assumption))) | (with_reducible apply kept_mk; dsimp only)
    | (with_reducible apply kept_of) | (dsimp only) | (intro _) | (dsimp only [id])
    | (fail_if_no_progress with_reducible refine kept_mk (kept_of ?_)) | (dsimp +zetaDelta -zeta only))

theorem bootImage_kept (k : Nat) (trial : Bool) {s : State} (h : Kept q s) : Kept q (bootImage k trial s) := by
  delta bootImage
  repeat' (first
    | (with_reducible assumption)
    | (extract_lets +onlyGivenNames y; refine kept_cut (a := y) ?_ ?_; (on_goal 2 => (intro hy; clear_value y)); subst y)
    | (extract_lets +onlyGivenNames y) | (with_reducible apply writeOnChip_kept) | (with_reducible apply setM_kept)
    | (with_reducible apply setP_kept) | (with_reducible refine setH_kept rfl rfl rfl rfl ?_)
    | (with_reducible refine kept_ite (fun _ => ?_) (fun _ => ?_)) | split | (clear_value *; split)
    | (with_reducible exact kept_mk (kept_of (by assumption))) | (with_reducible apply kept_mk; dsimp only)
    | (with_reducible apply kept_of) | (dsimp only) | (intro _) | (dsimp only [id])
    | (fail_if_no_progress with_reducible refine kept_mk (kept_of ?_)) | (dsimp +zetaDelta -zeta only))

theorem bootSelect_kept {s : State} (h : Kept q s) : Kept q (bootSelect s) := by
  delta bootSelect
  repeat' (first
    | (with_reducible assumption)
    | (extract_lets +onlyGivenNames y; refine kept_cut (a := y) ?_ ?_; (on_goal 2 => (intro hy; clear_value y)); subst y)
    | (extract_lets +onlyGivenNames y) | (with_reducible apply bootRecovery_kept) | (with_reducible apply bootImage_kept)
    | (with_reducible apply writeBoot_kept) | (with_reducible apply post_kept) | (with_reducible apply setP_kept)
    | (with_reducible refine kept_ite (fun _ => ?_) (fun _ => ?_)) | split | (clear_value *; split)
    | (with_reducible exact kept_mk (kept_of (by assumption))) | (with_reducible apply kept_mk; dsimp only)
    | (with_reducible apply kept_of) | (dsimp only) | (intro _) | (dsimp only [id])
    | (fail_if_no_progress with_reducible refine kept_mk (kept_of ?_)) | (dsimp +zetaDelta -zeta only))

theorem restartControl_kept {s : State} (h : Kept q s) : Kept q (restartControl s) := by
  delta restartControl
  repeat' (first
    | (with_reducible assumption) | (with_reducible apply bootSelect_kept)
    | (with_reducible refine kept_ite (fun _ => ?_) (fun _ => ?_)) | split | (clear_value *; split)
    | (with_reducible exact kept_mk (kept_of (by assumption))) | (with_reducible apply kept_mk; dsimp only)
    | (with_reducible apply kept_of) | (dsimp only) | (intro _) | (dsimp only [id])
    | (fail_if_no_progress with_reducible refine kept_mk (kept_of ?_)) | (dsimp +zetaDelta -zeta only))

theorem heldBody_kept {i : Instr} {c0 : HostCmd} {body : Body} (e : heldBody i = some (c0, body)) (c : HostCmd) (w : Waiter) {s : State}
    (h : Kept q s) : Kept q (body c w s) := by
  cases i <;> simp only [heldBody, Option.some.injEq, Prod.mk.injEq, reduceCtorEq] at e <;> obtain ⟨_, rfl⟩ := e
  case budgetQuery => exact budgetQueryBody_kept _ _ h
  case budgetSet => exact budgetSetBody_kept _ _ h
  case budgetRestore => exact budgetRestoreBody_kept _ _ h
  case objQuery => exact objQueryBody_kept _ _ h
  case objGlide => exact objGlideBody_kept _ _ h
  case objReset => exact objResetBody_kept _ _ h
  case objFlush => exact objFlushBody_kept _ _ h
  case loomCeilSet => exact loomCeilSetBody_kept _ _ h
  case loomCeilQuery => exact loomCeilQueryBody_kept _ _ h
  case loomXpDump => exact loomXpDumpBody_kept _ _ h
  case aesCfg => exact aesCfgBody_kept _ _ h
  case tdmCfg => exact tdmCfgBody_kept _ _ h
  case groupSet => exact groupSetBody_kept _ _ h
  case aesCsSet => exact aesCsSetBody_kept _ _ h
  case aesUserSet => exact aesUserSetBody_kept _ _ h
  case aesUserGet => exact aesUserGetBody_kept _ _ h
  case macCfg => exact macCfgBody_kept _ _ h
  case gateLoad => exact gateLoadBody_kept _ _ h
  case gateSwap => exact gateSwapBody_kept _ _ h
  case strmSet => exact strmSetBody_kept _ _ h
  case strmQuery => exact strmQueryBody_kept _ _ h

theorem acceptHeld_kept (l : List Held) {s : State} (g : l.length ≤ 256) (h : Kept q s) : Kept q (acceptHeld l s) := by
  induction l generalizing s with
  | nil => exact h
  | cons x r ih =>
    rw [acceptHeld]
    rw [List.length_cons] at g
    split
    · exact h
    · rename_i c body e
      refine kept_ite (fun _ => h) (fun _ => ih (by omega) (judge_kept _ _ _ (fun c w s h => heldBody_kept e c w h) ?_))
      exact ⟨h.1, h.2.1, h.2.2.1, by simp only [setH]; omega, h.2.2.2.2⟩

theorem leaveMaintain_kept {s : State} (h : Kept q s) : Kept q (leaveMaintain s) := by
  delta leaveMaintain
  repeat' (first
    | (with_reducible assumption)
    | (extract_lets +onlyGivenNames y; refine kept_cut (a := y) ?_ ?_; (on_goal 2 => (intro hy; clear_value y)); subst y)
    | (extract_lets +onlyGivenNames y) | (with_reducible apply State_planned_kept) | (with_reducible apply pushSched_kept)
    | (with_reducible apply setM_kept) | (with_reducible refine kept_ite (fun _ => ?_) (fun _ => ?_)) | split
    | (clear_value *; split) | (with_reducible exact kept_mk (kept_of (by assumption))) | (with_reducible apply kept_mk; dsimp only)
    | (with_reducible apply kept_of) | (dsimp only) | (intro _) | (dsimp only [id])
    | (fail_if_no_progress with_reducible refine kept_mk (kept_of ?_)) | (dsimp +zetaDelta -zeta only))

theorem fwReadyRise_kept {s : State} (h : Kept q s) : Kept q (fwReadyRise s) := by
  delta fwReadyRise
  repeat' (first
    | (with_reducible assumption)
    | (extract_lets +onlyGivenNames y; refine kept_cut (a := y) ?_ ?_; (on_goal 2 => (intro hy; clear_value y)); subst y)
    | (extract_lets +onlyGivenNames y) | (with_reducible apply acceptHeld_kept) | (with_reducible apply restartPtp_kept)
    | (with_reducible apply leaveMaintain_kept) | (with_reducible apply setM_kept) | (with_reducible apply setO_kept)
    | (with_reducible refine kept_ite (fun _ => ?_) (fun _ => ?_)) | (exact held_le (by assumption)) | split | (clear_value *; split)
    | (with_reducible exact kept_mk (kept_of (by assumption))) | (with_reducible apply kept_mk; dsimp only)
    | (with_reducible apply kept_of) | (dsimp only) | (intro _) | (dsimp only [id])
    | (fail_if_no_progress with_reducible refine kept_mk (kept_of ?_)) | (dsimp +zetaDelta -zeta only))

theorem execFwReadyRise_kept (t : Nat) {s : State} {t' : State} (e : execFwReadyRise t s = .next t') (h : Kept q s) : Kept q t' := by
  cases e
  repeat' (first
    | (with_reducible assumption) | (with_reducible apply fwReadyRise_kept) | (with_reducible apply advance_kept)
    | (with_reducible refine kept_ite (fun _ => ?_) (fun _ => ?_)) | split | (clear_value *; split)
    | (with_reducible exact kept_mk (kept_of (by assumption))) | (with_reducible apply kept_mk; dsimp only)
    | (with_reducible apply kept_of) | (dsimp only) | (intro _) | (dsimp only [id])
    | (fail_if_no_progress with_reducible refine kept_mk (kept_of ?_)) | (dsimp +zetaDelta -zeta only))

theorem trialConfirm_kept {s : State} (h : Kept q s) : Kept q (trialConfirm s) := by
  delta trialConfirm
  repeat' (first
    | (with_reducible assumption)
    | (extract_lets +onlyGivenNames y; refine kept_cut (a := y) ?_ ?_; (on_goal 2 => (intro hy; clear_value y)); subst y)
    | (extract_lets +onlyGivenNames y) | (with_reducible apply writeBoot_kept) | (with_reducible apply post_kept)
    | (with_reducible apply setM_kept) | (with_reducible apply setL_kept)
    | (with_reducible refine kept_ite (fun _ => ?_) (fun _ => ?_)) | split | (clear_value *; split)
    | (with_reducible exact kept_mk (kept_of (by assumption))) | (with_reducible apply kept_mk; dsimp only)
    | (with_reducible apply kept_of) | (dsimp only) | (intro _) | (dsimp only [id])
    | (fail_if_no_progress with_reducible refine kept_mk (kept_of ?_)) | (dsimp +zetaDelta -zeta only))

theorem execTrialConfirm_kept (t : Nat) {s : State} {t' : State} (e : execTrialConfirm t s = .next t') (h : Kept q s) : Kept q t' := by
  cases e
  repeat' (first
    | (with_reducible assumption) | (with_reducible apply trialConfirm_kept) | (with_reducible apply advance_kept)
    | (with_reducible refine kept_ite (fun _ => ?_) (fun _ => ?_)) | split | (clear_value *; split)
    | (with_reducible exact kept_mk (kept_of (by assumption))) | (with_reducible apply kept_mk; dsimp only)
    | (with_reducible apply kept_of) | (dsimp only) | (intro _) | (dsimp only [id])
    | (fail_if_no_progress with_reducible refine kept_mk (kept_of ?_)) | (dsimp +zetaDelta -zeta only))

theorem trialFail_kept {s : State} (h : Kept q s) : Kept q (trialFail s) := by
  delta trialFail
  repeat' (first
    | (with_reducible assumption) | (with_reducible apply restartControl_kept) | (with_reducible apply setM_kept)
    | (with_reducible refine kept_ite (fun _ => ?_) (fun _ => ?_)) | split | (clear_value *; split)
    | (with_reducible exact kept_mk (kept_of (by assumption))) | (with_reducible apply kept_mk; dsimp only)
    | (with_reducible apply kept_of) | (dsimp only) | (intro _) | (dsimp only [id])
    | (fail_if_no_progress with_reducible refine kept_mk (kept_of ?_)) | (dsimp +zetaDelta -zeta only))

theorem execTrialFail_kept (t : Nat) {s : State} {t' : State} (e : execTrialFail t s = .next t') (h : Kept q s) : Kept q t' := by
  cases e
  repeat' (first
    | (with_reducible assumption) | (with_reducible apply trialFail_kept) | (with_reducible apply advance_kept)
    | (with_reducible refine kept_ite (fun _ => ?_) (fun _ => ?_)) | split | (clear_value *; split)
    | (with_reducible exact kept_mk (kept_of (by assumption))) | (with_reducible apply kept_mk; dsimp only)
    | (with_reducible apply kept_of) | (dsimp only) | (intro _) | (dsimp only [id])
    | (fail_if_no_progress with_reducible refine kept_mk (kept_of ?_)) | (dsimp +zetaDelta -zeta only))

theorem execControlStall_kept (t : Nat) {s : State} {t' : State} (e : execControlStall t s = .next t') (h : Kept q s) : Kept q t' := by
  cases e
  repeat' (first
    | (with_reducible assumption)
    | (extract_lets +onlyGivenNames y; refine kept_cut (a := y) ?_ ?_; (on_goal 2 => (intro hy; clear_value y)); subst y)
    | (extract_lets +onlyGivenNames y) | (with_reducible apply advance_kept) | (with_reducible apply post_kept)
    | (with_reducible refine kept_ite (fun _ => ?_) (fun _ => ?_)) | split | (clear_value *; split)
    | (with_reducible exact kept_mk (kept_of (by assumption))) | (with_reducible apply kept_mk; dsimp only)
    | (with_reducible apply kept_of) | (dsimp only) | (intro _) | (dsimp only [id])
    | (fail_if_no_progress with_reducible refine kept_mk (kept_of ?_)) | (dsimp +zetaDelta -zeta only))

end Sys2Proof.Machine
end

