-- ==== Sys2Proof/Laws/KeptFlash.lean ====
section
/-!
SUPPORT. Sys2Proof/Laws/KeptFlash.lean: the operations of Machine/Flash.lean keep the queue and the invariant of Safety.lean.
-/
namespace Sys2Proof.Machine

set_option linter.all false

variable {q : List Instr}

theorem setSlot_kept (k : Nat) (f : List Byte → List Byte) {s : State} (h : Kept q s) : Kept q (setSlot k f s) := by
  delta setSlot
  repeat' (first
    | (with_reducible assumption) | (with_reducible apply setL_kept) | (with_reducible refine kept_ite (fun _ => ?_) (fun _ => ?_))
    | split | (clear_value *; split) | (with_reducible exact kept_mk (kept_of (by assumption)))
    | (with_reducible apply kept_mk; dsimp only) | (with_reducible apply kept_of) | (dsimp only) | (intro _) | (dsimp only [id])
    | (fail_if_no_progress with_reducible refine kept_mk (kept_of ?_)) | (dsimp +zetaDelta -zeta only))

theorem applyOp_kept (op : FlashOp) {s : State} (h : Kept q s) : Kept q (applyOp op s) := by
  delta applyOp
  repeat' (first
    | (with_reducible assumption)
    | (extract_lets +onlyGivenNames y; refine kept_cut (a := y) ?_ ?_; (on_goal 2 => (intro hy; clear_value y)); subst y)
    | (extract_lets +onlyGivenNames y) | (refine State_room_kept _ _ (by assumption) ?_) | (with_reducible apply setRegion_kept)
    | (with_reducible apply setSlot_kept) | (with_reducible apply setL_kept)
    | (with_reducible refine kept_ite (fun _ => ?_) (fun _ => ?_)) | (with_reducible refine kept_getD (fun _ _ => ?_) ?_) | split
    | (clear_value *; split) | (with_reducible exact kept_mk (kept_of (by assumption))) | (with_reducible apply kept_mk; dsimp only)
    | (with_reducible apply kept_of) | (dsimp only) | (intro _) | (dsimp only [id])
    | (fail_if_no_progress with_reducible refine kept_mk (kept_of ?_)) | (dsimp +zetaDelta -zeta only))

theorem channelErrors_kept (badA : Bool) (badB : Bool) {s : State} (h : Kept q s) : Kept q (channelErrors badA badB s) := by
  delta channelErrors
  repeat' (first
    | (with_reducible assumption)
    | (extract_lets +onlyGivenNames y; refine kept_cut (a := y) ?_ ?_; (on_goal 2 => (intro hy; clear_value y)); subst y)
    | (extract_lets +onlyGivenNames y) | (with_reducible apply post_kept) | (with_reducible apply setL_kept)
    | (with_reducible refine kept_ite (fun _ => ?_) (fun _ => ?_)) | split | (clear_value *; split)
    | (with_reducible exact kept_mk (kept_of (by assumption))) | (with_reducible apply kept_mk; dsimp only)
    | (with_reducible apply kept_of) | (dsimp only) | (intro _) | (dsimp only [id])
    | (fail_if_no_progress with_reducible refine kept_mk (kept_of ?_)) | (dsimp +zetaDelta -zeta only))

theorem retireSector_kept (k : Nat) (id : Option Nat) {s : State} (h : Kept q s) : Kept q (retireSector k id s) := by
  delta retireSector
  repeat' (first
    | (with_reducible assumption)
    | (extract_lets +onlyGivenNames y; refine kept_cut (a := y) ?_ ?_; (on_goal 2 => (intro hy; clear_value y)); subst y)
    | (extract_lets +onlyGivenNames y) | (with_reducible apply bump_kept) | (with_reducible apply setRegion_kept)
    | (with_reducible apply setL_kept) | (with_reducible refine kept_ite (fun _ => ?_) (fun _ => ?_)) | split
    | (clear_value *; split) | (with_reducible exact kept_mk (kept_of (by assumption))) | (with_reducible apply kept_mk; dsimp only)
    | (with_reducible apply kept_of) | (dsimp only) | (intro _) | (dsimp only [id])
    | (fail_if_no_progress with_reducible refine kept_mk (kept_of ?_)) | (dsimp +zetaDelta -zeta only))

theorem activateNow_kept (w : Waiter) (r : ModeReq) {s : State} (h : Kept q s) : Kept q (activateNow w r s) := by
  delta activateNow
  repeat' (first
    | (with_reducible assumption)
    | (extract_lets +onlyGivenNames y; refine kept_cut (a := y) ?_ ?_; (on_goal 2 => (intro hy; clear_value y)); subst y)
    | (extract_lets +onlyGivenNames y) | (with_reducible apply complete_kept) | (with_reducible apply restartControl_kept)
    | (with_reducible apply setM_kept) | (with_reducible refine kept_ite (fun _ => ?_) (fun _ => ?_)) | split
    | (clear_value *; split) | (with_reducible exact kept_mk (kept_of (by assumption))) | (with_reducible apply kept_mk; dsimp only)
    | (with_reducible apply kept_of) | (dsimp only) | (intro _) | (dsimp only [id])
    | (fail_if_no_progress with_reducible refine kept_mk (kept_of ?_)) | (dsimp +zetaDelta -zeta only))

theorem settleAll_kept {s : State} (h : Kept q s) : Kept q (settleAll s) := by
  delta settleAll
  repeat' (first
    | (with_reducible assumption)
    | (extract_lets +onlyGivenNames y; refine kept_cut (a := y) ?_ ?_; (on_goal 2 => (intro hy; clear_value y)); subst y)
    | (extract_lets +onlyGivenNames y) | (with_reducible apply settleJobs_kept) | (with_reducible apply activateNow_kept)
    | (with_reducible apply setL_kept) | (with_reducible refine kept_ite (fun _ => ?_) (fun _ => ?_)) | split
    | (clear_value *; split) | (with_reducible exact kept_mk (kept_of (by assumption))) | (with_reducible apply kept_mk; dsimp only)
    | (with_reducible apply kept_of) | (dsimp only) | (intro _) | (dsimp only [id])
    | (fail_if_no_progress with_reducible refine kept_mk (kept_of ?_)) | (dsimp +zetaDelta -zeta only))

theorem setHead_kept (j : LJob) (rest : List LJob) {s : State} (h : Kept q s) : Kept q (setHead j rest s) := by
  delta setHead
  repeat' (first
    | (with_reducible assumption) | (with_reducible apply setL_kept) | (with_reducible refine kept_ite (fun _ => ?_) (fun _ => ?_))
    | split | (clear_value *; split) | (with_reducible exact kept_mk (kept_of (by assumption)))
    | (with_reducible apply kept_mk; dsimp only) | (with_reducible apply kept_of) | (dsimp only) | (intro _) | (dsimp only [id])
    | (fail_if_no_progress with_reducible refine kept_mk (kept_of ?_)) | (dsimp +zetaDelta -zeta only))

theorem flashOp_kept (res : FlashResult) {s : State} (h : Kept q s) : Kept q (flashOp res s) := by
  delta flashOp
  repeat' (first
    | (with_reducible assumption)
    | (extract_lets +onlyGivenNames y; refine kept_cut (a := y) ?_ ?_; (on_goal 2 => (intro hy; clear_value y)); subst y)
    | (extract_lets +onlyGivenNames y) | (with_reducible apply settleAll_kept) | (with_reducible apply channelErrors_kept)
    | (with_reducible apply bump_kept) | (with_reducible apply setHead_kept) | (with_reducible apply retireSector_kept)
    | (with_reducible apply relocate_kept) | (with_reducible apply applyOp_kept) | (with_reducible apply completeOpt_kept)
    | (with_reducible apply setL_kept) | (with_reducible refine kept_ite (fun _ => ?_) (fun _ => ?_)) | split
    | (clear_value *; split) | (with_reducible exact kept_mk (kept_of (by assumption))) | (with_reducible apply kept_mk; dsimp only)
    | (with_reducible apply kept_of) | (dsimp only) | (intro _) | (dsimp only [id])
    | (fail_if_no_progress with_reducible refine kept_mk (kept_of ?_)) | (dsimp +zetaDelta -zeta only))

theorem execFlashOpComplete_kept (t : Nat) (res : FlashResult) {s : State} {t' : State} (e : execFlashOpComplete t res s = .next t') (h
    : Kept q s) : Kept q t' := by
  cases e
  repeat' (first
    | (with_reducible assumption) | (with_reducible apply flashOp_kept) | (with_reducible apply advance_kept)
    | (with_reducible refine kept_ite (fun _ => ?_) (fun _ => ?_)) | split | (clear_value *; split)
    | (with_reducible exact kept_mk (kept_of (by assumption))) | (with_reducible apply kept_mk; dsimp only)
    | (with_reducible apply kept_of) | (dsimp only) | (intro _) | (dsimp only [id])
    | (fail_if_no_progress with_reducible refine kept_mk (kept_of ?_)) | (dsimp +zetaDelta -zeta only))

theorem ledgerWork_kept {i : Instr} {c0 : HostCmd} {body : Body} (e : ledgerWork i = some (c0, body)) (c : HostCmd) (w : Waiter) {s : State}
    (h : Kept q s) : Kept q (body c w s) := by
  cases i <;> simp only [ledgerWork, Option.some.injEq, Prod.mk.injEq, reduceCtorEq] at e <;> obtain ⟨_, rfl⟩ := e
  case ldgQuery => exact ldgQueryWork_kept _ _ h
  case ldgSetSave => exact ldgSetSaveWork_kept _ _ h
  case ldgSetRecall => exact ldgSetRecallWork_kept _ _ h
  case ldgSetList => exact ldgSetListWork_kept _ _ h
  case ldgRecordWrite => exact ldgRecordWriteWork_kept _ _ h
  case ldgRecordRead => exact ldgRecordReadWork_kept _ _ h
  case ldgErase => exact ldgEraseWork_kept _ _ h
  case ldgCounters => exact ldgCountersWork_kept _ _ h
  case evrClear => exact evrClearWork_kept _ _ h
  case evrArchive => exact evrArchiveWork_kept _ _ h
  case evrArchiveRead => exact evrArchiveReadWork_kept _ _ h
  case fwWrite => exact fwWriteWork_kept _ _ h
  case fwVerify => exact fwVerifyWork_kept _ _ h
  case fwActivate => exact fwActivateWork_kept _ _ h
  case xbrCfg => exact storeLatches_kept _ _ (kept_ite (fun _ => takePark_kept _ h) (fun _ => h))

theorem runWaiting_kept {s : State} (h : Kept q s) : Kept q (runWaiting s) := by
  delta runWaiting
  refine kept_foldl (fun s x h => ?_) (setL_kept h)
  split
  · rename_i c body e
    exact kept_ite (fun _ => ledgerWork_kept e _ _ h) (fun _ => complete_kept _ _ h)
  · exact complete_kept _ _ h

theorem restoreCounters_kept {s : State} (h : Kept q s) : Kept q (restoreCounters s) := by
  delta restoreCounters
  repeat' (first
    | (with_reducible assumption)
    | (extract_lets +onlyGivenNames y; refine kept_cut (a := y) ?_ ?_; (on_goal 2 => (intro hy; clear_value y)); subst y)
    | (extract_lets +onlyGivenNames y) | (with_reducible apply setL_kept) | (with_reducible apply setCnt_kept)
    | (with_reducible refine kept_ite (fun _ => ?_) (fun _ => ?_)) | split | (clear_value *; split)
    | (with_reducible exact kept_mk (kept_of (by assumption))) | (with_reducible apply kept_mk; dsimp only)
    | (with_reducible apply kept_of) | (dsimp only) | (intro _) | (dsimp only [id])
    | (fail_if_no_progress with_reducible refine kept_mk (kept_of ?_)) | (dsimp +zetaDelta -zeta only))

theorem reErase_kept {s : State} (h : Kept q s) : Kept q (reErase s) := by
  delta reErase
  repeat' (first
    | (with_reducible assumption)
    | (extract_lets +onlyGivenNames y; refine kept_cut (a := y) ?_ ?_; (on_goal 2 => (intro hy; clear_value y)); subst y)
    | (extract_lets +onlyGivenNames y) | (with_reducible apply applyOp_kept) | (with_reducible apply setL_kept)
    | (with_reducible refine kept_ite (fun _ => ?_) (fun _ => ?_)) | (with_reducible refine kept_foldl (fun _ _ _ => ?_) ?_)
    | (with_reducible refine kept_foldl1 (fun _ _ _ => ?_) ?_) | (with_reducible refine kept_foldl2 (fun _ _ _ => ?_) ?_) | split
    | (clear_value *; split) | (with_reducible exact kept_mk (kept_of (by assumption))) | (with_reducible apply kept_mk; dsimp only)
    | (with_reducible apply kept_of) | (dsimp only) | (intro _) | (dsimp only [id])
    | (fail_if_no_progress with_reducible refine kept_mk (kept_of ?_)) | (dsimp +zetaDelta -zeta only))

theorem relocateBad_kept {s : State} (h : Kept q s) : Kept q (relocateBad s) := by
  delta relocateBad
  repeat' (first
    | (with_reducible assumption)
    | (extract_lets +onlyGivenNames y; refine kept_cut (a := y) ?_ ?_; (on_goal 2 => (intro hy; clear_value y)); subst y)
    | (extract_lets +onlyGivenNames y) | (with_reducible apply relocate_kept) | (with_reducible apply setL_kept)
    | (with_reducible refine kept_ite (fun _ => ?_) (fun _ => ?_)) | (with_reducible refine kept_foldl (fun _ _ _ => ?_) ?_)
    | (with_reducible refine kept_foldl1 (fun _ _ _ => ?_) ?_) | (with_reducible refine kept_foldl2 (fun _ _ _ => ?_) ?_) | split
    | (clear_value *; split) | (with_reducible exact kept_mk (kept_of (by assumption))) | (with_reducible apply kept_mk; dsimp only)
    | (with_reducible apply kept_of) | (dsimp only) | (intro _) | (dsimp only [id])
    | (fail_if_no_progress with_reducible refine kept_mk (kept_of ?_)) | (dsimp +zetaDelta -zeta only))

theorem blankLedger_kept {s : State} (h : Kept q s) : Kept q (blankLedger s) := by
  delta blankLedger
  repeat' (first
    | (with_reducible assumption) | (with_reducible apply setL_kept) | (with_reducible refine kept_ite (fun _ => ?_) (fun _ => ?_))
    | split | (clear_value *; split) | (with_reducible exact kept_mk (kept_of (by assumption)))
    | (with_reducible apply kept_mk; dsimp only) | (with_reducible apply kept_of) | (dsimp only) | (intro _) | (dsimp only [id])
    | (fail_if_no_progress with_reducible refine kept_mk (kept_of ?_)) | (dsimp +zetaDelta -zeta only))

theorem mountDone_kept (f : MountFound) {s : State} (h : Kept q s) : Kept q (mountDone f s) := by
  delta mountDone
  repeat' (first
    | (with_reducible assumption)
    | (extract_lets +onlyGivenNames y; refine kept_cut (a := y) ?_ ?_; (on_goal 2 => (intro hy; clear_value y)); subst y)
    | (extract_lets +onlyGivenNames y) | (with_reducible apply post_kept) | (with_reducible apply runWaiting_kept)
    | (with_reducible apply blankLedger_kept) | (with_reducible apply reErase_kept) | (with_reducible apply restoreCounters_kept)
    | (with_reducible apply relocateBad_kept) | (with_reducible apply setL_kept) | (with_reducible apply setW_kept)
    | (with_reducible refine kept_ite (fun _ => ?_) (fun _ => ?_)) | split | (clear_value *; split)
    | (with_reducible exact kept_mk (kept_of (by assumption))) | (with_reducible apply kept_mk; dsimp only)
    | (with_reducible apply kept_of) | (dsimp only) | (intro _) | (dsimp only [id])
    | (fail_if_no_progress with_reducible refine kept_mk (kept_of ?_)) | (dsimp +zetaDelta -zeta only))

theorem execLedgerMountComplete_kept (t : Nat) (found : MountFound) {s : State} {t' : State} (e : execLedgerMountComplete t found s =
    .next t') (h : Kept q s) : Kept q t' := by
  cases e
  repeat' (first
    | (with_reducible assumption) | (with_reducible apply mountDone_kept) | (with_reducible apply advance_kept)
    | (with_reducible refine kept_ite (fun _ => ?_) (fun _ => ?_)) | split | (clear_value *; split)
    | (with_reducible exact kept_mk (kept_of (by assumption))) | (with_reducible apply kept_mk; dsimp only)
    | (with_reducible apply kept_of) | (dsimp only) | (intro _) | (dsimp only [id])
    | (fail_if_no_progress with_reducible refine kept_mk (kept_of ?_)) | (dsimp +zetaDelta -zeta only))

theorem rebuildDone_kept {s : State} (h : Kept q s) : Kept q (rebuildDone s) := by
  delta rebuildDone
  repeat' (first
    | (with_reducible assumption)
    | (extract_lets +onlyGivenNames y; refine kept_cut (a := y) ?_ ?_; (on_goal 2 => (intro hy; clear_value y)); subst y)
    | (extract_lets +onlyGivenNames y) | (with_reducible apply post_kept) | (with_reducible apply setL_kept)
    | (with_reducible refine kept_ite (fun _ => ?_) (fun _ => ?_)) | split | (clear_value *; split)
    | (with_reducible exact kept_mk (kept_of (by assumption))) | (with_reducible apply kept_mk; dsimp only)
    | (with_reducible apply kept_of) | (dsimp only) | (intro _) | (dsimp only [id])
    | (fail_if_no_progress with_reducible refine kept_mk (kept_of ?_)) | (dsimp +zetaDelta -zeta only))

theorem execLedgerRebuildComplete_kept (t : Nat) {s : State} {t' : State} (e : execLedgerRebuildComplete t s = .next t') (h : Kept q s)
    : Kept q t' := by
  cases e
  repeat' (first
    | (with_reducible assumption) | (with_reducible apply rebuildDone_kept) | (with_reducible apply advance_kept)
    | (with_reducible refine kept_ite (fun _ => ?_) (fun _ => ?_)) | split | (clear_value *; split)
    | (with_reducible exact kept_mk (kept_of (by assumption))) | (with_reducible apply kept_mk; dsimp only)
    | (with_reducible apply kept_of) | (dsimp only) | (intro _) | (dsimp only [id])
    | (fail_if_no_progress with_reducible refine kept_mk (kept_of ?_)) | (dsimp +zetaDelta -zeta only))

end Sys2Proof.Machine
end

