-- ==== Sys2Proof/Laws/Ledger.lean ====
section
/-!
SUPPORT. Sys2Proof/Laws/Ledger.lean: everything that the ledger commands' common entry and the addition of a record can do
(17_ledger_recorder R550, R554, R556, R557).
-/
namespace Sys2Proof.Machine

/-- With the ledger mounted, a ledger command does its own work at once. -/
theorem ledgerBody_up {s : State} {i : Instr} {body : Body} {c : HostCmd} {w : Waiter} (h : s.ledgerUp = true) :
    ledgerBody i body c w s = body c w s := by
  have m : s.l.mounted = true := by
    simp only [State.ledgerUp, Bool.and_eq_true] at h
    exact h.1
  rw [ledgerBody, if_neg (by simp [State.ledgerMounting, m]), if_neg (by simp [h])]

/-- While the mount runs it waits. -/
theorem ledgerBody_mounting {s : State} {i : Instr} {body : Body} {c : HostCmd} {w : Waiter} (h : s.ledgerMounting = true) :
    ledgerBody i body c w s = { s with l := { s.l with waiting := s.l.waiting ++ [(i, w)] } } := by
  rw [ledgerBody, if_pos h]; rfl

/-- With both channels failed it ends with NO_RESOURCE. -/
theorem ledgerBody_failed {s : State} {i : Instr} {body : Body} {c : HostCmd} {w : Waiter} (h : s.ledgerMounting = false)
    (g : s.ledgerUp = false) : ledgerBody i body c w s = complete w (.of stResource) s := by
  rw [ledgerBody, if_neg (by simp [h]), if_pos (by simp [g])]

/-- Taking a command changes nothing of the ledger. -/
@[simp] theorem taken_ledgerUp (s : State) (c : HostCmd) (info : CmdInfo) : (s.taken c info).ledgerUp = s.ledgerUp := by
  unfold State.ledgerUp; rw [taken_l]

@[simp] theorem taken_ledgerMounting (s : State) (c : HostCmd) (info : CmdInfo) :
    (s.taken c info).ledgerMounting = s.ledgerMounting := by
  unfold State.ledgerMounting; rw [taken_l]

/-- A job with nothing to do, and no other before it, ends at once (R582). -/
theorem startJob_now {s : State} {a : AfterJob} {b : Bool} (h : s.l.jobs = []) (n : ∀ w r, a ≠ .activate w r) : startJob { ops := [], after := a, write := b } s = finishJob a s := by
  have e : ∀ v : State, v.l.jobs = [] → (setL (fun l => { l with jobs := [] }) (addJob { ops := [], after := a, write := b } v)) = v := by
    intro v g
    show ({ v with l := { v.l with jobs := [] } } : State) = v
    rw [← g]
  have j : (addJob { ops := [], after := a, write := b } s).l.jobs = [{ ops := [], after := a, write := b }] := by
    show s.l.jobs ++ _ = _
    rw [h]; rfl
  unfold startJob
  rw [h, settleJobs, j]
  dsimp only
  split
  · exact absurd rfl (n _ _)
  · rw [e s h]; rfl
  · rename_i x; cases x

end Sys2Proof.Machine
end

