-- ==== Sys2Proof/Laws/Requests.lean ====
section
/-!
SUPPORT. Sys2Proof/Laws/Requests.lean: everything that a command which names a render pick can do (01_architecture R19–R23, R665, R666;
02_pick_budget R47, R48).
-/
namespace Sys2Proof.Machine

theorem ite_bnot {α : Sort _} (b : Bool) (x y : α) : (if (!b) = true then x else y) = if b = true then y else x := by
  cases b <;> rfl

/-- A change at a pick that R23 rules out. -/
theorem request_outside {p : Nat} {s : State} (w : Waiter) (chg : Change) (adm : Bool) (h : s.slotAt p = none) :
    request p w chg adm s = complete w (.of stParam) s := by
  simp only [request, h]

/-- A change that passes no admission goes on the list. -/
theorem request_free {p q : Nat} {late : Bool} {s : State} (w : Waiter) (chg : Change) (h : s.slotAt p = some (q, late)) :
    request p w chg false s = pushSched q late (some w) chg s := by
  simp [request, h]

/-- A change that passes admission goes on the list, or is refused. -/
theorem request_admitted {p q : Nat} {late : Bool} {s : State} (w : Waiter) (chg : Change) (h : s.slotAt p = some (q, late)) :
    request p w chg true s =
      if (pushSched q late (some w) chg s).inBudget q then pushSched q late (some w) chg s else complete w (.of stBudget) s := by
  simp only [request, h, Bool.true_and, ite_bnot]

/-- A swap with no committed copy and no load to wait for. -/
theorem requestSwap_empty {p : Nat} {s : State} (w : Waiter) (chg : Change) (adm : Bool) (h : s.slotAt p ≠ none)
    (g : s.mustWait chg = false) : requestSwap p w chg false adm s = complete w (.of stParam) s := by
  obtain ⟨x, hx⟩ := Option.ne_none_iff_exists'.1 h
  simp [requestSwap, hx, g]

/-- The first swap of its set: admitted where its copy is there, and put on the list. -/
theorem requestSwap_first {p q : Nat} {late have_ adm : Bool} {s : State} (w : Waiter) (chg : Change) (h : s.slotAt p = some (q, late))
    (g : have_ = true ∨ s.mustWait chg = true) (r : s.rival chg = none) :
    requestSwap p w chg have_ adm s =
      if (adm && have_ && !s.mustWait chg && !(pushSched q late (some w) chg s).inBudget q) = true then complete w (.of stBudget) s
      else pushSched q late (some w) chg s := by
  have g' : ¬ ((!have_ && !s.mustWait chg) = true) := by rcases g with g | g <;> simp [g]
  simp only [requestSwap, h, r, if_neg g']

/-- A swap whose set waits for another pick. -/
theorem requestSwap_busy {p q : Nat} {late have_ adm : Bool} {s : State} {old : Sched} (w : Waiter) (chg : Change)
    (h : s.slotAt p = some (q, late)) (g : have_ = true ∨ s.mustWait chg = true) (r : s.rival chg = some old)
    (n : s.standsFor old.pick ≠ s.standsFor q) :
    requestSwap p w chg have_ adm s = complete w (.of stBusy) s := by
  have g' : ¬ ((!have_ && !s.mustWait chg) = true) := by rcases g with g | g <;> simp [g]
  simp only [requestSwap, h, r, if_neg g', if_pos n]

/-- A swap for the pick of one that waits takes its place. -/
theorem requestSwap_supersedes {p q : Nat} {late have_ adm : Bool} {s : State} {old : Sched} (w : Waiter) (chg : Change)
    (h : s.slotAt p = some (q, late)) (g : have_ = true ∨ s.mustWait chg = true) (r : s.rival chg = some old)
    (n : s.standsFor old.pick = s.standsFor q)
    (a : (adm && have_ && !s.mustWait chg &&
      !(pushSched q late (some w) chg { s with sched := s.sched.filter (fun x => !decide (x = old)) }).inBudget q) = false) :
    requestSwap p w chg have_ adm s = completeOpt old.who { Ending.atPick q with superseded := true }
      (pushSched q late (some w) chg { s with sched := s.sched.filter (fun x => !decide (x = old)) }) := by
  have g' : ¬ ((!have_ && !s.mustWait chg) = true) := by rcases g with g | g <;> simp [g]
  have n' : ¬ (s.standsFor old.pick ≠ s.standsFor q) := by simp [n]
  simp only [requestSwap, h, r, if_neg g', if_neg n', a, Bool.false_eq_true, if_false]

end Sys2Proof.Machine
end

