-- ==== Sys2Proof/WellFormed.lean ====
section
/-!
DEFINITION. Sys2Proof/WellFormed.lean: the operand ranges of the commands: what the bus, the ring slots, the pins and the frames of the
spec can carry. The machine gives every command a meaning, well formed or not; these ranges say which ones a sender can make.
-/
namespace Sys2Proof

/-- The header of a slot fits its fields, and the descriptor its 64 bytes (14_host_interface R449, R452). -/
def HostCmd.wf (c : HostCmd) : Bool :=
  decide (c.ring < 2) && decide (c.flags < 256) && decide (c.tag < 65536) && decide (c.tmo < 65536) &&
    decide (c.rsvd < 65536) && decide (c.desc.length ≤ 64)

/-- A burst names a 32-bit on-chip address, and a write carries a byte for each enable (15_fabric R473). -/
def Burst.wf (b : Burst) : Bool :=
  decide (b.master < 16) && decide (b.addr < 2 ^ 32) && decide (b.enables.length ≤ b.len) && decide (b.data.length ≤ b.len)

/-- A ring of the 16 audio rings, with a 64-byte descriptor (14_host_interface R458, R460). -/
def HaqRead.wf (h : HaqRead) : Bool := decide (h.ring < 16) && decide (h.desc.length ≤ 64)

/-- The operands of a command are in range. -/
def Instr.wf : Instr → Bool
  | .sysNop c => c.wf
  | .sysInfo c => c.wf
  | .modeSet c => c.wf
  | .modeQuery c => c.wf
  | .rateSet c => c.wf
  | .cmdAbort c => c.wf
  | .commandReservedOpcode c opcode => c.wf && decide (opcode < 256)
  | .budgetQuery c => c.wf
  | .budgetSet c => c.wf
  | .budgetRestore c => c.wf
  | .objQuery c => c.wf
  | .objGlide c => c.wf
  | .objReset c => c.wf
  | .objFlush c => c.wf
  | .layoutLoad c => c.wf
  | .layoutSwap c => c.wf
  | .layoutQuery c => c.wf
  | .soundSpeedSet c => c.wf
  | .geomProbe c => c.wf
  | .loomCeilSet c => c.wf
  | .loomCeilQuery c => c.wf
  | .loomXpDump c => c.wf
  | .reedOutCfg c => c.wf
  | .reedBankLoad c => c.wf
  | .reedBankCopy c => c.wf
  | .reedOutLoad c => c.wf
  | .reedBankSwap c => c.wf
  | .reedBankQuery c => c.wf
  | .reedMeasRun c => c.wf
  | .reedMeasAbort c => c.wf
  | .routeLoad c => c.wf
  | .routeSwap c => c.wf
  | .routeQuery c => c.wf
  | .infiltSet c => c.wf
  | .routeAbort c => c.wf
  | .fchPdmSet c => c.wf
  | .fchRsSet c => c.wf
  | .fchBankLoad c => c.wf
  | .fchBankSwap c => c.wf
  | .fchBankQuery c => c.wf
  | .fchSyncReset c => c.wf
  | .fchStimSet c => c.wf
  | .batLoad c => c.wf
  | .batStart c => c.wf
  | .batStop c => c.wf
  | .batQuery c => c.wf
  | .batCkptRead c => c.wf
  | .aesCfg c => c.wf
  | .tdmCfg c => c.wf
  | .groupSet c => c.wf
  | .aesCsSet c => c.wf
  | .aesUserSet c => c.wf
  | .aesUserGet c => c.wf
  | .macCfg c => c.wf
  | .gateLoad c => c.wf
  | .gateSwap c => c.wf
  | .strmSet c => c.wf
  | .strmQuery c => c.wf
  | .mgCfg c => c.wf
  | .wakeSet c => c.wf
  | .mcastSet c => c.wf
  | .timeCfg c => c.wf
  | .timeQuery c => c.wf
  | .timeSet c => c.wf
  | .trigArm c => c.wf
  | .trigDisarm c => c.wf
  | .timeCorrSet c => c.wf
  | .twinCfg c => c.wf
  | .twinQuery c => c.wf
  | .twinRoleSwap c => c.wf
  | .claimQuery c => c.wf
  | .twinResync c => c.wf
  | .ldgQuery c => c.wf
  | .ldgSetSave c => c.wf
  | .ldgSetRecall c => c.wf
  | .ldgSetList c => c.wf
  | .ldgRecordWrite c => c.wf
  | .ldgRecordRead c => c.wf
  | .ldgErase c => c.wf
  | .ldgCounters c => c.wf
  | .evrRead c => c.wf
  | .evrClear c => c.wf
  | .evrArchive c => c.wf
  | .evrArchiveRead c => c.wf
  | .bobQuery c => c.wf
  | .traceSet c => c.wf
  | .xbrCfg c => c.wf
  | .pwrQuery c => c.wf
  | .railCfg c => c.wf
  | .thermSet c => c.wf
  | .avsSet c => c.wf
  | .fwWrite c => c.wf
  | .fwVerify c => c.wf
  | .fwActivate c => c.wf
  | .objectUpdateRecord _ q rec => decide (q < 8) && decide (rec.length ≤ 32)
  | .objectUpdateRelease _ q => decide (q < 8)
  | .registerWrite _ m off _ => decide (m < 16) && decide (off < 0x20000)
  | .registerLowHalfRead _ m off => decide (m < 16) && decide (off < 0x20000)
  | .registerLowHalfWrite _ m off _ => decide (m < 16) && decide (off < 0x20000)
  | .registerHighHalfWrite _ m off _ => decide (m < 16) && decide (off < 0x20000)
  | .rcFieldRead _ m off => decide (m < 16) && decide (off < 0x20000)
  | .macMgWakeWrite _ m _ => decide (m < 16)
  | .sysSlackLastRead _ m => decide (m < 16)
  | .loomXpSelWrite _ m _ => decide (m < 16)
  | .reedOutSelWrite _ m _ => decide (m < 16)
  | .hedSrcSelWrite _ m _ => decide (m < 16)
  | .hedRouteSelWrite _ m _ => decide (m < 16)
  | .fchRsSelWrite _ m _ => decide (m < 16)
  | .aesCsSelWrite _ m _ => decide (m < 16)
  | .macStrmSelWrite _ m _ => decide (m < 16)
  | .timeCapLoRead _ m k => decide (m < 16) && decide (k < 4)
  | .mbxDataWrite _ k _ _ => decide (k < 8)
  | .mbxDataRead _ k _ => decide (k < 8)
  | .hostNoticeService _ k msg => decide (k < 4) && decide (msg.length ≤ 4096)
  | .hifRingCfgWrite _ m q _ => decide (m < 16) && decide (q < 31)
  | .doorbellWrite _ off width _ => decide (off < 0x1000) && decide (width ≤ 8)
  | .bar0BadAccess _ off width => decide (off < 0x20000) && (decide (width ≠ 4) || decide (off % 4 ≠ 0))
  | .bar2Write _ off bytes => decide (off + bytes.length ≤ 0x1000000)
  | .bobDbWrite _ m ch _ _ => decide (m < 16) && decide (ch < 16)
  | .bobDescComplete _ ch _ _ => decide (ch < 16)
  | .semaphoreRead _ m k => decide (m < 16) && decide (k < 64)
  | .semaphoreWrite _ m k _ => decide (m < 16) && decide (k < 64)
  | .onchipMailboxPost _ m k _ => decide (m < 16) && decide (k < 32)
  | .onchipMailboxRead _ m k => decide (m < 16) && decide (k < 32)
  | .memInjWrite _ m _ => decide (m < 16)
  | .xbrLatchWrite _ m k _ => decide (m < 16) && decide (k < 16)
  | .crossbarTransfer _ bursts => bursts.all Burst.wf
  | .aonPowerOn _ _ => true
  | .resetNAssert _ => true
  | .resetNRelease _ good => decide (good < 256)
  | .vaonFeedLoss _ _ => true
  | .vaonFeedRestore _ _ => true
  | .pfailFall _ => true
  | .pfailRise _ => true
  | .flushComplete _ => true
  | .railEnableDelay _ k => decide (k < 8)
  | .railTimeout _ k => decide (k < 8)
  | .railRetry _ => true
  | .pwrGoodFall _ k => decide (k < 8)
  | .railRestart _ => true
  | .coreDomainRelease _ straps => straps.all (fun x => decide (x < 0x10000))
  | .fwReadyRise _ => true
  | .controlPlaneStop _ => true
  | .trialConfirm _ => true
  | .trialFail _ => true
  | .hostSideReset _ _ => true
  | .pcieLinkReturn _ width speed => decide (width ≤ 4) && decide (speed ≤ 4)
  | .d3hotEntry _ => true
  | .d3hotExit _ => true
  | .dormantEntryComplete _ => true
  | .wakeEvent _ cause => decide (1 ≤ cause) && decide (cause ≤ 5)
  | .dataPlaneStart _ _ haq => haq.all HaqRead.wf
  | .modeTransitionEnd _ => true
  | .tempSample _ temps => decide (temps.length = 8)
  | .thermalShed _ => true
  | .thermalHoldEnd _ => true
  | .pmbusPoll _ reads => decide (reads.length ≤ 4)
  | .regulatorFail _ k => decide (k < 4)
  | .overcurrentShed _ => true
  | .pickStartMark _ haq => haq.all HaqRead.wf
  | .engineBlockStart _ e _ _ => decide (e < 8)
  | .zcDeadline _ idx => decide (idx < 4096)
  | .engineFinish _ e _ => decide (e < 8)
  | .avsWindow _ => true
  | .vcoreHoldExpiry _ => true
  | .sheddingStep _ => true
  | .battenInstanceEntry _ l _ => decide (l < 32)
  | .battenStep _ l _ => decide (l < 32)
  | .checkpointDone _ l _ => decide (l < 32)
  | .battenSpareMove _ l _ => decide (l < 32)
  | .imageLoadCommit _ set => decide (set < 8)
  | .measCaptureEnd _ => true
  | .measRunComplete _ => true
  | .stimulusEnd _ => true
  | .fchSettleEnd _ => true
  | .pdmStuck _ mic => decide (mic < 16)
  | .pdmUnstuck _ mic => decide (mic < 16)
  | .triggerFire _ k => decide (k < 64)
  | .groupFirstRealFrame _ g => decide (g < 8)
  | .trigEdgeCapture _ pin _ => decide (pin < 4)
  | .ppsInEdge _ => true
  | .refInvalid _ r _ => decide (r < 4)
  | .refValid _ r _ => decide (r < 4)
  | .freqCheckpoint _ _ => true
  | .ptpMessageRx _ port _ _ => decide (port < 4)
  | .ptpAnnounceTimeout _ => true
  | .ptpPortReturn _ => true
  | .portInputFrame _ p _ _ => decide (p < 24)
  | .aesRxLock _ p => decide (p < 16)
  | .aesRxUnlock _ p => decide (p < 16)
  | .aesNonaudioUnmute _ p => decide (p < 16)
  | .portOutputFrame _ p => decide (p < 24)
  | .aesTxLeadEnd _ q => decide (q < 16)
  | .tdmSlaveUnrelated _ p dir => decide (p < 8) && decide (dir < 2)
  | .tdmSlaveResume _ p dir => decide (p < 8) && decide (dir < 2)
  | .mediaFrameRx _ p _ => decide (p < 4)
  | .rtpPacketRx _ => true
  | .streamClaimExpiry _ k => decide (k < 256)
  | .mediaLinkDown _ p => decide (p < 4)
  | .mediaLinkUp _ p => decide (p < 4)
  | .gateEntryChange _ p => decide (p < 4)
  | .mediaFrameTxStart _ p => decide (p < 4)
  | .streamTxLate _ p => decide (p < 4)
  | .mgFrameRx _ _ _ => true
  | .mgFrameSent _ desc _ => decide (desc.length ≤ 64)
  | .mgTrafficWindow _ => true
  | .mgAutonegDone _ speed _ _ => decide (speed < 4)
  | .mgLpiEnter _ => true
  | .selvedgeSegmentRx _ seq _ => decide (seq < 0x10000)
  | .heartbeatFrameRx _ _ => true
  | .stateFrameRx _ seq _ => decide (seq < 0x10000)
  | .stateFrameMissed _ _ => true
  | .selvedgeLaneDown _ lane => decide (lane < 2)
  | .selvedgeLaneUp _ lane => decide (lane < 2)
  | .hbInEdge _ => true
  | .heartbeatDue _ => true
  | .heartbeatMissing _ path => decide (path < 2)
  | .twinListenEnd _ _ => true
  | .claimPeerChange _ _ => true
  | .claimOwnRise _ => true
  | .claimConflict _ => true
  | .shuttlePost _ slot level _ _ _ => decide (slot < 256) && decide (level < 32)
  | .shuttleThreadEnd _ ex => decide (ex < 5)
  | .shuttlePreemptPoint _ ex => decide (ex < 5)
  | .blockReset _ _ _ => true
  | .controlCoreGate _ k => decide (k < 4)
  | .eventPost _ code source args => decide (code < 0x10000) && decide (source < 0x10000) && decide (args.length ≤ 16)
  | .recordCloseTimer _ => true
  | .recorderFifoDrain _ => true
  | .archiveBatch _ => true
  | .flashOpComplete _ _ => true
  | .ledgerMountComplete _ _ => true
  | .ledgerRebuildComplete _ => true
  | .ledgerScrub _ => true
  | .countersSave _ => true
  | .nonceExpiry _ => true
  | .authHoldEnd _ => true
  | .cplIrqTimer _ => true
  | .hostWdogExpiry _ => true
  | .syncInterval _ => true
  | .controlStall _ => true

end Sys2Proof
end

