-- ==== Sys2Proof/Tests/Slice0.lean ====
section
/-!
SUPPORT. Sys2Proof/Tests/Slice0.lean: what the well-formedness check refuses, for every statement a state and operands that meet the
hypotheses of each of its clauses together, and a few results worked out by hand from the spec.
-/
namespace Sys2Proof.Tests
open Sys2Proof Sys2Proof.Machine

/-! ### Small states and commands -/

/-- 64 descriptor bytes from (offset, byte) pairs; the others are 0. -/
def bytes64 (l : List (Nat × Nat)) : List Byte :=
  (List.range 64).map (fun i => match l.find? (fun x => x.1 == i) with
    | some x => BitVec.ofNat 8 x.2
    | none => 0)

/-- A command of CQ0 with a sound header. -/
def cmd (l : List (Nat × Nat)) : HostCmd :=
  { t := 0, ring := 0, flags := 0, tag := 0, tmo := 0, rsvd := 0, desc := bytes64 l, data := [], tbl := [] }

/-- A ring of 64 entries with `n` entries to take. -/
def ringOf (n : Nat) : Ring :=
  { en := true, depth := 64, nch := 0, head := 0, tail := n, gen := 0, phase := true, cfgErr := false, stamps := List.replicate n 0 }

/-- The device in lead render: firmware serves the rings, CQ0 holds a command and CPL0 has room. -/
def on : State := { State.reset with
  m := { ModeS.reset with mode := .lead, start := false, coreOn := true, cpRun := true, fwReady := true, dpRun := true }
  h := { HostS.reset with linkUp := true, rings := [(0, ringOf 1), (10, ringOf 0)] } }

/-- The same in start-up, nothing rendered. -/
def starting : State := { on with m := { on.m with mode := .dormant, start := true, dpRun := false } }

/-- The same in Maintain, the management processor at the rings. -/
def maintained : State := { on with m := { on.m with mode := .maintain, under := .lead, maint := true, fwReady := false, cpRun := false } }

/-- The ledger mounted on both channels. -/
def mounted (s : State) : State := { s with l := { s.l with
  mounted := true, fa := { s.l.fa with state := 1 }, fb := { s.l.fb with state := 1 } } }

/-- Some waiter, and a mode asked for. -/
def someWaiter : Waiter := { id := 0, ring := 0, gen := 0, tag := 0, opcode := 2, noirq := false }
def asks (m : Mode) : ModeReq := { target := m, pick := 0, resume := 0, who := none }

/-- A load of each set in progress. -/
def loading (p : ParamSet) : State := on.reads (cmd []) layoutLoadInfo p 0

/-! ### Well-formedness refuses -/

theorem test_wf_accepts : (Instr.sysNop (cmd [])).wf = true := by decide
theorem test_wf_ring : (Instr.sysNop { cmd [] with ring := 2 }).wf = false := by decide
theorem test_wf_flags : (Instr.modeSet { cmd [] with flags := 256 }).wf = false := by decide
theorem test_wf_tag : (Instr.cmdAbort { cmd [] with tag := 65536 }).wf = false := by decide
theorem test_wf_tmo : (Instr.cmdAbort { cmd [] with tmo := 65536 }).wf = false := by decide
theorem test_wf_rsvd : (Instr.rateSet { cmd [] with rsvd := 65536 }).wf = false := by decide
theorem test_wf_desc : (Instr.rateSet { cmd [] with desc := List.replicate 65 0 }).wf = false := by decide
theorem test_wf_opcode : (Instr.commandReservedOpcode (cmd []) 256).wf = false := by decide
theorem test_wf_record : (Instr.objectUpdateRecord 0 8 []).wf = false ∧ (Instr.objectUpdateRecord 0 0 (List.replicate 33 0)).wf = false ∧
    (Instr.objectUpdateRelease 0 8).wf = false := by decide
theorem test_wf_register : (Instr.registerWrite 0 16 0 0).wf = false ∧ (Instr.registerWrite 0 0 0x20000 0).wf = false ∧
    (Instr.rcFieldRead 0 16 0).wf = false ∧ (Instr.registerLowHalfRead 0 0 0x20000).wf = false := by decide
theorem test_wf_select : (Instr.loomXpSelWrite 0 16 0).wf = false ∧ (Instr.timeCapLoRead 0 0 4).wf = false ∧ (Instr.mbxDataWrite 0 8 false 0).wf = false ∧
    (Instr.hostNoticeService 0 4 []).wf = false ∧ (Instr.hifRingCfgWrite 0 0 31 0).wf = false := by decide
theorem test_wf_bar : (Instr.doorbellWrite 0 0x1000 4 0).wf = false ∧ (Instr.doorbellWrite 0 0 9 0).wf = false ∧
    (Instr.bar0BadAccess 0 0 4).wf = false ∧ (Instr.bar0BadAccess 0 1 4).wf = true ∧ (Instr.bar2Write 0 0x1000000 [0]).wf = false := by decide
theorem test_wf_fabric : (Instr.bobDbWrite 0 0 16 0 none).wf = false ∧ (Instr.semaphoreRead 0 0 64).wf = false ∧
    (Instr.onchipMailboxPost 0 0 32 0).wf = false ∧ (Instr.xbrLatchWrite 0 0 16 0).wf = false ∧
    (Instr.crossbarTransfer 0 [{ master := 16, addr := 0, len := 4, write := false, data := [], enables := [] }]).wf = false ∧
    (Instr.shuttlePost 0 256 0 false none 0).wf = false ∧ (Instr.shuttleThreadEnd 0 5).wf = false := by decide
theorem test_wf_power : (Instr.resetNRelease 0 256).wf = false ∧ (Instr.railTimeout 0 8).wf = false ∧ (Instr.pwrGoodFall 0 8).wf = false ∧
    (Instr.wakeEvent 0 0).wf = false ∧ (Instr.wakeEvent 0 6).wf = false ∧ (Instr.tempSample 0 []).wf = false ∧
    (Instr.regulatorFail 0 4).wf = false := by decide
theorem test_wf_engines : (Instr.engineBlockStart 0 8 [] []).wf = false ∧ (Instr.battenStep 0 32 []).wf = false ∧ (Instr.battenInstanceEntry 0 32 []).wf = false ∧
    (Instr.checkpointDone 0 32 []).wf = false ∧ (Instr.battenSpareMove 0 32 []).wf = false ∧
    (Instr.zcDeadline 0 4096).wf = false ∧ (Instr.pdmStuck 0 16).wf = false ∧ (Instr.imageLoadCommit 0 8).wf = false := by decide
theorem test_wf_ports : (Instr.portOutputFrame 0 24).wf = false ∧ (Instr.aesTxLeadEnd 0 16).wf = false ∧ (Instr.tdmSlaveResume 0 0 2).wf = false ∧
    (Instr.mediaLinkUp 0 4).wf = false ∧ (Instr.streamClaimExpiry 0 256).wf = false ∧ (Instr.mgAutonegDone 0 4 false false).wf = false := by decide
theorem test_wf_links : (Instr.selvedgeLaneUp 0 2).wf = false ∧ (Instr.heartbeatMissing 0 2).wf = false ∧ (Instr.controlCoreGate 0 4).wf = false ∧
    (Instr.triggerFire 0 64).wf = false ∧ (Instr.refValid 0 4 0).wf = false ∧ (Instr.eventPost 0 0x10000 0 []).wf = false := by decide

/-! ### States that meet the hypotheses of the statements

One theorem for each statement: its parts are the hypotheses of the statement's clauses, in the statement's order. -/

theorem test_StepRunsFrontCommand :
    (on.withPending [.avsWindow 0]).pending = [.avsWindow 0] ∧ on.pending = [] := by decide

/-- A Sound state that no run from reset has to reach. -/
theorem test_CommandsAnswerAndLeaveQueue_StepKeepsSound : on.Sound := by
  refine ⟨rfl, ?_, by decide, ?_, by decide, rfl, by intro x h; simp [on, State.reset, EvrS.reset] at h⟩
  · intro k h
    simp only [on, nget] at h ⊢
    repeat' split at h
    all_goals first | (simp_all [ringOf]; done) | (simp [Ring.off] at h)
  · intro k; simp [on, HostS.reset, nget]

theorem test_HostMemoryReadAfterWrite : Memory.wf on.h.mem = true := by decide

theorem test_HostCommandsWaitInTheirRing :
    hostForm (.sysNop (cmd [])) = some (cmd [], sysNopInfo) ∧ State.reset.takesNow (cmd []) sysNopInfo = false := ⟨rfl, by decide⟩

/-- TMO 60,001 is out of range; TMO 1 has passed one unit after 1 ms. -/
theorem test_HostCommandsRejectedBeforeTheirEffect :
    (on.takesNow { cmd [] with tmo := 60001 } sysNopInfo = true ∧ badHeader { cmd [] with tmo := 60001 } = true) ∧
    (on.takesNow { cmd [] with tmo := 1, t := msU + 1 } sysNopInfo = true ∧ badHeader { cmd [] with tmo := 1 } = false ∧
      on.late { cmd [] with tmo := 1, t := msU + 1 } = true ∧ on.late { cmd [] with tmo := 1, t := msU } = false) := by decide

theorem test_MaintainRefusesOrHolds : maintained.m.maint = true ∧ badHeader (cmd []) = false ∧ maintained.late (cmd []) = false ∧
    (maintained.takesNow (cmd []) layoutLoadInfo = true ∧ layoutLoadInfo.inMaintain = .refuse) ∧
    (maintained.takesNow (cmd []) objQueryInfo = true ∧ objQueryInfo.inMaintain = .hold) := by decide

theorem test_OpcodesAreTheTablesAndOthersBadParam : on.takesNow (cmd []) ⟨255 % 256, .serve⟩ = true ∧ on.late (cmd []) = false ∧
    knownOpcode (255 % 256) = false := by decide

theorem test_Completions : let s : State := { on with h := { on.h with accepted := [someWaiter] } }
    s.h.accepted.any (fun x => x.id == someWaiter.id) = true ∧ s.h.heldCpl = [] ∧ s.ringOn 10 = true ∧ (s.ring 10).room = true := by decide

theorem test_InterruptMessage : wbits (on.msixWord (4 * 0 + 3)) 0 0 = 1 ∧
    (let s : State := { on with h := { on.h with msix := [(3, 0)] } }
     wbits (s.msixWord (4 * 0 + 3)) 0 0 ≠ 1 ∧ s.h.d3hot = false ∧ s.h.l2 = false) := by decide

theorem test_SysCommands : on.accepts (cmd []) sysNopInfo = true ∧
    (on.accepts (cmd []) sysInfoInfo = true ∧ par (cmd []) 0 8 % 8 = 0 ∧ parZero (cmd []) 8 56 = true ∧ parZero (cmd [(63, 1)]) 8 56 = false) ∧
    on.accepts (cmd []) cmdAbortInfo = true ∧ parZero (cmd []) 3 61 = true ∧ par (cmd [(2, 31)]) 2 1 < 32 ∧ 32 ≤ par (cmd [(2, 32)]) 2 1 ∧
    (let s : State := { on with h := { on.h with holdQ := [{ i := .objQuery (cmd []), stamp := 0, w := { someWaiter with opcode := 0x10 } }] } }
     (s.taken (cmd []) cmdAbortInfo).h.holdQ.find? (fun x => abortNames (cmd []) x.w) =
       some { i := .objQuery (cmd []), stamp := 0, w := { someWaiter with opcode := 0x10 } }) ∧
    (let s := on.reads (cmd []) layoutLoadInfo .layout 0
     (s.taken (cmd []) cmdAbortInfo).h.holdQ.find? (fun x => abortNames (cmd []) x.w) = none ∧
       ((s.taken (cmd []) cmdAbortInfo).h.loads.find? (fun x => abortNames (cmd []) x.w)).isSome = true) ∧
    ((on.taken (cmd []) cmdAbortInfo).h.holdQ.find? (fun x => abortNames (cmd []) x.w) = none ∧
      (on.taken (cmd []) cmdAbortInfo).h.loads.find? (fun x => abortNames (cmd []) x.w) = none) := by decide

/-- MODE_SET to a mode with a pick of 0: held, superseding a held one, refused, in start-up, the same, and each kind of transition. -/
theorem test_ModeSetTransitions :
    (∀ m ∈ [1, 2, 3, 4, 5, 0], on.accepts (cmd [(12, m), (13, 5)]) modeSetInfo = true ∧ (Mode.ofCode (par (cmd [(12, m), (13, 5)]) 12 1)).isSome = true ∧
      (on.taken (cmd [(12, m), (13, 5)]) modeSetInfo).planned.named (par (cmd [(12, m), (13, 5)]) 16 8) ≠ none ∧
      par (cmd [(12, m), (13, 5)]) 13 1 ≤ 5 ∧ parZero (cmd [(12, m), (13, 5)]) 32 32 = true) ∧
    (let s : State := { on with m := { on.m with trans := some (asks .pass) } }
     s.changing = true ∧ s.m.held = none) ∧
    (let s : State := { on with m := { on.m with trans := some (asks .pass), held := some (asks .pass) } }
     s.changing = true ∧ s.m.held = some (asks .pass)) ∧
    (on.changing = false ∧ on.w.en = false ∧ on.m.start = false ∧ on.inDormant = false ∧ on.m.mode ≠ .maintain) ∧
    (starting.changing = false ∧ starting.m.start = true ∧ starting.m.recovery = false) ∧
    (on.sameMode .lead = true ∧ on.sameMode .measure = false ∧ on.sameMode .dormant = false ∧ on.sameMode .maintain = false ∧ on.sameMode .pass = false) ∧
    (on.taken (cmd []) modeSetInfo).slotAt 0 = some (1, false) ∧
    (dataTransition .lead .shadow = false ∧ dataTransition .lead .measure = true ∧ dataTransition .lead .pass = true) := by decide

theorem test_ModeQueryAndRateSet :
    (on.accepts (cmd []) modeQueryInfo = true ∧ parZero (cmd []) 32 32 = true) ∧
    (∀ n ∈ [8, 16, 32], on.accepts (cmd [(14, 1), (15, n)]) rateSetInfo = true ∧ parZero (cmd [(14, 1), (15, n)]) 32 32 = true ∧
      par (cmd [(14, 1), (15, n)]) 14 1 ≤ 1 ∧ par (cmd [(14, 1), (15, n)]) 15 1 ∈ [8, 16, 32]) ∧
    (let s : State := { on with m := { on.m with trans := some (asks .pass), transPick := some 0 } }
     s.m.dpRun = true ∧ 0 ≤ s.m.pick ∧ (asks .pass).target ≠ .maintain ∧ (asks .pass).target ≠ .dormant) ∧
    (let s : State := { on with m := { on.m with trans := some (asks .maintain), transPick := some 0 } }
     s.m.dpRun = true ∧ 0 ≤ s.m.pick ∧ (asks .maintain).target = .maintain ∧ s.h.loads = [] ∧
       s.h.accepted.all (fun w => s.outlasts.contains w.id) = true) ∧
    (let s : State := { starting with regs := [(0x1004, 1)], t := { starting.t with lock := true } }
     s.m.dpRun = false ∧ s.coreUp = true ∧ (advance 0 s).autoDue (takeRate (advance 0 s)).pickNow = true) := by decide

theorem test_BudgetCommands :
    (on.accepts (cmd []) budgetQueryInfo = true ∧ parZero (cmd []) 8 56 = true ∧ par (cmd []) 0 8 % 8 = 0) ∧
    (on.accepts (cmd []) budgetSetInfo = true ∧ parZero (cmd []) 4 4 = true ∧ parZero (cmd []) 16 48 = true ∧ par (cmd []) 1 1 = 0) ∧
    (∀ x ∈ [10, 50], let c := cmd [(0, x), (1, 3), (2, 0), (3, 2)]
      on.accepts c budgetSetInfo = true ∧ parZero c 4 4 = true ∧ parZero c 16 48 = true ∧ 0 < par c 1 1 ∧ par c 1 1 < 4 ∧
      (10 ≤ par c 0 1 ∧ par c 0 1 ≤ 50) ∧ par c 2 2 ≤ 512 ∧ (on.taken c budgetSetInfo).slotAt (par c 8 8) = some (1, false)) ∧
    (let s : State := { on with m := { on.m with mode := .pass } }
     s.accepts (cmd []) budgetRestoreInfo = true ∧ s.dataMode = .pass ∧ s.m.dpRun = true) ∧
    (on.accepts (cmd []) budgetRestoreInfo = true ∧ on.dataMode ≠ .pass ∧ on.b.shed = 0) ∧
    (let s : State := { on with b := { on.b with shed := 1 } }
     s.accepts (cmd []) budgetRestoreInfo = true ∧ s.dataMode ≠ .pass ∧ s.b.shed ≠ 0 ∧
       (s.taken (cmd []) budgetRestoreInfo).slotAt (par (cmd []) 8 8) = some (1, false)) ∧
    (let s : State := { on with b := { on.b with due := some 0 }, m := { on.m with mode := .pass } }
     s.b.due = some 0 ∧ s.dataMode = .pass) ∧
    (let s : State := { on with b := { on.b with due := some 0, shed := 3 } }
     s.b.due = some 0 ∧ ({ advance 0 s with b := { s.b with due := none } } : State).shedAhead < 4 ∧ s.dataMode ≠ .pass) := by decide

/-- Records of object 0 with a field bit: a sound one, one with no field bit, one far ahead, one for now. -/
def objectsOn : State := { on with h := { on.h with rings := nset on.h.rings 2 (ringOf 1) } }
def seen (b : List Byte) (s : State) : State :=
  let v := popRing 2 (advance 0 s)
  checkSeq 0 b (flowTake 0 (writeIndex 2 (v.ring 2).head v))
def soundRecord : List Byte := bytes64 [(30, 2)]
def someUpdate : ObjUpdate := { ring := 0, seq := 0, bytes := [], k := 0, pos := 0, q := 0, now := true, inTime := true, rel := 0, relAt := 0 }

theorem test_ObjectUpdates :
    (objectsOn.objectsRun = true ∧ objectsOn.ringOn 2 = true ∧ (objectsOn.ring 2).head ≠ (objectsOn.ring 2).tail ∧
      (objectsOn.flow 0).opened.length < 64) ∧
    (seen (bytes64 []) objectsOn).recordOk (bytes64 []) = false ∧
    (let b := bytes64 [(7, 0x40), (30, 2)]
     (seen b objectsOn).recordOk b = true ∧ bitOf (recFlags b) 7 = false ∧ (seen b objectsOn).pickNow + 2 ^ 20 < ((seen b objectsOn).place b).2.2) ∧
    ((seen soundRecord objectsOn).recordOk soundRecord = true ∧ bitOf (recFlags soundRecord) 7 = false ∧
      ((seen soundRecord objectsOn).place soundRecord).2.2 ≤ (seen soundRecord objectsOn).pickNow + 2 ^ 20 ∧
      (seen soundRecord objectsOn).pendCount < 65536) ∧
    (∀ a ∈ [someUpdate, { someUpdate with q := 1 }], let s : State := { on with o := { on.o with checked := [(0, [a])] } }
     s.objectsRun = true ∧ nget [] s.o.checked 0 = a :: [] ∧ (s.flow 0).opened.contains a.seq = false ∧
       (advance 0 s).meetsPick { a with rel := s.o.relCtr, relAt := max s.t.now 0 } = decide (a.q = 0)) ∧
    (∀ n ∈ [0, 1], let s : State := { on with
      o := { on.o with checked := [(0, [{ someUpdate with seq := n }])] }
      g := { on.g with flows := [(0, { Flow.reset with next := 2, opened := [0, 1] })] } }
     (s.flow 0).opened.contains n = true ∧ decide ((s.flow 0).base = n) = decide (n = 0)) := by decide

/-- The same with records in the store. -/
def stored (l : List ObjUpdate) : State := { objectsOn with o := { objectsOn.o with store := l } }
theorem seen_stored (l : List ObjUpdate) : (seen soundRecord (stored l)).o.store = l ∧ (stored l).objectsRun = true ∧
    (seen soundRecord (stored l)).recordOk soundRecord = true := ⟨rfl, rfl, rfl⟩

theorem test_ObjectUpdates_full : let s := stored (List.replicate 65536 someUpdate)
    s.objectsRun = true ∧ (seen soundRecord s).recordOk soundRecord = true ∧
      65536 ≤ (seen soundRecord s).pendCount := by
  intro s
  refine ⟨(seen_stored _).2.1, (seen_stored _).2.2, ?_⟩
  unfold State.pendCount
  rw [(seen_stored _).1, List.length_replicate]; omega

/-! Objects, layouts, the Loom -/

/-- A change of the list, for pick `p`. -/
def queued (p : Nat) (chg : Change) (s : State) : State := pushSched p false none chg s
def dormant : State := { starting with m := { starting.m with start := false } }

theorem test_ObjectCommands :
    (∀ f ∈ [[(10, 1)], [(8, 255), (9, 3), (10, 1)]], let c := cmd ((12, 128) :: f)
      let c0 := cmd f
      (on.accepts c0 objQueryInfo = true ∧ objRangeOk c0 on = true ∧ par c0 0 8 % 32 = 0) ∧
      (on.accepts c objGlideInfo = true ∧ objRangeOk c on = true ∧ 1 ≤ par c 12 1 ∧ par c 12 1 ≤ 128 ∧
        (on.taken c objGlideInfo).slotAt (par c 16 8) = some (1, false)) ∧
      (on.accepts c objResetInfo = true ∧ (on.taken c objResetInfo).slotAt (par c 16 8) = some (1, false)) ∧
      (on.accepts c objFlushInfo = true ∧ (on.taken c objFlushInfo).named (par c 16 8) = some 1)) ∧
    (objRangeOk (cmd []) on = false ∧ on.accepts (cmd []) objQueryInfo = true ∧ on.accepts (cmd []) objGlideInfo = true ∧
      on.accepts (cmd []) objResetInfo = true ∧ on.accepts (cmd []) objFlushInfo = true) := by decide

theorem test_LayoutCommands : on.inDormant = false ∧ layoutRsv (cmd []) = true ∧ par (cmd []) 0 8 % 8 = 0 ∧
    on.accepts (cmd []) layoutLoadInfo = true ∧
    (on.accepts (cmd []) layoutSwapInfo = true ∧ par (cmd []) 12 1 < 2 ∧ on.inDormant = false ∧ (on.taken (cmd []) layoutSwapInfo).slotAt 0 = some (1, false) ∧
      on.x.loaded = false ∧ (on.taken (cmd []) layoutSwapInfo).mustWait (.layoutSwap false) = false) ∧
    (let s : State := { on with x := { on.x with inactive := some on.x.active, loaded := true } }
     s.accepts (cmd []) layoutSwapInfo = true ∧ s.x.loaded = true ∧ (s.taken (cmd []) layoutSwapInfo).rival (.layoutSwap false) = none ∧
       (∀ p ∈ [1, 5], let u := (queued p (.layoutSwap false) s).taken (cmd []) layoutSwapInfo
         u.rival (.layoutSwap false) = some { pick := p, who := none, chg := .layoutSwap false, late := false } ∧
         decide (u.standsFor p = u.standsFor 1) = decide (p = 1))) ∧
    (loading .layout |>.taken (cmd []) layoutSwapInfo).mustWait (.layoutSwap false) = true ∧
    (on.accepts (cmd [(10, 255)]) layoutQueryInfo = true ∧ on.x.active.image.length ≤ par (cmd [(10, 255)]) 8 4) ∧
    (∀ b ∈ [[(24, 0xE0), (25, 0x93), (26, 4)], [(24, 0x80), (25, 0x1A), (26, 6)]], on.accepts (cmd b) soundSpeedSetInfo = true ∧
      layoutRsv (cmd b) = true ∧ 300000 ≤ par (cmd b) 24 4 ∧ par (cmd b) 24 4 ≤ 400000 ∧ (on.taken (cmd b) soundSpeedSetInfo).slotAt 0 = some (1, false)) ∧
    (on.accepts (cmd []) geomProbeInfo = true ∧ parZero (cmd []) 13 3 = true ∧ parZero (cmd []) 52 12 = true ∧
      (on.taken (cmd []) geomProbeInfo).recordOk (probeRecord (cmd [])) = true) ∧
    (dormant.inDormant = true ∧ dormant.accepts (cmd []) layoutLoadInfo = true ∧ dormant.accepts (cmd []) layoutSwapInfo = true ∧
      dormant.accepts (cmd []) layoutQueryInfo = true ∧ dormant.accepts (cmd []) soundSpeedSetInfo = true ∧
      dormant.accepts (cmd []) geomProbeInfo = true) := by decide

/-- Ranges at both ends: input 0, and input 1,023 alone. -/
theorem test_LoomExecutionCommands :
    (∀ f ∈ [[(10, 1)], [(8, 255), (9, 3), (10, 1)]], let c := cmd f
      (on.accepts c loomCeilSetInfo = true ∧ inputRangeOk c (on.taken c loomCeilSetInfo) = true ∧ par c 12 2 ≤ (on.taken c loomCeilSetInfo).outputs ∧
        (on.taken c loomCeilSetInfo).slotAt (par c 16 8) = some (1, false)) ∧
      (on.accepts c loomCeilQueryInfo = true ∧ inputRangeOk c (on.taken c loomCeilQueryInfo) = true ∧ par c 0 8 % 16 = 0) ∧
      (on.accepts c loomXpDumpInfo = true ∧ inputRangeOk c (on.taken c loomXpDumpInfo) = true)) ∧
    (on.accepts (cmd []) loomCeilSetInfo = true ∧ inputRangeOk (cmd []) (on.taken (cmd []) loomCeilSetInfo) = false ∧
      on.accepts (cmd []) loomCeilQueryInfo = true ∧ inputRangeOk (cmd []) (on.taken (cmd []) loomCeilQueryInfo) = false ∧
      on.accepts (cmd []) loomXpDumpInfo = true ∧ inputRangeOk (cmd []) (on.taken (cmd []) loomXpDumpInfo) = false) := by decide

/-! The Reed -/

/-- A measurement of two channels of one pick each, in progress. -/
def someMeas : MeasRun :=
  { w := someWaiter, addr := 0, chans := 2, len := 16, irLen := 1, reg := 0, trig := 0xFF, srcs := [0, 1], start := some 0, caps := [], decon := none }

theorem test_ReedBankCommands : on.inDormant = false ∧ reedRsv (cmd []) false = true ∧ reedRsv (cmd []) true = true ∧ par (cmd []) 0 8 % 16 = 0 ∧
    (∀ f ∈ [[(10, 1)], [(8, 255), (9, 1), (10, 1)]], let c := cmd f
      on.accepts c reedOutCfgInfo = true ∧ reedRsv c false = true ∧ 1 ≤ par c 10 2 ∧ par c 8 2 + par c 10 2 ≤ (on.taken c reedOutCfgInfo).outputs ∧
      (outRecords c).all outRecordOk = true ∧ on.longBank = false ∧ (on.taken c reedOutCfgInfo).slotAt (par c 16 8) = some (1, false)) ∧
    on.accepts (cmd []) reedBankLoadInfo = true ∧
    (let s : State := { on with r := { on.r with loaded := true } }
     s.accepts (cmd []) reedOutLoadInfo = true ∧ s.r.loaded = true ∧ s.bankBusy = false) ∧
    ((loading .reed).taken (cmd []) reedOutLoadInfo).loading .reed = true ∧ ({ on with r := { on.r with meas := some someMeas } } : State).bankBusy = true ∧
    on.accepts (cmd []) reedBankCopyInfo = true ∧
    (let s : State := { on with r := { on.r with loaded := true } }
     s.accepts (cmd []) reedBankSwapInfo = true ∧ s.dataMode ≠ .pass ∧ par (cmd []) 12 1 < 2 ∧ ((s.taken (cmd []) reedBankSwapInfo).bankSlot 0).isSome = true ∧
       s.r.meas = none ∧ s.r.loaded = true ∧ (s.taken (cmd []) reedBankSwapInfo).loading .reed = false ∧
       (s.taken (cmd []) reedBankSwapInfo).rival (.bankSwap false false) = none ∧
       (∀ p ∈ [1, 5], let u := (queued p (.bankSwap false false) s).taken (cmd []) reedBankSwapInfo
         u.rival (.bankSwap false false) = some { pick := p, who := none, chg := .bankSwap false false, late := false } ∧
         decide (u.standsFor p = u.standsFor 1) = decide (p = 1)) ∧
       ((s.taken (cmd []) reedBankSwapInfo).bankSwapFault false 1 = none ∧
         (putReedInactive { ReedBank.empty with long := true } s).bankSwapFault true 1 = some stParam)) ∧
    (on.accepts (cmd []) reedBankQueryInfo = true) := by decide

/-- A measurement of two sources, one sample long. -/
theorem test_MeasurementCommands :
    (on.accepts (cmd []) reedMeasRunInfo = true ∧ on.m.mode ≠ .measure) ∧
    (let s : State := { on with m := { on.m with mode := .measure } }
     let c := cmd [(16, 1), (20, 1), (28, 2), (29, 20), (34, 1)]
     s.accepts c reedMeasRunInfo = true ∧ s.m.mode = .measure ∧ measOk c s = true ∧ par c 0 8 % 16 = 0 ∧ s.bankBusy = false ∧
       (s.taken c reedMeasRunInfo).loading .reed = false ∧ s.b.shed < 2 ∧ 2 ≤ ({ s with b := { s.b with shed := 2 } } : State).b.shed) ∧
    (on.accepts (cmd []) reedMeasAbortInfo = true ∧ on.inDormant = false ∧ reedRsv (cmd []) false = true) ∧
    (let m := { someMeas with caps := [(0, List.replicate 16 0), (1, List.replicate 16 0)] }
     m.start.isSome = true ∧ m.decon = none ∧ m.len ≤ m.captured) ∧
    (let s : State := { on with m := { on.m with pick := 100000 }, r := { on.r with meas := some { someMeas with decon := some 0 } } }
     0 + someMeas.deconPicks s.t.pickLen ≤ s.m.pick) := by decide

/-! The Heddle -/

theorem test_HeddleCommands : on.inDormant = false ∧ routeRsv (cmd []) = true ∧ par (cmd []) 0 8 % 16 = 0 ∧ on.accepts (cmd []) routeLoadInfo = true ∧
    (on.accepts (cmd []) routeSwapInfo = true ∧ (on.taken (cmd []) routeSwapInfo).slotAt 0 = some (1, false) ∧ on.d.loaded = false ∧
      (on.taken (cmd []) routeSwapInfo).mustWait .routeSwap = false) ∧
    (let s : State := { on with d := { on.d with inactive := some on.d.active, loaded := true } }
     s.accepts (cmd []) routeSwapInfo = true ∧ s.d.loaded = true ∧ (s.taken (cmd []) routeSwapInfo).rival .routeSwap = none ∧
       (∀ p ∈ [1, 5], let u := (queued p .routeSwap s).taken (cmd []) routeSwapInfo
         u.rival .routeSwap = some { pick := p, who := none, chg := .routeSwap, late := false } ∧
         decide (u.standsFor p = u.standsFor 1) = decide (p = 1))) ∧
    ((loading .route).taken (cmd []) routeSwapInfo).mustWait .routeSwap = true ∧
    (on.accepts (cmd [(10, 255)]) routeQueryInfo = true ∧ on.d.active.image.length ≤ par (cmd [(10, 255)]) 8 4) ∧
    (∀ f ∈ [[(26, 1)], [(12, 4), (24, 0), (26, 2)]], let c := cmd f
      on.accepts c infiltSetInfo = true ∧ routeRsv c = true ∧ par c 12 1 ≤ 4 ∧ 1 ≤ par c 26 2 ∧ par c 26 2 ≤ 1280 ∧
      allTo (par c 26 2) (fun i => srcFiltered (on.taken c infiltSetInfo).t.rate96 (par c 24 2 + i)) = true ∧
      (on.taken c infiltSetInfo).slotAt (par c 16 8) = some (1, false)) ∧
    (on.accepts (cmd []) routeAbortInfo = true ∧ on.sched.find? (fun x => decide (x.chg = .routeSwap)) = none) ∧
    (∀ p ∈ [0, 5], let s := queued p .routeSwap on
     s.accepts (cmd []) routeAbortInfo = true ∧ s.sched.find? (fun x => decide (x.chg = .routeSwap)) =
       some { pick := p, who := none, chg := .routeSwap, late := false } ∧ s.m.dpRun = true ∧
       decide (p ≤ (s.taken (cmd []) routeAbortInfo).pickNow) = decide (p = 0)) := by decide

/-! Filter chain, Batten cores, loads -/

/-- One channel resampled 1:1 into channel 0 of AES3 port 0, which sends, and the same at 2:1. -/
def rsBytes (l : Nat) : List Byte := (bytes64 [(1, 1), (2, l), (4, 1), (6, 0x80), (7, 6)]).take 16
def sending : State := { on with a := { on.a with aes := [(0, { on.aes 0 with txEn := true })] } }

theorem test_FilterChainCommands : on.inDormant = false ∧ fchRsv (cmd []) = true ∧ par (cmd []) 0 8 % 8 = 0 ∧
    (on.accepts (cmd []) fchPdmSetInfo = true ∧ par (cmd []) 13 1 < 4 ∧ anyTo 16 (fun m => decide (outMode (par (cmd []) 24 4) m = 3)) = false ∧
      (chainOf (bitOf (par (cmd []) 13 1) 0) (on.taken (cmd []) fchPdmSetInfo).planned.t.rate96).isSome = true ∧
      (on.taken (cmd []) fchPdmSetInfo).slotAt 0 = some (1, false)) ∧
    (∀ l ∈ [1, 2], let c := { cmd [(8, 1)] with data := rsBytes l }
      let raw := fit (16 * par c 8 4) c.data
      let u := sending.taken c fchRsSetInfo
      let cfg := u.planned.configAt (u.judgePick 1)
      sending.accepts c fchRsSetInfo = true ∧ fchRsv c = true ∧ 1 ≤ par c 8 4 ∧ par c 8 4 ≤ 64 ∧ u.slotAt (par c 16 8) = some (1, false) ∧
      (records16 raw).all (rsRecordOk cfg.t.rate96 cfg.fs) = true ∧ hasTwice (rsTargets cfg.f.rs (records16 raw)) = false ∧
      (records16 raw).all (fun b => !bitOf (byteAt b 1) 0 || cfg.targetRuns (getLE b 6 2) (getLE b 2 2) (getLE b 4 2)) = decide (l = 1)) ∧
    on.accepts (cmd []) fchBankLoadInfo = true ∧
    (let s : State := { on with f := { on.f with loaded := true } }
     s.accepts (cmd []) fchBankSwapInfo = true ∧ s.f.loaded = true) ∧
    on.accepts (cmd []) fchSyncResetInfo = true ∧
    (on.accepts (cmd []) fchStimSetInfo = true ∧ on.m.mode ≠ .measure) ∧
    (let s : State := { on with m := { on.m with mode := .measure } }
     s.accepts (cmd []) fchStimSetInfo = true ∧ s.m.mode = .measure ∧ (stimOf (cmd []) s.fs).isSome = true) := by decide

/-- FCH_BANK_QUERY of a bank that holds an image. -/
theorem test_FilterChainCommands_query :
    let s : State := { on with f := { on.f with bankA := some { id := 0, t1 := 7, t2 := 7, ft := 8, img := some [0], poison := [] } } }
    s.accepts (cmd [(8, 1)]) fchBankQueryInfo = true ∧ s.fchBank.image.length ≤ par (cmd [(8, 1)]) 8 4 := by decide

theorem test_FilterChainRows :
    (let x : Mic := { Mic.clear 0 with run := 4096 }
     nfind [(0, x)] 0 = some x ∧ outMode 1 0 = 1 ∧ 4096 ≤ x.run ∧ x.stuck = false) ∧
    (let x : Mic := { Mic.clear 0 with run := 4095, stuck := true }
     nfind [(0, x)] 0 = some x ∧ x.stuck = true ∧ x.run < 4096) ∧
    (let s : State := { on with f := { on.f with stimOn := true, stimN := 1, stimEnd := 1 } }
     s.f.stimOn = true ∧ s.f.stimEnd ≤ s.f.stimN) := by decide

/-- A program of one word, of one step a pick. -/
def someProg : BatProg :=
  { id := 1, code := [0], entry := 0, xc := [], yc := [], stateW := 0, steps8 := 8, steps16 := 8, steps32 := 8, nin := 0, nout := 0,
    insts := [{ id := 0, ins := [], outs := [] }] }

/-- Logical core 0 in a phase, its program loaded. -/
def core (p : BatPhase) : State := { on with c := { on.c with
  cores := [(0, { BatCore.reset 0 with prog := some someProg })], lcs := [(0, { LCore.reset 0 with st := 2, phase := p })] } }

theorem test_BattenCommands : on.inDormant = false ∧ batRsv (cmd []) = true ∧ par (cmd []) 12 1 < 32 ∧ par (cmd [(12, 31)]) 12 1 < 32 ∧
    par (cmd []) 0 8 % 8 = 0 ∧ par (cmd []) 24 8 % 8 = 0 ∧ on.accepts (cmd []) batLoadInfo = true ∧
    (on.accepts (cmd []) batStartInfo = true ∧ (on.taken (cmd []) batStartInfo).batBusy 0 = false ∧ on.startable 0 = none ∧
      ((queued 5 (.batStart 0) on).taken (cmd []) batStartInfo).batBusy 0 = true) ∧
    (let s : State := { core .waiting with c := { (core .waiting).c with lcs := [(0, { LCore.reset 0 with st := 1 })] } }
     s.accepts (cmd []) batStartInfo = true ∧ (s.startable 0).isSome = true ∧ (s.taken (cmd []) batStartInfo).slotAt 0 = some (1, false)) ∧
    (on.accepts (cmd []) batStopInfo = true ∧ (on.lcore 0).runs = false ∧
      (core .waiting).accepts (cmd []) batStopInfo = true ∧ ((core .waiting).lcore 0).runs = true ∧
      ((core .waiting).taken (cmd []) batStopInfo).slotAt 0 = some (1, false)) ∧
    (on.accepts (cmd [(9, 8)]) batQueryInfo = true ∧ 2048 ≤ par (cmd [(9, 8)]) 8 4) ∧
    (let s : State := { core .waiting with c := { (core .waiting).c with lcs := [(0, { LCore.reset 0 with st := 2, slots := [(0, ⟨0, [], true⟩)] })] } }
     s.accepts (cmd [(8, 8)]) batCkptReadInfo = true ∧ par (cmd [(8, 8)]) 13 1 < s.instCount 0 ∧ (s.lcore 0).newest 0 = some ⟨0, [], true⟩ ∧
       8 ≤ par (cmd [(8, 8)]) 8 4) := by decide

theorem test_BattenPickRows :
    (let s : State := { core .waiting with b := { on.b with cur := [{ EngineUse.none with finished := true }] } }
     s.canEnter 0 = true) ∧
    ((core .running).lprog 0 = some someProg ∧ ((core .running).lcore 0).phase = .running ∧ ((core .running).lcore 0).replay = false ∧
      ((core .running).lcore 0).steps + 1 ≤ someProg.steps on.t.pickLen ∧ someProg.steps on.t.pickLen < 8 + 1) ∧
    (let err : Nat → Nat → EccError := fun i k => { dbl := true, inst := batMem 0 i, word := k, place := .other }
     let e1 := fun errs => (advance 0 (core .running)).errorsIn [(batMem 0 0, 0)] errs
     (e1 [err 0 0]).any (·.dbl) = true ∧ (e1 []).any (·.dbl) = false ∧ illegalWord (2 ^ 64 - 1) BatRegs.zero = true ∧
       (∀ w ∈ [0, 2 ^ 37, 0x36 <<< 58], illegalWord w BatRegs.zero = false ∧ decide (batOp w = 0x36) = decide (w = 0x36 <<< 58)) ∧
       ((advance 0 (core .running)).errorsIn ((dataWords moveReads (2 ^ 37) BatRegs.zero).map (fun a => (batMem 0 (1 + a.1), a.2))) [err 1 0]).any (·.dbl) = true) ∧
    ((core .checkpoint).lprog 0 = some someProg ∧ ((core .checkpoint).lcore 0).phase = .checkpoint ∧
      min someProg.stateW (8 * (someProg.steps on.t.pickLen - ((core .checkpoint).lcore 0).steps)) = someProg.stateW ∧
      min 9 (8 * (someProg.steps on.t.pickLen - 7)) < 9 ∧
      ((advance 0 (core .checkpoint)).errorsIn [(batMem 0 1, 0)] [{ dbl := true, inst := batMem 0 1, word := 0, place := .other }]).find? (·.dbl) =
        some { dbl := true, inst := batMem 0 1, word := 0, place := .other } ∧
      ((advance 0 (core .checkpoint)).errorsIn [(batMem 0 1, 0)] []).find? (·.dbl) = none) ∧
    (let s := putPcore 0 { (core .faulted).pcore 0 with st := 2 } (core .faulted)
     s.awaitsMove 0 = true ∧ s.awaitsMove 1 = false ∧ s.spares = [32, 33] ∧
       (putPcore 32 { s.pcore 32 with st := 2 } (putPcore 33 { s.pcore 33 with st := 2 } s)).spares = []) := by decide

theorem test_ImageLoadCommits : on.h.loads.find? (fun l => decide (l.set = setOfCode 0)) = none ∧
    (∀ p ∈ [ParamSet.layout, .route, .reed, .fch, .bat 0, .bat 31], ((loading p).h.loads.find? (fun l => decide (l.set = p))).isSome = true) ∧
    ((advance 0 (loading (.bat 0))).batFault 0 [] [] 0 0).isSome = true := by decide

/-- A program image of one word with its CRC, and a table of one instance. -/
def batImage : List Byte :=
  let pre := (bytes64 [(0, 0x50), (1, 0x4E), (2, 0x54), (3, 0x42), (4, 1), (6, 1), (16, 8), (20, 8), (24, 8), (36, 72)]).take 60
  pre ++ leBytes 4 (crc32c (pre ++ zeros 12)) ++ zeros 8
def batTable : List Byte := leBytes 2 1 ++ zeros 278

set_option maxRecDepth 20000 in
theorem test_ImageLoadCommits_batten : (advance 0 (loading (.bat 0))).batFault 0 batImage batTable 72 280 = none := by decide

/-! Registers, rings and the host interface -/

/-- Each kind of read: with a high half (SYS_SERIAL_LO), the triple at 0xE004, without one (SYS_ID), and a high half itself. -/
theorem test_RegisterReads :
    (on.regServed 0 4 = true ∧ isHigh 4 = false ∧ (regDef? 4).isSome = true ∧ (highOf 4).isSome = true) ∧
    (on.regServed 0 0xE004 = true ∧ isHigh 0xE004 = false ∧ (regDef? 0xE004).isSome = true) ∧
    (on.regServed 0 0 = true ∧ isHigh 0 = false ∧ (regDef? 0).isSome = true ∧ highOf 0 = none) ∧
    (on.regServed 0 8 = true ∧ isHigh 8 = true ∧ on.regServed 0 0xE00C = true) ∧
    on.regServed 0 0x104 = true ∧ (on.regServed 0 0xE060 = true ∧ on.regServed 0 0xE078 = true) := by decide

/-- The base of ring 0. -/
theorem test_RegisterHalfWrites : highOf 0x2100 = some (0x2100 + 4) ∧ 0x2100 ∉ [0x6010] ∧ writable 0x2100 = true ∧ writable (0x2100 + 4) = true ∧
    on.regServed 0 0x2100 = true ∧ on.regServed 0 (0x2100 + 4) = true ∧ nfind on.h.holds (halfKey 0 0x2100) = none ∧
    (let s : State := { on with h := { on.h with holds := [(halfKey 0 0x2100, 7)] } }
     s.regServed 0 (0x2100 + 4) = true ∧ nfind s.h.holds (halfKey 0 0x2100) = some 7) := by decide

/-- HIF_CPL_IRQ written whole; each selector; latch 15; a register with the core domain off. -/
theorem test_RegisterWrites :
    (on.regServed 0 0x2010 = true ∧ isSelect 0x2010 = false ∧ highOf 0x2010 = none ∧ isHigh 0x2010 = false ∧ (regDef? 0x2010).isSome = true) ∧
    (∀ r ∈ [0x7028, 0x8030, 0x902C, 0x9034, 0xA038, 0xB100, 0xD104, 0xD214, 0x1300C], on.regServed 0 r = true) ∧
    (on.regServed 3 (0x6040 + 4 * 15) = true ∧ on.g.latched.contains 15 = false) ∧
    State.reset.regServed 1 0x2010 = false := by decide

/-- Ring 30's configuration: switched off, on again, and on with a depth of 3, no power of two. Doorbells of rings 0, 10 and one that is off. -/
theorem test_RingsAndDoorbells : on.regServed 0 (0x2110 + 0x20 * 30) = true ∧ on.regServed 0 (0x2110 + 0x20 * 0) = true ∧
    wbits (0 : Word) 13 13 = 0 ∧ wbits (0x2040 : Word) 13 13 = 1 ∧ (on.ring 0).en = true ∧ (on.ring 30).en = false ∧
    depthOk (wbits (0x2040 : Word) 12 0) = true ∧ on.ringBase 30 % 4096 = 0 ∧ depthOk (wbits (0x2003 : Word) 12 0) = false ∧ wbits (0x2003 : Word) 13 13 = 1 ∧
    on.hostReaches = true ∧ (on.ring 10).en = true ∧ (on.ring 0).depth ≤ (64 : Word).toNat ∧ (63 : Word).toNat < (on.ring 0).depth ∧
    (63 : Word).toNat < (on.ring 10).depth := by decide

theorem test_HostWatchdog :
    (let s : State := { on with regs := [(0x2020, 1)], h := { on.h with wdogFrom := some 0 } }
     s.h.wdogFrom = some 0 ∧ s.field 0x2020 15 0 ≠ 0 ∧ 0 + s.field 0x2020 15 0 * msU < max s.t.now (msU + 1) ∧ s.h.wdogExpired = false) ∧
    (∀ n ∈ [8, 4096], let s : State := { on with h := { on.h with mbx := [(3, [0])] } }
      let msg := leBytes 2 1 ++ leBytes 2 n
      s.mbox 3 = 0 :: [] ∧ bitsOf (0 : DWord).toNat 55 48 = s.field 0x2004 7 0 ∧ getLE msg 0 2 = 1 ∧ 8 ≤ getLE msg 2 2 ∧ getLE msg 2 2 ≤ 4096) := by decide

theorem test_HostMailboxRows : on.coreUp = true ∧
    (let s : State := { on with h := { on.h with holds := [(halfKey 0 (0x3000 + 8 * 3), 7)] } }
     s.coreUp = true ∧ nfind s.h.holds (halfKey 0 (0x3000 + 8 * 3)) = some 7) ∧
    (on.mbox 4 = [] ∧ on.mbox 7 = []) ∧
    (let s : State := { on with h := { on.h with mbx := [(7, [1])], latches := [(halfKey 0 (0x3004 + 8 * 7), 0)] } }
     s.mbox 7 = 1 :: [] ∧ nfind s.h.latches (halfKey 0 (0x3004 + 8 * 7)) = some 0) ∧
    (let s : State := { on with h := { on.h with mbx := [(0, [1 <<< 48]), (3, [0])] } }
     s.mbox 0 = 1 <<< 48 :: [] ∧ bitsOf (1 <<< 48 : DWord).toNat 55 48 ≠ s.field 0x2004 7 0 ∧ s.mbox 3 = 0 :: [] ∧
       bitsOf (0 : DWord).toNat 55 48 = s.field 0x2004 7 0 ∧ getLE (leBytes 2 2 ++ leBytes 2 8) 0 2 = 2 ∧ getLE (leBytes 2 2 ++ leBytes 2 8) 2 2 = 8 ∧
       getLE [] 0 2 ≠ 1 ∧ getLE [] 0 2 ≠ 2) := by decide

theorem test_HostLinkRows : on.coreUp = true ∧ on.hostReaches = true ∧ on.inMaintain = false ∧ maintained.hostReaches = true ∧ maintained.inMaintain = true ∧
    (let s : State := { on with h := { on.h with linkUp := false } }
     s.coreUp = true ∧ s.h.linkUp = false) ∧
    (let s : State := { on with regs := [(0x2010, 0x100)], h := { on.h with unsig := 1 } }
     s.field 0x2010 23 8 ≠ 0 ∧ s.h.unsig ≠ 0 ∧ s.h.unsigSince + s.field 0x2010 23 8 * usU ≤ max s.t.now usU) := by decide

/-! The fabric -/

/-- A word write of master 1 to lock 0, and a word read of master 15 from lock 63. -/
def lockWrite : Burst := { master := 1, addr := 0x21000000, write := true, len := 4, enables := [], data := leBytes 4 1 }
def readOf63 : Burst := { master := 15, addr := 0x21000000 + 4 * 63, write := false, len := 4, enables := [], data := [] }

theorem test_Semaphores : on.coreUp = true ∧ nfind on.g.sems 0 = none ∧ nfind on.g.sems 63 = none ∧
    (let s : State := { on with g := { on.g with sems := [(63, 15)] } }
     s.coreUp = true ∧ nfind s.g.sems 63 = some 15 ∧ (15 : Word).toNat = 15 ∧ ¬ (nfind s.g.sems 63 = some 15 ∧ (14 : Word).toNat = 15)) ∧
    (lockWrite.master = 1 ∧ lockWrite.addr = 0x21000000 + 4 * 0 ∧ lockWrite.len = 4 ∧ lockWrite.write = true) ∧
    (readOf63.master = 15 ∧ readOf63.addr = 0x21000000 + 4 * 63 ∧ readOf63.len = 4 ∧ readOf63.write = false) ∧
    State.reset.coreUp = false := by decide

/-- Mailbox 0 goes to master 4, control core 0, here gated; mailbox 31 to none. -/
theorem test_OnchipMailboxes : on.m.retention = false ∧ on.coreUp = true ∧ (on.ocBox 31).length < 4 ∧ mailReceiver 31 = none ∧
    (let s : State := { on with g := { on.g with gated := [(0, true)] } }
     s.coreUp = true ∧ (s.ocBox 0).length < 4 ∧ mailReceiver 0 = some 4 ∧ nget false s.g.gated (4 - 4) = true) ∧
    (let s : State := { on with g := { on.g with oc := [(31, List.replicate 4 (1, 0))] } }
     s.coreUp = true ∧ 4 ≤ (s.ocBox 31).length) ∧
    (let s : State := { on with m := { on.m with retention := true } }
     s.m.retention = true ∧ s.g.wakeLatch = none) ∧
    (on.ocBox 31 = [] ∧ ({ on with g := { on.g with oc := [(31, [(1, 0)])] } } : State).ocBox 31 = (1, 0) :: []) ∧
    ((on.exec? 3).cur = none ∧ nget 0 on.g.idleSince 3 + msU ≤ max on.t.now msU ∧ on.readyList = []) := by decide

theorem test_BobbinChannels : on.regServed 1 (0x5018 + 0x20 * 15) = true ∧ on.coreUp = true ∧
    (let x := { on.bob 0 with run := true }
     x.run = true) ∧
    (let x := { on.bob 0 with run := false, parked := true, en := true }
     x.run = false ∧ x.parked = true ∧ x.en = true ∧ bitOf (getLE (memRead on.g.gm (32 * x.cur + 28) 4) 0 4) 24 = false) ∧
    (let s : State := { on with g := { on.g with gm := memWriteAll [] 28 [0, 0, 0, 1] } }
     bitOf (getLE (memRead s.g.gm (32 * (s.bob 0).cur + 28) 4) 0 4) 24 = true) ∧
    (let x := { on.bob 0 with run := false, parked := false, trig := 0 }
     x.run = false ∧ x.parked = false ∧ x.trig = 0) ∧
    (let s : State := { on with g := { on.g with bob := [(15, { on.bob 15 with run := true })] } }
     (s.bob 15).run = true ∧ s.coreUp = true) := by decide

/-- An entry of slot 255, and executor 0 at work on it at level 31. -/
def someThread : Thread := { slot := 255, flow := some (15, 0), arg := 0 }
def working (f : Option (Nat × Nat)) (pre : Bool) : State := { on with g := { on.g with
  ex := [(0, { cur := some ({ someThread with flow := f }, 31), preempt := pre })] } }

theorem test_ShuttleRows : on.coreUp = true ∧ (∀ f, some 15 = some f → f < 16) ∧
    ((on.level 0).waiting = [] ∧ (on.level 0).spill = [] ∧ (on.level 0).hwq.length < 16) ∧
    (let s : State := { on with g := { on.g with levels := [(31, { on.level 31 with hwq := List.replicate 16 someThread })] } }
     (s.level 31).waiting = [] ∧ 16 ≤ (s.level 31).hwq.length ∧ (s.level 31).spill.length < 4096) ∧
    (let s : State := { on with g := { on.g with levels := [(0, { on.level 0 with hwq := [someThread] }), (1, { on.level 1 with hwq := [someThread] })] } }
     (s.readyList.find? (fun _ => true)).isSome = true ∧ s.readyList.length = 2) ∧
    ((working none false).exec? 0).cur = some ({ someThread with flow := none }, 31) ∧
    ((working (some (15, 0)) false).exec? 0).cur = some (someThread, 31) ∧
    (((working none true).exec? 0).cur = some ({ someThread with flow := none }, 31) ∧ ((working none true).exec? 0).preempt = true) := by
  refine ⟨by decide, fun f h => by cases h; decide, by decide⟩

theorem test_ShuttleRows_full (l : List Thread) (h : l = List.replicate 4096 someThread) : let x : Level := { on.level 31 with
      hwq := List.replicate 16 someThread, spill := l }
    16 ≤ x.hwq.length ∧ 4096 ≤ x.spill.length ∧ x.bpFrom = none ∧ x.waiting = [] := by
  subst h
  refine ⟨by decide, ?_, rfl, rfl⟩
  show 4096 ≤ (List.replicate 4096 someThread).length
  rw [List.length_replicate]

theorem test_CrossbarGrants : (soundBurst lockWrite = true ∧ lockWrite.master < 16 ∧ targetOf lockWrite.addr = some (12, 0)) ∧
    (soundBurst readOf63 = true ∧ readOf63.master < 16 ∧ targetOf readOf63.addr = some (12, 252)) ∧ lockRead lockWrite = none ∧
    (on.grantee 12 (([lockWrite, readOf63].filter (fun x => match targetOf x.addr with
        | some (j, _) => decide (j = 12)
        | none => false)).map (fun x => x.master)) = some 15 ∧
      [lockWrite, readOf63].find? (fun x => (match targetOf x.addr with
        | some (j, _) => decide (j = 12)
        | none => false) && x.master == 15) = some readOf63) ∧
    ((∀ m ∈ [0, 15], m < 16) ∧ [0, 15] ≠ []) := by decide

/-- 15_fabric R477: target 12 is parked on master 4 (XBR_PARK_HI at reset), which is served before the high master 15. -/
theorem test_park_master : let w : Burst := { lockWrite with master := 4 }
    on.parkMaster 12 = 4 ∧ on.parkMaster 0 = 4 ∧ on.parkMaster 7 = 2 ∧
    (idleGrants [readOf63, w] on).1 = [readOf63] ∧ (idleGrants [readOf63, w] on).2.reg 0x6018 = 1 := by decide

theorem test_FabricCommands : on.accepts (cmd []) bobQueryInfo = true ∧ parZero (cmd []) 48 16 = true ∧ par (cmd []) 0 8 % 8 = 0 ∧
    (let c := cmd [(8, 1), (16, 255), (17, 1)]
     on.accepts c traceSetInfo = true ∧ parZero c 48 16 = true ∧ par c 8 1 < 2 ∧ par c 16 2 < 512) ∧
    (on.accepts (cmd [(8, 1)]) xbrCfgInfo = true ∧ par (cmd [(8, 1)]) 8 1 < 4 ∧ bitOf (par (cmd [(8, 1)]) 8 1) 1 = false) ∧
    ((mounted on).accepts (cmd [(8, 3)]) xbrCfgInfo = true ∧ par (cmd [(8, 3)]) 8 1 < 4 ∧ bitOf (par (cmd [(8, 3)]) 8 1) 1 = true ∧
      (xbrLatches (cmd [(8, 3)])).all (fun x => decide (x < 2 ^ 14)) = true ∧ (mounted on).ledgerUp = true) ∧
    on.coreUp = true := by decide

/-! Audio ports -/

/-- Sixteen AES records with ZB = 1. -/
def aesRecords : List Byte := (List.replicate 16 ((bytes64 [(3, 1)]).take 16)).foldr (fun r l => r ++ l) []

set_option maxRecDepth 20000 in
theorem test_PortCommands : on.inDormant = false ∧ portRsv (cmd []) = true ∧
    (∀ n ∈ [1, 16], on.accepts (cmd [(8, n)]) aesCfgInfo = true ∧ portRsv (cmd [(8, n)]) = true ∧ 1 ≤ par (cmd [(8, n)]) 8 2 ∧ par (cmd [(8, n)]) 8 2 ≤ 16 ∧
      par (cmd [(8, n)]) 0 8 % 8 = 0 ∧ (records16 (fit (16 * par (cmd [(8, n)]) 8 2) aesRecords)).all aesRecordOk = true ∧
      (on.taken (cmd [(8, n)]) aesCfgInfo).slotAt 0 = some (1, false)) ∧ par (cmd [(8, 1)]) 0 8 % 8 = 0 ∧
    (∀ n ∈ [1, 8], on.accepts (cmd [(8, n)]) tdmCfgInfo = true ∧ portRsv (cmd [(8, n)]) = true ∧ 1 ≤ par (cmd [(8, n)]) 8 2 ∧ par (cmd [(8, n)]) 8 2 ≤ 8 ∧
      (records16 (fit (16 * par (cmd [(8, n)]) 8 2) (cmd []).data)).all tdmRecordOk = true ∧ (on.taken (cmd [(8, n)]) tdmCfgInfo).slotAt 0 = some (1, false)) ∧
    (let c := cmd [(11, 7), (12, 0xFF), (13, 0xFF)]
     on.accepts c groupSetInfo = true ∧ portRsv c = true ∧ par c 11 1 < 8 ∧ on.trigFree (par c 12 1) 1 = true ∧ on.trigFree (par c 13 1) 2 = true) ∧
    (let c := cmd [(10, 15)]
     portRsv c = true ∧ par c 10 1 < 16 ∧ par c 0 8 % 8 = 0 ∧ on.accepts c aesCsSetInfo = true ∧ on.accepts c aesUserSetInfo = true ∧
       on.accepts c aesUserGetInfo = true) := by decide

/-- A machine with the ports' part changed, and one with the network's. -/
def ports (f : PortS → PortS) : State := { on with a := f on.a }
def netw (f : NetS → NetS) : State := { on with n := f on.n }

theorem test_PortRows :
    ((ports fun a => { a with tin := [(7, { TdmIn.reset with run := true })] }).tin 7).run = true ∧
    0 < (ports fun a => { a with tin := [(0, { TdmIn.reset with next := 1 })] }).inputNext 0 ∧
    (let s := ports fun a => { a with aes := [(15, { AesCfg.reset with rxEn := true })], rx := [(15, { AesRx.reset with good := 1536 })] }
     (s.aes 15).rxEn = true ∧ (s.rx 15).lock = false ∧ (s.rx 15).good = 1536 ∧ rateOk s.fs (s.rx 15).ends = true) ∧
    (∀ v ∈ [7, 8], let s := ports fun a => { a with rx := [(15, { AesRx.reset with lock := true, viol := v })] }
     (s.rx 15).lock = true ∧ (advance 0 s).unlockReason 15 = if v = 8 then some 2 else none) ∧
    (advance (4 * 65536 * 1000000000 / on.fs) on).unlockReason 0 = some 1 ∧
    (let s := ports fun a => { a with rx := [(0, { AesRx.reset with nonaudio := true, clean := 8192 })] }
     (s.rx 0).nonaudio = true ∧ 8192 ≤ (s.rx 0).clean) ∧
    (on.m.dpRun = true ∧ ((on.dir 23).atFrame (decide (23 < 8)) (frameAt (on.outRate 23) (on.outOfs 23) (max on.t.now 0))).st = 0) ∧
    (let s := ports fun a => { a with out := [(7, { OutDir.reset with st := 2 })] }
     s.m.dpRun = true ∧ ((s.dir 7).atFrame (decide (7 < 8)) (frameAt (s.outRate 7) (s.outOfs 7) (max s.t.now 0))).st ≠ 0) ∧
    (∀ st ∈ [1, 3], let s := ports fun a => { a with out := [(23, { OutDir.reset with st := st, sent := 192 * 15 })], aes := [(15, { AesCfg.reset with zb := 15 })] }
     192 * (s.aes 15).zb ≤ (s.dir (8 + 15)).sent ∧ (s.dir (8 + 15)).st = st) ∧
    (∀ x ∈ [false, true], let s := ports fun a => { a with
       tdm := [(7, { TdmCfg.reset with inSlave := true, outSlave := true })], tin := [(7, { TdmIn.reset with unrelated := x })], out := [(7, { OutDir.reset with unrelated := x })] }
     s.isSlave 7 0 = true ∧ s.unrelated 7 0 = x ∧ s.isSlave 7 1 = true ∧ s.unrelated 7 1 = x ∧ (s.chk 15).badAt + secU ≤ max s.t.now secU ∧
       (s.chk 14).missing s.fs (max s.t.now secU) = false) ∧
    ({ SlaveChk.reset with last := some 0 } : SlaveChk).missing on.fs secU = true ∧
    (let s := ports fun a => { a with groups := [(7, { Group.reset with running := true })] }
     (s.grp 7).running = true ∧ (s.grp 7).real = false ∧ frameStart s.fs 0 (s.grp 7).firstReal ≤ max s.t.now 0) := by decide

/-! The networks -/

/-- A gate list of one entry as wide as its cycle of 1 or 64 picks, and a management port's record. -/
def oneGate (n : Nat) : List Byte := leBytes 4 (n * 65536 + (if n < 64 then 2 ^ 24 else 0))
def mgRecord (low hold : Nat) : List Byte := leBytes 4 (low * 128 + hold * 8192 + 2 ^ 23) ++ zeros 6 ++ leBytes 2 10000 ++ zeros 4

theorem test_NetworkCommands : on.inDormant = false ∧ netRsv (cmd []) = true ∧ par (cmd []) 0 8 % 8 = 0 ∧
    (∀ n ∈ [1, 4], on.accepts (cmd [(8, n)]) macCfgInfo = true ∧ netRsv (cmd [(8, n)]) = true ∧ 1 ≤ par (cmd [(8, n)]) 8 2 ∧ par (cmd [(8, n)]) 8 2 ≤ 4 ∧
      (records16 (fit (16 * par (cmd [(8, n)]) 8 2) (cmd []).data)).all macRecordOk = true ∧ (on.taken (cmd [(8, n)]) macCfgInfo).slotAt 0 = some (1, false)) ∧
    (∀ n ∈ [1, 63], let c := cmd [(8, 1), (10, 3), (11, n)]
      on.accepts c gateLoadInfo = true ∧ netRsv c = true ∧ par c 10 1 < 4 ∧ 1 ≤ par c 8 2 ∧ par c 8 2 ≤ 128 ∧ par c 0 8 % 8 = 0 ∧
      gateListOk (par c 11 1) (par c 8 2) (fit (4 * par c 8 2) (oneGate n)) = true) ∧
    (on.mac 3).swap = none ∧ ((netw fun n => { n with ports := [(3, { MacPort.reset with swap := some (0, false, someWaiter) })] }).mac 3).swap.isSome = true ∧
    (let g : GateList := { cycle := 1, ents := [] }
     let s := netw fun n => { n with ports := [(3, { MacPort.reset with nextGates := some g })] }
     let c := cmd [(10, 3)]
     s.accepts c gateSwapInfo = true ∧ netRsv c = true ∧ par c 10 1 < 4 ∧ (s.mac 3).nextGates = some g ∧ (s.mac 3).swap = none ∧
       (s.taken c gateSwapInfo).slotAt (par c 16 8) = some (1, false)) ∧
    (∀ n ∈ [[(8, 1)], [(8, 0), (9, 2)]], let c := cmd n
      on.accepts c strmSetInfo = true ∧ netRsv c = true ∧ 1 ≤ par c 8 2 ∧ par c 8 2 ≤ 512 ∧ (on.taken c strmSetInfo).slotAt 0 = some (1, false)) ∧
    on.accepts (cmd []) strmQueryInfo = true ∧ on.accepts (cmd []) mgCfgInfo = true ∧ on.accepts (cmd []) wakeSetInfo = true ∧
    on.accepts (cmd []) mcastSetInfo = true ∧ mgRecordOk (fit 16 (mgRecord 1 1)) = true ∧ mgRecordOk (fit 16 (mgRecord 50 600)) = true := by decide

/-- A frame of 64 bytes, its FCS worked out from the others: an IPv4 UDP datagram for stream 255's address, port 5004, payload type 97. -/
def frameHead : List Byte :=
  [0x01, 0x00, 0x5E, 0x00, 0x00, 0x01] ++ zeros 6 ++ [0x08, 0x00, 0x45, 0x00] ++ zeros 7 ++ [17] ++ zeros 6 ++ [239, 0, 0, 1, 0, 0, 0x13, 0x8C, 0, 26, 0, 0] ++
    [0x80, 97] ++ zeros 16
def frame : List Byte := frameHead ++ leBytes 4 (crc32e frameHead)

/-- A receive stream as the frame asks, on port 3. -/
def someStream : StreamCfg := { StreamCfg.reset with en := true, port := 3, nch := 1, ptime := 8, pt := 97, ip := [239, 0, 0, 1], udpDst := 5004 }
def macOn : MacPort := { MacPort.reset with link := true, cfg := { MacPort.reset.cfg with en := true, addr := [0, 1, 2, 3, 4, 5] } }
def networked : State := netw fun n => { n with ports := [(3, macOn)], cfgs := [(255, someStream)] }
def someTx : TxFrame := { stream := some 256, len := 64, ts := 0, bytes := [], queued := 0 }

set_option maxRecDepth 20000 in
theorem test_MediaRows_frames : (networked.mac 3).cfg.en = true ∧ (networked.mac 3).link = true ∧ (frame.take 63).length ≤ 63 ∧ 63 < frame.length ∧
    frame.length ≤ maxfBytes (networked.mac 3).cfg.maxf ∧ fcsGood frame = true ∧ fcsGood (zeros 63 ++ [1]) = false ∧
    filterAccepts (networked.mac 3).cfg.addr (networked.mediaGroups 3) (networked.mac 3).cfg.promisc frame = true ∧
    (networked.streamFor 3 frame).isSome = true ∧ networked.rxFifo 3 < 4096 ∧
    4096 ≤ (netw fun n => { n with rtpQ := [{ port := 3, len := 4096, stream := 0, at_ := 0, pay := [] }] }).rxFifo 3 ∧
    (let s := netw fun n => { n with ports := [(3, macOn)] }
     filterAccepts (s.mac 3).cfg.addr (s.mediaGroups 3) (s.mac 3).cfg.promisc frame = false) := by decide

theorem test_MediaRows :
    (let x : RtpIn := { port := 3, len := 64, stream := 255, at_ := 0, pay := zeros 12 }
     let s := netw fun n => { n with rtpQ := [x], cfgs := [(255, someStream)] }
     s.n.rtpQ = x :: [] ∧ (s.strm 255).en = true ∧ byteAt (zeros 12) 0 / 64 ≠ 2) ∧
    (let s : State := { on with
       n := { on.n with strm := [(255, { StreamS.reset with eligible := true })] }, t := { on.t with now := 10 * secU } }
     (s.sstat 255).eligible = true ∧ (s.sstat 255).lastAt + 4 * s.t.pickLen * 65536 * 1000000000 / s.fs ≤ max s.t.now 0) ∧
    ((networked.mac 3).cfg.en = true ∧ 3 ≠ networked.t.cfgPort ∧ (networked.mac 3).link = true) ∧
    (let s := netw fun n => { n with ports := [(3, { macOn with link := false })] }
     (s.mac 3).cfg.en = true ∧ 3 ≠ s.t.cfgPort ∧ (s.mac 3).link = false) ∧
    (let s := netw fun n => { n with ports := [(3, { macOn with streamQ := [someTx] })] }
     (s.mac 3).cfg.en = true ∧ (s.mac 3).link = true ∧ (s.mac 3).busyTo ≤ max s.t.now 0 ∧ (s.mac 3).streamQ = someTx :: [] ∧
       (advance 0 s).isLate someTx = false ∧ (advance 0 s).txChoice 3 true someTx = .send ∧ (s.mac 3).otherQ = []) ∧
    (let f : TxFrame := { someTx with stream := none }
     let s := netw fun n => { n with ports := [(3, { macOn with otherQ := [f] })] }
     (s.mac 3).busyTo ≤ max s.t.now 0 ∧ (s.mac 3).streamQ = [] ∧ (s.mac 3).otherQ = f :: [] ∧ (advance 0 s).txChoice 3 false f = .send) ∧
    (let s : State := { on with n := { on.n with ports := [(3, { macOn with streamQ := [someTx] })] }, t := { on.t with now := 10 * secU } }
     (s.mac 3).streamQ = someTx :: [] ∧ someTx.stream = some 256 ∧ s.pickAt (someTx.queued + 1) < max s.t.now 0) := by decide

/-- The management MAC up, at 1,000 Mb/s, with the control word `ctl`. -/
def mgUp (ctl : Nat) (f : MgS → MgS) : State := netw fun n => { n with mg := f { n.mg with ctl := ctl, link := true, speed := 2 } }
def withRing (k n : Nat) (s : State) : State := { s with h := { s.h with rings := nset s.h.rings k (ringOf n) } }

set_option maxRecDepth 20000 in
theorem test_ManagementPortRows_frames :
    (let s := mgUp 1 id
     s.n.mg.held = none ∧ s.n.mg.bit 0 = true ∧ s.n.mg.negotiating = false ∧ s.n.mg.link = true ∧ 63 < frame.length ∧ frame.length ≤ s.n.mg.maxf ∧
       filterAccepts s.n.mg.addr ((s.n.mg.mcast.filter (·.2)).map (·.1)) (s.n.mg.bit 4) frame = false ∧ s.m.retention = false) ∧
    (let s := withRing 12 1 (mgUp 17 id)
     s.n.mg.bit 0 = true ∧ filterAccepts s.n.mg.addr ((s.n.mg.mcast.filter (·.2)).map (·.1)) (s.n.mg.bit 4) frame = true ∧ s.m.retention = false ∧
       s.ringOn 12 = true ∧ 0 < (s.ring 12).waiting) ∧
    (let s : State := { mgUp 17 id with m := { on.m with retention := true } }
     s.n.mg.bit 0 = true ∧ filterAccepts s.n.mg.addr ((s.n.mg.mcast.filter (·.2)).map (·.1)) (s.n.mg.bit 4) frame = true ∧ s.m.retention = true) := by decide

set_option maxRecDepth 20000 in
theorem test_ManagementPortRows :
    (let s := withRing 13 1 (mgUp 1 id)
     s.ringOn 13 = true ∧ (s.ring 13).waiting ≠ 0 ∧ s.n.mg.negotiating = false ∧ s.n.mg.bit 0 = true ∧ s.n.mg.link = true) ∧
    (let s := mgUp (2 + 128 * 50 + 8192) fun m => { m with low := 1, sinceRaise := 1 }
     let m := s.n.mg
     let low := m.bit 1 && decide (m.speed = 2) && m.link && decide (max m.rxBytes m.txBytes * 8 * 100 < m.lowPct * 1000000000)
     low = true ∧ m.bit 1 = true ∧ m.negotiating = false ∧ m.hold ≤ m.low + 1 ∧ m.hold ≤ m.sinceRaise + 1) ∧
    (on.n.mg.windowAt + secU ≤ max on.t.now secU ∧ max on.t.now 0 < on.n.mg.windowAt + secU) ∧
    (let s := withRing 12 1 (mgUp 17 fun m => { m with held := some frame })
     s.n.mg.held = some frame ∧ s.ringOn 12 = true ∧ 0 < (s.ring 12).waiting ∧ s.inDormant = false) ∧
    (let m := (mgUp 1 fun m => { m with negotiating := true, pending := true }).n.mg
     m.negotiating = true ∧ m.toHigh = false ∧ m.pending = true) ∧
    (let s := mgUp 5 fun m => { m with emptySince := some 0, lpiIdle := 1 }
     let t := usU
     s.n.mg.emptySince = some 0 ∧ s.n.mg.bit 2 = true ∧ 1 ≤ s.n.mg.speed ∧ s.n.mg.link = true ∧ s.n.mg.lpi = false ∧ 0 + s.n.mg.lpiIdle * usU ≤ max s.t.now t) := by
  decide

/-! Time, triggers, the twin -/

def timed (f : TimeS → TimeS) : State := { on with t := f on.t }
def twinned (f : TwinS → TwinS) : State := { on with w := f { on.w with en := true } }

theorem test_TimeCommands :
    (∀ f ∈ [[(32, 0xFF)], [(27, 15), (28, 127), (31, 31), (32, 3), (33, 2), (34, 1), (35, 0)]], let c := cmd f
      on.accepts c timeCfgInfo = true ∧ par c 27 1 < 16 ∧ par c 28 1 ≤ 127 ∧ par c 31 1 < 32 ∧ (∀ x ∈ prioList c, x ≤ 3) ∧ parZero c 40 24 = true) ∧
    (let c := cmd [(27, 1)]
     let s := timed fun t => { t with aes67 := true, eth := false, masterCap := false, domain := 0, cfgPort := 0, backup := 0, backupEn := false }
     s.t.aes67 = bitOf (par c 27 1) 0 ∧ s.t.eth = bitOf (par c 27 1) 1 ∧ s.t.masterCap = bitOf (par c 27 1) 2 ∧ s.t.domain = par c 28 1 ∧
       s.t.cfgPort = par c 31 1 % 4 ∧ s.t.backup = par c 31 1 / 4 % 4 ∧ s.t.backupEn = bitOf (par c 31 1) 4) ∧
    (let s := timed fun t => { t with domain := 1 }
     s.t.domain ≠ par (cmd []) 28 1) ∧
    (on.accepts (cmd []) timeQueryInfo = true ∧ par (cmd []) 0 8 % 8 = 0 ∧ parZero (cmd []) 40 24 = true) ∧
    (on.accepts (cmd []) timeSetInfo = true ∧ on.m.dpRun = true) ∧
    (starting.accepts (cmd []) timeSetInfo = true ∧ starting.m.dpRun = false) ∧
    (let c := cmd [(31, 3)]
     on.accepts c timeCorrSetInfo = true ∧ par c 31 1 < 4 ∧ parZero c 40 24 = true) := by decide

theorem test_TimeRows :
    (nget Capture.none (timed fun t => { t with caps := [(3, { Capture.none with wait := some true })] }).t.caps 3).wait = some true ∧
    (let s : State := { timed fun t => { t with sel := some 1, lock := true, now := 2 * usU } with m := starting.m }
     s.t.sel = some 1 ∧ s.t.lock = true ∧ s.m.dpRun = false ∧ (usU : Int) < (fromSecond (max s.t.now 0 : Nat)).natAbs) ∧
    (let s := timed fun t => { t with sel := some 1, lock := true }
     s.t.sel = some 1 ∧ s.t.lock = true ∧ s.m.dpRun = true) ∧
    ((advance 0 on).showsFault 2 .stopped = true ∧ (advance 0 on).showsFault 2 .servo = false) ∧
    (let ok := fun (s : State) => s.refValid 1 = false ∧ (advance 0 s).qualified 1 = true
     let after := fun (s : State) => post 0x0204 1 (leBytes 1 1 ++ leBytes 1 0) (setT (fun x => { x with valid := lset x.valid 1 true }) (advance 0 s))
     let s0 := timed fun t => { t with prio := [], valid := [false, false, false, false], edges := [(1, [0])], cleanSince := [none, none, none, none] }
     let s1 := timed fun t => { t with prio := [1], lock := false, valid := [false, false, false, false], edges := [(1, [0])], cleanSince := [none, none, none, none] }
     let s2 := fun k => timed fun t => { t with prio := [2, 1], lock := k, valid := [false, false, true, false], edges := [(1, [0])], cleanSince := [none, none, none, none] }
     (ok s0 ∧ (after s0).bestRef = none) ∧ (ok s1 ∧ (after s1).bestRef = some 1 ∧ (after s1).t.lock = false) ∧
       (∀ k ∈ [false, true], ok (s2 k) ∧ (after (s2 k)).bestRef = some 2 ∧ (after (s2 k)).t.lock = k)) ∧
    (let s := timed fun t => { t with lock := true, marks := [(0, 0)] }
     s.t.lock = true ∧ s.t.lockAt + secU ≤ max s.t.now secU / secU * secU ∧ s.t.marks.getLast? = some (0, 0) ∧ 0 < max s.t.now secU / secU * secU) ∧
    (let s := timed fun t => { t with lastAnnounce := some 0, now := 100 * secU }
     s.t.lastAnnounce = some 0 ∧ 0 + 3 * s.announceInterval < max s.t.now 0) ∧
    (let msg := leBytes 1 11 ++ leBytes 1 2 ++ zeros 62
     let s : State := { on with t := { on.t with domain := 0, ptpPort := 3 }, n := networked.n }
     byteAt msg 4 ≠ 1 ∧ s.coreUp = true ∧ 3 = s.t.ptpPort ∧ (s.mac 3).link = true ∧ 64 ≤ msg.length ∧ byteAt msg 1 % 16 = 2 ∧ byteAt msg 4 = s.t.domain ∧
       byteAt msg 0 % 16 = 11) ∧
    (let s := timed fun t => { t with portUpSince := some 0, ptpPort := 1, cfgPort := 0, now := 10 * secU }
     s.t.portUpSince = some 0 ∧ s.t.ptpPort ≠ s.t.cfgPort ∧ 0 + 10 * secU ≤ max s.t.now 0) ∧
    (let s : State := { on with t := { on.t with ptpState := 5, ptpPort := 3 }, n := networked.n }
     s.coreUp = true ∧ (s.mac s.t.ptpPort).link = true ∧ s.t.ptpState = 5) := by decide

/-- Another unit's identity can be told from this one's, whatever it is. -/
theorem test_TimeRows_identity : ∃ msg : List Byte, 64 ≤ msg.length ∧ byteAt msg 1 % 16 = 2 ∧ byteAt msg 4 = 0 ∧ byteAt msg 0 % 16 = 11 ∧
    getBE msg 20 8 ≠ Config.clockIdentity.toNat := by
  by_cases h : Config.clockIdentity.toNat = 0
  · exact ⟨leBytes 1 11 ++ leBytes 1 2 ++ zeros 18 ++ [1] ++ zeros 43, by decide, by decide, by decide, by decide, by rw [h]; decide⟩
  · exact ⟨leBytes 1 11 ++ leBytes 1 2 ++ zeros 62, by decide, by decide, by decide, by decide,
      fun e => h (by rw [← e]; decide)⟩

theorem test_TriggerCommands :
    (∀ f ∈ [[], [(17, 4), (24, 63), (25, 4), (26, 15)], [(16, 0xE8), (17, 3), (24, 63), (25, 7), (26, 0x8F)]], let c := cmd f
      on.accepts c trigArmInfo = true ∧ par c 24 1 < 64 ∧ par c 25 1 ≤ 8 ∧ trigArgOk (par c 25 1) (par c 26 1) = true ∧
        (par c 16 8 = 0 ∨ (1000 ≤ par c 16 8 ∧ par c 16 8 ≤ 2 ^ 40)) ∧ parZero c 40 24 = true ∧
        (on.trigUses (par c 24 1)).any (fun x => x != par c 25 1) = false) ∧
    (let s := ports fun a => { a with groups := [(7, { Group.reset with start := some 63 })] }
     (s.trigUses 63).any (fun x => x != 2) = true) ∧
    (let c := cmd [(24, 63)]
     on.accepts c trigDisarmInfo = true ∧ par c 24 1 < 64 ∧ parZero c 40 24 = true ∧ (on.trig 63).armed = false) ∧
    (let s := timed fun t => { t with trigs := [(63, { Trig.off with armed := true, action := 7, at_ := 5 })], now := 5 * nsU }
     (s.trig 63).armed = true ∧ (s.trig 63).at_ * nsU ≤ max s.t.now 0 ∧ (s.trig 63).action = 7 ∧
       (∀ j < 63, (advance 0 s).trigDue j = false) ∧ (s.taken (cmd [(24, 63)]) trigDisarmInfo).t.now = 5 * nsU) ∧
    (∀ x ∈ [4, 5], let s := timed fun t => { t with
        trigs := [(62, { Trig.off with armed := true, action := 7, at_ := x }), (63, { Trig.off with armed := true, action := 7, at_ := 5 })], now := 5 * nsU }
     (advance 0 s).trigDue 63 = true ∧ (advance 0 s).trigDue 62 = true ∧ (∀ j < 62, (advance 0 s).trigDue j = false) ∧
       ((s.trig 62).at_ < (s.trig 63).at_ ∨ ((s.trig 62).at_ = (s.trig 63).at_ ∧ 62 < 63))) := by decide

/-- With all of the pick kept free, the twin's reservations do not fit. -/
theorem test_TwinCommands_budget :
    let c := cmd [(8, 1), (9, 1), (10, 2)]
    let s : State := { on with b := { on.b with target := 100 } }
    let v := takeTwinCfg (par c 8 1) (par c 9 1) (par c 10 1) (par c 24 8) (s.taken c twinCfgInfo)
    s.accepts c twinCfgInfo = true ∧ v.w.en = true ∧ s.w.en = false ∧ v.inBudget v.nextPick = false := by decide +kernel

set_option maxRecDepth 20000 in
theorem test_TwinCommands :
    (∀ f ∈ [[(9, 1), (10, 2)], [(8, 6), (9, 255), (10, 1)]], let c := cmd f
      on.accepts c twinCfgInfo = true ∧ twinRsv c = true ∧ par c 8 1 < 8 ∧ par c 9 1 ≠ 0 ∧ par c 10 1 ≠ 0 ∧ par c 9 1 ≠ par c 10 1 ∧
        (takeTwinCfg (par c 8 1) (par c 9 1) (par c 10 1) (par c 24 8) (on.taken c twinCfgInfo)).w.en = false) ∧
    (let c := cmd [(8, 1), (9, 1), (10, 2)]
     let v := takeTwinCfg (par c 8 1) (par c 9 1) (par c 10 1) (par c 24 8) (on.taken c twinCfgInfo)
     on.accepts c twinCfgInfo = true ∧ twinRsv c = true ∧ v.w.en = true ∧ on.w.en = false) ∧
    (twinRsv (cmd []) = true ∧ par (cmd []) 0 8 % 8 = 0 ∧ on.accepts (cmd []) twinQueryInfo = true ∧ on.accepts (cmd []) claimQueryInfo = true) ∧
    (let s := twinned fun w => { w with role := 1, linkHb := true, peerReady := true }
     let c := cmd [(16, 4)]
     s.accepts c twinRoleSwapInfo = true ∧ s.isLead = true ∧ s.m.dpRun = true ∧ twinRsv c = true ∧
       (s.taken c twinRoleSwapInfo).pickNow + 4 ≤ par c 16 8 ∧ (s.taken c twinRoleSwapInfo).named (par c 16 8) = some 4 ∧
       s.w.en = true ∧ s.w.peerReady = true ∧ s.peerUp = true ∧ s.w.swap = none ∧
       par (cmd [(16, 3)]) 16 8 < (s.taken (cmd [(16, 3)]) twinRoleSwapInfo).pickNow + 4) ∧
    (let s := twinned fun w => { w with role := 2 }
     s.accepts (cmd []) twinRoleSwapInfo = true ∧ s.isLead = false ∧ s.accepts (cmd []) twinResyncInfo = true ∧ s.w.role = 2 ∧ on.w.role ≠ 2) := by decide

/-- A heartbeat of a partner at the same rate, and a state frame of pick 0. -/
def someBeat : Heartbeat :=
  { claim := 0, mode := 2, rate96 := on.t.rate96, pickLen := on.t.pickLen, done := 0, ready := true, handover := none, listens := false, role := 2,
    asks := [], reset := false }
def someFrame : StateFrame := { pick := 0, claim := 0, objects := [], versions := [], outCrcs := [], batCrcs := [], ckpts := [] }

theorem test_HeartbeatRows :
    (twinned id).w.en = true ∧ on.coreUp = true ∧
    (let s := twinned fun w => { w with linkHb := true, role := 1 }
     someBeat.rate96 = s.t.rate96 ∧ someBeat.pickLen = s.t.pickLen ∧ s.w.linkHb = true ∧ someBeat.handover = none ∧ someBeat.claim / 256 ≤ s.w.epoch ∧
       someBeat.claim ≤ s.w.claim) ∧
    (let s := twinned id
     max s.t.now (50 * usU) % (50 * usU) = 0 ∧ s.w.en = true ∧ (advance (50 * usU) s).picksComplete (max s.t.now (50 * usU) - 50 * usU) = true) ∧
    (let s : State := { twinned id with m := { on.m with dpRun := false } }
     max s.t.now (50 * usU) % (50 * usU) = 0 ∧ (advance (50 * usU) s).picksComplete (max s.t.now (50 * usU) - 50 * usU) = false) ∧
    (let s := twinned id
     let t := 55 * usU
     5 * usU ≤ max s.t.now t ∧ s.w.linkDue < (max s.t.now t - 5 * usU) / (50 * usU) ∧ s.w.linkMiss < 2) ∧
    (∀ pin ∈ [false, true], let s := twinned fun w => { w with linkMiss := 2, linkHb := true, pinHb := pin }
     2 ≤ s.w.linkMiss ∧ s.w.linkHb = true ∧ s.w.pinHb = pin) := by decide

theorem test_SelvedgeRows :
    ((twinned id).w.broken.contains 0 = false ∧ (twinned fun w => { w with broken := [255] }).w.broken.contains 255 = true) ∧
    (let s : State := { twinned id with t := { on.t with now := 100 * secU } }
     let u := seeClaim someFrame.claim { advance 0 s with w := { s.w with peerClaim := someFrame.claim } }
     s.w.en = true ∧ s.w.broken.contains 0 = false ∧ u.pickAt (someFrame.pick + 2) < u.t.now) ∧
    (let s := twinned fun w => { w with role := 2 }
     let u := seeClaim someFrame.claim { advance 0 s with w := { s.w with peerClaim := someFrame.claim } }
     s.w.broken.contains 0 = false ∧ u.w.role = 2 ∧ u.t.now ≤ u.pickAt (someFrame.pick + 2) ∧ nfind u.w.versions someFrame.pick = none ∧
       nfind u.w.batCrc someFrame.pick = none ∧ nfind u.w.outCrc someFrame.pick = none) ∧
    (let s := twinned fun w => { w with role := 2 }
     s.w.en = true ∧ s.w.role = 2 ∧ 0 + 2 = (advance (s.pickAt 2) s).pickNow ∧ nfind s.w.adopt (0 + 2) = none) ∧
    (let s := twinned fun w => { w with lanes := [false, true] }
     lget false s.w.lanes 1 = true ∧ lget false s.w.lanes 0 = false) ∧
    (let s := twinned fun w => { w with role := 3 }
     s.w.role = 3 ∧ s.w.listenFrom + 2 * msU ≤ max s.t.now (2 * msU) ∧ s.peerUp = false) ∧
    on.w.peerPin ≠ true ∧
    (let s := twinned fun w => { w with role := 1, beating := true }
     s.isLead = true ∧ s.w.beating = true ∧ s.w.peerPin = false ∧ s.w.peerPinAt + 2 * usU ≤ max s.t.now (2 * usU)) ∧
    (∀ r ∈ [1, 2], ∀ en ∈ [false, true], let s := twinned fun w => { w with own := true, peerPin := true, rank := r, peerRank := 3 - r, en := en }
     s.w.en = en ∧ s.w.own = true ∧ s.w.peerPin = true ∧ s.w.bothAt + usU ≤ max s.t.now usU ∧ (s.w.rank < s.w.peerRank ∨ s.w.peerRank ≤ s.w.rank)) := by decide

/-! Supply, heat, current -/

def powered (f : PowerS → PowerS) : State := { on with p := f on.p }

theorem test_RailSequence :
    (powered fun p => { p with inReset := true }).p.inReset = true ∧
    (∀ k ∈ [0, 7], let s := powered fun p => { p with seq := .rising k 0 }
     s.p.seq = .rising k 0 ∧ 0 + (s.rail k).delay * 100 * usU ≤ max s.t.now (100 * msU) ∧ 0 + (s.rail k).timeout * msU ≤ max s.t.now secU ∧
       s.m.retention = false ∧ s.p.fall = none) ∧
    (let s := powered fun p => { p with seq := .waiting 0 1000 }
     s.p.seq = .waiting 0 1000 ∧ 0 + 1000 * msU ≤ max s.t.now (1000 * msU)) ∧
    (let s := powered fun p => { p with seq := .waiting 0 100 }
     s.p.seq = .waiting 0 100 ∧ 0 + 100 * msU ≤ max s.t.now (100 * msU)) ∧
    (let s := powered fun p => { p with good := 255 }
     bitOf s.p.good 0 = true ∧ bitOf s.p.good 7 = true ∧ s.coreUp = true ∧ ({ s with m := { s.m with coreOn := false } } : State).coreUp = false) ∧
    (∀ q ∈ [Sequencer.settled 0, .rising 7 0], let s := powered fun p => { p with seq := q, inReset := false }
     (advance msU s).releaseDue = true) := by decide

/-- Dormant in retention, a transition to Dormant in its lead-out, and a thermal hold. -/
def retained : State := { on with m := { ModeS.reset with mode := .dormant, start := false, coreOn := true, retention := true } }
def leadingOut : State := { on with m := { on.m with trans := some (asks .dormant), transPick := some 0, leadOut := true } }
def tripped (c : Bool) : State :=
  { on with p := { on.p with coolSince := some 0, seq := .idle, inReset := false },
            m := { on.m with thermal := true, coreOn := c, tripStart := false, tripMode := .lead } }

theorem test_SupplyAndSleep_wake : on.p.fall = none := rfl

theorem test_SupplyAndSleep :
    (∀ x ∈ [false, true], let s := powered fun p => { p with vaonA := x, vaonB := x, pfail := x }
     s.p.vaonA = x ∧ s.p.vaonB = x ∧ s.p.pfail = x) ∧
    (let s := powered fun p => { p with pfail := false }
     let u := post 0x0103 0 [] (bump 0x1038 31 24 { advance 0 s with p := { s.p with pfail := true } })
     s.p.pfail = false ∧ u.ledgerUp = false) ∧
    (let s := mounted (powered fun p => { p with pfail := false })
     let u := post 0x0103 0 [] (bump 0x1038 31 24 { advance 0 s with p := { s.p with pfail := true } })
     s.p.pfail = false ∧ u.ledgerUp = true ∧ u.l.flush = false) ∧
    (∀ start ∈ [false, true], let s : State := { leadingOut with m := { leadingOut.m with start := start } }
     s.m.trans = some (asks .dormant) ∧ s.m.transPick = some 0 ∧ (asks .dormant).target = .dormant ∧ s.pickAt 0 ≤ max s.t.now 0 ∧
       s.m.leadOut = true ∧ s.outputsEnded = true) ∧
    (let s : State := { retained with m := { retained.m with startPick := some 5 }, p := { on.p with seq := .idle } }
     s.inDormant = true ∧ s.m.retention = true ∧ s.m.thermal = false ∧ s.p.seq = .idle ∧ s.wakeDue 2 = true ∧ s.wakeDue 4 = true) ∧
    (∀ c ∈ [false, true], (tripped c).p.coolSince = some 0 ∧ (tripped c).m.thermal = true ∧ 0 + 10 * secU ≤ max (tripped c).t.now (10 * secU) ∧
      (tripped c).p.seq = .idle ∧ (tripped c).p.inReset = false ∧ (tripped c).m.coreOn = c ∧ (tripped c).m.tripStart = false ∧
      (tripped c).m.tripMode ≠ .dormant) := by decide

/-- RAIL_CFG's table: every row at its least, regulator 0 at an address, 20 A. -/
def railBytes : List Byte := (List.replicate 8 [1, 0, 1, 1]).foldr (fun r l => r ++ l) [] ++ [1, 0, 0, 0, 20]

theorem test_HeatAndCurrent :
    (∀ m ∈ [84 * 4, 80 * 4], let s := powered fun p => { p with inReset := false, thot := 85 }
     let ts := (List.range 8).map (fun i => clampI (-2048) 2047 (lget 0 [m] i))
     s.p.inReset = false ∧ (hottest ts).2 < quarters 95 ∧ 85 ≤ s.p.thot ∧ s.p.thot ≤ 105 ∧ s.l.ms + 1 < 1000 ∧ (hottest ts).2 = m ∧
       (m = 84 * 4 → quarters s.p.thot - 20 < m ∧ m < quarters s.p.thot) ∧ (m = 80 * 4 → m ≤ quarters s.p.thot - 20)) ∧
    (let s := powered fun p => { p with hotSince := some 0, hotSteps := 1, overSince := some 0, overSteps := 1 }
     s.p.hotSince = some 0 ∧ 0 + (s.p.hotSteps + 1) * secU ≤ max s.t.now (2 * secU) ∧ s.p.overSince = some 0 ∧
       0 + s.p.overSteps * secU ≤ max s.t.now secU ∧ s.m.dpRun = true ∧ s.m.leadOut = false) ∧
    (∀ ok ∈ [false, true], let s := powered fun p => { p with inReset := false, imax := 60 }
     let none_ : RegRead := { ok := false, vout := 0, iout := 0, temp := 0 }
     let reads : List RegRead := [{ ok := ok, vout := 0, iout := 60 * 256, temp := 0 }]
     s.p.inReset = false ∧ (lget none_ reads 0).ok = ok ∧
       (lget (Regulator.default 0) (s.p.regs.zipIdx.map (fun x => pollOne (lget none_ reads x.2) x.1)) 0).iout ≤ s.p.imax * 256) ∧
    (let s := powered fun p => { p with regs := lset p.regs 3 { Regulator.default 3 with fails := 3 } }
     (lget (Regulator.default 0) s.p.regs 3).fails = 3) ∧
    (parZero (cmd []) 32 32 = true ∧ on.accepts (cmd [(8, 128)]) pwrQueryInfo = true ∧ 128 ≤ par (cmd [(8, 128)]) 8 4 ∧ par (cmd [(8, 128)]) 0 8 % 8 = 0) ∧
    (on.accepts (cmd []) railCfgInfo = true ∧ par (cmd []) 0 8 % 8 = 0 ∧ railTableOk (fit 64 railBytes) = true) ∧
    (∀ x ∈ [85, 105], on.accepts (cmd [(28, x)]) thermSetInfo = true ∧ 85 ≤ par (cmd [(28, x)]) 28 1 ∧ par (cmd [(28, x)]) 28 1 ≤ 105) ∧
    (on.accepts (cmd []) avsSetInfo = true ∧ par (cmd []) 29 1 = 0) ∧
    (∀ b ∈ [[(30, 0x8A), (31, 2)], [(30, 0x20), (31, 3)]], let c := cmd ((29, 1) :: b)
      on.accepts c avsSetInfo = true ∧ par c 29 1 = 1 ∧ 650 ≤ par c 30 2 ∧ par c 30 2 ≤ 800 ∧ par c 30 2 % 5 = 0) := by decide

/-! Ledger, recorder, firmware -/

theorem shaRound_length (v : List Word) (k : Word) (h : v.length = 8) : (shaRound v k).length = 8 := by
  unfold shaRound
  split
  · rfl
  · exact h

theorem shaRounds_length (l : List Word) : ∀ v : List Word, v.length = 8 → (l.foldl shaRound v).length = 8 := by
  induction l with
  | nil => intro v h; exact h
  | cons k r ih => intro v h; exact ih _ (shaRound_length v k h)

theorem shaBlocks_length (n : Nat) : ∀ (m : List Byte) (h : List Word), h.length = 8 → (shaBlocks n m h).length = 8 := by
  induction n with
  | zero => intro m h e; exact e
  | succ n ih =>
    intro m h e
    refine ih _ _ ?_
    show (List.zipWith (· + ·) h _).length = 8
    rw [List.length_zipWith, e, shaRounds_length _ _ e]
    rfl

theorem leBytes_length (n : Nat) : ∀ v, (leBytes n v).length = n := by
  induction n with
  | zero => intro v; rfl
  | succ n ih => intro v; simp [leBytes, ih]

theorem words_length (l : List Word) : (l.foldr (fun w acc => beBytes 4 w.toNat ++ acc) []).length = 4 * l.length := by
  induction l with
  | nil => rfl
  | cons w r ih =>
    simp only [List.foldr_cons, List.length_append, List.length_cons, ih]
    simp only [beBytes, List.length_reverse, leBytes_length]
    omega

/-- A token is 32 bytes. -/
theorem expectedToken_length (op region n : Nat) : (expectedToken op region n).length = 32 := by
  unfold expectedToken hmac256 sha256
  simp only [words_length]
  rw [shaBlocks_length _ _ _ (by decide)]

/-- A command that carries a token. -/
def tokenCmd (l : List (Nat × Nat)) (tok : List Byte) : HostCmd := { cmd l with desc := (bytes64 l).take 32 ++ tok }

theorem tokenCmd_token (l : List (Nat × Nat)) (tok : List Byte) (h : tok.length = 32) : parBytes (tokenCmd l tok) 32 32 = tok := by
  have e : ((bytes64 l).take 32).length = 32 := by simp [bytes64]
  have d : ((bytes64 l).take 32 ++ tok).drop 32 = tok := by
    have := List.drop_left (l₁ := (bytes64 l).take 32) (l₂ := tok)
    rwa [e] at this
  show ((bytes64 l).take 32 ++ tok |>.drop 32).take 32 ++ zeros (32 - ((bytes64 l).take 32 ++ tok |>.drop 32).length) = tok
  rw [d, h, List.take_of_length_le (by omega)]
  simp [zeros]

theorem tokenCmd_accepts (s : State) (l : List (Nat × Nat)) (tok : List Byte) (i : CmdInfo) : s.accepts (tokenCmd l tok) i = s.accepts (cmd []) i := rfl

/-- The ledger mounted, every region with `n` erased sectors. -/
def ledger (n : Nat) (s : State) : State :=
  let s := mounted s
  { s with l := { s.l with regions := List.replicate 5 (Region.empty n) } }
def holding (rs : List FlashRec) : State :=
  let s := ledger 30 on
  { s with l := { s.l with regions := lset (lset s.l.regions 1 { free := [], used := [{ id := 0, erases := 0, opened := 0, tail := 64, recs := rs }] })
                                            2 { free := [], used := [{ id := 0, erases := 0, opened := 0, tail := 64, recs := rs }] } } }
def someRec : FlashRec := { typ := 2, key := 5, seq := 1, payload := [1, 2], okA := true, okB := true, differ := false }
def someClose (mask : Nat) : FlashRec :=
  { typ := 5, key := 63, seq := 2, payload := zeros 16 ++ [BitVec.ofNat 8 mask] ++ zeros 31, okA := true, okB := true, differ := false }

theorem test_LedgerCommands_wait : (∀ x ∈ [ldgQueryInfo, ldgSetSaveInfo, ldgSetRecallInfo, ldgSetListInfo, ldgRecordWriteInfo, ldgRecordReadInfo, ldgEraseInfo,
      ldgCountersInfo, evrClearInfo, evrArchiveInfo, evrArchiveReadInfo], on.accepts (cmd []) x = true ∧
      ({ on with l := { on.l with mounting := true } } : State).accepts (cmd []) x = true) ∧
    ({ on with l := { on.l with mounting := true } } : State).ledgerMounting = true ∧ on.ledgerMounting = false ∧ on.ledgerUp = false := by decide

theorem test_LedgerCommands : (mounted on).ledgerUp = true ∧ par (cmd []) 0 8 % 8 = 0 ∧ parZero (cmd []) 28 4 = true ∧
    ((mounted on).accepts (cmd [(8, 64)]) ldgQueryInfo = true ∧ 64 ≤ par (cmd [(8, 64)]) 8 4) ∧
    ((mounted on).accepts (cmd [(9, 12)]) ldgSetListInfo = true ∧ 3072 ≤ par (cmd [(9, 12)]) 8 4) ∧
    ((mounted on).accepts (cmd [(9, 17)]) ldgCountersInfo = true ∧ 4352 ≤ par (cmd [(9, 17)]) 8 4) ∧
    ((ledger 30 on).accepts (cmd [(8, 4)]) ldgRecordWriteInfo = true ∧ par (cmd [(8, 4)]) 8 4 ≤ 65484 ∧
      ((ledger 30 on).taken (cmd [(8, 4)]) ldgRecordWriteInfo).writesWaiting < 64 ∧
      (((ledger 30 on).taken (cmd [(8, 4)]) ldgRecordWriteInfo).room 1 (recSize 4)).isSome = true ∧
      ((ledger 0 on).taken (cmd [(8, 4)]) ldgRecordWriteInfo).room 1 (recSize 4) = none) ∧
    (let s := ledger 30 on
     let full : State := { s with l := { s.l with jobs := List.replicate 64 { ops := [], after := .nothing, write := true } } }
     64 ≤ (full.taken (cmd [(8, 4)]) ldgRecordWriteInfo).writesWaiting) ∧
    ((holding [someRec]).accepts (cmd [(12, 5)]) ldgRecordReadInfo = true ∧
      (((holding [someRec]).taken (cmd [(12, 5)]) ldgRecordReadInfo).region 1).current 2 (par (cmd [(12, 5)]) 12 2) = some someRec ∧
      par (cmd [(12, 5)]) 8 4 < someRec.payload.length ∧ someRec.payload.length ≤ par (cmd [(8, 2), (12, 5)]) 8 4 ∧
      (((holding [someRec]).taken (cmd []) ldgRecordReadInfo).region 1).current 2 (par (cmd []) 12 2) = none) ∧
    (∀ f ∈ [[(15, 0)], [(12, 63), (15, 15)]], let c := cmd f
      (ledger 30 on).accepts c ldgSetSaveInfo = true ∧ (ledger 30 on).accepts c ldgSetRecallInfo = true ∧ par c 12 2 < 64 ∧ par c 15 1 < 16 ∧
        parZero c 28 4 = true ∧ parZero c 48 16 = true ∧ (((ledger 30 on).taken c ldgSetRecallInfo).region 2).setClose (par c 12 2) = none) ∧
    (∀ m ∈ [0, 8], let c := cmd [(12, 63), (15, 8)]
      ((holding [someClose m]).taken c ldgSetRecallInfo |>.region 2).setClose (par c 12 2) = some (someClose m) ∧
        ((closeMask (someClose m).payload = 0 ∨ (List.range 4).any (fun i => bitOf (par c 15 1) i && !bitOf (closeMask (someClose m).payload) i) = true) ↔ m = 0)) ∧
    on.inDormant = false := by decide

theorem test_LedgerCommands_set : (((ledger 30 on).taken (cmd [(15, 8)]) ldgSetSaveInfo).setFits [48] = true ∧
    ((ledger 0 on).taken (cmd [(15, 8)]) ldgSetSaveInfo).setFits [48] = false) := by decide

/-- For every region and nonce there is a command with the right token and one with a wrong token. -/
theorem test_LedgerCommands_token (k n : Nat) (s : State) : ∃ c d : HostCmd,
    (parBytes c 32 32 = expectedToken 2 k n ∧ ¬ parBytes d 32 32 = expectedToken 2 k n) ∧
    (s.accepts (cmd []) ldgEraseInfo = true → s.accepts c ldgEraseInfo = true ∧ s.accepts d ldgEraseInfo = true) := by
  by_cases h : expectedToken 2 k n = zeros 32
  · exact ⟨tokenCmd [] (zeros 32), tokenCmd [] (List.replicate 32 1),
      ⟨by rw [h]; exact tokenCmd_token _ _ (by decide), by rw [h, tokenCmd_token _ _ (by decide)]; decide⟩, fun e => ⟨by rw [tokenCmd_accepts]; exact e, by rw [tokenCmd_accepts]; exact e⟩⟩
  · exact ⟨tokenCmd [] (expectedToken 2 k n), tokenCmd [] (zeros 32),
      ⟨tokenCmd_token _ _ (expectedToken_length _ _ _), by rw [tokenCmd_token _ _ (by decide)]; exact fun e => h e.symm⟩, fun e => ⟨by rw [tokenCmd_accepts]; exact e, by rw [tokenCmd_accepts]; exact e⟩⟩

theorem test_LedgerCommands_erase : (ledger 30 on).ledgerUp = true ∧ (ledger 30 on).accepts (cmd []) ldgEraseInfo = true ∧ ((ledger 30 on).taken (cmd []) ldgEraseInfo).tokenHold = false ∧
    (let s : State := { ledger 30 on with l := { (ledger 30 on).l with authHold := some 0 } }
     (s.taken (cmd []) ldgEraseInfo).tokenHold = true) ∧
    (∀ k ∈ [1, 4], ∀ tok ∈ [zeros 32, List.replicate 32 1], par (tokenCmd [(14, k)] tok) 14 1 = k ∧ parZero (tokenCmd [(14, k)] tok) 28 4 = true) := by decide

/-- A closed record waiting for the archive. -/
def someEv (code : Nat) (closed : Bool) : EvRec :=
  { time := 0, code := code, source := 0x0400, rep := 1, sev := 1, closed := closed, staged := false, archived := false, args := zeros 16, lastT := 0, closedAt := 0,
    edge := 0, told := false }
def recorded (r : EvRec) (s : State) : State := { s with ev := { s.ev with ram := [(0, r)], nextSeq := 1 } }

theorem test_RecorderAndFirmwareCommands :
    (∀ f ∈ [[(8, 32), (24, 1)], [(10, 2), (25, 16)]], let c := cmd f
      1 ≤ par c 24 4 ∧ par c 24 4 ≤ 4096 ∧ par c 0 8 % 8 = 0 ∧ parZero c 28 4 = true ∧ 32 * par c 24 4 ≤ par c 8 4 ∧
        (mounted on).accepts c evrReadInfo = true ∧ (mounted on).accepts c evrArchiveReadInfo = true ∧ (mounted on).ledgerUp = true) ∧
    ((ledger 30 on).accepts (cmd []) evrArchiveInfo = true ∧ ((ledger 30 on).taken (cmd []) evrArchiveInfo).toArchive = [] ∧
      (((recorded (someEv 0x0401 true) (ledger 30 on)).taken (cmd []) evrArchiveInfo).toArchive.getLast?).isSome = true ∧
      ((recorded (someEv 0x0401 true) (ledger 30 on)).taken (cmd []) evrArchiveInfo).toArchive.length ≤ 16) ∧
    ((ledger 30 on).accepts (cmd []) evrClearInfo = true ∧ ((ledger 30 on).taken (cmd []) evrClearInfo).tokenHold = false) ∧
    (let v := fun (s : State) => let u := s.taken (cmd []) evrClearInfo
       queueAll (chunks16 256 (closeRecord u).toArchive) id none (closeRecord u)
     ((v (ledger 30 on)).l.jobs = [] ∧ (closeRecord (v (ledger 30 on))).toArchive = []) ∧
       (v (recorded (someEv 0x0401 true) (ledger 0 on))).l.jobs = [] ∧ (closeRecord (v (recorded (someEv 0x0401 true) (ledger 0 on)))).toArchive ≠ []) ∧
    (on.inMaintain = false ∧ on.accepts (cmd []) fwWriteInfo = true ∧ on.accepts (cmd []) fwVerifyInfo = true ∧ on.accepts (cmd []) fwActivateInfo = true) ∧
    (let s := ledger 30 maintained
     let s1 : State := { s with p := { s.p with fwOpen := true, fwNext := 256 } }
     s.inMaintain = true ∧ s.ledgerUp = true ∧ s.accepts (cmd [(9, 1)]) fwWriteInfo = true ∧ par (cmd [(9, 1)]) 8 4 = 256 ∧ par (cmd [(9, 1)]) 24 4 = 0 ∧
       256 ≤ par (cmd [(9, 1)]) 8 4 ∧ par (cmd [(10, 16)]) 8 4 = 1048576 ∧ parZero (cmd [(9, 1)]) 32 32 = true ∧ par (cmd [(9, 1), (25, 1)]) 24 4 = s1.p.fwNext ∧
       s1.p.fwOpen = true ∧ s.p.fwOpen = false) ∧
    (let s := ledger 30 maintained
     s.accepts (cmd []) fwVerifyInfo = true ∧ parZero (cmd []) 32 32 = true ∧ s.l.jobs = [] ∧ s.imageFault (s.slotImage s.p.fwSlot) = some 1) ∧
    (∀ m ∈ [1, 2, 3, 4, 5, 0xFF], let s := ledger 30 maintained
      let c := cmd [(12, m)]
      s.accepts c fwActivateInfo = true ∧ (s.activateMode (par c 12 1)).isSome = true ∧ ((s.taken c fwActivateInfo).planned.named (par c 16 8)).isSome = true ∧
        s.p.fwVerified = false ∧ (s.taken c fwActivateInfo).changing = false) := by decide

/-- For every nonce EVR_CLEAR has a right token and a wrong one. -/
theorem test_RecorderAndFirmwareCommands_token (n : Nat) : ∃ c d : HostCmd, parBytes c 32 32 = expectedToken 1 0 n ∧ ¬ parBytes d 32 32 = expectedToken 1 0 n := by
  by_cases h : expectedToken 1 0 n = zeros 32
  · exact ⟨tokenCmd [] (zeros 32), tokenCmd [] (List.replicate 32 1), by rw [h]; exact tokenCmd_token _ _ (by decide),
      by rw [h, tokenCmd_token _ _ (by decide)]; decide⟩
  · exact ⟨tokenCmd [] (expectedToken 1 0 n), tokenCmd [] (zeros 32), tokenCmd_token _ _ (expectedToken_length _ _ _),
      by rw [tokenCmd_token _ _ (by decide)]; exact fun e => h e.symm⟩

/-- FW_ACTIVATE's checks met in turn: verified; the twin's modes allowed or not; a transition in progress; admitted in start-up and for Maintain. -/
theorem test_RecorderAndFirmwareCommands_activate :
    let s : State := { ledger 30 maintained with p := { maintained.p with fwVerified := true } }
    let c := cmd [(12, 5)]
    let u := s.taken c fwActivateInfo
    s.p.fwVerified = true ∧ s.activateMode (par c 12 1) = some .maintain ∧ u.changing = false ∧ s.w.en = false ∧
      (appendRecord 0 1 0 ({ u.boot with trial := s.p.fwSlot, attempted := 0 } : BootRecord).bytes
        (.activate (s.waiterOf c fwActivateInfo) { target := .maintain, pick := 0, resume := 0, who := none }) u).isSome = true ∧
      (let s2 : State := { s with m := { s.m with trans := some (asks .pass) } }
       (s2.taken c fwActivateInfo).changing = true) ∧
      (let s3 : State := { ledger 0 maintained with p := s.p }
       let u := s3.taken c fwActivateInfo
       appendRecord 0 1 0 ({ u.boot with trial := s3.p.fwSlot, attempted := 0 } : BootRecord).bytes
         (.activate (s3.waiterOf c fwActivateInfo) { target := .maintain, pick := 0, resume := 0, who := none }) u = none) := by decide

theorem test_RecorderAndFirmwareCommands_budget :
    ∀ n ∈ [20, 100], let s : State := { ledger 30 maintained with b := { on.b with target := n } }
      let c := cmd [(12, 2)]
      s.activateMode (par c 12 1) = some .lead ∧ s.m.start = false ∧
        (pushSched 1 false none (.mode { target := .lead, pick := 1, resume := 0, who := none }) (s.taken c fwActivateInfo)).inBudget 1 = decide (n = 20) := by
  decide +kernel

/-- An image of no payload is sound once its signature is accepted and its key stands, which the model leaves free. -/
def someImage : List Byte := [0x4D, 0x49, 0x57, 0x46] ++ zeros 4 ++ [0xFF, 0xFF, 0xFF, 0xFF] ++ zeros 4084
theorem someImage_sound (s : State) (h : s.l.otpRaised = 0) (ok : ∀ m, Config.signatureOk 0 m = true) (kept : Config.keyRevoked 0 = false) :
    s.imageFault someImage = none := by
  have l : someImage.length = 4096 := by unfold someImage zeros; simp only [List.length_append, List.length_replicate, List.length_cons, List.length_nil]
  have a : getLE someImage 0 4 = 0x4657494D := by decide
  have b : getLE someImage 12 4 = 0 := by decide
  have c : byteAt someImage 16 = 0 := by decide
  have d : getLE someImage 8 4 = 2 ^ 32 - 1 := by decide
  have m : ¬ (2 ^ 32 - 1 < s.minSecVer) := by
    have := Config.minSecVer.isLt
    unfold State.minSecVer; omega
  unfold State.imageFault
  simp only [a, b, c, d, l, ok, kept]
  rw [if_neg (by decide), if_neg (by decide), if_neg (by decide), if_neg m]

/-- A job of one commit on region 1, and channels in use with errors behind them. -/
def someJob (op : FlashOp) : LJob := { ops := [op], after := .nothing, write := true }
def flashing (op : FlashOp) (e : Nat) : State :=
  let s := holding [someRec]
  { s with l := { s.l with jobs := [someJob op], fa := { s.l.fa with errs := e } } }

theorem test_LedgerRows :
    (∀ op ∈ [FlashOp.commit 1 someRec, .erase 1 0, .program 1 someRec], (flashing op 0).ledgerUp = true ∧ (flashing op 0).l.jobs = someJob op :: [] ∧
      (someJob op).ops = op :: [] ∧ (flashing op 0).l.fa.errs < 3 ∧ (flashing op 0).l.fb.errs < 3 ∧ (flashing op 0).l.fa.state = 1 ∧
      (flashing op 0).l.fb.state = 1) ∧
    ((flashing (.commit 1 someRec) 2).l.fa.errs = 2 ∧ (flashing (.commit 1 someRec) 2).l.fb.errs < 3) ∧
    ((advance 0 (flashing (.program 1 someRec) 0)).opSector (.program 1 someRec) = (1, some 0) ∧ (someJob (.program 1 someRec)).retried = false ∧
      (FlashOp.program 1 someRec).erases = false ∧ (FlashOp.erase 1 0).erases = true) ∧
    (∀ x ∈ [0, 1], let s : State := { ledger 30 on with l := { (ledger 30 on).l with mounting := true, fa := { on.l.fa with state := x }, fb := { on.l.fb with state := 0 } } }
     s.l.mounting = true ∧ (s.l.fa.state == 1) = decide (x = 1) ∧ (s.l.fb.state == 1) = false) ∧
    ({ on with l := { on.l with rebuild := true } } : State).l.rebuild = true ∧
    ((ledger 0 on).ledgerUp = true ∧ (ledger 30 on).ledgerUp = true ∧ (advance 0 (ledger 0 on)).room 4 (recSize 4352) = none ∧
      ((advance 0 (ledger 30 on)).room 4 (recSize 4352)).isSome = true) ∧
    (let s : State := { on with l := { on.l with nonceRead := some 0, authHold := some 0 } }
     s.l.nonceRead = some 0 ∧ s.l.authHold = some 0) ∧
    ((mounted on).l.lastScrub = none) := by decide

theorem test_RecorderAndBootRows_posts :
    (∀ src ∈ [0, 1], let s := recorded (someEv 0x0401 false) on
     let u := closeTimer (advance 0 s)
     u.ev.fifo = [] ∧ u.openRecord = some (someEv 0x0401 false) ∧ (someEv 0x0401 false).same (newRecord (0x0401 % 65536) src [] u) = decide (src = 0) ∧
       u.ev.lastEdge ≠ some u.edge ∧ u.l.mounted = false) ∧
    (∀ src ∈ [0, 2], let s := recorded { someEv 0x0401 false with source := 0x0401 } { on with ev := { on.ev with lastEdge := some 0 } }
     let u := closeTimer (advance 0 s)
     let o := { someEv 0x0401 false with source := 0x0401 }
     let r := newRecord (0x0401 % 65536) src [] u
     u.ev.fifo = [] ∧ u.openRecord = some o ∧ u.ev.lastEdge = some u.edge ∧ o.same r = false ∧ o.edge = r.edge ∧ o.staged = false ∧
       decide (r.source < o.source) = decide (src = 0)) ∧
    (∀ x ∈ [(1, 0x0402), (15, 0x0401), (16, 0x0401)], let s : State := { on with ev := { on.ev with fifo := List.replicate x.1 (someEv 0x0402 false) } }
     let u := closeTimer (advance 0 s)
     let r := newRecord (x.2 % 65536) 0 [] u
     u.ev.fifo.getLast? = some (someEv 0x0402 false) ∧ (∀ y ∈ u.ev.fifo, y.edge ≠ r.edge ∨ y.source ≤ r.source) ∧
       (someEv 0x0402 false).same r = decide (x.2 = 0x0402) ∧ u.ev.fifo.length = x.1) ∧
    (let s := recorded (someEv 0x0401 false) on
     s.openRecord = some (someEv 0x0401 false) ∧ (someEv 0x0401 false).lastT + secU ≤ max s.t.now secU) ∧
    (∀ lost ∈ [0, 1], let s : State := { on with ev := { on.ev with fifo := [someEv 0x0401 false], lost := lost } }
     let u := advance 0 s
     s.ev.fifo = someEv 0x0401 false :: [] ∧ s.ev.lastEdge ≠ some (advance 0 s).edge ∧ s.l.mounted = false ∧
       (writeRecord (someEv 0x0401 false) { u with ev := { u.ev with fifo := [] } }).ev.lost = lost) ∧
    (let s := recorded (someEv 0x0401 true) (mounted on)
     s.toArchive = (0, someEv 0x0401 true) :: [] ∧ s.ledgerUp = true ∧ s.toArchive.length < 16 ∧ max s.t.now 0 < (someEv 0x0401 true).closedAt + secU ∧
       (someEv 0x0401 true).closedAt + secU ≤ max s.t.now secU) := by decide

theorem test_RecorderAndBootRows_boot :
    (on.m.cpRun = true ∧ on.coreUp = true ∧ on.m.fwReady = true) ∧
    (let s : State := { maintained with m := { maintained.m with cpRun := true } }
     s.m.cpRun = true ∧ s.coreUp = true ∧ s.m.fwReady = false ∧ s.m.mode = .maintain ∧ s.m.afterReady = none) ∧
    (let s : State := { maintained with m := { maintained.m with cpRun := true, afterReady := some (asks .lead) } }
     s.m.fwReady = false ∧ s.m.afterReady = some (asks .lead) ∧ s.m.start = false ∧ (asks .lead).target ≠ .maintain) ∧
    (∀ b ∈ [false, true], let s : State := { on with m := { on.m with cpRun := true, fwReady := false, maint := b }, t := { on.t with ptpState := b2n b } }
     s.m.cpRun = true ∧ s.coreUp = true ∧ s.m.fwReady = false ∧ s.m.mode ≠ .maintain) ∧
    (let s : State := { on with m := { on.m with trial := true, readyAt := some 0 } }
     s.m.trial = true ∧ s.m.fwReady = true ∧ s.m.readyAt = some 0 ∧ 0 + 60 * secU ≤ max s.t.now (60 * secU) ∧ s.m.lastFault = none) := by decide

/-- A trial that fails with the active image sound, its signature and key being free. -/
def onTrial (s : State) : State := { s with
  l := { s.l with slotA := ⟨someImage⟩, regions := [{ free := [], used := [⟨0, 0, 0, 64,
    [{ someRec with typ := 1, key := 0, payload := ({ BootRecord.default with trial := 1, attempted := 1 } : BootRecord).bytes }]⟩] }] }
  m := { s.m with trial := true }
  p := { s.p with straps := 0 } }

theorem test_RecorderAndBootRows_trial (ok : ∀ m, Config.signatureOk 0 m = true) (kept : Config.keyRevoked 0 = false) :
    (onTrial (mounted on)).m.trial = true ∧ (onTrial (mounted on)).coreUp = true ∧ (onTrial (mounted on)).boot.trial < 2 ∧
      (onTrial (mounted on)).boot.attempted ≠ 0 ∧ (onTrial (mounted on)).bootable (onTrial (mounted on)).boot.active = true := by
  refine ⟨rfl, rfl, by decide, by decide, ?_⟩
  have a : (onTrial (mounted on)).boot.active = 0 := by decide
  have b : (onTrial (mounted on)).slotImage 0 = someImage := rfl
  have f : (onTrial (mounted on)).imageFault someImage = none := someImage_sound _ rfl ok kept
  rw [a]
  unfold State.bootable State.slotValid
  rw [b, f]
  rfl

theorem test_PickRows :
    (∀ e ∈ [0], on.m.dpRun = true ∧ on.neededEngines.contains e = true ∧ on.fed e = true ∧ (on.use e).finished = false ∧ (advance 0 on).canFinish e = true) ∧
    (on.neededEngines.contains 7 = true ∧ (on.use 7).finished = false) ∧
    (max on.t.now 0 ≤ (advance 0 on).pickAt (on.m.pick + 1) ∧ (advance secU on).pickAt (on.m.pick + 1) < max on.t.now secU) ∧
    (on.m.dpRun = true ∧ (advance secU on).pickAt (on.m.pick + 1) ≤ max on.t.now secU ∧ starting.m.dpRun = false) ∧
    (∀ l ∈ [[], [0, 0]], let s : State := { on with b := { on.b with counted := l } }
     ((s.b.counted.filter (fun d => decide (0 ≤ d + secU)) ++ [0]).length < 3) = (l = [])) ∧
    (let s : State := { on with b := { on.b with winCount := 16 } }
     16 ≤ s.b.winCount ∧ s.p.avs = .loop ∧ s.p.holdSince = none ∧ s.m.dpRun = true) ∧
    on.b.winCount < 16 ∧
    (let s : State := { on with p := { on.p with holdSince := some 0 } }
     s.p.holdSince = some 0 ∧ max s.t.now 0 < 0 + secU ∧ 0 + secU ≤ max s.t.now secU) := by decide

/-! ### Worked examples of the spec -/

/-- 01_architecture: 48 kHz, pick 16, device time 1,800,000,000,000,100,000 ns; the next pick starts 333,333 ns and 21,845 units later. -/
theorem test_picks_and_samples : pickOf 48000 16 (1800000000000100000 * 65536) = 5400000000000 ∧
    sampleOf 48000 (1800000000000100000 * 65536) = 86400000000004 ∧ pickOf 48000 8 (1800000000000100000 * 65536) = 10800000000000 ∧
    pickStart 48000 16 5400000000000 = 1800000000000000000 * 65536 ∧
    pickStart 48000 16 5400000000001 = 1800000000000000000 * 65536 + 333333 * 65536 + 21845 := by decide

/-- 03_objects: TIME 1,800,000,000,000,250,000 ns is sample 12 of capture pick 5,400,000,000,000, rendered in the next. -/
theorem test_object_place : (timed fun t => { t with pickLen := 16, rate96 := false }).place
    (leBytes 8 1800000000000250000 ++ zeros 24) = (86400000000012, 12, 5400000000001) := by decide

set_option maxRecDepth 100000 in
/-- 04_loom_geometry: the law gain words and delays of the object behind the front wall. -/
theorem test_wave_law :
    let p : V3 := ⟨7000, 2000, 0⟩
    let a : Vertex := ⟨4000, 2000, 0, -32768, 0, 0, 0, 1⟩
    let b : Vertex := ⟨4000, 4000, 0, -32768, 0, 0, 1, 1⟩
    let ticks := fun (v : Vertex) => waveDelay (v.pos.sub p).len 48000 343200
    (ticks a, ticks b) = (26853, 32273) ∧ activity p ⟨0, 2000, 0, 32768, 0, 0, 2, 1⟩ = 0 ∧
      fxRoundTo 23 (fxMul (activity p a) (fxDiv (fxOf 500) (a.pos.sub p).len)) = 1398101 := by decide

/-- 10_batten_isa: the three words encoded, and one sample through the loop. -/
theorem test_batten_words :
    (batOp 0xE010030000000000 = 0x38 ∧ bitsOf 0xE010030000000000 59 48 = 16 ∧ bitsOf 0xE010030000000000 47 40 = 3) ∧
    (batOp 0x2838002040000000 = 0x0A ∧ movePart 0x2838002040000000 0 = 0x20400 ∧ movePart 0x2838002040000000 1 = 0 ∧
      mop 0x20400 = 1 ∧ mD 0x20400 = 0 ∧ mMode 0x20400 = 2) ∧
    (batOp 0xAC60000000044400 = 0x2B ∧ movePart 0xAC60000000044400 0 = 0 ∧ mop (movePart 0xAC60000000044400 1) = 2 ∧
      mD (movePart 0xAC60000000044400 1) = 1) := by decide

theorem test_batten_sample : rmul 0x01234570 0x40000000 = (0x01234570 * 2 ^ 30, 0) ∧
    astPart 0 1 (0x01234570 * 2 ^ 30) = (0x0091A2B8, false) ∧ rndPart 4 0x0091A2B8 = (0x0091A2C0, false) := by decide

/-- 17_ledger_recorder: the venue set of 66 full parts and one of 5,840 bytes takes 67 sectors. -/
theorem test_set_sectors : sectorsOf (List.replicate 66 65484 ++ [5840, 48]) = 67 := by decide

/-- 12_media_network: 64 channels, 6 samples a packet, the claim extension, no VLAN tag: 1,222 bytes. -/
theorem test_packet_length : ({ someStream with nch := 64, ptime := 6, claimExt := true } : StreamCfg).frameLen = 1222 ∧ maxfBytes 0 = 1522 := by decide

set_option maxRecDepth 100000 in
/-- The CRCs of the nine digits, as published for these polynomials. -/
theorem test_crcs : crc32c [49, 50, 51, 52, 53, 54, 55, 56, 57] = 0xE3069283 ∧ crc32e [49, 50, 51, 52, 53, 54, 55, 56, 57] = 0xCBF43926 ∧
    crc8 [49, 50, 51, 52, 53, 54, 55, 56, 57] = 0xF4 := by decide

set_option maxRecDepth 100000 in
/-- FIPS 180-4's message abc, first word. -/
theorem test_sha256 : (sha256 [97, 98, 99]).take 4 = [0xBA, 0x78, 0x16, 0xBF] := by decide

end Sys2Proof.Tests
end

section
/-!
PROOFS. The statements of 00_scope about register accesses (R7–R10, R63, R431, R619): what a served read answers and clears, how the
halves of a 64-bit quantity are held and applied, and what a write changes.
-/
namespace Sys2Proof.Machine

/-! ### Which offsets are halves of a quantity (R8) -/

/-- The low halves: single quantities, ring bases and auxiliary addresses, MAC addresses, captures and error-log times. -/
theorem highOf_eq_some {off h : Nat} (e : highOf off = some h) : h = off + 4 ∧
    (off ∈ [0x4, 0x10, 0x6010, 0x7908, 0x8010, 0x9008, 0xA018, 0xA020, 0xE004, 0xE020, 0x1001C, 0x11020, 0x12004, 0x1200C] ∨
      (0x2100 ≤ off ∧ off < 0x24E0 ∧ (off % 0x20 = 0 ∨ off % 0x20 = 8)) ∨ (0xD070 ≤ off ∧ off < 0xD090 ∧ off % 8 = 0) ∨
      (0xE060 ≤ off ∧ off < 0xE080 ∧ off % 8 = 0) ∨ (0x14000 ≤ off ∧ off < 0x15000 ∧ off % 16 = 0)) := by
  unfold highOf at e
  split at e
  next hl => exact ⟨(Option.some.inj e).symm, .inl hl⟩
  next =>
    split at e
    next hr =>
      simp only [Bool.or_eq_true, Bool.and_eq_true, decide_eq_true_eq] at hr
      exact ⟨(Option.some.inj e).symm, .inr (by omega)⟩
    next => exact absurd e (by simp)

theorem isHigh_add_four {off : Nat} (e : highOf off = some (off + 4)) : isHigh (off + 4) = true := by
  simp [isHigh, e]

/-- No register is both the high half of one quantity and the low half of another. -/
theorem highOf_add_four {off : Nat} (e : highOf off = some (off + 4)) : highOf (off + 4) = none := by
  obtain ⟨-, hoff⟩ := highOf_eq_some e
  by_contra hne
  obtain ⟨h, e'⟩ := Option.ne_none_iff_exists'.mp hne
  obtain ⟨-, hoff'⟩ := highOf_eq_some e'
  simp only [List.mem_cons, List.not_mem_nil, or_false] at hoff hoff'
  omega

/-! ### Reads: what a served register answers (R8, R10) -/

/-- A high half answers what was latched for its master, as does the fraction that TIME_NOW_LO latches. -/
theorem regRead_latched {m off : Nat} {s : State} (hs : s.regServed m off = true) (hmbx : ¬ (0x3000 ≤ off ∧ off < 0x3040))
    (hoff : isHigh off = true ∨ off = 0xE00C) : regRead m off s = answer m (nget 0 s.h.latches (halfKey m off)) s := by
  rcases hoff with h | rfl
  · simp [regRead, hs, hmbx, h]
  · simp [regRead, hs]

section
variable {m off : Nat} {d : RegDef} {s : State} (hs : s.regServed m off = true) (hmbx : ¬ (0x3000 ≤ off ∧ off < 0x3040))
  (hhigh : isHigh off = false) (hfrac : off ≠ 0xE00C) (hd : regDef? off = some d)
include hs hmbx hhigh hfrac hd

theorem regRead_single (hnone : highOf off = none) :
    regRead m off s = clearRc off (readEffect off (answer m (s.regValue off &&& ~~~(d.maskOf [.wo])) s)) := by
  have hnow : off ≠ 0xE004 := by rintro rfl; exact absurd hnone (by decide)
  simp [regRead, hs, hmbx, hhigh, hfrac, hd, hnone, hnow]

theorem regRead_lowHalf {h : Nat} (hh : highOf off = some h) (hnow : off ≠ 0xE004) :
    regRead m off s = clearRc off (readEffect off (latchHalf m h ((answer m (s.regValue off &&& ~~~(d.maskOf [.wo])) s).regValue h)
      (answer m (s.regValue off &&& ~~~(d.maskOf [.wo])) s))) := by
  simp [regRead, hs, hmbx, hhigh, hfrac, hd, hh, hnow]

end

theorem clearRc_of_no_rc {off : Nat} {d : RegDef} (hd : regDef? off = some d) (hrc : d.maskOf [.rc] = 0) (s : State) :
    clearRc off s = s := by
  simp [clearRc, hd, hrc]

/-- A register with no write-only field answers its whole value. -/
theorem answered_of_no_wo {d : RegDef} (hwo : d.maskOf [.wo] = 0) (w : Word) : w &&& ~~~(d.maskOf [.wo]) = w := by
  rw [hwo]
  exact BitVec.and_allOnes

/-- A register that a read answers whole and leaves as it is: none of its fields is write-only or read-clear. -/
def ReadsWhole (off : Nat) : Prop := ∃ d, regDef? off = some d ∧ d.maskOf [.wo] = 0 ∧ d.maskOf [.rc] = 0

theorem readsWhole_slackLast : ReadsWhole 0x104 := ⟨_, rfl, by decide, by decide⟩

theorem readsWhole_capture {k : Nat} (hk : k < 4) : ReadsWhole (0xE060 + 8 * k) := by
  interval_cases k <;> exact ⟨_, rfl, by decide, by decide⟩

/-- TIME_NOW_LO latches its high half and its fraction, and the read clears nothing. -/
theorem regRead_timeNow {m : Nat} {d : RegDef} {s : State} (hs : s.regServed m 0xE004 = true) (hd : regDef? 0xE004 = some d) :
    regRead m 0xE004 s =
      let u := answer m (s.regValue 0xE004 &&& ~~~(d.maskOf [.wo])) s
      let v := latchHalf m 0xE008 (u.regValue 0xE008) u
      latchHalf m 0xE00C (v.regValue 0xE00C) v := by
  have hrc : d.maskOf [.rc] = 0 := by cases hd; decide
  have hhigh : isHigh 0xE004 = false := by decide
  have hh : highOf 0xE004 = some 0xE008 := by decide
  simp [regRead, hs, hhigh, hh, hd, clearRc_of_no_rc hd hrc, readEffect]

/-- SYS_SLACK_LAST holds for later reads the use and finish of the engines in the pick whose slack it answers (R63). -/
theorem regRead_slackLast {m : Nat} {s : State} (hs : s.regServed m 0x104 = true) :
    regRead m 0x104 s = setB (fun b => { b with latched := b.last, latchedSlack := b.lastSlack, latchedEng := b.lastEng })
      (answer m (s.regValue 0x104) s) := by
  obtain ⟨d, hd, hwo, hrc⟩ := readsWhole_slackLast
  rw [regRead_single hs (by decide) (by decide) (by decide) hd (by decide), clearRc_of_no_rc hd hrc,
    answered_of_no_wo hwo]
  rfl

theorem highOf_capture {k : Nat} (hk : k < 4) : highOf (0xE060 + 8 * k) = some (0xE064 + 8 * k) := by
  interval_cases k <;> decide

theorem isHigh_capture {k : Nat} (hk : k < 4) : isHigh (0xE060 + 8 * k) = false := by
  interval_cases k <;> decide

/-- A capture register's own effect of a read: VALID and OVER cleared (R431). -/
theorem readEffect_capture {k : Nat} (hk : k < 4) (s : State) : readEffect (0xE060 + 8 * k) s =
    setT (fun t => { t with caps := nmod Capture.none t.caps k (fun c => { c with valid := false, missed := false }) }) s := by
  have hslack : 0xE060 + 8 * k ≠ 0x104 := by omega
  have hnonce : 0xE060 + 8 * k ≠ 0x11020 := by omega
  have hlow : 0xE060 ≤ 0xE060 + 8 * k ∧ 0xE060 + 8 * k < 0xE080 ∧ (0xE060 + 8 * k) % 8 = 0 := by omega
  have hidx : (0xE060 + 8 * k - 0xE060) / 8 = k := by omega
  rw [readEffect, if_neg hslack, if_neg (fun h => hnonce h.1), if_pos hlow, hidx]

/-- TIME_CAP_LO answers the captured time with its high half latched, and frees the capture register (R431). -/
theorem regRead_capture {m k : Nat} {s : State} (hk : k < 4) (hs : s.regServed m (0xE060 + 8 * k) = true) :
    regRead m (0xE060 + 8 * k) s =
      let u := answer m (s.regValue (0xE060 + 8 * k)) s
      setT (fun t => { t with caps := nmod Capture.none t.caps k (fun c => { c with valid := false, missed := false }) })
        (latchHalf m (0xE064 + 8 * k) (u.regValue (0xE064 + 8 * k)) u) := by
  obtain ⟨d, hd, hwo, hrc⟩ := readsWhole_capture hk
  rw [regRead_lowHalf hs (by omega) (isHigh_capture hk) (by omega) hd (highOf_capture hk) (by omega), clearRc_of_no_rc hd hrc,
    readEffect_capture hk, answered_of_no_wo hwo]

theorem exec_timeCapLoRead {t m k : Nat} {s : State} (hk : k < 4) :
    exec (.timeCapLoRead t m k) s = .next (regRead m (0xE060 + 8 * k) (advance t s)) := by
  have hrow : exec (.timeCapLoRead t m k) s = .next (regRead m (0xE060 + 8 * (k % 4)) (advance t s)) := rfl
  rw [hrow, Nat.mod_eq_of_lt hk]

/-- Settles O29: each of the four rows is `regRead` of its register once device time has run on, which does not bear on whether the
access is served; the kinds of read are those of the lemmas above. -/
theorem registerReads : Obligations.RegisterReads := by
  refine ⟨fun t m off d s hs hmbx hhigh hfrac hd => ⟨fun h hh hnow => ?_, ?_, fun hnone hnow => ?_⟩, fun t m off s hs hmbx hoff => ?_,
    fun t m s hs => ?_, fun t m k s hk hs => ?_⟩
  · exact congrArg Host.Outcome.next (regRead_lowHalf (s := advance t s) hs hmbx hhigh hfrac hd hh hnow)
  · rintro rfl
    exact congrArg Host.Outcome.next (regRead_timeNow (s := advance t s) hs hd)
  · exact congrArg Host.Outcome.next (regRead_single (s := advance t s) hs hmbx hhigh hfrac hd hnone)
  · exact congrArg Host.Outcome.next (regRead_latched (s := advance t s) hs hmbx hoff)
  · exact congrArg Host.Outcome.next (regRead_slackLast (s := advance t s) hs)
  · rw [exec_timeCapLoRead hk]
    exact congrArg Host.Outcome.next (regRead_capture (s := advance t s) hk hs)

/-! ### Writes: which rule a register's write goes by (R7, R9, R10) -/

/-- A register whose write has no rule of its own: what the write does is given by the access types of its fields. -/
structure OrdinaryWrite (off : Nat) : Prop where
  notMailbox : ¬ (0x3000 ≤ off ∧ off < 0x3040)
  notSelect : isSelect off = false
  notInject : off ≠ 0x1300C
  notLatch : ¬ (0x6040 ≤ off ∧ off < 0x6080 ∧ off % 4 = 0)
  notBobbin : ¬ (0x5000 ≤ off ∧ off < 0x5200 ∧ off % 0x20 = 0x18)
  notRingCfg : ¬ (0x2100 ≤ off ∧ off < 0x24E0 ∧ off % 0x20 = 0x10)
  notWake : off ≠ 0xD214

theorem isSelect_eq_true {off : Nat} : isSelect off = true ↔
    off ∈ [0x7028, 0x8030, 0x902C, 0x9034, 0xA038, 0xB100, 0xD104] := by
  simp [isSelect, or_assoc]

/-- No half of a quantity, low or high, is a register with a write rule of its own. -/
theorem ordinaryWrite_of_half {off h o : Nat} (e : highOf off = some h) (ho : o = off ∨ o = off + 4) : OrdinaryWrite o := by
  obtain ⟨-, hoff⟩ := highOf_eq_some e
  have hsel := isSelect_eq_true (off := o)
  simp only [List.mem_cons, List.not_mem_nil, or_false] at hoff hsel
  constructor
  case notSelect => rw [Bool.eq_false_iff, Ne, hsel]; omega
  all_goals omega

theorem writable_of_row {off : Nat} {d : RegDef} (hd : regDef? off = some d) : writable off = (d.maskOf [.rw, .rws] != 0) := by
  simp [writable, hd]

theorem plainWrite_of_row {off : Nat} {v : Word} {d : RegDef} {s : State} (hd : regDef? off = some d) :
    plainWrite off v s = if d.maskOf [.rw, .rws] = 0 then s else writeEffect off (s.reg off)
      (setReg off ((s.reg off &&& ~~~(d.maskOf [.rw, .rws])) ||| (v &&& d.maskOf [.rw, .rws])) s) := by
  simp [plainWrite, hd]

section
variable {m off : Nat} {v : Word} {s : State}

theorem regWrite_unserved (hs : s.regServed m off = false) : regWrite m off v s = regRefused m off s := by
  simp [regWrite, hs]

variable (hs : s.regServed m off = true)
include hs

theorem regWrite_select (hsel : isSelect off = true) : regWrite m off v s = selWrite off v s := by
  have hmbx : ¬ (0x3000 ≤ off ∧ off < 0x3040) := by
    have := isSelect_eq_true.mp hsel
    simp only [List.mem_cons, List.not_mem_nil, or_false] at this
    omega
  simp [regWrite, hs, hmbx, hsel]

section
variable (ho : OrdinaryWrite off)
include ho

theorem regWrite_ordinary : regWrite m off v s =
    if ¬ writable off then s else if (highOf off).isSome then lowWrite m off v s
    else if isHigh off then highWrite m off v s else plainWrite off v s := by
  rw [regWrite, if_neg (by simp [hs]), if_neg ho.notMailbox, if_neg (by simp [ho.notSelect]), if_neg ho.notInject,
    if_neg ho.notLatch, if_neg ho.notBobbin, if_neg ho.notRingCfg, if_neg ho.notWake]

/-- A register that is no half of a quantity is written at once, in its RW and RWS fields. -/
theorem regWrite_whole {d : RegDef} (hd : regDef? off = some d) (hlow : highOf off = none) (hhigh : isHigh off = false) :
    regWrite m off v s = plainWrite off v s := by
  rw [regWrite_ordinary hs ho, writable_of_row hd, hlow, hhigh]
  by_cases hk : d.maskOf [.rw, .rws] = 0
  · simp [plainWrite_of_row hd, hk]
  · rw [if_neg (not_not.mpr (bne_iff_ne.mpr hk)), if_neg (by simp), if_neg (by simp)]

end

theorem regWrite_lowHalf {h : Nat} (hh : highOf off = some h) (hw : writable off = true) :
    regWrite m off v s = lowWrite m off v s := by
  rw [regWrite_ordinary hs (ordinaryWrite_of_half hh (.inl rfl))]
  simp [hw, hh]

end

theorem regWrite_highHalf {m off : Nat} {v : Word} {s : State} (hs : s.regServed m (off + 4) = true)
    (hh : highOf off = some (off + 4)) (hw : writable (off + 4) = true) :
    regWrite m (off + 4) v s = highWrite m (off + 4) v s := by
  rw [regWrite_ordinary hs (ordinaryWrite_of_half hh (.inr rfl))]
  simp [hw, highOf_add_four hh, isHigh_add_four hh]

theorem highWrite_of_none {m off : Nat} {v : Word} {s : State} (h : nfind s.h.holds (halfKey m off) = none) :
    highWrite m (off + 4) v s = s := by
  simp [highWrite, h]

theorem highWrite_of_held {m off : Nat} {v lo : Word} {s : State} (h : nfind s.h.holds (halfKey m off) = some lo) :
    highWrite m (off + 4) v s = plainWrite (off + 4) v (plainWrite off lo
      (setH (fun h => { h with holds := ndel h.holds (halfKey m off) }) s)) := by
  simp [highWrite, h]

/-- Settles O30: both halves of a quantity are registers without a write rule of their own, and a high half is no low half, so that the
write reaches the rule of its half. -/
theorem registerHalfWrites : Obligations.RegisterHalfWrites := by
  intro t m off v s hh _ hlow hhigh
  refine ⟨fun hs => ?_, fun hs => ⟨fun hnone => ?_, fun lo hheld => ?_⟩⟩
  · exact congrArg Host.Outcome.next (regWrite_lowHalf (s := advance t s) hs hh hlow)
  · exact congrArg Host.Outcome.next ((regWrite_highHalf (s := advance t s) hs hh hhigh).trans (highWrite_of_none hnone))
  · exact congrArg Host.Outcome.next ((regWrite_highHalf (s := advance t s) hs hh hhigh).trans (highWrite_of_held hheld))

/-! ### Writes of single registers (R10, R163, R402, R620, R628) -/

theorem regWrite_wake {m : Nat} {v : Word} {s : State} (hs : s.regServed m 0xD214 = true) :
    regWrite m 0xD214 v s = setReg 0xD214 (s.reg 0xD214 &&& ~~~(v &&& 0xFFFF)) s := by
  have hsel : isSelect 0xD214 = false := by decide
  have hclear : clearOnes 0xD214 v s = setReg 0xD214 (s.reg 0xD214 &&& ~~~(v &&& 0xFFFF)) s := rfl
  simp [regWrite, hs, hsel, hclear]

theorem regWrite_inject {m : Nat} {v : Word} {s : State} (hs : s.regServed m 0x1300C = true) :
    regWrite m 0x1300C v s = memInjWrite v s := by
  have hsel : isSelect 0x1300C = false := by decide
  simp [regWrite, hs, hsel]

theorem regWrite_latch {m k : Nat} {v : Word} {s : State} (hk : k < 16) (hs : s.regServed m (0x6040 + 4 * k) = true) :
    regWrite m (0x6040 + 4 * k) v s = latchWrite m k v s := by
  have hmbx : ¬ (0x3000 ≤ 0x6040 + 4 * k ∧ 0x6040 + 4 * k < 0x3040) := by omega
  have hsel : isSelect (0x6040 + 4 * k) = false := by interval_cases k <;> decide
  have hinj : 0x6040 + 4 * k ≠ 0x1300C := by omega
  have hlatch : 0x6040 ≤ 0x6040 + 4 * k ∧ 0x6040 + 4 * k < 0x6080 ∧ (0x6040 + 4 * k) % 4 = 0 := by omega
  have hidx : (0x6040 + 4 * k - 0x6040) / 4 = k := by omega
  rw [regWrite, if_neg (by simp [hs]), if_neg hmbx, if_neg (by simp [hsel]), if_neg hinj, if_pos hlatch, hidx]

/-- The management processor stores a latch that has not been written since the core domain started. -/
theorem latchWrite_first {k : Nat} {v : Word} {s : State} (hk : k < 16) (hnew : s.g.latched.contains k = false) :
    latchWrite 3 k v s = setG (fun g => { g with latched := k :: g.latched }) (setReg (0x6040 + 4 * k) (v &&& 0x3FFF) s) := by
  have hopen : ¬ (3 ≠ 3 ∨ 16 ≤ k ∨ s.g.latched.contains k = true) := by
    simp only [hnew, Bool.false_eq_true, or_false]
    omega
  rw [latchWrite, if_neg hopen]

/-- Settles O31: the register of each row leads `regWrite` to one rule, and an access that is not served to none. -/
theorem registerWrites : Obligations.RegisterWrites := by
  refine ⟨fun t m off v d s hs hmbx hsel hinj hlatch hbob hring hwake hlow hhigh hd => ?_, fun t m v s => ?_,
    fun t k v s hk hs hnew => ?_, fun t m off v s hs => ?_⟩
  · have ho : OrdinaryWrite off := ⟨hmbx, hsel, hinj, hlatch, hbob, hring, hwake⟩
    exact congrArg Host.Outcome.next ((regWrite_whole (s := advance t s) hs ho hd hlow hhigh).trans (plainWrite_of_row hd))
  · -- What `selWrite` stores at each selector is computed from the masks of its row.
    have select {off : Nat} (hs : s.regServed m off = true) (hsel : isSelect off = true) :
        Host.Outcome.next (φ := Fault) (ρ := Refusal) (regWrite m off v (advance t s)) = .next (selWrite off v (advance t s)) :=
      congrArg Host.Outcome.next (regWrite_select (s := advance t s) hs hsel)
    refine ⟨fun hs => select hs rfl, fun hs => select hs rfl, fun hs => select hs rfl, fun hs => select hs rfl,
      fun hs => select hs rfl, fun hs => select hs rfl, fun hs => select hs rfl, fun hs => ?_, fun hs => ?_⟩
    · exact congrArg Host.Outcome.next (regWrite_wake (s := advance t s) hs)
    · exact congrArg Host.Outcome.next (regWrite_inject (s := advance t s) hs)
  · have hrow : exec (.xbrLatchWrite t 3 k v) s = .next (regWrite 3 (0x6040 + 4 * k) v (advance t s)) :=
      congrArg Host.Outcome.next (if_pos hk)
    rw [hrow]
    exact congrArg Host.Outcome.next ((regWrite_latch (s := advance t s) hk hs).trans (latchWrite_first hk hnew))
  · exact congrArg Host.Outcome.next (regWrite_unserved (s := advance t s) hs)

end Sys2Proof.Machine
end

section
/-!
PROOFS. The statement of 04_loom_geometry about the layout commands (R20, R21, R127, R131–R134, R665, R666).
-/
namespace Sys2Proof.Machine

/-! ### The entry of a host command (14_host_interface R449–R454, 18_power_modes R607) -/

section
variable {i : Instr} {c : HostCmd} {info : CmdInfo} {s : State}

/-- An accepted command answers what its body does in the state `taken`. -/
theorem exec_accepted {body : Body} (e : exec i s = .next (hostCommand info i c body s)) (h : s.accepts c info = true) :
    exec i s = .next (body c (s.waiterOf c info) (s.taken c info)) :=
  e.trans (congrArg Host.Outcome.next (hostCommand_accepts i body h))

@[simp] theorem taken_inDormant (s : State) (c : HostCmd) (info : CmdInfo) : (s.taken c info).inDormant = s.inDormant := by
  unfold State.inDormant; rw [taken_m]

@[simp] theorem taken_swapPending (s : State) (c : HostCmd) (info : CmdInfo) (p : ParamSet) :
    (s.taken c info).swapPending p = s.swapPending p := by
  unfold State.swapPending; rw [taken_sched]

section
variable {k : Body} (e : exec i s = .next (hostCommand info i c (fun c w u => refusing u.inDormant w u (k c w u)) s))
  (h : s.accepts c info = true)
include e h

/-- A command that is refused in Dormant ends there with NOT_IN_MODE, before any other check. -/
theorem exec_inDormant (hd : s.inDormant = true) : exec i s = .next (s.ended c info (.of stMode) id) := by
  refine (exec_accepted e h).trans (congrArg Host.Outcome.next ?_)
  rw [refusing, taken_inDormant, if_pos hd]
  rfl

theorem exec_outsideDormant (hd : s.inDormant = false) :
    exec i s = .next (k c (s.waiterOf c info) (s.taken c info)) := by
  refine (exec_accepted e h).trans (congrArg Host.Outcome.next ?_)
  rw [refusing, taken_inDormant, if_neg (by simp [hd])]

end
end

/-- A load that no swap keeps waiting begins to read; with one it is BUSY. -/
theorem startLoad_taken (set : ParamSet) (busy : Bool) (c : HostCmd) (arg : Nat) (info : CmdInfo) (s : State) :
    startLoad set busy c arg (s.waiterOf c info) (s.taken c info) =
      if busy then s.ended c info (.of stBusy) id else s.reads c info set arg := rfl

/-! ### The layout commands' own work -/

section
variable {c : HostCmd} {s : State}

theorem exec_layoutLoad (h : s.accepts c layoutLoadInfo = true) (hd : s.inDormant = false) (hr : layoutRsv c = true)
    (ha : par c 0 8 % 8 = 0) : exec (.layoutLoad c) s =
      .next (if s.swapPending .layout then s.ended c layoutLoadInfo (.of stBusy) id else s.reads c layoutLoadInfo .layout (par c 8 4)) := by
  refine (exec_outsideDormant rfl h hd).trans (congrArg Host.Outcome.next ?_)
  rw [if_neg (by simp [hr]), if_neg (by simp [aligned8, ha]), taken_swapPending, startLoad_taken]

theorem exec_layoutSwap (h : s.accepts c layoutSwapInfo = true) (hd : s.inDormant = false) (hr : layoutRsv c = true)
    (hf : par c 12 1 < 2) : exec (.layoutSwap c) s = .next (requestSwap (par c 16 8) (s.waiterOf c layoutSwapInfo)
      (.layoutSwap (bitOf (par c 12 1) 0)) s.x.loaded true (s.taken c layoutSwapInfo)) := by
  refine (exec_outsideDormant rfl h hd).trans (congrArg Host.Outcome.next ?_)
  rw [if_neg (by simp [hr, hf]), taken_x]

theorem exec_layoutQuery (h : s.accepts c layoutQueryInfo = true) (hd : s.inDormant = false) (hr : layoutRsv c = true)
    (ha : par c 0 8 % 8 = 0) (hl : s.x.active.image.length ≤ par c 8 4) : exec (.layoutQuery c) s =
      .next (s.ended c layoutQueryInfo (.of stOK) (writeHost (par c 0 8) s.x.active.image)) := by
  refine (exec_outsideDormant rfl h hd).trans (congrArg Host.Outcome.next ?_)
  dsimp only
  rw [taken_x, if_neg (by simp [hr, hl]), if_neg (by simp [aligned8, ha])]
  rfl

theorem exec_soundSpeedSet {q : Nat} {late : Bool} (h : s.accepts c soundSpeedSetInfo = true) (hd : s.inDormant = false)
    (hr : layoutRsv c = true) (hlo : 300000 ≤ par c 24 4) (hhi : par c 24 4 ≤ 400000)
    (hq : (s.taken c soundSpeedSetInfo).slotAt (par c 16 8) = some (q, late)) :
    exec (.soundSpeedSet c) s = .next (s.asked c soundSpeedSetInfo q late (.speed (par c 24 4))) := by
  refine (exec_outsideDormant rfl h hd).trans (congrArg Host.Outcome.next ?_)
  dsimp only
  rw [if_neg (by simp [hr, hlo, hhi]), request_free _ _ hq]
  rfl

theorem exec_geomProbe (h : s.accepts c geomProbeInfo = true) (hd : s.inDormant = false) (hz : parZero c 13 3 = true)
    (hz' : parZero c 52 12 = true) (ho : (s.taken c geomProbeInfo).recordOk (probeRecord c) = true) (ha : par c 0 8 % 8 = 0) :
    exec (.geomProbe c) s = .next (s.ended c geomProbeInfo (.of stOK)
      (fun u => writeHost (par c 0 8) (u.probe (applyRecord (probeRecord c) ObjState.reset)) u)) := by
  refine (exec_outsideDormant rfl h hd).trans (congrArg Host.Outcome.next ?_)
  dsimp only
  rw [if_neg (by simp [hz, hz', ho]), if_neg (by simp [aligned8, ha])]
  rfl

end

/-- Settles O19: outside Dormant each command's checks lead to the one operation that carries it out, and LAYOUT_SWAP to the cases of a
swap's request; in Dormant none of the checks is made. -/
theorem layoutCommands : Obligations.LayoutCommands := by
  refine ⟨fun c s h hd hr ha => exec_layoutLoad h hd hr ha, fun c s q late h hd hr hf hq => ?_,
    fun c s h hd hr ha hl => exec_layoutQuery h hd hr ha hl,
    fun c s q late h hd hr hlo hhi hq => exec_soundSpeedSet h hd hr hlo hhi hq,
    fun c s h hd hz hz' ho ha => exec_geomProbe h hd hz hz' ho ha,
    fun c s hd => ⟨fun h => exec_inDormant rfl h hd, fun h => exec_inDormant rfl h hd, fun h => exec_inDormant rfl h hd,
      fun h => exec_inDormant rfl h hd, fun h => exec_inDormant rfl h hd⟩⟩
  have request := exec_layoutSwap h hd hr hf
  refine ⟨fun hempty hready => ?_, fun hcopy => ⟨fun old hold => ⟨fun hpick => ?_, fun hpick hadm => ?_⟩, fun hnone => ?_⟩⟩
  · rw [request, hempty, requestSwap_empty _ _ _ (by simp [hq]) hready]
    rfl
  · rw [request, requestSwap_busy _ _ hq hcopy hold hpick]
    rfl
  · rw [request, requestSwap_supersedes _ _ hq hcopy hold hpick (by rw [Bool.true_and]; exact hadm)]
  · rw [request, requestSwap_first _ _ hq hcopy hnone, Bool.true_and]
    rfl

end Sys2Proof.Machine
end

section
/-!
PROOFS. The statement of 01_architecture about the commit of a load's image (R18, R101, R182, R183, R227, R267, R298, R306, R666).
-/
namespace Sys2Proof.Machine

/-! ### Which load a commit ends, and what follows it (R18, R666) -/

section
variable {n : Nat} {s : State} {l : Load}

theorem imageCommit_noLoad (h : s.h.loads.find? (fun l => decide (l.set = setOfCode n)) = none) : imageCommit n s = s := by
  simp only [imageCommit, h]

/-- The set's code tells which commit ends the load, and which swaps go on after it. -/
theorem imageCommit_load (h : s.h.loads.find? (fun l => decide (l.set = setOfCode n)) = some l) :
    imageCommit n s = match setOfCode n with
      | .layout => settleSwaps .layout (commitLayout l s).x.loaded (commitLayout l s)
      | .route => settleSwaps .route (commitRoutes l s).d.loaded (commitRoutes l s)
      | .reed => settleBankSwap (commitReed l s).2 (commitReed l s).1
      | .fch => commitFch l s
      | .bat k => (commitBatten k l s).1 := by
  simp only [imageCommit, h] <;> rfl

theorem imageCommit_layout (h : s.h.loads.find? (fun l => decide (l.set = .layout)) = some l) :
    imageCommit 0 s = settleSwaps .layout (commitLayout l s).x.loaded (commitLayout l s) := imageCommit_load (n := 0) h

theorem imageCommit_route (h : s.h.loads.find? (fun l => decide (l.set = .route)) = some l) :
    imageCommit 1 s = settleSwaps .route (commitRoutes l s).d.loaded (commitRoutes l s) := imageCommit_load (n := 1) h

theorem imageCommit_reed (h : s.h.loads.find? (fun l => decide (l.set = .reed)) = some l) :
    imageCommit 2 s = settleBankSwap (commitReed l s).2 (commitReed l s).1 := imageCommit_load (n := 2) h

theorem imageCommit_fch (h : s.h.loads.find? (fun l => decide (l.set = .fch)) = some l) : imageCommit 3 s = commitFch l s :=
  imageCommit_load (n := 3) h

theorem imageCommit_bat (h : s.h.loads.find? (fun l => decide (l.set = .bat n)) = some l) :
    imageCommit (n + 4) s = (commitBatten n l s).1 := imageCommit_load (n := n + 4) h

end

/-! ### The program of a logical core (R298, R306) -/

section
variable {n : Nat} {l : Load} {s : State}

theorem commitBatten_fault {e k i : Nat} (h : s.batFault n l.img l.tbl (l.arg % 2 ^ 32) (l.arg / 2 ^ 32) = some (e, k, i)) :
    (commitBatten n l s).1 = endLoad l (.of e (k + i * 2 ^ 16)) s := by
  simp only [commitBatten, h]

theorem commitBatten_sound (h : s.batFault n l.img l.tbl (l.arg % 2 ^ 32) (l.arg / 2 ^ 32) = none) :
    (commitBatten n l s).1 = match loadBatten n (readProg l.img l.tbl) s with
      | none => endLoad l (.of stResource) s
      | some v => endLoad l (.of stOK) v := by
  simp only [commitBatten, h]
  cases loadBatten n (readProg l.img l.tbl) s <;> rfl

end

/-- Settles O28: the set's code leads to the commit of its load, which branches on the fault that the image's check finds. -/
theorem imageLoadCommits : Obligations.ImageLoadCommits := by
  refine ⟨fun t n s hnone => ?_, fun t s l hl => ?_, fun t s l hl => ?_, fun t s l hl => ?_, fun t s l hl => ?_,
    fun t n s l hl => ⟨fun e k i hfault => ?_, fun hsound => ?_⟩⟩
  · exact congrArg Host.Outcome.next (imageCommit_noLoad (s := advance t s) hnone)
  · refine (congrArg Host.Outcome.next (imageCommit_layout (s := advance t s) hl)).trans ?_
    rw [commitLayout, takeLayout]
    cases layoutFault l.img l.arg (advance t s).outputs <;> rfl
  · refine (congrArg Host.Outcome.next (imageCommit_route (s := advance t s) hl)).trans ?_
    rw [commitRoutes, takeRoutes]
    cases (advance t s).routeFault l.img l.arg <;> rfl
  · exact congrArg Host.Outcome.next (imageCommit_reed (s := advance t s) hl)
  · refine (congrArg Host.Outcome.next (imageCommit_fch (s := advance t s) hl)).trans ?_
    rw [commitFch, takeFch]
    cases fchBankFault l.img l.arg <;> rfl
  · exact congrArg Host.Outcome.next ((imageCommit_bat (s := advance t s) hl).trans (commitBatten_fault hfault))
  · exact congrArg Host.Outcome.next ((imageCommit_bat (s := advance t s) hl).trans (commitBatten_sound hsound))

end Sys2Proof.Machine
end

section
/-!
PROOFS. The statement of 17_ledger_recorder and 18_power_modes about the recorder's rows and the control plane's start, trial and stall
(R36, R568–R574, R605, R613, R614).
-/
namespace Sys2Proof.Machine

/-! ### Whether a record can be written at this edge (R570, R573) -/

/-- A record has been written at this edge, or the next one would overwrite one that is not archived: what is posted now is staged. -/
def State.edgeTaken (s : State) : Prop := s.ev.lastEdge = some s.edge ∨ (s.l.mounted = true ∧ s.ramFull = true)

theorem edgeFree_eq_false {s : State} (h : s.edgeTaken) :
    (s.ev.fifo.isEmpty && !(s.ev.lastEdge == some s.edge) && !(s.l.mounted && s.ramFull)) = false := by
  rcases h with hedge | ⟨hmounted, hfull⟩
  · simp [hedge]
  · simp [hmounted, hfull]

theorem edgeFree_eq_true {s : State} (hf : s.ev.fifo = []) (h : ¬ s.edgeTaken) :
    (s.ev.fifo.isEmpty && !(s.ev.lastEdge == some s.edge) && !(s.l.mounted && s.ramFull)) = true := by
  obtain ⟨hedge, hram⟩ := not_or.1 h
  have hroom : (s.l.mounted && s.ramFull) = false := by simpa using hram
  simp [hf, hedge, hroom]

/-! ### Staging (R570, R572) -/

section
variable {r o : EvRec} {f : List EvRec} {s : State}

@[simp] theorem stagedBefore_nil (r : EvRec) : stagedBefore r [] = [] := rfl

/-- A post comes after the whole FIFO where no entry of its instant has a higher source. -/
theorem stagedBefore_eq_self (h : ∀ x ∈ f, x.edge ≠ r.edge ∨ x.source ≤ r.source) : stagedBefore r f = f :=
  List.takeWhile_eq_self_iff.2 fun x hx => by simpa using h x hx

theorem putStaged_room (h : f.length ≤ 16) : putStaged f s = { s with ev := { s.ev with fifo := f } } := by
  simp [putStaged, List.take_of_length_le h, List.drop_of_length_le h]

/-- A seventeenth entry is discarded and counted. -/
theorem putStaged_full (h : f.length = 16) (hr : r.rep = 1) : putStaged (f ++ [r]) s =
    bumpBy 1 0x12014 15 0 { s with ev := { s.ev with
      fifo := f, lost := s.ev.lost + 1, lostFirst := if s.ev.lost = 0 then s.ns else s.ev.lostFirst, lostLast := s.ns } } := by
  simp only [putStaged, List.take_left' h, List.drop_left' h, List.foldl_cons, List.foldl_nil, hr]
  rfl

theorem stageEvent_first (h : s.ev.fifo = []) :
    stageEvent r s = { s with ev := { s.ev with fifo := [{ r with staged := true }] } } := by
  simp only [stageEvent, h, stagedBefore_nil, List.getLast?_nil]
  exact putStaged_room (by simp)

section
variable (ho : s.ev.fifo.getLast? = some o) (hb : stagedBefore r s.ev.fifo = s.ev.fifo)
include ho hb

/-- Behind the last entry: merged into it, or staged after it. -/
theorem stageEvent_behind : stageEvent r s =
    if o.same r = true then { s with ev := { s.ev with fifo := s.ev.fifo.dropLast ++ [o.again s.t.now] } }
    else putStaged (s.ev.fifo ++ [{ r with staged := true }]) s := by
  simp only [stageEvent, hb, List.drop_length, ho]

theorem takePost_behind : takePost r s = stageEvent r s := by
  have hne : stagedBefore r s.ev.fifo ≠ [] := by
    rw [hb]
    intro hnil
    simp [hnil] at ho
  exact if_pos hne

end

/-! ### A post with nothing staged (R570, R571, R573) -/

section
variable (hf : s.ev.fifo = [])
include hf

theorem takePost_repeat (ho : s.openRecord = some o) (hs : o.same r = true) :
    takePost r s = { s with ev := { s.ev with ram := nset s.ev.ram (s.ev.nextSeq - 1) (o.again s.t.now) } } := by
  rw [takePost, if_neg (by simp [hf])]
  simp only [ho, hs, if_true]

/-- With the edge free, a record that repeats none is written at once. -/
theorem takePost_write (hs : ∀ o, s.openRecord = some o → o.same r = false) (hb : ¬ s.edgeTaken) : takePost r s = writeRecord r s := by
  rw [takePost, if_neg (by simp [hf])]
  simp only [edgeFree_eq_true hf hb, if_true]
  cases ho : s.openRecord with
  | none => rfl
  | some o => simp [hs o ho]

section
variable (hb : s.edgeTaken)
include hb

/-- With the edge taken a record that repeats none is staged. -/
theorem takePost_stage (hs : ∀ o, s.openRecord = some o → o.same r = false ∧
    (o.edge ≠ r.edge ∨ o.staged = true ∨ o.source ≤ r.source)) :
    takePost r s = stageEvent r s := by
  rw [takePost, if_neg (by simp [hf])]
  simp only [edgeFree_eq_false hb]
  cases ho : s.openRecord with
  | none => rfl
  | some o =>
    obtain ⟨hsame, hafter⟩ := hs o ho
    have hafter' : ¬ (o.edge = r.edge ∧ o.staged = false ∧ r.source < o.source) := by
      rintro ⟨hedge, hstaged, hsource⟩
      rcases hafter with h | h | h
      · exact h hedge
      · simp [hstaged] at h
      · omega
    simp [hsame, hafter']

/-- Of a lower source than this instant's record it takes that one's place (log 54). -/
theorem takePost_before (ho : s.openRecord = some o) (hs : o.same r = false) (hedge : o.edge = r.edge) (hst : o.staged = false)
    (hsrc : r.source < o.source) : takePost r s = evqWrite (s.ev.nextSeq - 1) r { s with ev := { s.ev with
      fifo := [{ o with staged := true, told := true }], ram := nset s.ev.ram (s.ev.nextSeq - 1) r } } := by
  rw [takePost, if_neg (by simp [hf])]
  simp only [edgeFree_eq_false hb, ho, hs, Bool.false_eq_true, if_false]
  rw [if_pos ⟨hedge, hst, hsrc⟩, postBefore, hf, putStaged_room (by simp)]

end
end

/-- A record whose event is still to be told is written into RAM, and then to EVQ0. -/
theorem writeRecord_untold (h : r.told = false) : writeRecord r s =
    let c := closeRecord s
    let d := if c.ramFull then bump 0x12014 31 16 c else c
    let n := c.ev.nextSeq
    let ram := if 4096 ≤ n then ndel d.ev.ram (n - 4096) else d.ev.ram
    evqWrite n r { d with ev := { d.ev with ram := nset ram n r, nextSeq := n + 1, lastEdge := some d.edge } } := by
  simp only [writeRecord, h, Bool.false_eq_true, if_false]

end

/-! ### The other rows of the recorder (R571–R574) -/

section
variable {r : EvRec} {s : State}

theorem closeTimer_closes (ho : s.openRecord = some r) (hq : r.lastT + secU ≤ s.t.now) : closeTimer s =
    let c : EvRec := { r with closed := true, closedAt := s.t.now }
    let v : State := { s with ev := { s.ev with ram := nset s.ev.ram (s.ev.nextSeq - 1) c } }
    if 1 < r.rep then evqWrite (s.ev.nextSeq - 1) c v else v := by
  simp only [closeTimer, ho, if_pos hq, closeRecord]

/-- The oldest staged record is written; where it was the last one and events were lost, the lost-events record is staged after it. -/
theorem fifoDrain_writes {rest : List EvRec} (hf : s.ev.fifo = r :: rest) (hb : ¬ s.edgeTaken) : fifoDrain s =
    let v := writeRecord r { s with ev := { s.ev with fifo := rest } }
    if rest = [] ∧ v.ev.lost ≠ 0 then { v with ev := { v.ev with fifo := [lostRecord v], lost := 0 } } else v := by
  have hb' : ¬ (s.ev.lastEdge = some s.edge ∨ (s.l.mounted && s.ramFull) = true) := by simpa [State.edgeTaken] using hb
  simp only [fifoDrain, hf, if_neg hb']

section
variable {k : Nat} {rest : List (Nat × EvRec)} (hl : s.toArchive = (k, r) :: rest)
include hl

theorem archiveBatch_due (hu : s.ledgerUp = true) (hd : 16 ≤ s.toArchive.length ∨ r.closedAt + secU ≤ s.t.now) :
    archiveBatch s = queueBatch (s.toArchive.take 16) none s := by
  rw [hl] at hd ⊢
  simp only [archiveBatch, hl, hu]
  rw [if_pos (by simpa using hd)]

theorem archiveBatch_early (hn : s.toArchive.length < 16) (ht : s.t.now < r.closedAt + secU) : archiveBatch s = s := by
  rw [hl] at hn
  simp only [archiveBatch, hl]
  rw [if_neg (by simp at hn ⊢; omega)]

end
end

/-! ### The control plane (R568, R569, R605, R613, R614) -/

section
variable {s : State}

section
variable (hc : s.m.cpRun = true) (hu : s.coreUp = true)
include hc hu

theorem fwReadyRise_again (hr : s.m.fwReady = true) : fwReadyRise s = acceptHeld s.h.holdQ s := by
  rw [fwReadyRise, if_neg (by simp [hc, hu]), if_pos hr]

/-- Firmware that comes up in Maintain with no mode asked for stops again. -/
theorem fwReadyRise_stops (hr : s.m.fwReady = false) (hm : s.m.mode = .maintain) (ha : s.m.afterReady = none) :
    fwReadyRise s = { s with m := { s.m with cpRun := false } } := by
  rw [fwReadyRise, if_neg (by simp [hc, hu]), if_neg (by simp [hr]), if_pos ⟨hm, by simp [ha]⟩]
  rfl

theorem fwReadyRise_serves (hr : s.m.fwReady = false) (hm : s.m.mode ≠ .maintain ∨ s.m.afterReady.isSome = true) : fwReadyRise s =
    let v : State := { s with m := { s.m with fwReady := true, readyAt := some s.t.now, maint := false } }
    let v2 : State := if s.m.maint then { v with o := { v.o with freezeEnd := v.m.pick } } else v
    let v3 := if v2.t.ptpState = 0 then restartPtp .master v2 else v2
    acceptHeld v3.h.holdQ (leaveMaintain v3) := by
  have hm' : ¬ (s.m.mode = .maintain ∧ s.m.afterReady.isNone = true) := by
    rintro ⟨hmode, hnone⟩
    rcases hm with h | h
    · exact h hmode
    · simp [Option.isNone_iff_eq_none.1 hnone] at h
  rw [fwReadyRise, if_neg (by simp [hc, hu]), if_neg (by simp [hr]), if_neg hm']
  rfl

end

/-- The mode asked for is entered at its pick, or at the first one that can still be planned. -/
theorem leaveMaintain_schedules {r : ModeReq} (ha : s.m.afterReady = some r) (hs : s.m.start = false) (ht : r.target ≠ .maintain) :
    leaveMaintain s =
      let w : State := { s with m := { s.m with afterReady := none } }
      let q := max r.pick w.planned.nextPick
      pushSched q (decide (r.pick < q)) none (.mode r) { w with m := { w.m with transPick := some q } } := by
  have hs' : ¬ (setM (fun m => { m with afterReady := none }) s).m.start = true := by simp [hs]
  simp only [leaveMaintain, ha]
  rw [if_neg hs', if_neg ht]
  rfl

theorem trialConfirm_confirms {since : Nat} (ht : s.m.trial = true) (hr : s.m.fwReady = true) (ha : s.m.readyAt = some since)
    (hn : since + 60 * secU ≤ s.t.now) (hq : ∀ f, s.m.lastFault = some f → f < since ∨ f + 60 * secU ≤ s.t.now) : trialConfirm s =
      let v := writeBoot { s.boot with active := s.m.slot, trial := 0xFF } s
      post 0x0B12 0 [] { v with l := { v.l with otpRaised := max v.l.otpRaised (getLE (v.slotImage v.m.slot) 8 4) },
                                m := { v.m with trial := false } } := by
  simp only [trialConfirm, ha, Option.getD_some]
  rw [if_pos]
  · generalize writeBoot _ s = v
    rfl
  · refine ⟨ht, hr, hn, ?_⟩
    cases hl : s.m.lastFault with
    | none => rfl
    | some f => exact decide_eq_true (hq f hl)

/-- The trial image having been tried, ACTIVE boots with 0x0B11 (R568). -/
theorem bootSelect_trialFailed (hs : s.p.straps % 4 = 0) (ht : s.boot.trial < 2) (ha : s.boot.attempted ≠ 0)
    (hb : s.bootable s.boot.active = true) : bootSelect s =
      bootImage s.boot.active false (post 0x0B11 0 [] (writeBoot { s.boot with trial := 0xFF }
        (setP (fun p => { p with fwOpen := false, fwNext := 0, fwVerified := false, fwData := [] }) s))) := by
  rw [bootSelect]
  dsimp only
  rw [if_neg (by simp [hs]), if_neg (by simp [hs]), if_neg (by simp [ha]), if_pos ⟨ht, ha, hb⟩]

theorem trialFail_boots (h : s.m.trial = true) (hu : s.coreUp = true) :
    trialFail s = bootSelect { s with m := { s.m with fwReady := false } } := if_pos ⟨h, hu⟩

theorem exec_controlStall (t : Nat) (hu : s.coreUp = true) (hc : s.m.cpRun = true) :
    exec (.controlStall t) s = .next (post (0x0900 + Config.controlStallLow.toNat) 0 [] (advance t s)) :=
  congrArg Host.Outcome.next (if_pos ⟨hu, hc⟩)

end

/-- Settles O59: EVENT_POST is `takePost` once a record 1 s old is closed, and each of its cases is one of `takePost`; every other row is
its function in the state to which device time has run on. -/
theorem recorderAndBootRows : Obligations.RecorderAndBootRows := by
  refine ⟨fun t code src args s => ?_, fun t r s ho hq => ?_, fun t r rest s hf hedge hram => ?_,
    fun t k r rest s hl hu => ⟨fun hd => ?_, fun hn ht => ?_⟩,
    fun t s hc hu => ⟨fun hr => ?_, fun hr hm ha => ?_, fun hr hm => ⟨?_, fun r ha hs ht => ?_⟩⟩,
    fun t since s ht hr ha hn hq => ?_, fun t s ht hu => ?_, fun t s hu hc => exec_controlStall t hu hc⟩
  · have taken : exec (.eventPost t code src args) s =
        .next (takePost (newRecord (code % 65536) src args (closeTimer (advance t s))) (closeTimer (advance t s))) := rfl
    refine ⟨fun o hf ho hs => ?_, fun hf hs hb => ?_, fun hf hs hb => ?_, fun o hf ho hs hb hedge hst hsrc => ?_, fun o ho hb => ?_⟩
    · rw [taken, takePost_repeat hf ho hs]
      rfl
    · rw [taken, takePost_write hf hs hb, writeRecord_untold rfl]
    · rw [taken, takePost_stage hf hb hs, stageEvent_first hf]
    · rw [taken, takePost_before hf hb ho hs hedge hst hsrc]
    · have hall := stagedBefore_eq_self hb
      rw [taken, takePost_behind ho hall, stageEvent_behind ho hall]
      refine ⟨fun hs => ?_, fun hs hroom => ?_, fun hs hfull => ?_⟩
      · rw [if_pos hs]
        rfl
      · rw [if_neg (by simp [hs]), putStaged_room (by simp; omega)]
      · rw [if_neg (by simp [hs]), putStaged_full hfull rfl]
  · exact congrArg Host.Outcome.next (closeTimer_closes (s := advance t s) ho hq)
  · have hb : ¬ (advance t s).edgeTaken := by
      rintro (h | ⟨hm, hfull⟩)
      · exact hedge h
      · rcases hram with h | h
        · exact absurd (hm.symm.trans h) (by decide)
        · exact absurd (hfull.symm.trans h) (by decide)
    have drained := congrArg (Host.Outcome.next (φ := Fault) (ρ := Refusal)) (fifoDrain_writes (s := advance t s) hf hb)
    refine ⟨fun hdone => drained.trans (congrArg Host.Outcome.next (if_neg fun ⟨hnil, hlost⟩ => ?_)),
      fun hnil hlost => ⟨drained.trans (congrArg Host.Outcome.next (if_pos ⟨hnil, hlost⟩)), rfl, rfl⟩⟩
    exact hdone.elim (fun h => h hnil) hlost
  · exact congrArg Host.Outcome.next (archiveBatch_due (s := advance t s) hl hu hd)
  · exact congrArg Host.Outcome.next (archiveBatch_early (s := advance t s) hl hn ht)
  · exact congrArg Host.Outcome.next (fwReadyRise_again (s := advance t s) hc hu hr)
  · exact congrArg Host.Outcome.next (fwReadyRise_stops (s := advance t s) hc hu hr hm ha)
  · exact congrArg Host.Outcome.next (fwReadyRise_serves (s := advance t s) hc hu hr hm)
  · exact leaveMaintain_schedules ha hs ht
  · exact congrArg Host.Outcome.next (trialConfirm_confirms (s := advance t s) ht hr ha hn hq)
  · intro v hs htr hatt hb
    refine congrArg Host.Outcome.next ((trialFail_boots (s := advance t s) ht hu).trans ?_)
    exact bootSelect_trialFailed (s := { advance t s with m := { s.m with fwReady := false } }) hs htr hatt hb

end Sys2Proof.Machine
end

section
/-!
PROOFS. The statement of 02_pick_budget about the engines' work on a pick, the pick-start mark and the voltage loop (R26, R40, R42, R44, R51–R53,
R56, R58, R590).
-/
namespace Sys2Proof.Machine

/-! ### An engine's work on its pick (R26, R40, R44, R52) -/

section
variable {e : Nat} {s : State}

section
variable (hd : s.m.dpRun = true) (hn : s.neededEngines.contains e = true) (hf : s.fed e = true) (hu : (s.use e).finished = false)
include hd hn

theorem works_of_needed : s.works e = true := by rw [State.works, hd, hn]; rfl

include hf hu

theorem engineStart_starts (pdm : List (List Nat)) (errs : List EccError) : engineStart e pdm errs s =
    let u : State := { s with b := { s.b with cur := lset s.b.cur e { s.use e with started := true } } }
    let v := (inLogOrder errs).foldl (engineError e) u
    if e = 5 then fchBlock pdm v else v :=
  if_pos ⟨works_of_needed hd hn, hf, by simp [hu]⟩

theorem engineFinish_inTime (steps : Nat) (hc : s.canFinish e = true) (ht : s.t.now ≤ s.pickAt (s.m.pick + 1)) : engineFinish e steps s =
    let v := engineResult e s
    let r : EngineUse := { started := true, finished := true, used := satN 0xFFFFFFFF (s.stepsUsed e steps),
                           fin := satN 0xFFFE (v.pickPart (v.t.now - v.pickAt v.m.pick)), at_ := v.t.now }
    { v with b := { v.b with cur := lset v.b.cur e r } } :=
  if_pos ⟨works_of_needed hd hn, hf, by simp [hu], hc, ht⟩

end

/-- Past its deadline an engine's finish does nothing. -/
theorem engineFinish_late (steps : Nat) (ht : s.pickAt (s.m.pick + 1) < s.t.now) : engineFinish e steps s = s :=
  if_neg fun ⟨_, _, _, _, hin⟩ => Nat.not_le_of_lt ht hin

end

/-! ### The pick-start mark and an overrun (R42, R56–R60) -/

section
variable {s : State}

theorem pickMark_due (haq : List HaqRead) (hd : s.m.dpRun = true) (ht : s.pickAt (s.m.pick + 1) ≤ s.t.now) : pickMark haq s =
    let p := s.m.pick + 1
    let v1 := netTransmit p (turnBuffers (endPick p (s.pickAt p) s))
    let v2 := bobPickMark ((List.range 4).foldl (fun st k => gateSwapDue p k st) v1)
    beginPick haq p (handover p (sendFrame (p - 1) (if v2.w.en = true ∧ v2.w.role = 1 then v2.closedSet p else []) v2)) :=
  if_pos ⟨hd, ht⟩

theorem pickMark_early (haq : List HaqRead) (h : s.m.dpRun = false ∨ s.t.now < s.pickAt (s.m.pick + 1)) : pickMark haq s = s := by
  refine if_neg fun ⟨hd, ht⟩ => ?_
  rcases h with h | h
  · exact absurd (hd.symm.trans h) (by decide)
  · exact Nat.not_le_of_lt h ht

/-- The state in which an overrun has been counted and told, the core voltage at its highest (R58). -/
def overrunTold (cause b : Nat) (s : State) : State :=
  let x : State := { s with b := { s.b with cause := cause, overruns := satN 0xFFFFFFFF (s.b.overruns + 1), lastOverrun := some b } }
  let y := setCnt (fun c => { c with overruns := satN 0xFFFFFFFF (c.overruns + 1) }) (bump 0x110 15 0 x)
  post 0x0120 0 (leBytes 1 cause ++ leBytes 8 s.m.pick) { y with p := { y.p with vset := 800, holdSince := some b } }

/-- The deadlines of the overruns of the last second: the third one calls for a shedding step (R59). -/
theorem countOverrun_eq (cause b : Nat) (s : State) : countOverrun cause b s =
    let z := overrunTold cause b s
    let recent := z.b.counted.filter (fun d => decide (b ≤ d + secU)) ++ [b]
    if 3 ≤ recent.length then { z with b := { z.b with counted := [], due := some z.m.pick } }
    else { z with b := { z.b with counted := recent } } := rfl

end

/-! ### The voltage loop (R53, R58, R590) -/

/-- The state in which the window of the voltage loop begins anew. -/
def newWindow (s : State) : State := { s with b := { s.b with winMin := 0xFFFF, winCount := 0 } }

section
variable {s : State}

theorem avsWindow_open (h : s.b.winCount < 16) : avsWindow s = s := if_pos h

section
variable (h : 16 ≤ s.b.winCount)
include h

/-- With the loop off, a hold or the data plane stopped the voltage stays. -/
theorem avsWindow_held (hh : s.p.avs ≠ .loop ∨ s.p.holdSince.isSome = true ∨ s.m.dpRun = false) : avsWindow s = newWindow s := by
  rw [avsWindow, if_neg (Nat.not_lt.2 h)]
  exact if_pos (by simpa [setB] using hh)

/-- The window's least slack moves the voltage one step, or leaves it. -/
theorem avsWindow_moves (ha : s.p.avs = .loop) (hh : s.p.holdSince = none) (hd : s.m.dpRun = true) : avsWindow s =
    if s.b.winMin < s.b.target * 65536 / 100 then { newWindow s with p := { s.p with vset := clampN 650 800 (s.p.vset + 5) } }
    else if (s.b.target + 5) * 65536 / 100 < s.b.winMin then { newWindow s with p := { s.p with vset := clampN 650 800 (s.p.vset - 5) } }
    else newWindow s := by
  rw [avsWindow, if_neg (Nat.not_lt.2 h)]
  exact if_neg (by simp [setB, ha, hh, hd])

end

section
variable {h : Nat} (hs : s.p.holdSince = some h)
include hs

theorem vcoreHoldEnd_early (ht : s.t.now < h + secU) : vcoreHoldEnd s = s := by
  simp only [vcoreHoldEnd, hs]
  exact if_neg (Nat.not_le_of_lt ht)

theorem vcoreHoldEnd_ends (ht : h + secU ≤ s.t.now) : vcoreHoldEnd s = { newWindow s with p := { s.p with
    holdSince := none, vset := match s.p.avs with | .fixed v => v | .loop => s.p.vset } } := by
  simp only [vcoreHoldEnd, hs]
  rw [if_pos ht]
  rfl

end
end

/-- Settles O60: each row is its function in the state to which device time has run on, in the case that its guard names. -/
theorem pickRows : Obligations.PickRows := by
  refine ⟨fun t e pdm errs s hd hn hf hu => ?_, fun t e steps s hd hn hf hu hc => ⟨fun ht => ?_, fun ht => ?_⟩,
    fun t haq s => ⟨fun hd ht => ?_, fun h => ?_⟩, fun s cause b => ⟨rfl, fun h => ?_, fun h => ?_⟩,
    fun t s => ⟨fun h => ?_, fun h hh => ?_, fun h ha hh hd => ?_⟩, fun t h s hs => ⟨fun ht => ?_, fun ht => ?_⟩⟩
  · exact congrArg Host.Outcome.next (engineStart_starts (s := advance t s) hd hn hf hu pdm errs)
  · exact congrArg Host.Outcome.next (engineFinish_inTime (s := advance t s) hd hn hf hu steps hc ht)
  · exact congrArg Host.Outcome.next (engineFinish_late (s := advance t s) steps ht)
  · exact congrArg Host.Outcome.next (pickMark_due (s := advance t s) haq hd ht)
  · exact congrArg Host.Outcome.next (pickMark_early (s := advance t s) haq h)
  · exact (countOverrun_eq cause b s).trans (if_neg (Nat.not_le_of_lt h))
  · exact (countOverrun_eq cause b s).trans (if_pos h)
  · exact congrArg Host.Outcome.next (avsWindow_open (s := advance t s) h)
  · exact congrArg Host.Outcome.next (avsWindow_held (s := advance t s) h hh)
  · exact congrArg Host.Outcome.next (avsWindow_moves (s := advance t s) h ha hh hd)
  · exact congrArg Host.Outcome.next (vcoreHoldEnd_early (s := advance t s) hs ht)
  · exact congrArg Host.Outcome.next (vcoreHoldEnd_ends (s := advance t s) hs ht)

end Sys2Proof.Machine
end

section
/-!
PROOFS. The statement of 02_pick_budget about the budget commands and the shedding steps (R47, R48, R59, R61, R62, R65).
-/
namespace Sys2Proof.Machine

/-! ### The budget commands' own work (R47, R48, R61, R65) -/

section
variable {c : HostCmd} {s : State}

@[simp] theorem taken_dataMode (s : State) (c : HostCmd) (info : CmdInfo) : (s.taken c info).dataMode = s.dataMode := by
  unfold State.dataMode; rw [taken_m]

/-- A change that a taken command asks for is put on the list, or ends with REJECTED_BUDGET. -/
theorem request_taken {info : CmdInfo} {p q : Nat} {late : Bool} (chg : Change) (h : (s.taken c info).slotAt p = some (q, late)) :
    request p (s.waiterOf c info) chg true (s.taken c info) = s.admitted c info q late chg :=
  request_admitted _ _ h

theorem exec_budgetQuery (h : s.accepts c budgetQueryInfo = true) (hz : parZero c 8 56 = true) (ha : par c 0 8 % 8 = 0) :
    exec (.budgetQuery c) s = .next (s.ended c budgetQueryInfo (.of stOK)
      (fun u => { writeHost (par c 0 8) u.budgetReport u with b := { u.b with qMin := 0xFFFF } })) := by
  refine (exec_accepted (body := budgetQueryBody) rfl h).trans (congrArg Host.Outcome.next ?_)
  rw [budgetQueryBody, if_neg (by simp [hz]), if_neg (by simp [aligned8, ha])]
  rfl

section
variable (h : s.accepts c budgetSetInfo = true) (hz : parZero c 4 4 = true) (hz' : parZero c 16 48 = true)
include h hz hz'

/-- With no APPLY bit nothing is checked but the reserved bytes, and nothing changes. -/
theorem exec_budgetSet_nothing (ha : par c 1 1 = 0) : exec (.budgetSet c) s = .next (s.ended c budgetSetInfo (.of stOK) id) := by
  refine (exec_accepted (body := budgetSetBody) rfl h).trans (congrArg Host.Outcome.next ?_)
  dsimp only [budgetSetBody]
  rw [ha, if_neg (by simp [hz, hz', bitOf]), if_pos rfl]
  rfl

theorem exec_budgetSet_applies {q : Nat} {late : Bool} (hlo : 0 < par c 1 1) (hhi : par c 1 1 < 4)
    (htgt : bitOf (par c 1 1) 0 = true → 10 ≤ par c 0 1 ∧ par c 0 1 ≤ 50) (hx : bitOf (par c 1 1) 1 = true → par c 2 2 ≤ 512)
    (hq : (s.taken c budgetSetInfo).slotAt (par c 8 8) = some (q, late)) :
    exec (.budgetSet c) s = .next (s.admitted c budgetSetInfo q late (.budget
      (if bitOf (par c 1 1) 0 then some (par c 0 1) else none) (if bitOf (par c 1 1) 1 then some (par c 2 2) else none))) := by
  have hfields : ¬ ((bitOf (par c 1 1) 0 = true ∧ (par c 0 1 < 10 ∨ 50 < par c 0 1)) ∨ (bitOf (par c 1 1) 1 = true ∧ 512 < par c 2 2)) := by
    rintro (⟨hbit, hout⟩ | ⟨hbit, hout⟩)
    · have := htgt hbit
      omega
    · exact Nat.not_lt.2 (hx hbit) hout
  refine (exec_accepted (body := budgetSetBody) rfl h).trans (congrArg Host.Outcome.next ?_)
  dsimp only [budgetSetBody]
  rw [if_neg (by simpa only [hz, hz', not_true, false_or, Nat.not_le.2 hhi] using hfields), if_neg (by omega), request_taken _ hq]

end

section
variable (h : s.accepts c budgetRestoreInfo = true) (hz : parZero c 4 4 = true) (hz' : parZero c 16 48 = true)
include h hz hz'

theorem exec_budgetRestore_inPass (hp : s.dataMode = .pass) (hd : s.m.dpRun = true) :
    exec (.budgetRestore c) s = .next (s.ended c budgetRestoreInfo (.of stMode) id) := by
  refine (exec_accepted (body := budgetRestoreBody) rfl h).trans (congrArg Host.Outcome.next ?_)
  rw [budgetRestoreBody, if_neg (by simp [hz, hz']), if_pos (by simp [hp, hd])]
  rfl

section
variable (hm : s.dataMode = .pass → s.m.dpRun = false)
include hm

theorem exec_budgetRestore_unshed (hs : s.b.shed = 0) :
    exec (.budgetRestore c) s = .next (s.ended c budgetRestoreInfo (.of stOK) id) := by
  refine (exec_accepted (body := budgetRestoreBody) rfl h).trans (congrArg Host.Outcome.next ?_)
  rw [budgetRestoreBody, if_neg (by simp [hz, hz']), if_neg (by simpa using hm), if_pos (by simpa using hs)]
  rfl

theorem exec_budgetRestore_shed {q : Nat} {late : Bool} (hs : s.b.shed ≠ 0)
    (hq : (s.taken c budgetRestoreInfo).slotAt (par c 8 8) = some (q, late)) :
    exec (.budgetRestore c) s = .next (s.admitted c budgetRestoreInfo q late .restore) := by
  refine (exec_accepted (body := budgetRestoreBody) rfl h).trans (congrArg Host.Outcome.next ?_)
  rw [budgetRestoreBody, if_neg (by simp [hz, hz']), if_neg (by simpa using hm), if_neg (by simpa using hs), request_taken _ hq]

end
end
end

/-! ### Shedding steps (R59, R62) -/

section
variable {q : Nat} {f : State → State} {s : State}

/-- With four steps in force or due, or in Pass, there is no further step. -/
theorem callShed_exhausted (h : 4 ≤ s.shedAhead ∨ s.dataMode = .pass) : callShed q f s = f s := if_pos h

/-- The fourth step, which enters Pass, takes precedence over the MODE_SETs from its pick on. -/
theorem callShed_next (h : s.shedAhead < 4) (hp : s.dataMode ≠ .pass) : callShed q f s =
    pushSched q false none (.shed (s.shedAhead + 1)) (if s.shedAhead = 3 then passPrecedes q s else s) := by
  have hfurther : ¬ (4 ≤ s.shedAhead ∨ s.dataMode = .pass) := not_or.2 ⟨Nat.not_le.2 h, hp⟩
  simp only [callShed, if_neg hfurther, Nat.reduceEqDiff]

/-- The step that an overrun at pick `p` called for is called at pick `p + 2`. -/
theorem sheddingStep_due {p : Nat} (h : s.b.due = some p) :
    sheddingStep s = callShed (p + 2) (post 0x0123 0 []) { s with b := { s.b with due := none } } := by
  simp only [sheddingStep, h]
  rfl

end

/-- Settles O16: each command's checks lead to its one operation, a change that goes through admission; the step due goes on the list
while a further one is left. -/
theorem budgetCommands : Obligations.BudgetCommands := by
  refine ⟨fun c s h hz ha => exec_budgetQuery h hz ha,
    fun c s q late h hz hz' => ⟨fun ha => exec_budgetSet_nothing h hz hz' ha,
      fun hlo hhi htgt hx hq => exec_budgetSet_applies h hz hz' hlo hhi htgt hx hq⟩,
    fun c s q late h hz hz' => ⟨fun hp hd => exec_budgetRestore_inPass h hz hz' hp hd,
      fun hm => ⟨fun hs => exec_budgetRestore_unshed h hz hz' hm hs, fun hs hq => exec_budgetRestore_shed h hz hz' hm hs hq⟩⟩,
    fun t p s hdue => ?_⟩
  have called := congrArg (Host.Outcome.next (φ := Fault) (ρ := Refusal)) (sheddingStep_due (s := advance t s) hdue)
  exact ⟨fun h => called.trans (congrArg Host.Outcome.next (callShed_exhausted h)),
    fun h hp => called.trans (congrArg Host.Outcome.next (callShed_next h hp))⟩

end Sys2Proof.Machine
end

section
/-!
PROOFS. The statement of 12_media_network about the rows of the media ports (R41, R372, R373, R377, R379–R383, R389–R391, R534).
-/
namespace Sys2Proof.Machine

/-! ### Received frames (R41, R372, R373, R377) -/

theorem sortFrame_runt {f : List Byte} (n : Nat) (h : f.length ≤ 63) : sortFrame n f = .runt := if_pos h

/-- A frame of a length between the limits is sorted by its frame check sequence. -/
theorem sortFrame_whole {n : Nat} {f : List Byte} (hlo : 63 < f.length) (hhi : f.length ≤ n) :
    sortFrame n f = if fcsGood f then .good else .badFcs := by
  rw [sortFrame, if_neg (Nat.not_le.2 hlo), if_neg (Nat.not_lt.2 hhi)]

section
variable {p : Nat} {f : List Byte} {s : State} (hp : p < 4) (he : (s.mac p).cfg.en = true) (hl : (s.mac p).link = true)
include hp he hl

theorem receiveGuard_false : ¬ ((¬ (s.mac p).cfg.en = true) ∨ 4 ≤ p ∨ ¬ (s.mac p).link = true) := by
  simp [he, hl, Nat.not_le.2 hp]

theorem mediaFrameRx_full (hq : 4096 ≤ s.rxFifo p) :
    mediaFrameRx p f s = setMac p { s.mac p with fifoDrops := (s.mac p).fifoDrops + 1 } s := by
  rw [mediaFrameRx, if_neg (receiveGuard_false hp he hl), if_pos hq]

section
variable (hq : s.rxFifo p < 4096)
include hq

theorem mediaFrameRx_runt (hf : f.length ≤ 63) : mediaFrameRx p f s = bump (0xD030 + 4 * p) 7 0 s := by
  simp only [mediaFrameRx, if_neg (receiveGuard_false hp he hl), if_neg (Nat.not_le.2 hq), sortFrame_runt _ hf]

section
variable (hlo : 63 < f.length) (hhi : f.length ≤ maxfBytes (s.mac p).cfg.maxf)
include hlo hhi

theorem mediaFrameRx_badFcs (hf : fcsGood f = false) : mediaFrameRx p f s = bump (0xD030 + 4 * p) 15 8 s := by
  simp only [mediaFrameRx, if_neg (receiveGuard_false hp he hl), if_neg (Nat.not_le.2 hq), sortFrame_whole hlo hhi, hf, Bool.false_eq_true,
    if_false]

section
variable (hf : fcsGood f = true)
include hf

theorem mediaFrameRx_filtered (ha : filterAccepts (s.mac p).cfg.addr (s.mediaGroups p) (s.mac p).cfg.promisc f = false) :
    mediaFrameRx p f s = bump (0xD040 + 4 * p) 31 0 s := by
  simp only [mediaFrameRx, if_neg (receiveGuard_false hp he hl), if_neg (Nat.not_le.2 hq), sortFrame_whole hlo hhi, hf, ha, Bool.false_eq_true,
    if_false, if_true]

/-- A frame for a receive stream is counted, and waits with the time it arrived at the board's connector. -/
theorem mediaFrameRx_stream (ha : filterAccepts (s.mac p).cfg.addr (s.mediaGroups p) (s.mac p).cfg.promisc f = true) {k : Nat}
    {pay : List Byte} (hk : s.streamFor p f = some (k, pay)) :
    mediaFrameRx p f s =
      let v := bump (0xD020 + 4 * p) 31 0 s
      let x : RtpIn := { port := p, len := f.length, stream := k, at_ := v.stampIn p s.t.now, pay := pay }
      setN (fun n => { n with rtpQ := n.rtpQ ++ [x] }) v := by
  have hk' : (bump (0xD020 + 4 * p) 31 0 s).streamFor p f = some (k, pay) := hk
  simp only [mediaFrameRx, if_neg (receiveGuard_false hp he hl), if_neg (Nat.not_le.2 hq), sortFrame_whole hlo hhi, hf, ha, hk',
    Bool.false_eq_true, if_false, if_true]
  rfl

end
end
end
end

/-! ### Received packets and the claims they bear (R383, R390, R391; 16_twin R534) -/

theorem nextRtp_first {x : RtpIn} {r : List RtpIn} {s : State} (h : s.n.rtpQ = x :: r) :
    nextRtp s = rtpPacket x.stream x.at_ x.pay (setN (fun n => { n with rtpQ := r }) s) := by
  simp only [nextRtp, h]

/-- A packet whose version, padding, sources, length, payload type or source is not the stream's own only counts as malformed. -/
theorem rtpPacket_malformed {k arrival : Nat} {b : List Byte} {s : State} (hk : k < 256) (he : (s.strm k).en = true)
    (hb : byteAt b 0 / 64 ≠ 2 ∨ bitOf (byteAt b 0) 5 = true ∨ byteAt b 0 % 16 ≠ 0 ∨
      (rtpPayload b).length ≠ 3 * (s.strm k).nch * (s.strm k).ptime ∨ byteAt b 1 % 128 ≠ (s.strm k).pt ∨
      ((s.strm k).ssrc ≠ 0 ∧ getBE b 8 4 ≠ (s.strm k).ssrc)) :
    rtpPacket k arrival b s = setStrm k { s.sstat k with malformed := satN 0xFFFF ((s.sstat k).malformed + 1) } s := by
  rw [rtpPacket, if_neg (by simp [he, Nat.not_le.2 hk]), if_pos hb]

theorem claimExpiry_expires {k : Nat} {s : State} (he : (s.sstat k).eligible = true)
    (ht : (s.sstat k).lastAt + 4 * s.t.pickLen * 65536 * 1000000000 / s.fs ≤ s.t.now) :
    claimExpiry k s = setStrm k { s.sstat k with eligible := false } s := if_pos ⟨he, ht⟩

/-! ### Links and gates (R379, R380) -/

section
variable {p : Nat} {s : State}

theorem mediaLink_changes {up : Bool} (hp : p < 4) (he : (s.mac p).cfg.en = true) (hl : (s.mac p).link ≠ up) :
    mediaLink p up s = setLink p up s := if_pos ⟨hp, he, hl⟩

@[simp] theorem dropQueues_t (p : Nat) (s : State) : (dropQueues p s).t = s.t := rfl

/-- With the configured time port goes the time, where a backup port is enabled. -/
theorem setLink_down : setLink p false s =
    let u := dropQueues p s
    let v := if p = s.t.cfgPort then setT (fun t => { t with portUpSince := none }) u else u
    let x := if p = s.t.ptpPort ∧ p = s.t.cfgPort ∧ s.t.backupEn = true ∧ s.t.backup ≠ p
      then post 0x0208 0 [] (setT (fun t => { t with ptpPort := t.backup }) v) else v
    post 0x0402 p [] (setMac p { x.mac p with link := false } x) := by
  by_cases hc : p = s.t.cfgPort
  · simp [setLink, ← hc]
  · simp [setLink, hc]

theorem setLink_up : setLink p true s =
    let v := if p = s.t.cfgPort then setT (fun k => { k with portUpSince := some k.now }) s else s
    post 0x0401 p [] (setMac p { v.mac p with link := true } v) := by
  simp [setLink]

theorem gateEntry_shows (hp : p < 4) : gateEntry p s = setMac p { s.mac p with
    entry := (entryAt (s.mac p).gates.ents (gatePlace s.fs s.t.pickLen (s.mac p).gates.cycle s.t.now).2 0 0).1 } s :=
  if_neg (Nat.not_le.2 hp)

end

/-! ### Transmission (R381, R389) -/

section
variable {p k n : Nat} {f : TxFrame} {r : List TxFrame} {s : State}

/-- Nothing is discarded as too late where the stream class's first packet, if it has one, is in time. -/
theorem dropLate_inTime (n : Nat) (h : ∀ f r, (s.mac p).streamQ = f :: r → s.isLate f = false) : dropLate p n s = s := by
  cases n with
  | zero => rfl
  | succ n =>
    rw [dropLate]
    cases hq : (s.mac p).streamQ with
    | nil => rfl
    | cons f r => simp [h f r hq]

/-- A late packet at the front is discarded, counted and told, and the one behind it is judged next. -/
theorem dropLate_late (hq : (s.mac p).streamQ = f :: r) (hk : f.stream = some k) (hl : s.pickAt (f.queued + 1) < s.t.now) :
    dropLate p (n + 1) s =
      let u := setMac p { s.mac p with streamQ := r } s
      dropLate p n (post 0x0407 p [] (setStrm k { u.sstat k with late := satN 0xFFFF ((u.sstat k).late + 1) } u)) := by
  have hlate : s.isLate f = true := by simp [State.isLate, hk, hl]
  simp only [dropLate, hq, hk, if_pos hlate]

/-- Nothing is discarded as too long where some window of the gate list holds the class's first frame, if it has one. -/
theorem dropLong_fits {b : Bool} (n : Nat) (h : ∀ f r, (s.mac p).queue b = f :: r → s.txChoice p b f ≠ .drop) : dropLong p b n s = s := by
  cases n with
  | zero => rfl
  | succ n =>
    rw [dropLong]
    cases hq : (s.mac p).queue b with
    | nil => rfl
    | cons f r => exact if_neg (h f r hq)

theorem tryClass_sends {b : Bool} (hq : (s.mac p).queue b = f :: r) (hc : s.txChoice p b f = .send) :
    tryClass p b s = (true, startFrame p f (setMac p ((s.mac p).withQueue b r) s)) := by
  simp only [tryClass, hq, if_pos hc]

theorem tryClass_empty {b : Bool} (hq : (s.mac p).queue b = []) : tryClass p b s = (false, s) := by
  simp only [tryClass, hq]

/-- The state in which a port has counted the frame that it starts, and is busy until the frame's end. -/
def frameOut (p : Nat) (f : TxFrame) (s : State) : State :=
  let x := bump (0xD050 + 4 * p) 31 0 s
  setMac p { x.mac p with busyTo := s.t.now + txTime (x.mac p).cfg.speed25 f.len, last := f.bytes } x

theorem startFrame_stream (hk : f.stream = some k) : startFrame p f s =
    let v := frameOut p f s
    setStrm k { v.sstat k with packets := satN 0xFFFFFFFF ((v.sstat k).packets + 1) } v := by
  simp only [startFrame, hk]
  rfl

theorem startFrame_other (hk : f.stream = none) : startFrame p f s = frameOut p f s := by
  simp only [startFrame, hk]
  rfl

section
variable (he : (s.mac p).cfg.en = true) (hl : (s.mac p).link = true) (hb : (s.mac p).busyTo ≤ s.t.now)
include he hl hb

/-- A port that is free, and has nothing to discard, lets the stream class go before the other. -/
theorem mediaTx_tries (hlate : ∀ f r, (s.mac p).streamQ = f :: r → s.isLate f = false)
    (hs : ∀ f r, (s.mac p).streamQ = f :: r → s.txChoice p true f ≠ .drop)
    (ho : ∀ f r, (s.mac p).otherQ = f :: r → s.txChoice p false f ≠ .drop) :
    mediaTx p s = if (tryClass p true s).1 then (tryClass p true s).2 else (tryClass p false (tryClass p true s).2).2 := by
  have hfree : ¬ ((¬ (s.mac p).cfg.en = true) ∨ (¬ (s.mac p).link = true) ∨ s.t.now < (s.mac p).busyTo) := by
    simp [he, hl, Nat.not_lt.2 hb]
  simp only [mediaTx, if_neg hfree, streamLate, dropLate_inTime _ hlate, dropLong_fits (b := true) _ hs, dropLong_fits (b := false) _ ho]
  obtain ⟨sent, u⟩ := tryClass p true s
  cases sent <;> rfl

theorem mediaTx_stream (hq : (s.mac p).streamQ = f :: r) (hlate : s.isLate f = false) (hc : s.txChoice p true f = .send)
    (ho : ∀ g l, (s.mac p).otherQ = g :: l → s.txChoice p false g ≠ .drop) :
    mediaTx p s = startFrame p f (setMac p { s.mac p with streamQ := r } s) := by
  have first : ∀ g l, (s.mac p).streamQ = g :: l → g = f := fun g l h => (List.cons.inj (h.symm.trans hq)).1
  rw [mediaTx_tries he hl hb (fun g l h => first g l h ▸ hlate) (fun g l h => by simp [first g l h, hc]) ho,
    tryClass_sends (b := true) hq hc]
  rfl

theorem mediaTx_other (hs : (s.mac p).streamQ = []) (hq : (s.mac p).otherQ = f :: r) (hc : s.txChoice p false f = .send) :
    mediaTx p s = startFrame p f (setMac p { s.mac p with otherQ := r } s) := by
  have first : ∀ g l, (s.mac p).otherQ = g :: l → g = f := fun g l h => (List.cons.inj (h.symm.trans hq)).1
  rw [mediaTx_tries he hl hb (by simp [hs]) (by simp [hs]) (fun g l h => by simp [first g l h, hc]),
    tryClass_empty (b := true) hs, tryClass_sends (b := false) hq hc]
  rfl

end
end

/-- Settles O45: each row is its function in the state to which device time has run on, in the case that its conditions name. -/
theorem mediaRows : Obligations.MediaRows := by
  refine ⟨fun t p f s hp he hl => ⟨fun hq => ?_, fun hq => ⟨fun hf => ?_, fun hlo hhi => ⟨fun hf => ?_, fun hf ha => ?_,
      fun k pay hf ha hk => ?_⟩⟩⟩,
    fun t x r s hq => ?_, fun t k s he ht => ?_, fun t p s hp he => ⟨fun hl => ?_, fun hl => ?_⟩, fun t p s hp => ?_,
    fun t p f r s he hl hb => ⟨fun k hq hk hlate hc ho => ?_, fun hs hq hk hc => ?_⟩, fun t p k f r s hq hk hlate => ?_⟩
  · exact congrArg Host.Outcome.next (mediaFrameRx_full (s := advance t s) hp he hl hq)
  · exact congrArg Host.Outcome.next (mediaFrameRx_runt (s := advance t s) hp he hl hq hf)
  · exact congrArg Host.Outcome.next (mediaFrameRx_badFcs (s := advance t s) hp he hl hq hlo hhi hf)
  · exact congrArg Host.Outcome.next (mediaFrameRx_filtered (s := advance t s) hp he hl hq hlo hhi hf ha)
  · exact congrArg Host.Outcome.next (mediaFrameRx_stream (s := advance t s) hp he hl hq hlo hhi hf ha hk)
  · have first : exec (.rtpPacketRx t) s = .next (rtpPacket x.stream x.at_ x.pay (setN (fun n => { n with rtpQ := r }) (advance t s))) :=
      congrArg Host.Outcome.next (nextRtp_first (s := advance t s) hq)
    exact ⟨first, fun hk he hbad => first.trans (congrArg Host.Outcome.next (rtpPacket_malformed hk he hbad))⟩
  · exact congrArg Host.Outcome.next (claimExpiry_expires (s := advance t s) he ht)
  · exact congrArg Host.Outcome.next ((mediaLink_changes (s := advance t s) hp he (ne_of_eq_of_ne hl (by decide))).trans setLink_down)
  · exact congrArg Host.Outcome.next ((mediaLink_changes (s := advance t s) hp he (ne_of_eq_of_ne hl (by decide))).trans setLink_up)
  · exact congrArg Host.Outcome.next (gateEntry_shows (s := advance t s) hp)
  · exact congrArg Host.Outcome.next ((mediaTx_stream (s := advance t s) he hl hb hq hlate hc ho).trans (startFrame_stream hk))
  · exact congrArg Host.Outcome.next ((mediaTx_other (s := advance t s) he hl hb hs hq hc).trans (startFrame_other hk))
  · have judged : streamLate p (advance t s) = dropLate p (r.length + 1) (advance t s) :=
      congrArg (fun q : List TxFrame => dropLate p q.length (advance t s)) hq
    exact congrArg Host.Outcome.next (judged.trans (dropLate_late (s := advance t s) hq hk hlate))

end Sys2Proof.Machine
end

section
/-!
PROOFS. The statement of 03_objects about object update records and their release (R70–R74, R76, R77, R79, R81, R82, R505).
-/
namespace Sys2Proof.Machine

/-! ### A record leaves its ring and is judged (R70–R74, R79, R81) -/

/-- The head record of object ring `q` has left its ring and has entered its flow, and its SEQ is judged. -/
def recordTaken (q : Nat) (b : List Byte) (s : State) : State :=
  let v := popRing (2 + q) s
  checkSeq q b (flowTake q (writeIndex (2 + q) (v.ring (2 + q)).head v))

/-- What becomes of the taken record, number `n` of flow `q`: rejected, or waiting for its release. -/
def judgeRecord (q stamp n : Nat) (b : List Byte) (x : State) : State :=
  if ¬ x.recordOk b then flowEnd q n none (rejectRecord q stParam b x)
  else if ¬ bitOf (recFlags b) 7 ∧ x.pickNow + 2 ^ 20 < (x.place b).2.2 then flowEnd q n none (rejectRecord q stParam b x)
  else if 65536 ≤ x.pendCount then flowEnd q n none (rejectRecord q stResource b x)
  else acceptRecord q stamp n b x

/-- Where a record can be taken, it is taken and judged. -/
theorem objectRecord_takes {q : Nat} {s : State} (b : List Byte) (hq : q < 8) (hrun : s.objectsRun = true)
    (hon : s.ringOn (2 + q) = true) (hne : (s.ring (2 + q)).head ≠ (s.ring (2 + q)).tail) (hroom : (s.flow q).opened.length < 64) :
    objectRecord q b s = judgeRecord q (s.headStamp (2 + q)) ((popRing (2 + q) s).flow q).next b (recordTaken q b s) :=
  if_neg (by simp [hq, hrun, hon, hne, State.flowRoom, hroom])

section
variable {q stamp n : Nat} {b : List Byte} {x : State}

theorem judgeRecord_unsound (h : x.recordOk b = false) :
    judgeRecord q stamp n b x = flowEnd q n none (rejectRecord q stParam b x) := if_pos (by simp [h])

section
variable (h : x.recordOk b = true)
include h

/-- A record at a named time whose pick cannot yet be planned. -/
theorem judgeRecord_tooFar (hnamed : bitOf (recFlags b) 7 = false) (hfar : x.pickNow + 2 ^ 20 < (x.place b).2.2) :
    judgeRecord q stamp n b x = flowEnd q n none (rejectRecord q stParam b x) := by
  rw [judgeRecord, if_neg (by simp [h]), if_pos ⟨by simp [hnamed], hfar⟩]

section
variable (hnear : bitOf (recFlags b) 7 = true ∨ (x.place b).2.2 ≤ x.pickNow + 2 ^ 20)
include hnear

theorem judgeRecord_near : judgeRecord q stamp n b x =
    if 65536 ≤ x.pendCount then flowEnd q n none (rejectRecord q stResource b x) else acceptRecord q stamp n b x := by
  have hplanned : ¬ (¬ bitOf (recFlags b) 7 = true ∧ x.pickNow + 2 ^ 20 < (x.place b).2.2) :=
    fun ⟨hnamed, hfar⟩ => hnear.elim hnamed (Nat.not_le.2 hfar)
  rw [judgeRecord, if_neg (by simp [h]), if_neg hplanned]

theorem judgeRecord_full (hfull : 65536 ≤ x.pendCount) :
    judgeRecord q stamp n b x = flowEnd q n none (rejectRecord q stResource b x) := (judgeRecord_near h hnear).trans (if_pos hfull)

theorem judgeRecord_accepts (hfree : x.pendCount < 65536) : judgeRecord q stamp n b x = acceptRecord q stamp n b x :=
  (judgeRecord_near h hnear).trans (if_neg (Nat.not_le.2 hfree))

end
end
end

/-! ### The release of the oldest checked record (R77, R81, R82, R505) -/

/-- Ring `q` has handed over its oldest checked record `a`, before `r`, and the record's entry of the flow, where there is one, has ended. -/
def handOver (q : Nat) (a : ObjUpdate) (r : List ObjUpdate) (s : State) : State :=
  let u : State := { s with o := { s.o with
    checked := if r = [] then ndel s.o.checked q else nset s.o.checked q r, relCtr := s.o.relCtr + 1 } }
  if (s.flow q).opened.contains a.seq then flowEnd q a.seq none u else u

/-- A released update joins the pick that began at this very instant, or goes to the end of the pending store. -/
def putReleased (a : ObjUpdate) (v : State) : State :=
  if v.meetsPick a then joinPick a v else { v with o := { v.o with store := v.o.store ++ [a] } }

section
variable {q : Nat} {s : State} {a : ObjUpdate} {r : List ObjUpdate} (hc : nget [] s.o.checked q = a :: r)
include hc

/-- An earlier entry of its flow that is not released holds the release up. -/
theorem objectRelease_waits (hopen : (s.flow q).opened.contains a.seq = true) (hbase : (s.flow q).base ≠ a.seq) :
    objectRelease q s = s := by
  simp only [objectRelease, hc]
  rw [if_pos (Or.inr ⟨hopen, hbase⟩)]

theorem objectRelease_releases (hrun : s.objectsRun = true)
    (hfirst : (s.flow q).opened.contains a.seq = false ∨ (s.flow q).base = a.seq) :
    objectRelease q s = putReleased { a with rel := s.o.relCtr, relAt := s.t.now } (handOver q a r s) := by
  have hfree : ¬ (¬ s.objectsRun = true ∨ ((s.flow q).opened.contains a.seq = true ∧ (s.flow q).base ≠ a.seq)) := by
    rintro (hstill | ⟨hopen, hbase⟩)
    · exact hstill hrun
    · exact hfirst.elim (fun hno => Bool.false_ne_true (hno.symm.trans hopen)) hbase
  simp only [objectRelease, hc]
  rw [if_neg hfree]
  rfl

end

/-- Settles O17: a record that can be taken is judged, and the oldest checked record is handed over and put where it belongs, in the
state to which device time has run on. -/
theorem objectUpdates : Obligations.ObjectUpdates := by
  refine ⟨fun t q b s => ?_, fun t q s a r hrun hc => ⟨fun hfirst => ?_, fun hopen hbase => ?_⟩⟩
  · intro u v n x p hq hrun hon hne hroom
    have judged : exec (.objectUpdateRecord t q b) s = .next (judgeRecord q (u.headStamp (2 + q)) n b x) :=
      congrArg Host.Outcome.next (objectRecord_takes (s := advance t s) b hq hrun hon hne hroom)
    refine ⟨fun hbad => ?_, fun hok => ⟨fun hnamed hfar => ?_, fun hnear => ⟨fun hfull => ?_, fun hfree => ?_⟩⟩⟩
    · exact judged.trans (congrArg Host.Outcome.next (judgeRecord_unsound hbad))
    · exact judged.trans (congrArg Host.Outcome.next (judgeRecord_tooFar hok hnamed hfar))
    · exact judged.trans (congrArg Host.Outcome.next (judgeRecord_full hok hnear hfull))
    · exact judged.trans (congrArg Host.Outcome.next (judgeRecord_accepts hok hnear hfree))
  · have released : exec (.objectUpdateRelease t q) s =
        .next (putReleased { a with rel := s.o.relCtr, relAt := max s.t.now t } (handOver q a r (advance t s))) :=
      congrArg Host.Outcome.next (objectRelease_releases (s := advance t s) hc hrun hfirst)
    exact ⟨fun hlater => released.trans (congrArg Host.Outcome.next (if_neg (ne_true_of_eq_false hlater))),
      fun hmeets => released.trans (congrArg Host.Outcome.next (if_pos hmeets))⟩
  · exact congrArg Host.Outcome.next (objectRelease_waits (s := advance t s) hc hopen hbase)

end Sys2Proof.Machine
end

section
/-!
PROOFS. The statement of 03_objects about the object commands (R90, R94–R96).
-/
namespace Sys2Proof.Machine

/-! ### The object commands' own work -/

section
variable {c : HostCmd} {s : State}

/-- Taking a command changes nothing of the object inputs that its range is checked against. -/
@[simp] theorem taken_objRangeOk (s : State) (c : HostCmd) (info : CmdInfo) : objRangeOk c (s.taken c info) = objRangeOk c s := by
  unfold objRangeOk State.inputs; rw [taken_t]

/-- A range out of bounds ends a command whose body checks it with BAD_PARAM. -/
theorem exec_objRange_bad {i : Instr} {info : CmdInfo} {body : Body} (e : exec i s = .next (hostCommand info i c body s))
    (hbody : ∀ w u, objRangeOk c u = false → body c w u = complete w (.of stParam) u) (h : s.accepts c info = true)
    (hr : objRangeOk c s = false) : exec i s = .next (s.ended c info (.of stParam) id) :=
  (exec_accepted e h).trans (congrArg Host.Outcome.next (hbody _ _ ((taken_objRangeOk s c info).trans hr)))

section
variable (hr : objRangeOk c s = true)
include hr

theorem exec_objQuery (h : s.accepts c objQueryInfo = true) (ha : par c 0 8 % 32 = 0) :
    exec (.objQuery c) s = .next (s.ended c objQueryInfo (.of stOK) (fun u => writeHost (par c 0 8)
      ((List.range (par c 10 2)).foldr (fun i acc => u.objEntry (par c 8 2 + i) ++ acc) []) u)) := by
  refine (exec_accepted (body := objQueryBody) rfl h).trans (congrArg Host.Outcome.next ?_)
  rw [objQueryBody, if_neg (by simp [hr]), if_neg (by simp [ha])]
  rfl

theorem exec_objGlide {q : Nat} {late : Bool} (h : s.accepts c objGlideInfo = true) (hlo : 1 ≤ par c 12 1) (hhi : par c 12 1 ≤ 128)
    (hq : (s.taken c objGlideInfo).slotAt (par c 16 8) = some (q, late)) :
    exec (.objGlide c) s = .next (s.asked c objGlideInfo q late (.objGlide (par c 8 2) (par c 10 2) (par c 12 1))) := by
  refine (exec_accepted (body := objGlideBody) rfl h).trans (congrArg Host.Outcome.next ?_)
  rw [objGlideBody, if_neg (by simp [hr, Nat.not_lt.2 hlo, Nat.not_lt.2 hhi]), request_free _ _ hq]
  rfl

/-- What OBJ_RESET discards is fixed here: the updates released so far (log 55). -/
theorem exec_objReset {q : Nat} {late : Bool} (h : s.accepts c objResetInfo = true)
    (hq : (s.taken c objResetInfo).slotAt (par c 16 8) = some (q, late)) :
    exec (.objReset c) s = .next (s.asked c objResetInfo q late (.objReset (par c 8 2) (par c 10 2) s.o.relCtr)) := by
  refine (exec_accepted (body := objResetBody) rfl h).trans (congrArg Host.Outcome.next ?_)
  rw [objResetBody, if_neg (by simp [hr]), request_free _ _ hq, taken_o]
  rfl

/-- The update is one of the objects of the command's range, and its pick is `q` or later. -/
def flushes (c : HostCmd) (q : Nat) (u : ObjUpdate) : Bool :=
  decide (par c 8 2 ≤ recObj u.bytes) && decide (recObj u.bytes < par c 8 2 + par c 10 2) && decide (q ≤ u.q)

theorem exec_objFlush {q : Nat} (h : s.accepts c objFlushInfo = true) (hq : (s.taken c objFlushInfo).named (par c 16 8) = some q) :
    exec (.objFlush c) s = .next (s.ended c objFlushInfo (.of stOK (s.o.store.filter (flushes c q)).length)
      (fun u => { u with o := { u.o with store := u.o.store.filter (fun x => !flushes c q x) } })) := by
  refine (exec_accepted (body := objFlushBody) rfl h).trans (congrArg Host.Outcome.next ?_)
  rw [objFlushBody, if_neg (by simp [hr]), atNamed, hq, taken_o]
  rfl

end
end

/-- Settles O18: behind the check of the range, each command's own work; a range out of bounds is the first thing each checks. -/
theorem objectCommands : Obligations.ObjectCommands := by
  refine ⟨fun c s h hr ha => exec_objQuery hr h ha, fun c s q late h hr hlo hhi hq => exec_objGlide hr h hlo hhi hq,
    fun c s q late h hr hq => exec_objReset hr h hq, fun c s q h hr hq => exec_objFlush hr h hq,
    fun c s hr => ⟨fun h => ?_, fun h => ?_, fun h => ?_, fun h => ?_⟩⟩
  · exact exec_objRange_bad (body := objQueryBody) rfl (fun w u hu => if_pos (by simp [hu])) h hr
  · exact exec_objRange_bad (body := objGlideBody) rfl (fun w u hu => if_pos (by simp [hu])) h hr
  · exact exec_objRange_bad (body := objResetBody) rfl (fun w u hu => if_pos (by simp [hu])) h hr
  · exact exec_objRange_bad (body := objFlushBody) rfl (fun w u hu => if_pos (by simp [hu])) h hr

end Sys2Proof.Machine
end

section
/-!
PROOFS. The statement of 05_loom_crosspoints about the Loom execution commands (R137, R141, R164, R165).
-/
namespace Sys2Proof.Machine

/-! ### The commands' own work -/

section
variable {c : HostCmd} {s : State} (w : Waiter)

section
variable (hr : inputRangeOk c s = false)
include hr

theorem loomCeilSetBody_outOfRange : loomCeilSetBody c w s = complete w (.of stParam) s := if_pos (Or.inl (ne_true_of_eq_false hr))

theorem loomCeilQueryBody_outOfRange : loomCeilQueryBody c w s = complete w (.of stParam) s := if_pos (ne_true_of_eq_false hr)

theorem loomXpDumpBody_outOfRange : loomXpDumpBody c w s = complete w (.of stParam) s := if_pos (ne_true_of_eq_false hr)

end

section
variable (hr : inputRangeOk c s = true)
include hr

/-- A ceiling within the outputs asks for a change that has to pass admission. -/
theorem loomCeilSetBody_inRange (hout : par c 12 2 ≤ s.outputs) : loomCeilSetBody c w s =
    request (par c 16 8) w (.ceil (par c 8 2) (par c 10 2) (par c 12 2)) true s :=
  if_neg (fun h => h.elim (fun hbad => hbad hr) (Nat.not_lt.2 hout))

theorem loomCeilQueryBody_inRange (ha : par c 0 8 % 16 = 0) : loomCeilQueryBody c w s = complete w (.of stOK) (writeHost (par c 0 8)
    ((List.range (par c 10 2)).foldr (fun i acc => leBytes 2 (s.ceilOf (par c 8 2 + i)) ++ acc) []) s) :=
  (if_neg (not_not_intro hr)).trans (if_neg (not_not_intro ha))

/-- The dump does not complete here: it waits for the end of the render pick. -/
theorem loomXpDumpBody_inRange (ha : par c 0 8 % 16 = 0) : loomXpDumpBody c w s =
    { s with x := { s.x with dumps := s.x.dumps ++ [(w, par c 0 8, par c 8 2, par c 10 2)] } } :=
  (if_neg (not_not_intro hr)).trans (if_neg (not_not_intro ha))

end
end

/-- Settles O20: the range is the first thing each body checks; behind it LOOM_CEIL_SET's request passes admission or ends with
REJECTED_BUDGET, LOOM_CEIL_QUERY writes and ends, and LOOM_XP_DUMP is left waiting. -/
theorem loomExecutionCommands : Obligations.LoomExecutionCommands := by
  refine ⟨fun c s q late h => ?_, fun c s h => ?_, fun c s h => ?_⟩
  · have answer := exec_accepted (i := .loomCeilSet c) (body := loomCeilSetBody) rfl h
    exact ⟨fun hr hout hq => answer.trans (congrArg Host.Outcome.next ((loomCeilSetBody_inRange _ hr hout).trans (request_taken _ hq))),
      fun hr => answer.trans (congrArg Host.Outcome.next (loomCeilSetBody_outOfRange _ hr))⟩
  · have answer := exec_accepted (i := .loomCeilQuery c) (body := loomCeilQueryBody) rfl h
    exact ⟨fun hr ha => answer.trans (congrArg Host.Outcome.next (loomCeilQueryBody_inRange _ hr ha)),
      fun hr => answer.trans (congrArg Host.Outcome.next (loomCeilQueryBody_outOfRange _ hr))⟩
  · have answer := exec_accepted (i := .loomXpDump c) (body := loomXpDumpBody) rfl h
    exact ⟨fun hr ha => answer.trans (congrArg Host.Outcome.next (loomXpDumpBody_inRange _ hr ha)),
      fun hr => answer.trans (congrArg Host.Outcome.next (loomXpDumpBody_outOfRange _ hr))⟩

end Sys2Proof.Machine
end

section
/-!
PROOFS. The statements of 06_reed about the outputs' configuration and the coefficient banks (R175, R182–R185, R190, R191, R668) and about a
measurement run (R197, R199–R201, R208, R209).
-/
namespace Sys2Proof.Machine

/-! ### What taking a command leaves as it is -/

@[simp] theorem taken_longBank (s : State) (c : HostCmd) (info : CmdInfo) : (s.taken c info).longBank = s.longBank := by
  unfold State.longBank State.reedActive State.reedInactive State.bankPending; rw [taken_r, taken_sched]

@[simp] theorem taken_bankBusy (s : State) (c : HostCmd) (info : CmdInfo) : (s.taken c info).bankBusy = s.bankBusy := by
  unfold State.bankBusy; rw [taken_swapPending, taken_r]

@[simp] theorem taken_reedActive (s : State) (c : HostCmd) (info : CmdInfo) : (s.taken c info).reedActive = s.reedActive := by
  unfold State.reedActive; rw [taken_r]

@[simp] theorem taken_measOk (s : State) (c : HostCmd) (info : CmdInfo) : measOk c (s.taken c info) = measOk c s := by
  unfold measOk; rw [taken_t]

/-! ### The configuration of outputs (R190, R668) -/

/-- A REED_OUT_CFG has to pass admission: it enables or disables an output, or another one waits. -/
def outCfgAdmission (c : HostCmd) (s : State) : Bool :=
  (outRecords c).zipIdx.any (fun x => bitOf (getLE x.1 12 2) 0 &&
      decide (bitOf (getLE x.1 0 2) 0 ≠ (s.outCfg (par c 8 2 + x.2)).en)) ||
    s.sched.any (fun x => match x.chg with
      | .reedCfg _ _ => true
      | _ => false)

@[simp] theorem taken_outCfgAdmission (s : State) (c : HostCmd) (info : CmdInfo) :
    outCfgAdmission c (s.taken c info) = outCfgAdmission c s := by
  unfold outCfgAdmission State.outCfg; rw [taken_r, taken_sched]

/-- A taken command's change goes on the list, behind admission where it has to pass it. -/
theorem request_taken_if {c : HostCmd} {s : State} {info : CmdInfo} {p q : Nat} {late : Bool} (chg : Change) (adm : Bool)
    (h : (s.taken c info).slotAt p = some (q, late)) : request p (s.waiterOf c info) chg adm (s.taken c info) =
      if adm then s.admitted c info q late chg else s.asked c info q late chg := by
  cases adm
  · exact request_free _ _ h
  · exact request_taken chg h

section
variable {c : HostCmd} {s : State}

theorem exec_reedOutCfg {q : Nat} {late : Bool} (h : s.accepts c reedOutCfgInfo = true) (hd : s.inDormant = false)
    (hr : reedRsv c false = true) (hn : 1 ≤ par c 10 2) (ho : par c 8 2 + par c 10 2 ≤ (s.taken c reedOutCfgInfo).outputs)
    (hok : (outRecords c).all outRecordOk = true)
    (hlong : s.longBank = true → (outRecords c).zipIdx.any (fun x => decide (256 ≤ par c 8 2 + x.2) && enables x.1) = false)
    (ha : par c 0 8 % 16 = 0) (hq : (s.taken c reedOutCfgInfo).slotAt (par c 16 8) = some (q, late)) :
    let chg : Change := .reedCfg (par c 8 2) (fit (16 * par c 10 2) c.data)
    exec (.reedOutCfg c) s = .next
      (if outCfgAdmission c s then s.admitted c reedOutCfgInfo q late chg else s.asked c reedOutCfgInfo q late chg) := by
  have sound : ¬ (¬ reedRsv c false = true ∨ par c 10 2 < 1 ∨ (s.taken c reedOutCfgInfo).outputs < par c 8 2 + par c 10 2 ∨
      ¬ (outRecords c).all outRecordOk = true ∨ ((s.taken c reedOutCfgInfo).longBank = true ∧
        (outRecords c).zipIdx.any (fun x => decide (256 ≤ par c 8 2 + x.2) && enables x.1) = true)) := by
    rw [taken_longBank]
    rintro (hbad | hbad | hbad | hbad | ⟨hl, hbad⟩)
    · exact hbad hr
    · exact Nat.not_lt.2 hn hbad
    · exact Nat.not_lt.2 ho hbad
    · exact hbad hok
    · exact Bool.false_ne_true ((hlong hl).symm.trans hbad)
  refine (exec_outsideDormant rfl h hd).trans (congrArg Host.Outcome.next ?_)
  dsimp only
  rw [if_neg sound, if_neg (by simp [aligned16, ha])]
  exact (request_taken_if _ (outCfgAdmission c (s.taken c reedOutCfgInfo)) hq).trans (by rw [taken_outCfgAdmission])

/-! ### Loads, the copy and the query of a bank (R182–R184, R191) -/

section
variable (hd : s.inDormant = false)
include hd

section
variable (hr : reedRsv c true = true) (ha : par c 0 8 % 16 = 0)
include hr ha

theorem exec_reedBankLoad (h : s.accepts c reedBankLoadInfo = true) : exec (.reedBankLoad c) s =
    .next (if s.bankBusy then s.ended c reedBankLoadInfo (.of stBusy) id else s.reads c reedBankLoadInfo .reed (par c 24 4)) := by
  refine (exec_outsideDormant rfl h hd).trans (congrArg Host.Outcome.next ?_)
  rw [if_neg (by simp [hr]), if_neg (by simp [aligned16, ha]), taken_bankBusy, startLoad_taken]

/-- The image of one output joins a bank that is there or being loaded; a busy bank is BUSY all the same. -/
theorem exec_reedOutLoad (h : s.accepts c reedOutLoadInfo = true)
    (hb : s.r.loaded = true ∨ (s.taken c reedOutLoadInfo).loading .reed = true ∨ s.bankBusy = true) : exec (.reedOutLoad c) s =
    .next (if s.bankBusy then s.ended c reedOutLoadInfo (.of stBusy) id else s.reads c reedOutLoadInfo .reed (par c 24 4)) := by
  have sound : ¬ (¬ reedRsv c true = true ∨ (¬ s.r.loaded = true ∧ ¬ (s.taken c reedOutLoadInfo).loading .reed = true ∧
      ¬ s.bankBusy = true)) := by
    rintro (hbad | ⟨hempty, hidle, hfree⟩)
    · exact hbad hr
    · exact hb.elim hempty (fun hb => hb.elim hidle hfree)
  refine (exec_outsideDormant rfl h hd).trans (congrArg Host.Outcome.next ?_)
  rw [taken_bankBusy, taken_r, if_neg sound, if_neg (by simp [aligned16, ha]), startLoad_taken]

end

section
variable (hr : reedRsv c false = true)
include hr

theorem exec_reedBankCopy (h : s.accepts c reedBankCopyInfo = true) : exec (.reedBankCopy c) s =
    .next (if s.bankBusy then s.ended c reedBankCopyInfo (.of stBusy) id else
      s.ended c reedBankCopyInfo (.of stOK) (fun u => setR (fun r => { r with loaded := true }) (putReedInactive u.reedActive u))) := by
  refine (exec_outsideDormant rfl h hd).trans (congrArg Host.Outcome.next ?_)
  rw [if_neg (by simp [hr]), taken_bankBusy]
  rfl

theorem exec_reedBankQuery (h : s.accepts c reedBankQueryInfo = true) (ha : par c 0 8 % 16 = 0) : exec (.reedBankQuery c) s =
    .next (s.ended c reedBankQueryInfo (.of stOK) (writeHost (par c 0 8) s.reedActive.directory)) := by
  refine (exec_outsideDormant rfl h hd).trans (congrArg Host.Outcome.next ?_)
  rw [if_neg (by simp [hr]), if_neg (by simp [aligned16, ha]), taken_reedActive]
  rfl

end
end
end

/-! ### Bank swaps (R175, R185, R190, R665, R666) -/

/-- Why the swap is refused in the state in which it is on the list; a swap that waits for a load in progress is not judged yet (R666). -/
def State.swapRefusal (s : State) (xf : Bool) (q : Nat) (listed : State) : Option Nat :=
  if s.loading .reed then none else listed.bankSwapFault xf q

/-- A swap goes on the list `s0` keeps, where `who` waits for the swap whose place it takes, or is refused. -/
def judgeBankSwap (xf : Bool) (q : Nat) (late : Bool) (w : Waiter) (chg : Change) (who : Option Waiter) (s0 s : State) : State :=
  match s.swapRefusal xf q (pushSched q late (some w) chg s0) with
  | some e => complete w (.of e) s
  | none => completeOpt who { Ending.atPick q with superseded := true } (pushSched q late (some w) chg s0)

/-- A swap to a bank that is there or being loaded, for pick `q`: a waiting one gives way to it if it has the same pick. -/
def requestBankSwap (xf : Bool) (q : Nat) (late : Bool) (w : Waiter) (chg : Change) (s : State) : State :=
  match s.rival chg with
  | some old =>
    if s.standsFor old.pick = s.standsFor q then
      judgeBankSwap xf q late w chg old.who { s with sched := s.sched.filter (fun x => !decide (x = old)) } s
    else complete w (.of stBusy) s
  | none => judgeBankSwap xf q late w chg none s s

section
variable {xf late : Bool} {q : Nat} {w : Waiter} {chg : Change} {s : State}

/-- A command that asks for a swap is answered by its refusal, or by the list with the swap on it. -/
theorem answer_judgeBankSwap {who : Option Waiter} {s0 : State} {o : Host.Outcome State Fault Refusal}
    (h : o = .next (judgeBankSwap xf q late w chg who s0 s)) :
    let v := pushSched q late (some w) chg s0
    (∀ e, s.swapRefusal xf q v = some e → o = .next (complete w (.of e) s)) ∧
      (s.swapRefusal xf q v = none → o = .next (completeOpt who { Ending.atPick q with superseded := true } v)) := by
  subst h
  exact ⟨fun e he => by simp only [judgeBankSwap, he], fun hsound => by simp only [judgeBankSwap, hsound]⟩

theorem requestBankSwap_first (h : s.rival chg = none) :
    requestBankSwap xf q late w chg s = judgeBankSwap xf q late w chg none s s := by
  simp only [requestBankSwap, h]

section
variable {old : Sched} (h : s.rival chg = some old)
include h

theorem requestBankSwap_busy (hpick : s.standsFor old.pick ≠ s.standsFor q) :
    requestBankSwap xf q late w chg s = complete w (.of stBusy) s := by
  simp only [requestBankSwap, h, if_neg hpick]

theorem requestBankSwap_replaces (hpick : s.standsFor old.pick = s.standsFor q) : requestBankSwap xf q late w chg s =
    judgeBankSwap xf q late w chg old.who { s with sched := s.sched.filter (fun x => !decide (x = old)) } s := by
  simp only [requestBankSwap, h, if_pos hpick]

end
end

/-- With its pick one of R185 and a bank there or being loaded, REED_BANK_SWAP is the request of a bank swap. -/
theorem reedBankSwapBody_requests {c : HostCmd} {s : State} {q : Nat} {late : Bool} (w : Waiter) (hd : s.inDormant = false)
    (hp : s.m.dpRun = true → s.dataMode ≠ .pass) (hr : reedRsv c false = true) (hf : par c 12 1 < 2)
    (hq : s.bankSlot (par c 16 8) = some (q, late)) (hm : s.r.meas = none) (hb : s.r.loaded = true ∨ s.loading .reed = true) :
    reedBankSwapBody c w s = requestBankSwap (bitOf (par c 12 1) 0) q late w
      (.bankSwap (bitOf (par c 12 1) 0) (decide (1 ≤ s.b.shed))) s := by
  have hcopy : ¬ (¬ s.r.loaded = true ∧ ¬ s.loading .reed = true) := fun ⟨hempty, hidle⟩ => hb.elim hempty hidle
  simp only [reedBankSwapBody, refusing, hq]
  rw [if_neg (by simpa [hd] using hp), if_neg (by simp [hr, hf]), if_neg (by simp [hm]), if_neg hcopy]
  cases hrival : s.rival (.bankSwap (bitOf (par c 12 1) 0) (decide (1 ≤ s.b.shed))) with
  | none =>
    rw [requestBankSwap_first hrival]
    rfl
  | some old =>
    by_cases hpick : s.standsFor old.pick = s.standsFor q
    · rw [requestBankSwap_replaces hrival hpick]
      simp only [if_pos hpick]
      rfl
    · rw [requestBankSwap_busy hrival hpick]
      simp only [if_neg hpick]

theorem exec_reedBankSwap {c : HostCmd} {s : State} {q : Nat} {late : Bool} (h : s.accepts c reedBankSwapInfo = true)
    (hd : s.inDormant = false) (hp : s.m.dpRun = true → s.dataMode ≠ .pass) (hr : reedRsv c false = true) (hf : par c 12 1 < 2)
    (hq : (s.taken c reedBankSwapInfo).bankSlot (par c 16 8) = some (q, late)) (hm : s.r.meas = none)
    (hb : s.r.loaded = true ∨ (s.taken c reedBankSwapInfo).loading .reed = true) :
    exec (.reedBankSwap c) s = .next (requestBankSwap (bitOf (par c 12 1) 0) q late (s.waiterOf c reedBankSwapInfo)
      (.bankSwap (bitOf (par c 12 1) 0) (decide (1 ≤ s.b.shed))) (s.taken c reedBankSwapInfo)) := by
  refine (exec_accepted (body := reedBankSwapBody) rfl h).trans (congrArg Host.Outcome.next ?_)
  rw [reedBankSwapBody_requests _ (by simpa using hd) (by simpa using hp) hr hf hq (by simpa using hm) (by simpa using hb), taken_b]

/-- Settles O21: each command's checks lead to the one operation that carries it out, and REED_BANK_SWAP to the cases of a bank swap's
request. -/
theorem reedBankCommands : Obligations.ReedBankCommands := by
  refine ⟨fun c s q late h hd hr hn ho hok hlong ha hq => exec_reedOutCfg h hd hr hn ho hok hlong ha hq,
    fun c s hd hr ha => ⟨fun h => exec_reedBankLoad hd hr ha h, fun h hb => exec_reedOutLoad hd hr ha h hb⟩,
    fun c s h hd hr => exec_reedBankCopy hd hr h, fun c s q late h hd hp hr hf hq hm hb => ?_,
    fun c s h hd hr ha => exec_reedBankQuery hd hr h ha⟩
  have request := exec_reedBankSwap h hd hp hr hf hq hm hb
  refine ⟨fun old hold => ⟨fun hpick => ?_, fun hpick => ?_⟩, fun hnone => ?_⟩
  · exact request.trans (congrArg Host.Outcome.next (requestBankSwap_busy hold hpick))
  · exact answer_judgeBankSwap (request.trans (congrArg Host.Outcome.next (requestBankSwap_replaces hold hpick)))
  · exact answer_judgeBankSwap (request.trans (congrArg Host.Outcome.next (requestBankSwap_first hnone)))

/-! ### A measurement run (R197, R199–R201, R208, R209) -/

section
variable {c : HostCmd} {s : State}

theorem exec_reedMeasRun_outside (h : s.accepts c reedMeasRunInfo = true) (hm : s.m.mode ≠ .measure) :
    exec (.reedMeasRun c) s = .next (s.ended c reedMeasRunInfo (.of stMode) id) := by
  refine (exec_accepted (body := reedMeasRunBody) rfl h).trans (congrArg Host.Outcome.next ?_)
  rw [reedMeasRunBody, refusing, taken_m, if_pos (by simp [hm])]
  rfl

/-- The inactive bank is the workspace of the run, which is held for the next pick. -/
def holdRun (m : MeasRun) (s : State) : State :=
  setR (fun r => { r with meas := some m, loaded := false }) (putReedInactive ReedBank.empty s)

/-- In Measure, with the bank free, the run still fails from the second shedding step on, and at admission. -/
theorem exec_reedMeasRun_inMeasure (h : s.accepts c reedMeasRunInfo = true) (hm : s.m.mode = .measure) (hok : measOk c s = true)
    (ha : par c 0 8 % 16 = 0) (hb : s.bankBusy = false) (hl : (s.taken c reedMeasRunInfo).loading .reed = false) :
    let v := holdRun (measRun c (s.waiterOf c reedMeasRunInfo)) (s.taken c reedMeasRunInfo)
    exec (.reedMeasRun c) s = .next (if 2 ≤ s.b.shed then s.ended c reedMeasRunInfo (.of stBudget) id
      else if v.inBudget v.nextPick then post 0x0610 0 [] v else s.ended c reedMeasRunInfo (.of stBudget) id) := by
  refine (exec_accepted (body := reedMeasRunBody) rfl h).trans (congrArg Host.Outcome.next ?_)
  rw [reedMeasRunBody, refusing, taken_m, taken_measOk, taken_bankBusy, taken_b, if_neg (by simp [hm]), if_neg (by simp [hok]),
    if_neg (by simp [aligned16, ha]), if_neg (by simp [hb, hl])]
  rfl

theorem exec_reedMeasAbort (h : s.accepts c reedMeasAbortInfo = true) (hd : s.inDormant = false) (hr : reedRsv c false = true) :
    exec (.reedMeasAbort c) s =
      .next (s.ended c reedMeasAbortInfo (.of stOK) (fun u => endMeas stAborted (stopStimulus u))) := by
  refine (exec_outsideDormant rfl h hd).trans (congrArg Host.Outcome.next ?_)
  rw [if_neg (by simp [hr])]
  rfl

section
variable {m : MeasRun} (hm : s.r.meas = some m)
include hm

/-- A run that ends with OK gives its start pick. -/
theorem endMeas_ok : endMeas stOK s =
    post 0x0611 0 [] (complete m.w (.of stOK ((m.start.getD 0) % 2 ^ 32)) { s with r := { s.r with meas := none } }) := by
  simp only [endMeas, hm]
  rfl

theorem measCaptureEnd_captured (hs : m.start.isSome = true) (hd : m.decon = none) (hl : m.len ≤ m.captured) :
    measCaptureEnd s = { s with r := { s.r with meas := some { m with decon := some (s.m.pick + 1) } } } := by
  simp only [measCaptureEnd, hm]
  exact if_pos ⟨hs, by simp [hd], hl⟩

theorem measRunComplete_done {d : Nat} (hd : m.decon = some d) (hl : d + m.deconPicks s.t.pickLen ≤ s.m.pick) :
    measRunComplete s = endMeas stOK (writeHost m.addr m.results s) := by
  simp only [measRunComplete, hm, hd, if_pos hl]

end
end

/-- Settles O22: the commands' checks lead to the run that is held or ended; the rows of a run act on the state to which device time has
run on. -/
theorem measurementCommands : Obligations.MeasurementCommands := by
  refine ⟨fun c s h => ⟨fun hm => exec_reedMeasRun_outside h hm, fun hm hok ha hb hl => ?_⟩, fun c s h hd hr => exec_reedMeasAbort h hd hr,
    fun t s m hm hs hd hl => ?_, fun t d s m hm hd hl => ?_⟩
  · have run := exec_reedMeasRun_inMeasure h hm hok ha hb hl
    exact ⟨fun hshed => run.trans (congrArg Host.Outcome.next (if_pos hshed)),
      fun hshed => run.trans (congrArg Host.Outcome.next (if_neg (Nat.not_le.2 hshed)))⟩
  · exact congrArg Host.Outcome.next (measCaptureEnd_captured (s := advance t s) hm hs hd hl)
  · refine congrArg Host.Outcome.next ((measRunComplete_done (s := advance t s) hm hd hl).trans ?_)
    exact endMeas_ok (s := writeHost m.addr m.results (advance t s)) hm

end Sys2Proof.Machine
end

section
/-!
PROOFS. The statement of 07_heddle about the Heddle commands and a step at its deadline (R214, R226–R229, R235, R236, R249–R251).
-/
namespace Sys2Proof.Machine

/-! ### The request of a swap that goes through admission (R21, R47, R665, R666) -/

/-- A command that asks for a swap is answered by the case of the request: no copy and no load, a swap that waits, or the list. -/
theorem answer_requestSwap {c : HostCmd} {s : State} {info : CmdInfo} {p q : Nat} {late copy : Bool} {chg : Change}
    {o : Host.Outcome State Fault Refusal} (hq : (s.taken c info).slotAt p = some (q, late))
    (h : o = .next (requestSwap p (s.waiterOf c info) chg copy true (s.taken c info))) :
    let u := s.taken c info
    (copy = false → u.mustWait chg = false → o = .next (s.ended c info (.of stParam) id)) ∧
    (copy = true ∨ u.mustWait chg = true →
      (∀ old, u.rival chg = some old →
        (u.standsFor old.pick ≠ u.standsFor q → o = .next (s.ended c info (.of stBusy) id)) ∧
        (u.standsFor old.pick = u.standsFor q →
          let v := pushSched q late (some (s.waiterOf c info)) chg { u with sched := u.sched.filter (fun x => !decide (x = old)) }
          (copy && !u.mustWait chg && !v.inBudget q) = false →
          o = .next (completeOpt old.who { Ending.atPick q with superseded := true } v))) ∧
      (u.rival chg = none → o = .next
        (if copy && !u.mustWait chg then s.admitted c info q late chg else s.asked c info q late chg))) := by
  subst h
  refine ⟨fun hempty hready => ?_, fun hcopy => ⟨fun old hold => ⟨fun hpick => ?_, fun hpick hadm => ?_⟩, fun hnone => ?_⟩⟩
  · rw [hempty, requestSwap_empty _ _ _ (by simp [hq]) hready]
    rfl
  · rw [requestSwap_busy _ _ hq hcopy hold hpick]
    rfl
  · rw [requestSwap_supersedes _ _ hq hcopy hold hpick (by rw [Bool.true_and]; exact hadm)]
  · rw [requestSwap_first _ _ hq hcopy hnone, Bool.true_and]
    cases copy && !(s.taken c info).mustWait chg
    · rfl
    · simp only [Bool.true_and, ite_bnot]
      rfl

/-! ### The Heddle commands' own work (R214, R226–R229, R249, R250) -/

section
variable {c : HostCmd} {s : State} (hd : s.inDormant = false) (hr : routeRsv c = true)
include hd hr

theorem exec_routeLoad (h : s.accepts c routeLoadInfo = true) (ha : par c 0 8 % 16 = 0) : exec (.routeLoad c) s =
    .next (if s.swapPending .route then s.ended c routeLoadInfo (.of stBusy) id else s.reads c routeLoadInfo .route (par c 8 4)) := by
  refine (exec_outsideDormant rfl h hd).trans (congrArg Host.Outcome.next ?_)
  rw [if_neg (by simp [hr]), if_neg (by simp [aligned16, ha]), taken_swapPending, startLoad_taken]

theorem exec_routeSwap (h : s.accepts c routeSwapInfo = true) : exec (.routeSwap c) s =
    .next (requestSwap (par c 16 8) (s.waiterOf c routeSwapInfo) .routeSwap s.d.loaded true (s.taken c routeSwapInfo)) := by
  refine (exec_outsideDormant rfl h hd).trans (congrArg Host.Outcome.next ?_)
  rw [if_neg (by simp [hr]), taken_d]

theorem exec_routeQuery (h : s.accepts c routeQueryInfo = true) (ha : par c 0 8 % 16 = 0) (hl : s.d.active.image.length ≤ par c 8 4) :
    exec (.routeQuery c) s = .next (s.ended c routeQueryInfo (.of stOK) (writeHost (par c 0 8) s.d.active.image)) := by
  refine (exec_outsideDormant rfl h hd).trans (congrArg Host.Outcome.next ?_)
  dsimp only
  rw [taken_d, if_neg (by simp [hr, hl]), if_neg (by simp [aligned16, ha])]
  rfl

theorem exec_infiltSet {q : Nat} {late : Bool} (h : s.accepts c infiltSetInfo = true) (hf : par c 12 1 ≤ 4) (hlo : 1 ≤ par c 26 2)
    (hhi : par c 26 2 ≤ 1280)
    (hsrc : allTo (par c 26 2) (fun i => srcFiltered (s.taken c infiltSetInfo).t.rate96 (par c 24 2 + i)) = true)
    (hq : (s.taken c infiltSetInfo).slotAt (par c 16 8) = some (q, late)) :
    exec (.infiltSet c) s = .next (s.asked c infiltSetInfo q late (.infilt (par c 24 2) (par c 26 2) (par c 12 1))) := by
  have inRange : ¬ (¬ routeRsv c = true ∨ 4 < par c 12 1 ∨ par c 26 2 < 1 ∨ 1280 < par c 26 2 ∨
      ¬ allTo (par c 26 2) (fun i => srcFiltered (s.taken c infiltSetInfo).t.rate96 (par c 24 2 + i)) = true) := by
    simp only [hr, hsrc, not_true_eq_false, false_or, or_false]
    omega
  refine (exec_outsideDormant rfl h hd).trans (congrArg Host.Outcome.next ?_)
  dsimp only
  rw [if_neg inRange, request_free _ _ hq]
  rfl

/-! ### ROUTE_ABORT (R251) -/

section
variable (h : s.accepts c routeAbortInfo = true)
include h

theorem exec_routeAbort_noSwap (hx : s.sched.find? (fun x => decide (x.chg = .routeSwap)) = none) :
    exec (.routeAbort c) s = .next (s.ended c routeAbortInfo (.of stOK) emptyInactive) := by
  refine (exec_outsideDormant rfl h hd).trans (congrArg Host.Outcome.next ?_)
  rw [if_neg (by simp [hr]), taken_sched, hx]
  rfl

/-- A swap whose pick has begun stands; an earlier abort completes before the swap that it cancels. -/
theorem exec_routeAbort_swap {x : Sched} (hx : s.sched.find? (fun x => decide (x.chg = .routeSwap)) = some x) :
    exec (.routeAbort c) s = .next
      (if s.m.dpRun = true ∧ (x.late = true ∨ x.pick ≤ (s.taken c routeAbortInfo).pickNow) then
          s.ended c routeAbortInfo (.of stParam) id
        else cancelSwaps .route (s.ended c routeAbortInfo (.of stOK) emptyInactive)) := by
  refine (exec_outsideDormant rfl h hd).trans (congrArg Host.Outcome.next ?_)
  rw [if_neg (by simp [hr]), taken_sched, hx, taken_m]
  rfl

end
end

/-! ### A zero-crossing step at its deadline (R235, R236) -/

/-- The route's new gain waits for a zero crossing, or for the deadline. -/
def RouteRun.stepWaits (r : RouteRun) : Bool :=
  match r.move with
  | .stepped _ => true
  | _ => false

/-- The route with such a step taken. -/
def RouteRun.stepTaken (r : RouteRun) : RouteRun :=
  match r.move with
  | .stepped b => { r with move := .hold b }
  | _ => r

theorem RouteRun.stepTaken_of_not_waits {r : RouteRun} (h : r.stepWaits = false) : r.stepTaken = r := by
  unfold stepWaits at h
  unfold stepTaken
  split
  next hm => simp [hm] at h
  next => rfl

/-- The routes whose step is taken and counted are those that the predicate picks and whose step waits. -/
theorem settleSteps_waiting (p : RouteRun → Bool) (s : State) : settleSteps (fun r => p r && r.stepWaits) s =
    bumpBy (s.d.routes.filter (fun r => p r && r.stepWaits)).length 0x901C 31 16 { s with d := { s.d with
      routes := s.d.routes.map (fun r => if p r then r.stepTaken else r) } } := by
  have counted : (fun r : RouteRun => (p r && r.stepWaits) && r.stepWaits) = fun r => p r && r.stepWaits := by
    funext r
    rw [Bool.and_assoc, Bool.and_self]
  have moved : (fun r : RouteRun => if (p r && r.stepWaits) = true then r.stepTaken else r) = fun r => if p r then r.stepTaken else r := by
    funext r
    cases hw : r.stepWaits
    · simp [RouteRun.stepTaken_of_not_waits hw]
    · rw [Bool.and_true]
  rw [← moved, ← congrArg (fun f => (s.d.routes.filter f).length) counted]
  rfl

theorem zcDeadlineHit_eq (idx : Nat) (s : State) : zcDeadlineHit idx s =
    bumpBy (s.d.routes.filter (fun r => decide (r.idx = idx) && r.stepWaits)).length 0x901C 31 16 { s with d := { s.d with
      routes := s.d.routes.map (fun r => if r.idx = idx then r.stepTaken else r) } } := by
  refine (settleSteps_waiting (fun r => decide (r.idx = idx)) s).trans ?_
  simp only [decide_eq_true_eq]

/-- Settles O23: each command's checks lead to the one operation that carries it out, ROUTE_SWAP to the cases of a swap's request and
ROUTE_ABORT to whether the swap's pick has begun; the deadline acts on the state to which device time has run on. -/
theorem heddleCommands : Obligations.HeddleCommands := by
  refine ⟨fun c s h hd hr ha => exec_routeLoad hd hr h ha,
    fun c s q late h hd hr hq => answer_requestSwap hq (exec_routeSwap hd hr h),
    fun c s h hd hr ha hl => exec_routeQuery hd hr h ha hl,
    fun c s q late h hd hr hf hlo hhi hsrc hq => exec_infiltSet hd hr h hf hlo hhi hsrc hq,
    fun c s h hd hr => ⟨fun hx => exec_routeAbort_noSwap hd hr h hx, fun x hx => ?_⟩,
    fun t idx s => congrArg Host.Outcome.next (zcDeadlineHit_eq idx (advance t s))⟩
  have abort := exec_routeAbort_swap hd hr h hx
  exact ⟨fun begun => abort.trans (congrArg Host.Outcome.next (if_pos begun)),
    fun early => abort.trans (congrArg Host.Outcome.next (if_neg early))⟩

end Sys2Proof.Machine
end

section
/-!
PROOFS. The statement of 11_audio_ports about the port commands (R224, R356, R359, R360, R364, R370, R371).
-/
namespace Sys2Proof.Machine

/-! ### What taking a command leaves as it is -/

@[simp] theorem taken_tx (s : State) (c : HostCmd) (info : CmdInfo) (p : Nat) : (s.taken c info).tx p = s.tx p := by
  unfold State.tx; rw [taken_a]

@[simp] theorem taken_rx (s : State) (c : HostCmd) (info : CmdInfo) (p : Nat) : (s.taken c info).rx p = s.rx p := by
  unfold State.rx; rw [taken_a]

@[simp] theorem taken_grp (s : State) (c : HostCmd) (info : CmdInfo) (g : Nat) : (s.taken c info).grp g = s.grp g := by
  unfold State.grp; rw [taken_a]

@[simp] theorem taken_trigFree (s : State) (c : HostCmd) (info : CmdInfo) (k act : Nat) :
    (s.taken c info).trigFree k act = s.trigFree k act := by
  unfold State.trigFree; rw [taken_t]

/-! ### A change of port settings (R224, R370, R371; 02_pick_budget R44, R47) -/

/-- The list says nothing about the rates that the routes join. -/
theorem pushSched_rateBroken (q : Nat) (late : Bool) (w : Option Waiter) (chg : Change) (s k : State) :
    (pushSched q late w chg s).rateBroken k = s.rateBroken k := rfl

/-- A taken command's change of port settings goes on the list, or ends by the first of three faults in the configuration it leaves. -/
theorem requestPorts_taken {c : HostCmd} {s : State} {info : CmdInfo} {p q : Nat} {late : Bool} (chg : Change) (bad : State → Bool)
    (h : (s.taken c info).slotAt p = some (q, late)) :
    let v := s.asked c info q late chg
    let k := v.planned.configAt ((s.taken c info).judgePick q)
    requestPorts p (s.waiterOf c info) chg bad (s.taken c info) =
      if bad k then s.ended c info (.of stParam) id else if v.rateBroken k then s.ended c info (.of stRate) id
        else if v.inBudget q then v else s.ended c info (.of stBudget) id := by
  simp only [requestPorts, h, ite_bnot, State.asked, pushSched_rateBroken]
  rfl

/-! ### The port commands' own work -/

section
variable {c : HostCmd}

/-- A block of 1 to `n` sound records at an aligned address passes the checks of AES_CFG and TDM_CFG. -/
theorem portRecords_pass {n : Nat} {sound : Bool} {α : Type} (a b d x : α) (hr : portRsv c = true) (hlo : 1 ≤ par c 8 2)
    (hhi : par c 8 2 ≤ n) (ha : par c 0 8 % 8 = 0) (hs : sound = true) :
    (if ¬ portRsv c = true ∨ par c 8 2 < 1 ∨ n < par c 8 2 then a else if ¬ aligned8 (par c 0 8) = true then b
      else if ¬ sound = true then d else x) = x := by
  rw [if_neg (by simp [hr, hlo, hhi, Nat.not_lt.2]), if_neg (by simp [aligned8, ha]), if_neg (by simp [hs])]

/-- A port below 16 and an aligned address pass the checks of the three AES3 block commands. -/
theorem portBlock_pass {α : Type} (a b x : α) (hr : portRsv c = true) (hp : par c 10 1 < 16) (ha : par c 0 8 % 8 = 0) :
    (if ¬ portRsv c = true ∨ 16 ≤ par c 10 1 then a else if ¬ aligned8 (par c 0 8) = true then b else x) = x := by
  rw [if_neg (by simp [hr, Nat.not_le.2 hp]), if_neg (by simp [aligned8, ha])]

variable {s : State} (hd : s.inDormant = false) (hr : portRsv c = true)
include hd hr

section
variable {q : Nat} {late : Bool} (hlo : 1 ≤ par c 8 2) (ha : par c 0 8 % 8 = 0)
include hlo ha

theorem exec_aesCfg (h : s.accepts c aesCfgInfo = true) (hhi : par c 8 2 ≤ 16)
    (hs : (records16 (fit (16 * par c 8 2) c.data)).all aesRecordOk = true)
    (hq : (s.taken c aesCfgInfo).slotAt (par c 16 8) = some (q, late)) :
    let v := s.asked c aesCfgInfo q late (.aesCfg (fit (16 * par c 8 2) c.data))
    exec (.aesCfg c) s = .next (if v.rateBroken (v.planned.configAt ((s.taken c aesCfgInfo).judgePick q)) then
        s.ended c aesCfgInfo (.of stRate) id
      else if v.inBudget q then v else s.ended c aesCfgInfo (.of stBudget) id) := by
  refine (exec_outsideDormant rfl h hd).trans (congrArg Host.Outcome.next ?_)
  refine (portRecords_pass _ _ _ _ hr hlo hhi ha hs).trans ((requestPorts_taken _ _ hq).trans ?_)
  exact if_neg Bool.false_ne_true

theorem exec_tdmCfg (h : s.accepts c tdmCfgInfo = true) (hhi : par c 8 2 ≤ 8)
    (hs : (records16 (fit (16 * par c 8 2) c.data)).all tdmRecordOk = true)
    (hq : (s.taken c tdmCfgInfo).slotAt (par c 16 8) = some (q, late)) :
    let v := s.asked c tdmCfgInfo q late (.tdmCfg (fit (16 * par c 8 2) c.data))
    let k := v.planned.configAt ((s.taken c tdmCfgInfo).judgePick q)
    exec (.tdmCfg c) s = .next (if (records16 (fit (16 * par c 8 2) c.data)).any (slaveStopped k) then
        s.ended c tdmCfgInfo (.of stParam) id
      else if v.rateBroken k then s.ended c tdmCfgInfo (.of stRate) id
      else if v.inBudget q then v else s.ended c tdmCfgInfo (.of stBudget) id) := by
  refine (exec_outsideDormant rfl h hd).trans (congrArg Host.Outcome.next ?_)
  exact (portRecords_pass _ _ _ _ hr hlo hhi ha hs).trans (requestPorts_taken _ _ hq)

end

theorem exec_groupSet (h : s.accepts c groupSetInfo = true) (hg : par c 11 1 < 8) (hstart : s.trigFree (par c 12 1) 1 = true)
    (hstop : s.trigFree (par c 13 1) 2 = true) :
    exec (.groupSet c) s = .next (s.ended c groupSetInfo (.of stOK) (setGrp (par c 11 1) { s.grp (par c 11 1) with
      start := if par c 12 1 = 0xFF then none else some (par c 12 1)
      stop := if par c 13 1 = 0xFF then none else some (par c 13 1) })) := by
  refine (exec_outsideDormant rfl h hd).trans (congrArg Host.Outcome.next ?_)
  dsimp only
  rw [taken_trigFree, taken_trigFree, taken_grp, if_neg (by simp [hr, Nat.not_le.2 hg, hstart, hstop])]
  rfl

section
variable (hp : par c 10 1 < 16) (ha : par c 0 8 % 8 = 0)
include hp ha

theorem exec_aesCsSet (h : s.accepts c aesCsSetInfo = true) : exec (.aesCsSet c) s = .next (s.ended c aesCsSetInfo (.of stOK)
    (setTx (par c 10 1) { s.tx (par c 10 1) with csNext := some (fit 24 c.data) })) := by
  refine (exec_outsideDormant rfl h hd).trans (congrArg Host.Outcome.next ?_)
  refine (portBlock_pass _ _ _ hr hp ha).trans ?_
  rw [taken_tx]
  rfl

theorem exec_aesUserSet (h : s.accepts c aesUserSetInfo = true) : exec (.aesUserSet c) s = .next (s.ended c aesUserSetInfo (.of stOK)
    (setTx (par c 10 1) { s.tx (par c 10 1) with userNext := some (fit 48 c.data) })) := by
  refine (exec_outsideDormant rfl h hd).trans (congrArg Host.Outcome.next ?_)
  refine (portBlock_pass _ _ _ hr hp ha).trans ?_
  rw [taken_tx]
  rfl

theorem exec_aesUserGet (h : s.accepts c aesUserGetInfo = true) : exec (.aesUserGet c) s = .next (s.ended c aesUserGetInfo (.of stOK)
    (writeHost (par c 0 8) ((s.rx (par c 10 1)).userA ++ (s.rx (par c 10 1)).userB))) := by
  refine (exec_outsideDormant rfl h hd).trans (congrArg Host.Outcome.next ?_)
  refine (portBlock_pass _ _ _ hr hp ha).trans ?_
  rw [taken_rx]
  rfl

end
end

/-- Settles O42: each command's checks lead to the one operation that carries it out, AES_CFG and TDM_CFG to the request of a change of
port settings. -/
theorem portCommands : Obligations.PortCommands :=
  ⟨fun _ _ _ _ h hd hr hlo hhi ha hs hq => exec_aesCfg hd hr hlo ha h hhi hs hq,
    fun _ _ _ _ h hd hr hlo hhi ha hs hq => exec_tdmCfg hd hr hlo ha h hhi hs hq,
    fun _ _ h hd hr hg hstart hstop => exec_groupSet hd hr h hg hstart hstop,
    fun _ _ hd hr hp ha => ⟨exec_aesCsSet hd hr hp ha, exec_aesUserSet hd hr hp ha, exec_aesUserGet hd hr hp ha⟩⟩

end Sys2Proof.Machine
end

section
/-!
PROOFS. The statements of 08_filter_chain about the filter-chain commands (R256, R260, R261, R265, R267, R269, R270, R274, R282, R283) and
about stuck microphones and the end of a stimulus or a settling (R255, R272, R275).
-/
namespace Sys2Proof.Machine

/-! ### What taking a command leaves as it is -/

@[simp] theorem taken_fs (s : State) (c : HostCmd) (info : CmdInfo) : (s.taken c info).fs = s.fs := by
  unfold State.fs; rw [taken_t]

@[simp] theorem taken_fchBank (s : State) (c : HostCmd) (info : CmdInfo) : (s.taken c info).fchBank = s.fchBank := by
  unfold State.fchBank State.fchBank?; rw [taken_f]

/-! ### The filter-chain commands' own work -/

section
variable {c : HostCmd} {s : State} (hd : s.inDormant = false) (hr : fchRsv c = true)
include hd hr

/-- FCH_PDM_SET with no mode of 3 and a chain for its rate asks for its change (R256, R283). -/
theorem exec_fchPdmSet {q : Nat} {late : Bool} (h : s.accepts c fchPdmSetInfo = true) (hf : par c 13 1 < 4)
    (hmodes : anyTo 16 (fun m => decide (outMode (par c 24 4) m = 3)) = false)
    (hchain : (chainOf (bitOf (par c 13 1) 0) (s.taken c fchPdmSetInfo).planned.t.rate96).isSome = true)
    (hq : (s.taken c fchPdmSetInfo).slotAt (par c 16 8) = some (q, late)) : exec (.fchPdmSet c) s =
      .next (s.admitted c fchPdmSetInfo q late (.pdm (par c 12 1) (par c 13 1) (par c 24 4))) := by
  have sound : ¬ (¬ fchRsv c = true ∨ 4 ≤ par c 13 1 ∨ anyTo 16 (fun m => decide (outMode (par c 24 4) m = 3)) = true ∨
      (chainOf (bitOf (par c 13 1) 0) (s.taken c fchPdmSetInfo).planned.t.rate96).isNone = true) := by
    rintro (hbad | hbad | hbad | hbad)
    · exact hbad hr
    · exact Nat.not_lt.2 hbad hf
    · exact Bool.false_ne_true (hmodes.symm.trans hbad)
    · simp [Option.isNone_iff_eq_none.1 hbad] at hchain
  refine (exec_outsideDormant rfl h hd).trans (congrArg Host.Outcome.next ?_)
  dsimp only
  rw [if_neg sound, request_taken _ hq]

/-- FCH_RS_SET with records that fit the configuration `cfg` of its pick: what is left to check is the rates that they join (R260, R261). -/
theorem exec_fchRsSet {q : Nat} {late : Bool} (h : s.accepts c fchRsSetInfo = true) (hlo : 1 ≤ par c 8 4) (hhi : par c 8 4 ≤ 64)
    (ha : par c 0 8 % 8 = 0) (hq : (s.taken c fchRsSetInfo).slotAt (par c 16 8) = some (q, late)) :
    let raw := fit (16 * par c 8 4) c.data
    let cfg := (s.taken c fchRsSetInfo).planned.configAt ((s.taken c fchRsSetInfo).judgePick q)
    (records16 raw).all (rsRecordOk cfg.t.rate96 cfg.fs) = true → hasTwice (rsTargets cfg.f.rs (records16 raw)) = false →
    exec (.fchRsSet c) s = .next
      (if (records16 raw).all (fun b => !bitOf (byteAt b 1) 0 || cfg.targetRuns (getLE b 6 2) (getLE b 2 2) (getLE b 4 2)) = true then
        s.admitted c fchRsSetInfo q late (.resample raw)
      else s.ended c fchRsSetInfo (.of stRate) id) := by
  intro raw cfg hok htwice
  have fits : ¬ (¬ (records16 raw).all (rsRecordOk cfg.t.rate96 cfg.fs) = true ∨
      hasTwice (rsTargets cfg.f.rs (records16 raw)) = true) := by
    simp [hok, htwice]
  refine (exec_outsideDormant rfl h hd).trans (congrArg Host.Outcome.next ?_)
  dsimp only
  rw [if_neg (by simp [hr, hhi, Nat.not_lt.2 hlo]), if_neg (by simp [aligned8, ha]), hq]
  refine (if_neg fits).trans ?_
  rw [ite_not, request_taken _ hq]
  rfl

theorem exec_fchBankLoad (h : s.accepts c fchBankLoadInfo = true) (ha : par c 0 8 % 8 = 0) : exec (.fchBankLoad c) s =
    .next (if s.f.swap.isSome then s.ended c fchBankLoadInfo (.of stBusy) id else s.reads c fchBankLoadInfo .fch (par c 8 4)) := by
  refine (exec_outsideDormant rfl h hd).trans (congrArg Host.Outcome.next ?_)
  rw [if_neg (by simp [hr]), if_neg (by simp [aligned8, ha]), taken_f, startLoad_taken]

/-- A swap to a bank that is there or being loaded waits for the render sample after this one; a second one is BUSY (R269; log 62). -/
theorem exec_fchBankSwap (h : s.accepts c fchBankSwapInfo = true)
    (hb : s.f.loaded = true ∨ (s.taken c fchBankSwapInfo).loading .fch = true) :
    let u := s.taken c fchBankSwapInfo
    exec (.fchBankSwap c) s = .next (if s.f.swap.isSome then s.ended c fchBankSwapInfo (.of stBusy) id
      else { u with f := { u.f with swap := some (sampleOf u.fs u.t.now + 1, s.waiterOf c fchBankSwapInfo) } }) := by
  have sound : ¬ (¬ fchRsv c = true ∨ (¬ s.f.loaded = true ∧ ¬ (s.taken c fchBankSwapInfo).loading .fch = true)) := by
    rintro (hbad | ⟨hempty, hidle⟩)
    · exact hbad hr
    · exact hb.elim hempty hidle
  refine (exec_outsideDormant rfl h hd).trans (congrArg Host.Outcome.next ?_)
  rw [taken_f, if_neg sound, setF, taken_f]
  rfl

theorem exec_fchBankQuery (h : s.accepts c fchBankQueryInfo = true) (hl : s.fchBank.image.length ≤ par c 8 4)
    (ha : par c 0 8 % 8 = 0) : exec (.fchBankQuery c) s =
      .next (s.ended c fchBankQueryInfo (.of stOK) (writeHost (par c 0 8) s.fchBank.image)) := by
  refine (exec_outsideDormant rfl h hd).trans (congrArg Host.Outcome.next ?_)
  dsimp only
  rw [taken_fchBank, if_neg (by simp [hr, hl]), if_neg (by simp [aligned8, ha])]
  rfl

/-- FCH_SYNC_RESET asks for its reset as of the device time at which it is taken (R270). -/
theorem exec_fchSyncReset (h : s.accepts c fchSyncResetInfo = true) : exec (.fchSyncReset c) s =
    .next (s.ended c fchSyncResetInfo (.of stOK) (askReset (max s.t.now c.t))) := by
  refine (exec_outsideDormant rfl h hd).trans (congrArg Host.Outcome.next ?_)
  rw [if_neg (by simp [hr]), taken_t]
  rfl

end

/-- The reset falls on the render sample that starts at `t`, or else on the next one. -/
theorem askReset_eq (t : Nat) (s : State) : askReset t s = { s with f := { s.f with
    resets := s.f.resets ++ [if sampleStart s.fs (sampleOf s.fs t) = t then sampleOf s.fs t else sampleOf s.fs t + 1] } } := rfl

/-! ### FCH_STIM_SET (R274, R278) -/

section
variable {c : HostCmd} {s : State} (h : s.accepts c fchStimSetInfo = true)
include h

theorem exec_fchStimSet_outside (hm : s.m.mode ≠ .measure) :
    exec (.fchStimSet c) s = .next (s.ended c fchStimSetInfo (.of stMode) id) := by
  refine (exec_accepted (body := fchStimSetBody) rfl h).trans (congrArg Host.Outcome.next ?_)
  rw [fchStimSetBody, refusing, taken_m, if_pos (by simp [hm])]
  rfl

/-- In Measure the stimulus is judged by admission in the state that has it. -/
theorem exec_fchStimSet_inMeasure {st : Stimulus} (hm : s.m.mode = .measure) (hst : stimOf c s.fs = some st) (hr : fchRsv c = true) :
    let v := setF (fun f => { f with stim := st }) (s.taken c fchStimSetInfo)
    exec (.fchStimSet c) s = .next (if v.inBudget v.nextPick then
      s.ended c fchStimSetInfo (.of stOK) (setF (fun f => { f with stim := st }))
      else s.ended c fchStimSetInfo (.of stBudget) id) := by
  refine (exec_accepted (body := fchStimSetBody) rfl h).trans (congrArg Host.Outcome.next ?_)
  rw [fchStimSetBody, refusing, taken_m, taken_fs, if_neg (by simp [hm]), hst]
  exact if_neg (by simp [hr])

end

/-- Settles O24: each command's checks lead to the one operation that carries it out; FCH_RS_SET then branches on the rates that its
records join, and FCH_STIM_SET on the mode. -/
theorem filterChainCommands : Obligations.FilterChainCommands := by
  refine ⟨fun c s q late h hd hr hf hmodes hchain hq => exec_fchPdmSet hd hr h hf hmodes hchain hq,
    fun c s q late h hd hr hlo hhi ha hq hok htwice => ?_,
    fun c s h hd hr ha => exec_fchBankLoad hd hr h ha,
    fun c s h hd hr hb => exec_fchBankSwap hd hr h hb,
    fun c s h hd hr hl ha => exec_fchBankQuery hd hr h hl ha,
    fun c s h hd hr => ?_,
    fun c s st h => ⟨fun hm => exec_fchStimSet_outside h hm, fun hm hst hr => exec_fchStimSet_inMeasure h hm hst hr⟩⟩
  · have set := exec_fchRsSet hd hr h hlo hhi ha hq hok htwice
    exact ⟨fun same => set.trans (congrArg Host.Outcome.next (if_pos same)),
      fun differ => set.trans (congrArg Host.Outcome.next (if_neg (Bool.eq_false_iff.1 differ)))⟩
  · rw [exec_fchSyncReset hd hr h, State.ended, askReset_eq, taken_fs]
    rfl

/-! ### Stuck microphones and the end of a stimulus (R255, R275) -/

section
variable {m : Nat} {s : State} {x : Mic} (hx : nfind s.f.mics m = some x)
include hx

theorem pdmStuck_sticks (hen : outMode s.f.modes m = 1) (hrun : 4096 ≤ x.run) (hst : x.stuck = false) : pdmStuck m s =
    post 0x0357 m [] { s with f := { s.f with mics := nset s.f.mics m { x with stuck := true } } } := by
  simp only [pdmStuck, hx]
  exact if_pos ⟨hen, hrun, by simp [hst]⟩

theorem pdmUnstuck_restarts (hst : x.stuck = true) (hrun : x.run < 4096) : pdmUnstuck m s =
    { s with f := { s.f with mics := nset s.f.mics m { x.restart (s.fchNext + s.settleLen) with stuck := false } } } := by
  simp only [pdmUnstuck, hx]
  exact if_pos ⟨hst, hrun⟩

end

theorem stimulusEnd_stops {s : State} (hon : s.f.stimOn = true) (hend : s.f.stimEnd ≤ s.f.stimN) :
    stimulusEnd s = stopStimulus s := if_pos ⟨hon, hend⟩

/-- Settles O25: each row is its function in the state to which device time has run on, which no guard depends on; FCH_SETTLE_END is
device time alone (R272; log 62). -/
theorem filterChainRows : Obligations.FilterChainRows := by
  refine ⟨fun t m s x hx hen hrun hst => ?_, fun t m s x hx hst hrun => ?_, fun t s hon hend => ?_, fun t s => rfl⟩
  · exact congrArg Host.Outcome.next (pdmStuck_sticks (s := advance t s) hx hen hrun hst)
  · exact congrArg Host.Outcome.next (pdmUnstuck_restarts (s := advance t s) hx hst hrun)
  · exact congrArg Host.Outcome.next (stimulusEnd_stops (s := advance t s) hon hend)

end Sys2Proof.Machine
end

section
/-!
PROOFS. The statements of 09_batten_cores and 10_batten_isa about the Batten commands (R298, R306–R309, R313, R314) and about a logical
core's pick: entry, steps, faults, checkpoint and the move to a spare (R289, R299, R300, R302, R304, R316, R340).
-/
namespace Sys2Proof.Machine

/-! ### What taking a command leaves as it is -/

@[simp] theorem taken_pcore (s : State) (c : HostCmd) (info : CmdInfo) (k : Nat) : (s.taken c info).pcore k = s.pcore k := by
  unfold State.pcore; rw [taken_c]

@[simp] theorem taken_lcore (s : State) (c : HostCmd) (info : CmdInfo) (l : Nat) : (s.taken c info).lcore l = s.lcore l := by
  unfold State.lcore; rw [taken_c]

@[simp] theorem taken_lprog (s : State) (c : HostCmd) (info : CmdInfo) (l : Nat) : (s.taken c info).lprog l = s.lprog l := by
  unfold State.lprog; rw [taken_lcore, taken_pcore]

@[simp] theorem taken_instCount (s : State) (c : HostCmd) (info : CmdInfo) (l : Nat) :
    (s.taken c info).instCount l = s.instCount l := by
  unfold State.instCount; rw [taken_lprog]

@[simp] theorem taken_startable (s : State) (c : HostCmd) (info : CmdInfo) (l : Nat) :
    (s.taken c info).startable l = s.startable l := by
  simp only [State.startable, taken_lcore, taken_lprog, taken_pcore]

/-! ### The Batten commands' own work -/

section
variable {c : HostCmd} {s : State} (hd : s.inDormant = false)
include hd

theorem exec_batStop_idle (h : s.accepts c batStopInfo = true) (hrun : (s.lcore (par c 12 1)).runs = false) :
    exec (.batStop c) s = .next (s.ended c batStopInfo (.of stParam) id) := by
  refine (exec_outsideDormant rfl h hd).trans (congrArg Host.Outcome.next ?_)
  dsimp only
  rw [taken_lcore, if_pos (by simp [hrun])]
  rfl

section
variable (hr : batRsv c = true)
include hr

section
variable (hl : par c 12 1 < 32)
include hl

theorem exec_batLoad (h : s.accepts c batLoadInfo = true) (ha : par c 0 8 % 8 = 0) (ht : par c 24 8 % 8 = 0) :
    exec (.batLoad c) s = .next (if (s.taken c batLoadInfo).batBusy (par c 12 1) then s.ended c batLoadInfo (.of stBusy) id
      else s.reads c batLoadInfo (.bat (par c 12 1)) (batLoadArg (par c 8 4) (par c 32 4))) := by
  refine (exec_outsideDormant rfl h hd).trans (congrArg Host.Outcome.next ?_)
  dsimp only
  rw [if_neg (by simp [hr, hl]), if_neg (by simp [aligned8, ha, ht]), startLoad_taken]

/-- What BAT_START does behind the checks of its block, in their order (R307, R309). -/
theorem exec_batStart (h : s.accepts c batStartInfo = true) : exec (.batStart c) s = .next
    (if (s.taken c batStartInfo).batBusy (par c 12 1) then s.ended c batStartInfo (.of stBusy) id
    else if (s.startable (par c 12 1)).isNone then s.ended c batStartInfo (.of stParam) id
    else request (par c 16 8) (s.waiterOf c batStartInfo) (.batStart (par c 12 1)) true (s.taken c batStartInfo)) := by
  refine (exec_outsideDormant rfl h hd).trans (congrArg Host.Outcome.next ?_)
  dsimp only
  rw [if_neg (by simp [hr, hl]), taken_startable]
  rfl

theorem exec_batStop_running {q : Nat} {late : Bool} (h : s.accepts c batStopInfo = true)
    (hrun : (s.lcore (par c 12 1)).runs = true) (hq : (s.taken c batStopInfo).slotAt (par c 16 8) = some (q, late)) :
    exec (.batStop c) s = .next (s.admitted c batStopInfo q late (.batStop (par c 12 1))) := by
  refine (exec_outsideDormant rfl h hd).trans (congrArg Host.Outcome.next ?_)
  dsimp only
  rw [taken_lcore, if_neg (by simp [hr, hl, hrun]), request_taken _ hq]

theorem exec_batCkptRead {z : Slot} (h : s.accepts c batCkptReadInfo = true) (hi : par c 13 1 < s.instCount (par c 12 1))
    (hz : (s.lcore (par c 12 1)).newest (par c 13 1) = some z) (ha : par c 0 8 % 8 = 0) :
    let rep := leBytes 8 z.tag ++ z.words.foldr (fun v acc => leBytes 8 v ++ acc) []
    rep.length ≤ par c 8 4 →
    exec (.batCkptRead c) s = .next (s.ended c batCkptReadInfo (.of stOK) (writeHost (par c 0 8) rep)) := by
  intro rep hroom
  refine (exec_outsideDormant rfl h hd).trans (congrArg Host.Outcome.next ?_)
  dsimp only
  rw [taken_instCount, taken_lcore, if_neg (by simp [hr, hl, hi]), hz]
  refine (if_neg (Nat.not_lt.2 hroom)).trans (if_neg ?_)
  simp [aligned8, ha]

end

theorem exec_batQuery (h : s.accepts c batQueryInfo = true) (hroom : 2048 ≤ par c 8 4) (ha : par c 0 8 % 8 = 0) :
    exec (.batQuery c) s = .next (s.ended c batQueryInfo (.of stOK) (fun u => writeHost (par c 0 8)
      ((List.range 32).foldr (fun l acc => u.batReport l ++ acc) []) u)) := by
  refine (exec_outsideDormant rfl h hd).trans (congrArg Host.Outcome.next ?_)
  rw [if_neg (by simp [hr, hroom]), if_neg (by simp [aligned8, ha])]
  rfl

end
end

/-- Settles O26: each command's checks lead to the one operation that carries it out; BAT_START's two further checks are its cases, and
a start or stop that is asked for passes admission. -/
theorem battenCommands : Obligations.BattenCommands := by
  refine ⟨fun c s h hd hr hl ha ht => exec_batLoad hd hr hl h ha ht, fun c s q late h hd hr hl => ?_,
    fun c s q late h hd hr hl => ⟨exec_batStop_idle hd h, exec_batStop_running hd hr hl h⟩,
    fun c s h hd hr hroom ha => exec_batQuery hd hr h hroom ha,
    fun c s z h hd hr hl hi hz ha => exec_batCkptRead hd hr hl h hi hz ha⟩
  have start := exec_batStart hd hr hl h
  refine ⟨fun hbusy => ?_, fun hfree => ⟨fun hnone => ?_, fun hsome hq => ?_⟩⟩
  · rw [start, if_pos hbusy]
  · rw [start, if_neg (by simp [hfree]), if_pos (by simp [hnone])]
  · rw [start, if_neg (by simp [hfree]), if_neg (by simp [Option.isSome_iff_ne_none.1 hsome]), request_taken _ hq]

/-! ### A step of a running core (R293, R299, R300, R316, R317, R338, R340) -/

/-- Errors found in the instruction word that the core fetches. -/
def fetchErrors (l : Nat) (errs : List EccError) (s : State) : List EccError :=
  s.errorsIn [(batMem (s.lcore l).phys 0, (s.lcore l).regs.pc)] errs

/-- The core has fetched its instruction word. -/
def fetched (l : Nat) (errs : List EccError) (s : State) : State := coreErrors (fetchErrors l errs s) s

/-- The instruction word at the core's program counter. -/
def State.stepWord (s : State) (l : Nat) : Nat := (s.pcore (s.lcore l).phys).word (s.lcore l).regs.pc

/-- Errors found in the data words that the step reads. -/
def readErrors (l : Nat) (errs : List EccError) (s : State) : List EccError :=
  (fetched l errs s).errorsIn
    ((dataWords moveReads (s.stepWord l) (s.lcore l).regs).map (fun a => (batMem (s.lcore l).phys (1 + a.1), a.2))) errs

/-- The core has read its data words too. -/
def dataRead (l : Nat) (errs : List EccError) (s : State) : State := coreErrors (readErrors l errs s) (fetched l errs s)

/-- Registers and memories X and Y that the step leaves. -/
def State.stepResult (s : State) (l : Nat) : BatRegs × NMap Nat × NMap Nat :=
  execWord (s.stepWord l) (s.lcore l).regs (s.pcore (s.lcore l).phys).x (s.pcore (s.lcore l).phys).y

/-- The step has written both memories. -/
def executed (l : Nat) (errs : List EccError) (s : State) : State :=
  (dataWords (fun m => mop m == 2) (s.stepWord l) (s.lcore l).regs).foldl
    (fun st a => wordWritten (batMem (s.lcore l).phys (1 + a.1)) a.2 st)
    (putPcore (s.lcore l).phys
      { s.pcore (s.lcore l).phys with x := (s.stepResult l).2.1, y := (s.stepResult l).2.2 } (dataRead l errs s))

/-- The core after a step that faults nowhere: it goes on, or WAITP ends a replay or begins the checkpoint. -/
def stepEnd (l : Nat) (p : BatProg) (errs : List EccError) (s : State) : State :=
  let x := s.lcore l
  let v := executed l errs s
  let wait := decide (batOp (s.stepWord l) = 0x36)
  if wait && x.replay then endReplay l p (putLcore l { x with steps := x.steps + 1 } v)
  else
    let slots := if wait then nmod { tag := 0, words := [], valid := false } x.slots (2 * x.inst + v.m.pick % 2)
        (fun z => { z with valid := false }) else x.slots
    putLcore l { x with
      regs := (s.stepResult l).1, steps := x.steps + 1, phase := if wait then .checkpoint else .running, slots := slots } v

section
variable {l : Nat} {s : State} {p : BatProg}

section
variable (errs : List EccError) (hp : s.lprog l = some p) (hrun : (s.lcore l).phase = .running)
include hp hrun

/-- The checks of a step in their order: the declared steps, the instruction word, its legality, the data words. -/
theorem batStep_running : batStep l errs s =
    if p.steps s.t.pickLen < (s.lcore l).steps + 1 then batFaultNow l 1 s
    else if (fetchErrors l errs s).any (·.dbl) then batFaultNow l 0 (fetched l errs s)
    else if illegalWord (s.stepWord l) (s.lcore l).regs then batFaultNow l 2 (fetched l errs s)
    else if (readErrors l errs s).any (·.dbl) then batFaultNow l 0 (dataRead l errs s)
    else stepEnd l p errs s := by
  simp only [batStep, hp]
  exact if_neg (by simp [hrun])

theorem batStep_beyond (hb : p.steps s.t.pickLen < (s.lcore l).steps + 1) : batStep l errs s = batFaultNow l 1 s :=
  (batStep_running errs hp hrun).trans (if_pos hb)

section
variable {errs} (hs : (s.lcore l).steps + 1 ≤ p.steps s.t.pickLen)
include hs

theorem batStep_badFetch (hf : (fetchErrors l errs s).any (·.dbl) = true) :
    batStep l errs s = batFaultNow l 0 (fetched l errs s) := by
  rw [batStep_running errs hp hrun, if_neg (Nat.not_lt.2 hs), if_pos hf]

variable (hf : (fetchErrors l errs s).any (·.dbl) = false)
include hf

theorem batStep_illegal (hi : illegalWord (s.stepWord l) (s.lcore l).regs = true) :
    batStep l errs s = batFaultNow l 2 (fetched l errs s) := by
  rw [batStep_running errs hp hrun, if_neg (Nat.not_lt.2 hs), if_neg (Bool.eq_false_iff.1 hf), if_pos hi]

variable (hi : illegalWord (s.stepWord l) (s.lcore l).regs = false)
include hi

theorem batStep_badRead (hr : (readErrors l errs s).any (·.dbl) = true) :
    batStep l errs s = batFaultNow l 0 (dataRead l errs s) := by
  rw [batStep_running errs hp hrun, if_neg (Nat.not_lt.2 hs), if_neg (Bool.eq_false_iff.1 hf), if_neg (Bool.eq_false_iff.1 hi),
    if_pos hr]

theorem batStep_legal (hr : (readErrors l errs s).any (·.dbl) = false) : batStep l errs s = stepEnd l p errs s := by
  rw [batStep_running errs hp hrun, if_neg (Nat.not_lt.2 hs), if_neg (Bool.eq_false_iff.1 hf), if_neg (Bool.eq_false_iff.1 hi),
    if_neg (Bool.eq_false_iff.1 hr)]

end
end

/-- A word that is not WAITP: the core runs on. -/
theorem stepEnd_runs {errs : List EccError} (hrun : (s.lcore l).phase = .running) (hw : batOp (s.stepWord l) ≠ 0x36) :
    stepEnd l p errs s =
      putLcore l { s.lcore l with regs := (s.stepResult l).1, steps := (s.lcore l).steps + 1 } (executed l errs s) := by
  simp [stepEnd, hw, ← hrun]

/-- WAITP that ends no replay: the copy into the slot of the pick begins (R299). -/
theorem stepEnd_waits {errs : List EccError} (hw : batOp (s.stepWord l) = 0x36) (hn : (s.lcore l).replay = false) :
    stepEnd l p errs s = putLcore l { s.lcore l with
      regs := (s.stepResult l).1, steps := (s.lcore l).steps + 1, phase := .checkpoint,
      slots := nmod { tag := 0, words := [], valid := false } (s.lcore l).slots
        (2 * (s.lcore l).inst + (executed l errs s).m.pick % 2) (fun z => { z with valid := false }) } (executed l errs s) := by
  simp [stepEnd, hw, hn]

end

/-! ### The checkpoint (R293, R299, R300) -/

/-- State words that the declared steps let the core copy. -/
def copyRoom (l : Nat) (p : BatProg) (s : State) : Nat := min p.stateW (8 * (p.steps s.t.pickLen - (s.lcore l).steps))

/-- First word of the state region that the core copies. -/
def copyBase (l : Nat) (p : BatProg) (s : State) : Nat := p.stateBase s.t.pickLen (s.lcore l).inst

/-- Errors found in those words. -/
def copyErrors (l : Nat) (p : BatProg) (errs : List EccError) (s : State) : List EccError :=
  s.errorsIn ((List.range (copyRoom l p s)).map (fun k => (batMem (s.lcore l).phys 1, copyBase l p s + k))) errs

/-- The core has copied up to step `last` of the copy: the errors found so far are counted. -/
def copiedTo (l : Nat) (p : BatProg) (errs : List EccError) (last : Nat) (s : State) : State :=
  coreErrors ((copyErrors l p errs s).filter (fun e => decide ((e.word - copyBase l p s) / 8 ≤ last))) s

/-- The slot that holds the words copied, and the instance that follows. -/
def copyEnd (l : Nat) (p : BatProg) (s v : State) : State :=
  let x := s.lcore l
  let steps := x.steps + ckptSteps p
  let z : Slot := { tag := v.m.pick, valid := true,
                    words := (List.range p.stateW).map (fun k => nget 0 (v.pcore x.phys).x (copyBase l p s + k)) }
  putLcore l { x with
    slots := nset x.slots (2 * x.inst + v.m.pick % 2) z, steps := steps, total := x.total + steps + 8,
    phase := if p.insts.length ≤ x.inst + 1 then .done else .waiting, inst := x.inst + 1 } v

section
variable {l : Nat} {errs : List EccError} {s : State} {p : BatProg} (hp : s.lprog l = some p) (hc : (s.lcore l).phase = .checkpoint)
include hp hc

/-- A double-bit error in a word that is copied. -/
theorem checkpointDone_poisoned {e : EccError} (he : (copyErrors l p errs s).find? (·.dbl) = some e) :
    let last := (e.word - copyBase l p s) / 8
    checkpointDone l errs s =
      batFaultNow l 0 (putLcore l { s.lcore l with steps := (s.lcore l).steps + last } (copiedTo l p errs last s)) := by
  unfold copyErrors copyRoom copyBase at he
  simp only [checkpointDone, hp, hc, he]
  rfl

section
variable (he : (copyErrors l p errs s).find? (·.dbl) = none)
include he

/-- Without one the copy goes as far as the declared steps let it. -/
theorem checkpointDone_clean : checkpointDone l errs s =
    if copyRoom l p s < p.stateW then
      batFaultNow l 1 (putLcore l { s.lcore l with steps := p.steps s.t.pickLen } (copiedTo l p errs (copyRoom l p s) s))
    else copyEnd l p s (copiedTo l p errs (copyRoom l p s) s) := by
  unfold copyErrors copyRoom copyBase at he
  simp only [checkpointDone, hp, hc, he]
  rfl

theorem checkpointDone_overrun (hroom : copyRoom l p s < p.stateW) : checkpointDone l errs s =
    batFaultNow l 1 (putLcore l { s.lcore l with steps := p.steps s.t.pickLen } (copiedTo l p errs (copyRoom l p s) s)) :=
  (checkpointDone_clean hp hc he).trans (if_pos hroom)

theorem checkpointDone_copied (hroom : p.stateW ≤ copyRoom l p s) :
    checkpointDone l errs s = copyEnd l p s (copiedTo l p errs (copyRoom l p s) s) :=
  (checkpointDone_clean hp hc he).trans (if_neg (Nat.not_lt.2 hroom))

end
end

/-! ### Entry and move (R289, R302, R304) -/

section
variable {l : Nat} {errs : List EccError} {s : State}

theorem instanceEntry_enters (h : s.canEnter l = true) : instanceEntry l errs s = enterInstance l errs s := if_pos h

/-- A core awaits its move only with a program on its physical core. -/
theorem lprog_isSome_of_awaitsMove (h : s.awaitsMove l = true) : (s.lprog l).isSome = true := by
  simp only [State.awaitsMove, Bool.and_eq_true] at h
  obtain ⟨⟨-, hprog⟩, -⟩ := h
  exact hprog

/-- Of the cores that faulted in one pick the lowest moves. -/
theorem spareMove_moves (h : s.awaitsMove l = true)
    (hlow : ∀ k, k < l → s.awaitsMove k = true → (s.lcore k).faultAt ≠ (s.lcore l).faultAt) :
    spareMove l errs s = batMove l errs s := by
  refine if_pos ⟨h, ?_⟩
  simpa [anyTo] using hlow

theorem batMove_noSpare {p : BatProg} (hp : s.lprog l = some p) (hnone : s.spares = []) : batMove l errs s =
    post 0x0703 l [] (putLcore l { s.lcore l with
      st := 4, phase := .done, repeats := (s.lcore l).repeats && decide ((s.lcore l).faultAt = s.m.pick) } s) := by
  simp only [batMove, hnone, hp]

end

/-- Settles O27: each row is its function in the state to which device time has run on, which no guard depends on; a step and a
checkpoint then end in the first of their checks that fails, or go on. -/
theorem battenPickRows : Obligations.BattenPickRows := by
  refine ⟨fun t l errs s h => ?_, fun t l errs s p hp hrun => ⟨fun hb => ?_, fun hs => ⟨fun hf => ?_, fun hf => ⟨fun hi => ?_, fun hi =>
    ⟨fun hr => ?_, fun hr => ⟨fun hw => ?_, fun hw hn => ?_⟩⟩⟩⟩⟩,
    fun t l errs s p hp hc => ⟨fun e he => ?_, fun he => ⟨fun hroom => ?_, fun hroom => ?_⟩⟩,
    fun t l errs s h hlow => ⟨?_, fun hnone => ?_⟩⟩
  · exact congrArg Host.Outcome.next (instanceEntry_enters (s := advance t s) h)
  · exact congrArg Host.Outcome.next (batStep_beyond (s := advance t s) errs hp hrun hb)
  · exact congrArg Host.Outcome.next (batStep_badFetch (s := advance t s) hp hrun hs hf)
  · exact congrArg Host.Outcome.next (batStep_illegal (s := advance t s) hp hrun hs hf hi)
  · exact congrArg Host.Outcome.next (batStep_badRead (s := advance t s) hp hrun hs hf hi hr)
  · exact congrArg Host.Outcome.next ((batStep_legal (s := advance t s) hp hrun hs hf hi hr).trans
      (stepEnd_runs (s := advance t s) hrun hw))
  · exact congrArg Host.Outcome.next ((batStep_legal (s := advance t s) hp hrun hs hf hi hr).trans
      (stepEnd_waits (s := advance t s) hw hn))
  · exact congrArg Host.Outcome.next (checkpointDone_poisoned (s := advance t s) hp hc he)
  · exact congrArg Host.Outcome.next (checkpointDone_overrun (s := advance t s) hp hc he hroom)
  · exact congrArg Host.Outcome.next (checkpointDone_copied (s := advance t s) hp hc he hroom)
  · exact congrArg Host.Outcome.next (spareMove_moves (s := advance t s) h hlow)
  · obtain ⟨p, hp⟩ := Option.isSome_iff_exists.1 (lprog_isSome_of_awaitsMove h)
    exact congrArg Host.Outcome.next ((spareMove_moves (s := advance t s) h hlow).trans
      (batMove_noSpare (s := advance t s) hp hnone))

end Sys2Proof.Machine
end

section
/-!
PROOFS. The statement of 11_audio_ports about the rows of the ports (R345–R350, R352, R353, R357, R359, R361, R365).
-/
namespace Sys2Proof.Machine

/-! ### Input frames (R346–R349) -/

section
variable {p : Nat} {slots : List Nat} {subs : List Subframe} {s : State}

theorem portFrame_tdm (hp : p < 8) : portFrame p slots subs s = tdmFrame p slots s := if_pos hp

theorem portFrame_aes {a b : Subframe} (hlo : 8 ≤ p) (hhi : p < 24) :
    portFrame p slots (a :: b :: subs) s = aesFrame (p - 8) a b s := by
  rw [portFrame, if_neg (Nat.not_lt.2 hlo), if_pos hhi]

/-- A running input takes the frame as the sample that has just ended; the edge of a slave's check changes neither rate nor time. -/
theorem tdmFrame_runs (hp : p < 8) (hr : (s.tin p).run = true) :
    tdmFrame p slots s =
      let u := if (s.tdm p).inSlave then setChk (2 * p) ((s.chk (2 * p)).edge s.fs s.t.now) s else s
      let n := slotsAt s.fs
      acceptFrame p (sampleOf s.fs (s.t.now - 1)) ((List.range n).map (fun i => signed 24 (lget 0 slots i / 256 % 2 ^ 24)))
        ((List.range n).map (fun i => s.t.now - 65536 * 1000000000 / s.fs * (n - 1 - i) / n)) u := by
  rw [tdmFrame, if_pos ⟨hr, hp⟩]
  cases (s.tdm p).inSlave with
  | false => rfl
  | true => rfl

theorem acceptFrame_tooMany {k : Nat} {vals : List Int} {ends : List Nat} (h : k < s.inputNext p) :
    acceptFrame p k vals ends s = slip p 0 1 k s := if_pos h

end

/-! ### Receivers (R352, R353, R357) -/

section
variable {p : Nat} {s : State}

/-- A receiver that locks is muted, since it has kept no block yet. -/
theorem aesLock_locks (hp : p < 16) (he : (s.aes p).rxEn = true) (hl : (s.rx p).lock = false) (hg : (s.rx p).good = 1536)
    (hr : rateOk s.fs (s.rx p).ends = true) :
    aesLock p s = post 0x0301 (8 + p) [] (setRx p { s.rx p with
      lock := true, since := false, next := sampleOf s.fs s.t.now, muted := true } s) := by
  have hmay : s.mayLock p = true := by simp [State.mayLock, he, hl, hg, hr]
  rw [aesLock, if_pos ⟨hmay, hp⟩]
  simp [AesRx.remute]

theorem aesUnlock_unlocks {code : Nat} (hl : (s.rx p).lock = true) (h : s.unlockReason p = some code) :
    aesUnlock p s = post 0x0302 (8 + p) (leBytes 1 code) (setRx p { s.rx p with
      lock := false, since := false, pos := none, good := 0, zPos := none, viol := 0, ends := [], muted := true } s) := by
  simp only [aesUnlock, h, if_pos hl]
  rfl

theorem nonAudioEnd_ends (hn : (s.rx p).nonaudio = true) (hc : 8192 ≤ (s.rx p).clean) :
    nonAudioEnd p s = post 0x0304 (8 + p) [] (setRx p { s.rx p with
      nonaudio := false, muted := !(s.rx p).lock || !(s.rx p).since } s) := by
  refine (if_pos ⟨hn, hc⟩).trans ?_
  simp [AesRx.remute]

end

/-! ### Output frames (R345, R350, R359; 07_heddle R240–R244) -/

/-- The output frame that starts at the device time. -/
def State.frameDue (s : State) (p : Nat) : Nat := frameAt (s.outRate p) (s.outOfs p) s.t.now

/-- The direction of an output in that frame, after a start or a stop that is due. -/
def State.dirDue (s : State) (p : Nat) : OutDir := { (s.dir p).atFrame (decide (p < 8)) (s.frameDue p) with frame := s.frameDue p }

/-- The state in which the frame has begun: a slave's check has seen its edge, and the direction's drive follows its state. -/
def beginFrame (p : Nat) (s : State) : State :=
  let d := s.dirDue p
  let u := if p < 8 ∧ (s.tdm p).outSlave ∧ ¬ d.unrelated then setChk (2 * p + 1) ((s.chk (2 * p + 1)).edge (s.outRate p) s.t.now) s else s
  setA (fun a => { a with driven := nset a.driven p (u.outputsDrive && decide (d.st ≠ 0)) }) (setDir p d u)

/-- The words of frame `m` at frame rate `fp`: zero outside audio, and absent where the core has not written them. -/
def State.frameWords (s : State) (p fp m : Nat) (live : Bool) : List (Option Int) :=
  (s.outCodes p).map (fun c => if live then (match s.cutInto m c with
    | some x => some x
    | none => s.outWord fp m c) else some 0)

/-- What is sent for these words: an absent one is the last frame's again. -/
def State.frameValues (s : State) (p : Nat) (words : List (Option Int)) : List Int :=
  words.zipIdx.map (fun w => w.1.getD (lget 0 (nget [] s.a.sent p) w.2))

/-- The words of frame `m` are taken: an absent one in audio is an underrun, and cut-through samples up to the frame are gone. -/
def takeWords (p m : Nat) (live : Bool) (words : List (Option Int)) (s : State) : State :=
  let x := if live && words.any (·.isNone) then slip p 1 0 m s else s
  setA (fun a => { a with cutNext := a.cutNext.filter (fun z => !((x.outCodes p).contains z.2.1 && decide (z.1 ≤ m))) }) x

/-- A transmitter as it sends a frame: a lead-in begins at a block's start, where the blocks that the host left are taken up. -/
def AesTx.atFrame (e : AesTx) (d : OutDir) : AesTx :=
  let e := if d.sent = 0 ∧ d.st = 1 then { e with pos := 0 } else e
  if e.pos = 0 then { e with cs := e.csNext.getD e.cs, csNext := none, user := e.userNext.getD e.user, userNext := none } else e

/-- The channel-status bit, the two user bits and Z of transmitter `q`'s frame. -/
def State.blockBits (s : State) (q : Nat) (e : AesTx) : List Int :=
  let cs := s.csSent q e.cs
  let bit := fun (b : List Byte) (o : Nat) => b2n (bitOf (byteAt b (o + e.pos / 8)) (e.pos % 8))
  [(bit cs 0 : Nat), (bit e.user 0 : Nat), (bit e.user 24 : Nat), (b2n (decide (e.pos = 0)) : Nat)]

section
variable {p : Nat} {s : State} (hrun : s.m.dpRun = true) (hp : p < 24)
include hrun hp

theorem outputGuard_false : ¬ (¬ s.m.dpRun = true ∨ 24 ≤ p) := by
  simp [hrun, Nat.not_le.2 hp]

theorem outputFrame_stopped (hst : (s.dirDue p).st = 0) : outputFrame p s = putSent p [] (beginFrame p s) := by
  rw [outputFrame, if_neg (outputGuard_false hrun hp)]
  exact if_pos hst

section
variable (hst : (s.dirDue p).st ≠ 0)
include hst

theorem outputFrame_tdm (hq : p < 8) :
    outputFrame p s =
      let d := s.dirDue p
      let v := beginFrame p s
      let live := v.outLive d d.frame
      let words := v.frameWords p (s.outRate p) d.frame live
      setDir p { d with sent := d.sent + 1 } (putSent p (v.frameValues p words) (takeWords p d.frame live words v)) := by
  rw [outputFrame, if_neg (outputGuard_false hrun hp)]
  exact (if_neg hst).trans (if_pos hq)

theorem outputFrame_aes (hq : 8 ≤ p) :
    outputFrame p s =
      let d := s.dirDue p
      let v := beginFrame p s
      let live := v.outLive d d.frame
      let words := v.frameWords p (s.outRate p) d.frame live
      let y := takeWords p d.frame live words v
      let e := (y.tx (p - 8)).atFrame d
      setDir p { d with sent := d.sent + 1 } (setTx (p - 8) { e with pos := (e.pos + 1) % 192 }
        (putSent p (v.frameValues p words ++ y.blockBits (p - 8) e) y)) := by
  rw [outputFrame, if_neg (outputGuard_false hrun hp)]
  exact (if_neg hst).trans (if_neg (Nat.not_lt.2 hq))

end
end

/-! ### The end of a lead (R361, R362) -/

section
variable {q : Nat} {s : State} (hq : q < 16) (hz : 192 * (s.aes q).zb ≤ (s.dir (8 + q)).sent)
include hq hz

theorem leadEnd_leadIn (hst : (s.dir (8 + q)).st = 1) :
    leadEnd q s = setDir (8 + q) { s.dir (8 + q) with st := 2, sent := 0 } s :=
  (if_pos ⟨hz, hq⟩).trans (if_pos hst)

/-- After the lead-out comes the lead-in of a restart that waits, or idleness. -/
theorem leadEnd_leadOut (hst : (s.dir (8 + q)).st = 3) :
    leadEnd q s =
      let d := s.dir (8 + q)
      setDir (8 + q)
        (if d.pending then { d with st := 1, sent := 0, pending := false, startAt := none } else { d with st := 0, sent := 0, stopAt := none }) s := by
  refine (if_pos ⟨hz, hq⟩).trans ((if_neg (ne_of_eq_of_ne hst (by decide))).trans ((if_pos hst).trans ?_))
  exact (apply_ite (fun d => setDir (8 + q) d s) _ _ _).symm

end

/-! ### Slave directions and groups (R347, R348, R365) -/

section
variable {p dir : Nat} {s : State} (hp : p < 8) (hs : s.isSlave p dir = true)
include hp hs

theorem slaveUnrelated_tells (hu : s.unrelated p dir = false)
    (hc : (s.chk (2 * p + min dir 1)).bad = true ∨ (s.chk (2 * p + min dir 1)).missing (s.slaveRate p dir) s.t.now = true) :
    slaveUnrelated p dir s = post 0x0307 p [] (setUnrelated p dir true
      (setChk (2 * p + min dir 1) { s.chk (2 * p + min dir 1) with badAt := s.t.now } s)) :=
  if_pos ⟨hp, hs, by simp [hu], hc⟩

theorem slaveResume_tells (hu : s.unrelated p dir = true) (ht : (s.chk (2 * p + min dir 1)).badAt + secU ≤ s.t.now)
    (hm : dir = 0 → (s.chk (2 * p + min dir 1)).missing s.fs s.t.now = false) :
    slaveResume p dir s = post 0x0308 p [] (setUnrelated p dir false
      (setChk (2 * p + min dir 1) { SlaveChk.reset with pos := (s.chk (2 * p + min dir 1)).pos } s)) :=
  if_pos ⟨hp, hs, hu, ht, fun ⟨hd, hmiss⟩ => Bool.false_ne_true ((hm hd).symm.trans hmiss)⟩

end

theorem groupReal_tells {g : Nat} {s : State} (hg : g < 8) (hr : (s.grp g).running = true) (hn : (s.grp g).real = false)
    (ht : frameStart s.fs 0 (s.grp g).firstReal ≤ s.t.now) :
    groupReal g s = post 0x0309 g [] (setGrp g { s.grp g with real := true } s) :=
  if_pos ⟨hg, hr, by simp [hn], ht⟩

/-- Settles O43: each row is its function in the state to which device time has run on, in the case that its conditions name. -/
theorem portRows : Obligations.PortRows := by
  refine ⟨fun t p slots subs s hp hr => ?_, fun t p slots a b r s hlo hhi => ?_, fun p k vals ends s h => acceptFrame_tooMany h,
    fun t p s hp he hl hg hr => ?_, fun t p code s hl h => ?_, fun t p s hn hc => ?_,
    fun t p s hrun hp => ⟨fun hst => ?_, fun hst => ⟨fun hq => ?_, fun hq => ?_⟩⟩,
    fun t q s hq hz => ⟨fun hst => ?_, fun hst => ?_⟩,
    fun t p dir s hp hs => ⟨fun hu hc => ?_, fun hu ht hm => ?_⟩, fun t g s hg hr hn ht => ?_⟩
  · exact congrArg Host.Outcome.next ((portFrame_tdm hp).trans (tdmFrame_runs (s := advance t s) hp hr))
  · exact congrArg Host.Outcome.next (portFrame_aes hlo hhi)
  · exact congrArg Host.Outcome.next (aesLock_locks (s := advance t s) hp he hl hg hr)
  · exact congrArg Host.Outcome.next (aesUnlock_unlocks (s := advance t s) hl h)
  · exact congrArg Host.Outcome.next (nonAudioEnd_ends (s := advance t s) hn hc)
  · exact congrArg Host.Outcome.next (outputFrame_stopped (s := advance t s) hrun hp hst)
  · exact congrArg Host.Outcome.next (outputFrame_tdm (s := advance t s) hrun hp hst hq)
  · exact congrArg Host.Outcome.next (outputFrame_aes (s := advance t s) hrun hp hst hq)
  · exact congrArg Host.Outcome.next (leadEnd_leadIn (s := advance t s) hq hz hst)
  · exact congrArg Host.Outcome.next (leadEnd_leadOut (s := advance t s) hq hz hst)
  · exact congrArg Host.Outcome.next (slaveUnrelated_tells (s := advance t s) hp hs hu hc)
  · exact congrArg Host.Outcome.next (slaveResume_tells (s := advance t s) hp hs hu ht hm)
  · exact congrArg Host.Outcome.next (groupReal_tells (s := advance t s) hg hr hn ht)

end Sys2Proof.Machine
end

section
/-!
PROOFS. The statement of 12_media_network about the network commands (R373, R376, R380, R382–R386, R393, R394, R400, R402, R404, R405, R666).
-/
namespace Sys2Proof.Machine

/-! ### What taking a command leaves as it is -/

@[simp] theorem taken_mac (s : State) (c : HostCmd) (info : CmdInfo) (p : Nat) : (s.taken c info).mac p = s.mac p := by
  unfold State.mac; rw [taken_n]

@[simp] theorem taken_streamEntry (s : State) (c : HostCmd) (info : CmdInfo) (k : Nat) :
    (s.taken c info).streamEntry k = s.streamEntry k := by
  unfold State.streamEntry State.sstat; rw [taken_n]

@[simp] theorem taken_rateBroken (s k : State) (c : HostCmd) (info : CmdInfo) : (s.taken c info).rateBroken k = s.rateBroken k := by
  unfold State.rateBroken; rw [taken_d]

/-! ### The commands' own work -/

/-- A block whose fields are in range, at an aligned address, with sound contents passes a network command's checks. -/
theorem netChecks_pass {α : Type} {outside : Prop} [Decidable outside] {c : HostCmd} {sound : Bool} (a b d x : α) (ho : ¬ outside)
    (ha : par c 0 8 % 8 = 0) (hs : sound = true) :
    (if outside then a else if ¬ aligned8 (par c 0 8) = true then b else if ¬ sound = true then d else x) = x := by
  rw [if_neg ho, if_neg (by simp [aligned8, ha]), if_neg (by simp [hs])]

/-- In each of the `n` entries of a table, the flags at `off` have only bit 0, and the byte behind them is 0. -/
theorem tableFlags_sound {n len off : Nat} {b : List Byte} (h : ∀ i < n, byteAt b (len * i + off) < 2 ∧ byteAt b (len * i + (off + 1)) = 0) :
    allTo n (fun i => decide (byteAt b (len * i + off) < 2) && decide (byteAt b (len * i + (off + 1)) = 0)) = true := by
  simpa [allTo] using h

section
variable {c : HostCmd} {s : State} (hr : netRsv c = true)
include hr

section
variable (hd : s.inDormant = false)
include hd

theorem exec_macCfg {q : Nat} {late : Bool} (h : s.accepts c macCfgInfo = true) (hlo : 1 ≤ par c 8 2) (hhi : par c 8 2 ≤ 4)
    (ha : par c 0 8 % 8 = 0) (hs : (records16 (fit (16 * par c 8 2) c.data)).all macRecordOk = true)
    (hq : (s.taken c macCfgInfo).slotAt (par c 16 8) = some (q, late)) :
    exec (.macCfg c) s = .next (s.asked c macCfgInfo q late (.macCfg (fit (16 * par c 8 2) c.data))) := by
  refine (exec_outsideDormant rfl h hd).trans (congrArg Host.Outcome.next ?_)
  exact (netChecks_pass _ _ _ _ (by simp [hr, Nat.not_lt.2, hlo, hhi]) ha hs).trans (request_free _ _ hq)

/-- A sound list fills the inactive copy of its port, unless a swap of that copy waits. -/
theorem exec_gateLoad (h : s.accepts c gateLoadInfo = true) (hp : par c 10 1 < 4) (hlo : 1 ≤ par c 8 2) (hhi : par c 8 2 ≤ 128)
    (ha : par c 0 8 % 8 = 0) (hs : gateListOk (par c 11 1) (par c 8 2) (fit (4 * par c 8 2) c.data) = true) :
    let m := s.mac (par c 10 1)
    exec (.gateLoad c) s = .next (if m.swap.isSome = true then s.ended c gateLoadInfo (.of stBusy) id
      else s.ended c gateLoadInfo (.of stOK) (setMac (par c 10 1) { m with
        nextGates := some { cycle := par c 11 1, ents := (List.range (par c 8 2)).map (gateEnt (fit (4 * par c 8 2) c.data)) } })) := by
  refine (exec_outsideDormant rfl h hd).trans (congrArg Host.Outcome.next ?_)
  refine (netChecks_pass _ _ _ _ (by simp [hr, Nat.not_lt.2, Nat.not_le.2, hp, hlo, hhi]) ha hs).trans ?_
  rw [taken_mac]
  rfl

section
variable {g : GateList} {p0 : Nat} {late : Bool} (h : s.accepts c gateSwapInfo = true) (hp : par c 10 1 < 4)
  (hg : (s.mac (par c 10 1)).nextGates = some g) (hq : (s.taken c gateSwapInfo).slotAt (par c 16 8) = some (p0, late))
include h hp hg hq

/-- The first swap of a filled copy waits for its pick. -/
theorem exec_gateSwap_first (hw : (s.mac (par c 10 1)).swap = none) : exec (.gateSwap c) s = .next (setMac (par c 10 1)
    { s.mac (par c 10 1) with swap := some (p0, late, s.waiterOf c gateSwapInfo) } (s.taken c gateSwapInfo)) := by
  refine (exec_outsideDormant rfl h hd).trans (congrArg Host.Outcome.next ?_)
  dsimp only
  rw [if_neg (by simp [hr, Nat.not_le.2 hp]), taken_mac, hg, hq]
  simp only [hw]

/-- One that waits gives way to a swap for its own pick, which the same cycle start `p1` serves; for another pick the swap is BUSY. -/
theorem exec_gateSwap_waiting {old : Nat} {lt : Bool} {w0 : Waiter} (hw : (s.mac (par c 10 1)).swap = some (old, lt, w0)) :
    let v := s.taken c gateSwapInfo
    let p1 := (p0 + g.cycle - 1) / g.cycle * g.cycle
    exec (.gateSwap c) s = .next (if v.standsFor old = v.standsFor p0 then complete w0 { Ending.atPick p1 lt with superseded := true }
        (setMac (par c 10 1) { s.mac (par c 10 1) with swap := some (p0, late, s.waiterOf c gateSwapInfo) } v)
      else s.ended c gateSwapInfo (.of stBusy) id) := by
  refine (exec_outsideDormant rfl h hd).trans (congrArg Host.Outcome.next ?_)
  dsimp only
  rw [if_neg (by simp [hr, Nat.not_le.2 hp]), taken_mac, hg, hq]
  simp only [hw]
  rfl

end

/-- STRM_SET ends by the first check that fails in the configuration that it leaves, or goes on the list (log 51). -/
theorem exec_strmSet {q : Nat} {late : Bool} (h : s.accepts c strmSetInfo = true) (hlo : 1 ≤ par c 8 2) (hhi : par c 8 2 ≤ 512)
    (ha : par c 0 8 % 8 = 0) (hq : (s.taken c strmSetInfo).slotAt (par c 16 8) = some (q, late)) :
    let recs := fit (48 * par c 8 2) c.data
    let v := s.asked c strmSetInfo q late (.streams recs)
    let k := v.planned.configAt ((s.taken c strmSetInfo).judgePick q)
    exec (.strmSet c) s = .next (
      if (records48 recs).all k.streamRecordOk = false ∨ streamsOverlap k.n.cfgs = true then s.ended c strmSetInfo (.of stParam) id
      else if allTo 4 (k.streamsFit k.n.cfgs) = false then s.ended c strmSetInfo (.of stResource) id
      else if s.rateBroken k then s.ended c strmSetInfo (.of stRate) id
      else if v.inBudget q = false then s.ended c strmSetInfo (.of stBudget) id
      else v) := by
  refine (exec_outsideDormant rfl h hd).trans (congrArg Host.Outcome.next ?_)
  dsimp only
  rw [if_neg (by simp [hr, Nat.not_lt.2, hlo, hhi]), if_neg (by simp [aligned8, ha]), hq]
  simp only [taken_rateBroken, Bool.not_eq_true]
  rfl

theorem exec_strmQuery (h : s.accepts c strmQueryInfo = true) (ha : par c 0 8 % 8 = 0) :
    exec (.strmQuery c) s = .next (s.ended c strmQueryInfo (.of stOK)
      (writeHost (par c 0 8) ((List.range 512).foldr (fun k acc => s.streamEntry k ++ acc) []))) := by
  refine (exec_outsideDormant rfl h hd).trans (congrArg Host.Outcome.next ?_)
  rw [if_neg (by simp [hr]), if_neg (by simp [aligned8, ha])]
  simp only [taken_streamEntry]
  rfl

end

/-! The commands of the management port are carried out in any mode. -/

section
variable (ha : par c 0 8 % 8 = 0)
include ha

theorem exec_mgCfg (h : s.accepts c mgCfgInfo = true) (hs : mgRecordOk (fit 16 c.data) = true) :
    exec (.mgCfg c) s = .next (s.ended c mgCfgInfo (.of stOK) (setMg (fun m => { m with
      ctl := getLE (fit 16 c.data) 0 4, addr := ((fit 16 c.data).drop 4).take 6, lpiIdle := getLE (fit 16 c.data) 10 2 }))) := by
  refine (exec_accepted (body := mgCfgBody) rfl h).trans (congrArg Host.Outcome.next ?_)
  exact netChecks_pass _ _ _ _ (not_not_intro hr) ha hs

theorem exec_wakeSet (h : s.accepts c wakeSetInfo = true)
    (hs : ∀ i < 16, byteAt (fit 320 c.data) (20 * i + 18) < 2 ∧ byteAt (fit 320 c.data) (20 * i + 19) = 0) :
    exec (.wakeSet c) s = .next (s.ended c wakeSetInfo (.of stOK)
      (setMg (fun m => { m with wake := (List.range 16).map (wakePattern (fit 320 c.data)) }))) := by
  refine (exec_accepted (body := wakeSetBody) rfl h).trans (congrArg Host.Outcome.next ?_)
  exact netChecks_pass _ _ _ _ (not_not_intro hr) ha (tableFlags_sound hs)

theorem exec_mcastSet (h : s.accepts c mcastSetInfo = true)
    (hs : ∀ i < 32, byteAt (fit 256 c.data) (8 * i + 6) < 2 ∧ byteAt (fit 256 c.data) (8 * i + 7) = 0) :
    exec (.mcastSet c) s = .next (s.ended c mcastSetInfo (.of stOK) (setMg (fun m => { m with
      mcast := (List.range 32).map (fun i => (((fit 256 c.data).drop (8 * i)).take 6, bitOf (byteAt (fit 256 c.data) (8 * i + 6)) 0)) }))) := by
  refine (exec_accepted (body := mcastSetBody) rfl h).trans (congrArg Host.Outcome.next ?_)
  exact netChecks_pass _ _ _ _ (not_not_intro hr) ha (tableFlags_sound hs)

end
end

/-- Settles O44: each command's checks lead to the one operation that carries it out; GATE_LOAD and GATE_SWAP then branch on the swap
that waits. -/
theorem networkCommands : Obligations.NetworkCommands := by
  refine ⟨fun c s q late h hd hr hlo hhi ha hs hq => exec_macCfg hr hd h hlo hhi ha hs hq,
    fun c s h hd hr hp hlo hhi ha hs => ?_, fun c s g p0 late h hd hr hp hg hq => ?_,
    fun c s q late h hd hr hlo hhi ha hq => exec_strmSet hr hd h hlo hhi ha hq,
    fun c s h hd hr ha => exec_strmQuery hr hd h ha,
    fun c s hr ha => ⟨exec_mgCfg hr ha, exec_wakeSet hr ha, exec_mcastSet hr ha⟩⟩
  · have load := exec_gateLoad hr hd h hp hlo hhi ha hs
    exact ⟨fun hw => load.trans (congrArg Host.Outcome.next (if_pos hw)),
      fun hw => load.trans (congrArg Host.Outcome.next (if_neg (by simp [hw])))⟩
  · exact ⟨exec_gateSwap_first hr hd h hp hg hq, fun _ _ _ => exec_gateSwap_waiting hr hd h hp hg hq⟩

end Sys2Proof.Machine
end

section
/-!
PROOFS. The statement of 12_media_network about the rows of the management port (R395–R399, R401, R461).
-/
namespace Sys2Proof.Machine

/-! ### Received frames (R372, R373, R395, R398, R401, R461) -/

theorem sortFrame_trunc {n : Nat} {f : List Byte} (hlo : 63 < f.length) (hhi : n < f.length) : sortFrame n f = .trunc := by
  rw [sortFrame, if_neg (Nat.not_le.2 hlo), if_pos hhi]

section
variable {descs : List (List Byte)} {s : State}

theorem deliverHeld_none (hh : s.n.mg.held = none) : deliverHeld descs s = (descs, s) := by
  simp only [deliverHeld, hh]

/-- The held wake frame goes first, where MQ0 has a descriptor outside Dormant. -/
theorem deliverHeld_some {f d : List Byte} (hh : s.n.mg.held = some f) (hon : s.ringOn 12 = true) (hw : 0 < (s.ring 12).waiting)
    (hd : s.inDormant = false) :
    deliverHeld (d :: descs) s = (descs, deliverMq0 d f false false true (setMg (fun m => { m with held := none }) s)) := by
  simp only [deliverHeld, hh]
  exact if_pos ⟨hon, hw, by simp [hd]⟩

/-- Where a frame goes that its length and check sequence let through: past the filter to the wake patterns in Dormant, else to MQ0 by
the first descriptor. It is judged by the settings and the ring of `s`, and counted in `w`. -/
def takeFrame (descs : List (List Byte)) (s : State) (trunc bad : Bool) (g : List Byte) (w : State) : State :=
  if filterAccepts s.n.mg.addr ((s.n.mg.mcast.filter (·.2)).map (·.1)) (s.n.mg.bit 4) g = false then
    (if s.m.retention then mgDropped w else w)
  else if s.m.retention then mgDormantRx g w
  else match descs with
    | d :: _ => if s.ringOn 12 = true ∧ 0 < (s.ring 12).waiting then deliverMq0 d g trunc bad false w else mgDropped w
    | [] => mgDropped w

/-- The frame's bytes count towards the traffic window (R396). -/
def countBytes (f : List Byte) (s : State) : State := setMg (fun m => { m with rxBytes := m.rxBytes + f.length }) s

/-- What a frame received in `s` leads to, by the sorting of its length and check sequence (R372, R395). -/
def takeSorted (descs : List (List Byte)) (s : State) (f : List Byte) : Sorted → State
  | .runt => bump 0xD210 7 0 (countBytes f s)
  | .trunc => takeFrame descs s true false (f.take s.n.mg.maxf) (bump 0xD210 23 16 (countBytes f s))
  | .badFcs =>
    let v := bump 0xD210 15 8 (countBytes f s)
    if s.n.mg.bit 3 then takeFrame descs s false true f v else v
  | .good => takeFrame descs s false false f (countBytes f s)

section
variable {f : List Byte} (hh : s.n.mg.held = none) (he : s.n.mg.bit 0 = true) (hn : s.n.mg.negotiating = false) (hl : s.n.mg.link = true)
include he hn hl

theorem mgReceiveGuard_false : ¬ (¬ s.n.mg.bit 0 = true ∨ s.n.mg.negotiating = true ∨ ¬ s.n.mg.link = true) := by
  simp [he, hn, hl]

include hh

/-- With no wake frame held, a received frame is counted and goes where its sorting leads it. -/
theorem mgFrameRx_sorted : mgFrameRx (some f) descs s = takeSorted descs s f (sortFrame s.n.mg.maxf f) := by
  simp only [mgFrameRx, deliverHeld_none hh, if_neg (mgReceiveGuard_false he hn hl)]
  simp only [Bool.not_eq_true]
  cases sortFrame s.n.mg.maxf f <;> rfl

theorem mgFrameRx_runt (hf : f.length ≤ 63) : mgFrameRx (some f) descs s = bump 0xD210 7 0 (countBytes f s) :=
  (mgFrameRx_sorted hh he hn hl).trans (congrArg (takeSorted descs s f) (sortFrame_runt _ hf))

theorem mgFrameRx_tooLong (hlo : 63 < f.length) (hhi : s.n.mg.maxf < f.length) :
    mgFrameRx (some f) descs s = takeFrame descs s true false (f.take s.n.mg.maxf) (bump 0xD210 23 16 (countBytes f s)) :=
  (mgFrameRx_sorted hh he hn hl).trans (congrArg (takeSorted descs s f) (sortFrame_trunc hlo hhi))

/-- A frame with a bad check sequence is counted, and goes on only where errored frames pass. -/
theorem mgFrameRx_whole (hlo : 63 < f.length) (hhi : f.length ≤ s.n.mg.maxf) : mgFrameRx (some f) descs s =
    let u := countBytes f s
    let v := bump 0xD210 15 8 u
    if fcsGood f then takeFrame descs s false false f u else if s.n.mg.bit 3 then takeFrame descs s false true f v else v := by
  rw [mgFrameRx_sorted hh he hn hl, sortFrame_whole hlo hhi]
  cases fcsGood f <;> rfl

end
end

/-! ### Sent frames (R395, R461) -/

theorem mgFrameSent_sends {desc data : List Byte} {s : State} (hon : s.ringOn 13 = true) (hw : (s.ring 13).waiting ≠ 0)
    (hn : s.n.mg.negotiating = false) (he : s.n.mg.bit 0 = true) (hl : s.n.mg.link = true) :
    let len := max 60 (getLE desc 8 2)
    let u := writeBack 13 (desc.take 10 ++ leBytes 2 (getLE desc 10 2 / 2 * 2 + b2n (s.ring 13).phase) ++ fit 4 (desc.drop 12)) s
    mgFrameSent desc data s = signal 4 (bump 0xD20C 31 0 { u with n := { u.n with
      sentMg := fit len data
      mg := { u.n.mg with
        txBytes := u.n.mg.txBytes + (len + 4), emptySince := if (u.ring 13).waiting = 0 then some u.t.now else none } } }) :=
  if_neg (by simp [hon, hw, hn, he, hl])

/-! ### Traffic and renegotiation (R396–R398) -/

/-- How many windows in a row have been low once this one ends; only a link that may be lowered and is up at 1,000 Mb/s has low ones. -/
def lowWindows (m : MgS) : Nat :=
  if m.bit 1 && decide (m.speed = 2) && m.link && decide (max m.rxBytes m.txBytes * 8 * 100 < m.lowPct * 1000000000) then m.low + 1 else 0

section
variable {s : State}

theorem trafficWindow_open (h : s.t.now < s.n.mg.windowAt + secU) : trafficWindow s = s := if_pos h

/-- The next window starts, after `n` low ones in a row. -/
def nextWindow (n : Nat) (s : State) : State :=
  setMg (fun m => { m with windowAt := s.t.now, rxBytes := 0, txBytes := 0, low := n, sinceRaise := m.sinceRaise + 1 }) s

/-- With the next window a lowering starts, where the link may be lowered and enough windows have passed since the last raise, the last
`n` of them low (R396, R397). -/
def windowAfter (n : Nat) (s : State) : State :=
  let m := s.n.mg
  if m.bit 1 = true ∧ m.speed = 2 ∧ m.link = true ∧ m.negotiating = false ∧ m.hold ≤ n ∧ m.hold ≤ m.sinceRaise + 1
  then negotiate false (nextWindow n s) else nextWindow n s

/-- The model judges a lowering by the settings of the next window, which starts with `n` low windows and one more since the last raise. -/
theorem windowAfter_eq (n : Nat) : windowAfter n s =
    let u := nextWindow n s
    let m := u.n.mg
    if m.bit 1 ∧ m.speed = 2 ∧ m.link ∧ ¬ m.negotiating ∧ m.hold ≤ m.low ∧ m.hold ≤ m.sinceRaise then negotiate false u else u := by
  simp only [Bool.not_eq_true]
  rfl

theorem trafficWindow_ends (h : s.n.mg.windowAt + secU ≤ s.t.now) : trafficWindow s = windowAfter (lowWindows s.n.mg) s :=
  (if_neg (Nat.not_lt.2 h)).trans (windowAfter_eq _).symm

/-- A raise that waited for a lowering starts as that one is done. -/
theorem autonegDone_takes (speed : Nat) (link partner1000 : Bool) :
    let m := s.n.mg
    let u := setMg (fun m => { m with
      negotiating := false, speed := min speed 2, link := link, partner1000 := partner1000, lpi := false,
      lowered := if m.negotiating then !m.toHigh else m.lowered, sinceRaise := if m.negotiating && m.toHigh then 0 else m.sinceRaise }) s
    autonegDone speed link partner1000 s = if m.negotiating = true ∧ m.toHigh = false ∧ m.pending = true
      then negotiate true (setMg (fun m => { m with pending := false }) u) else u := by
  simp only [autonegDone, Bool.and_eq_true, Bool.not_eq_true', and_assoc]
  rfl

theorem lpiEnter_enters {e : Nat} (h : s.n.mg.emptySince = some e) (hb : s.n.mg.bit 2 = true) (hs : 1 ≤ s.n.mg.speed)
    (hl : s.n.mg.link = true) (hi : s.n.mg.lpi = false) (ht : e + s.n.mg.lpiIdle * usU ≤ s.t.now) :
    lpiEnter s = setMg (fun m => { m with lpi := true }) s := by
  simp only [lpiEnter, h]
  exact if_pos ⟨hb, hs, hl, by simp [hi], ht⟩

end

/-- Settles O46: each row is its function in the state to which device time has run on, in the case that its conditions name. -/
theorem managementPortRows : Obligations.ManagementPortRows := by
  refine ⟨fun t f descs s hh he hn hl => ⟨fun hf => ?_, fun hlo hhi => ?_, fun hlo hhi => ?_⟩,
    fun t f d r s hh hon hw hd => ?_, fun t desc data s hon hw hn he hl => ?_, fun t s => ⟨fun h => ?_, fun h => ?_⟩,
    fun t speed link p1000 s => ?_, fun t e s h hb hs hl hi ht => ?_⟩
  · exact congrArg Host.Outcome.next (mgFrameRx_runt (s := advance t s) hh he hn hl hf)
  · exact congrArg Host.Outcome.next (mgFrameRx_tooLong (s := advance t s) hh he hn hl hlo hhi)
  · exact congrArg Host.Outcome.next (mgFrameRx_whole (s := advance t s) hh he hn hl hlo hhi)
  · exact congrArg (fun x : List (List Byte) × State => Host.Outcome.next x.2) (deliverHeld_some (s := advance t s) hh hon hw hd)
  · exact congrArg Host.Outcome.next (mgFrameSent_sends (s := advance t s) hon hw hn he hl)
  · exact congrArg Host.Outcome.next (trafficWindow_open (s := advance t s) h)
  · exact congrArg Host.Outcome.next (trafficWindow_ends (s := advance t s) h)
  · exact congrArg Host.Outcome.next (autonegDone_takes (s := advance t s) speed link p1000)
  · exact congrArg Host.Outcome.next (lpiEnter_enters (s := advance t s) h hb hs hl hi ht)

end Sys2Proof.Machine
end

section
/-!
PROOFS. The statements about one step (01_architecture, 14_host_interface, 17_ledger_recorder): every command answers a next state, and
every step keeps the queue behind its front and the invariant of Safety.lean, which holds after reset.
-/
namespace Sys2Proof.Machine

/-- Every command keeps the queue and the invariant: each by the lemma about its own meaning. -/
theorem exec_kept {q : List Instr} {s t : State} (i : Instr) (hn : exec i s = .next t) (hk : Kept q s) : Kept q t :=
  match i, hn with
  | .sysNop c, hn => execSysNop_kept c hn hk
  | .sysInfo c, hn => execSysInfo_kept c hn hk
  | .modeSet c, hn => execModeSet_kept c hn hk
  | .modeQuery c, hn => execModeQuery_kept c hn hk
  | .rateSet c, hn => execRateSet_kept c hn hk
  | .cmdAbort c, hn => execCmdAbort_kept c hn hk
  | .commandReservedOpcode c opcode, hn => execCommandReservedOpcode_kept c opcode hn hk
  | .budgetQuery c, hn => execBudgetQuery_kept c hn hk
  | .budgetSet c, hn => execBudgetSet_kept c hn hk
  | .budgetRestore c, hn => execBudgetRestore_kept c hn hk
  | .objQuery c, hn => execObjQuery_kept c hn hk
  | .objGlide c, hn => execObjGlide_kept c hn hk
  | .objReset c, hn => execObjReset_kept c hn hk
  | .objFlush c, hn => execObjFlush_kept c hn hk
  | .layoutLoad c, hn => execLayoutLoad_kept c hn hk
  | .layoutSwap c, hn => execLayoutSwap_kept c hn hk
  | .layoutQuery c, hn => execLayoutQuery_kept c hn hk
  | .soundSpeedSet c, hn => execSoundSpeedSet_kept c hn hk
  | .geomProbe c, hn => execGeomProbe_kept c hn hk
  | .loomCeilSet c, hn => execLoomCeilSet_kept c hn hk
  | .loomCeilQuery c, hn => execLoomCeilQuery_kept c hn hk
  | .loomXpDump c, hn => execLoomXpDump_kept c hn hk
  | .reedOutCfg c, hn => execReedOutCfg_kept c hn hk
  | .reedBankLoad c, hn => execReedBankLoad_kept c hn hk
  | .reedBankCopy c, hn => execReedBankCopy_kept c hn hk
  | .reedOutLoad c, hn => execReedOutLoad_kept c hn hk
  | .reedBankSwap c, hn => execReedBankSwap_kept c hn hk
  | .reedBankQuery c, hn => execReedBankQuery_kept c hn hk
  | .reedMeasRun c, hn => execReedMeasRun_kept c hn hk
  | .reedMeasAbort c, hn => execReedMeasAbort_kept c hn hk
  | .routeLoad c, hn => execRouteLoad_kept c hn hk
  | .routeSwap c, hn => execRouteSwap_kept c hn hk
  | .routeQuery c, hn => execRouteQuery_kept c hn hk
  | .infiltSet c, hn => execInfiltSet_kept c hn hk
  | .routeAbort c, hn => execRouteAbort_kept c hn hk
  | .fchPdmSet c, hn => execFchPdmSet_kept c hn hk
  | .fchRsSet c, hn => execFchRsSet_kept c hn hk
  | .fchBankLoad c, hn => execFchBankLoad_kept c hn hk
  | .fchBankSwap c, hn => execFchBankSwap_kept c hn hk
  | .fchBankQuery c, hn => execFchBankQuery_kept c hn hk
  | .fchSyncReset c, hn => execFchSyncReset_kept c hn hk
  | .fchStimSet c, hn => execFchStimSet_kept c hn hk
  | .batLoad c, hn => execBatLoad_kept c hn hk
  | .batStart c, hn => execBatStart_kept c hn hk
  | .batStop c, hn => execBatStop_kept c hn hk
  | .batQuery c, hn => execBatQuery_kept c hn hk
  | .batCkptRead c, hn => execBatCkptRead_kept c hn hk
  | .aesCfg c, hn => execAesCfg_kept c hn hk
  | .tdmCfg c, hn => execTdmCfg_kept c hn hk
  | .groupSet c, hn => execGroupSet_kept c hn hk
  | .aesCsSet c, hn => execAesCsSet_kept c hn hk
  | .aesUserSet c, hn => execAesUserSet_kept c hn hk
  | .aesUserGet c, hn => execAesUserGet_kept c hn hk
  | .macCfg c, hn => execMacCfg_kept c hn hk
  | .gateLoad c, hn => execGateLoad_kept c hn hk
  | .gateSwap c, hn => execGateSwap_kept c hn hk
  | .strmSet c, hn => execStrmSet_kept c hn hk
  | .strmQuery c, hn => execStrmQuery_kept c hn hk
  | .mgCfg c, hn => execMgCfg_kept c hn hk
  | .wakeSet c, hn => execWakeSet_kept c hn hk
  | .mcastSet c, hn => execMcastSet_kept c hn hk
  | .timeCfg c, hn => execTimeCfg_kept c hn hk
  | .timeQuery c, hn => execTimeQuery_kept c hn hk
  | .timeSet c, hn => execTimeSet_kept c hn hk
  | .trigArm c, hn => execTrigArm_kept c hn hk
  | .trigDisarm c, hn => execTrigDisarm_kept c hn hk
  | .timeCorrSet c, hn => execTimeCorrSet_kept c hn hk
  | .twinCfg c, hn => execTwinCfg_kept c hn hk
  | .twinQuery c, hn => execTwinQuery_kept c hn hk
  | .twinRoleSwap c, hn => execTwinRoleSwap_kept c hn hk
  | .claimQuery c, hn => execClaimQuery_kept c hn hk
  | .twinResync c, hn => execTwinResync_kept c hn hk
  | .ldgQuery c, hn => execLdgQuery_kept c hn hk
  | .ldgSetSave c, hn => execLdgSetSave_kept c hn hk
  | .ldgSetRecall c, hn => execLdgSetRecall_kept c hn hk
  | .ldgSetList c, hn => execLdgSetList_kept c hn hk
  | .ldgRecordWrite c, hn => execLdgRecordWrite_kept c hn hk
  | .ldgRecordRead c, hn => execLdgRecordRead_kept c hn hk
  | .ldgErase c, hn => execLdgErase_kept c hn hk
  | .ldgCounters c, hn => execLdgCounters_kept c hn hk
  | .evrRead c, hn => execEvrRead_kept c hn hk
  | .evrClear c, hn => execEvrClear_kept c hn hk
  | .evrArchive c, hn => execEvrArchive_kept c hn hk
  | .evrArchiveRead c, hn => execEvrArchiveRead_kept c hn hk
  | .bobQuery c, hn => execBobQuery_kept c hn hk
  | .traceSet c, hn => execTraceSet_kept c hn hk
  | .xbrCfg c, hn => execXbrCfg_kept c hn hk
  | .pwrQuery c, hn => execPwrQuery_kept c hn hk
  | .railCfg c, hn => execRailCfg_kept c hn hk
  | .thermSet c, hn => execThermSet_kept c hn hk
  | .avsSet c, hn => execAvsSet_kept c hn hk
  | .fwWrite c, hn => execFwWrite_kept c hn hk
  | .fwVerify c, hn => execFwVerify_kept c hn hk
  | .fwActivate c, hn => execFwActivate_kept c hn hk
  | .objectUpdateRecord t q rec, hn => execObjectUpdateRecord_kept t q rec hn hk
  | .objectUpdateRelease t q, hn => execObjectUpdateRelease_kept t q hn hk
  | .registerWrite t m off v, hn => execRegisterWrite_kept t m off v hn hk
  | .registerLowHalfRead t m off, hn => execRegisterLowHalfRead_kept t m off hn hk
  | .registerLowHalfWrite t m off v, hn => execRegisterLowHalfWrite_kept t m off v hn hk
  | .registerHighHalfWrite t m off v, hn => execRegisterHighHalfWrite_kept t m off v hn hk
  | .rcFieldRead t m off, hn => execRcFieldRead_kept t m off hn hk
  | .macMgWakeWrite t m v, hn => execMacMgWakeWrite_kept t m v hn hk
  | .sysSlackLastRead t m, hn => execSysSlackLastRead_kept t m hn hk
  | .loomXpSelWrite t m v, hn => execLoomXpSelWrite_kept t m v hn hk
  | .reedOutSelWrite t m v, hn => execReedOutSelWrite_kept t m v hn hk
  | .hedSrcSelWrite t m v, hn => execHedSrcSelWrite_kept t m v hn hk
  | .hedRouteSelWrite t m v, hn => execHedRouteSelWrite_kept t m v hn hk
  | .fchRsSelWrite t m v, hn => execFchRsSelWrite_kept t m v hn hk
  | .aesCsSelWrite t m v, hn => execAesCsSelWrite_kept t m v hn hk
  | .macStrmSelWrite t m v, hn => execMacStrmSelWrite_kept t m v hn hk
  | .timeCapLoRead t m k, hn => execTimeCapLoRead_kept t m k hn hk
  | .mbxDataWrite t k hi v, hn => execMbxDataWrite_kept t k hi v hn hk
  | .mbxDataRead t k hi, hn => execMbxDataRead_kept t k hi hn hk
  | .hostNoticeService t k msg, hn => execHostNoticeService_kept t k msg hn hk
  | .hifRingCfgWrite t m q v, hn => execHifRingCfgWrite_kept t m q v hn hk
  | .doorbellWrite t off width v, hn => execDoorbellWrite_kept t off width v hn hk
  | .bar0BadAccess t off width, hn => execBar0BadAccess_kept t off width hn hk
  | .bar2Write t off bytes, hn => execBar2Write_kept t off bytes hn hk
  | .bobDbWrite t m ch v cfg, hn => execBobDbWrite_kept t m ch v cfg hn hk
  | .bobDescComplete t ch data poison, hn => execBobDescComplete_kept t ch data poison hn hk
  | .semaphoreRead t m k, hn => execSemaphoreRead_kept t m k hn hk
  | .semaphoreWrite t m k v, hn => execSemaphoreWrite_kept t m k v hn hk
  | .onchipMailboxPost t m k v, hn => execOnchipMailboxPost_kept t m k v hn hk
  | .onchipMailboxRead t m k, hn => execOnchipMailboxRead_kept t m k hn hk
  | .memInjWrite t m v, hn => execMemInjWrite_kept t m v hn hk
  | .xbrLatchWrite t m k v, hn => execXbrLatchWrite_kept t m k v hn hk
  | .crossbarTransfer t bursts, hn => execCrossbarTransfer_kept t bursts hn hk
  | .aonPowerOn t feeds, hn => execAonPowerOn_kept t feeds hn hk
  | .resetNAssert t, hn => execResetNAssert_kept t hn hk
  | .resetNRelease t good, hn => execResetNRelease_kept t good hn hk
  | .vaonFeedLoss t b, hn => execVaonFeedLoss_kept t b hn hk
  | .vaonFeedRestore t b, hn => execVaonFeedRestore_kept t b hn hk
  | .pfailFall t, hn => execPfailFall_kept t hn hk
  | .pfailRise t, hn => execPfailRise_kept t hn hk
  | .flushComplete t, hn => execFlushComplete_kept t hn hk
  | .railEnableDelay t k, hn => execRailEnableDelay_kept t k hn hk
  | .railTimeout t k, hn => execRailTimeout_kept t k hn hk
  | .railRetry t, hn => execRailRetry_kept t hn hk
  | .pwrGoodFall t k, hn => execPwrGoodFall_kept t k hn hk
  | .railRestart t, hn => execRailRestart_kept t hn hk
  | .coreDomainRelease t straps, hn => execCoreDomainRelease_kept t straps hn hk
  | .fwReadyRise t, hn => execFwReadyRise_kept t hn hk
  | .controlPlaneStop t, hn => execControlPlaneStop_kept t hn hk
  | .trialConfirm t, hn => execTrialConfirm_kept t hn hk
  | .trialFail t, hn => execTrialFail_kept t hn hk
  | .hostSideReset t kind, hn => execHostSideReset_kept t kind hn hk
  | .pcieLinkReturn t width speed, hn => execPcieLinkReturn_kept t width speed hn hk
  | .d3hotEntry t, hn => execD3hotEntry_kept t hn hk
  | .d3hotExit t, hn => execD3hotExit_kept t hn hk
  | .dormantEntryComplete t, hn => execDormantEntryComplete_kept t hn hk
  | .wakeEvent t cause, hn => execWakeEvent_kept t cause hn hk
  | .dataPlaneStart t why haq, hn => execDataPlaneStart_kept t why haq hn hk
  | .modeTransitionEnd t, hn => execModeTransitionEnd_kept t hn hk
  | .tempSample t temps, hn => execTempSample_kept t temps hn hk
  | .thermalShed t, hn => execThermalShed_kept t hn hk
  | .thermalHoldEnd t, hn => execThermalHoldEnd_kept t hn hk
  | .pmbusPoll t reads, hn => execPmbusPoll_kept t reads hn hk
  | .regulatorFail t k, hn => execRegulatorFail_kept t k hn hk
  | .overcurrentShed t, hn => execOvercurrentShed_kept t hn hk
  | .pickStartMark t haq, hn => execPickStartMark_kept t haq hn hk
  | .engineBlockStart t e pdm errs, hn => execEngineBlockStart_kept t e pdm errs hn hk
  | .zcDeadline t idx, hn => execZcDeadline_kept t idx hn hk
  | .engineFinish t e steps, hn => execEngineFinish_kept t e steps hn hk
  | .avsWindow t, hn => execAvsWindow_kept t hn hk
  | .vcoreHoldExpiry t, hn => execVcoreHoldExpiry_kept t hn hk
  | .sheddingStep t, hn => execSheddingStep_kept t hn hk
  | .battenInstanceEntry t l errs, hn => execBattenInstanceEntry_kept t l errs hn hk
  | .battenStep t l errs, hn => execBattenStep_kept t l errs hn hk
  | .checkpointDone t l errs, hn => execCheckpointDone_kept t l errs hn hk
  | .battenSpareMove t l errs, hn => execBattenSpareMove_kept t l errs hn hk
  | .imageLoadCommit t set, hn => execImageLoadCommit_kept t set hn hk
  | .measCaptureEnd t, hn => execMeasCaptureEnd_kept t hn hk
  | .measRunComplete t, hn => execMeasRunComplete_kept t hn hk
  | .stimulusEnd t, hn => execStimulusEnd_kept t hn hk
  | .fchSettleEnd t, hn => execFchSettleEnd_kept t hn hk
  | .pdmStuck t mic, hn => execPdmStuck_kept t mic hn hk
  | .pdmUnstuck t mic, hn => execPdmUnstuck_kept t mic hn hk
  | .triggerFire t k, hn => execTriggerFire_kept t k hn hk
  | .groupFirstRealFrame t g, hn => execGroupFirstRealFrame_kept t g hn hk
  | .trigEdgeCapture t pin falling, hn => execTrigEdgeCapture_kept t pin falling hn hk
  | .ppsInEdge t, hn => execPpsInEdge_kept t hn hk
  | .refInvalid t r reason, hn => execRefInvalid_kept t r reason hn hk
  | .refValid t r offset, hn => execRefValid_kept t r offset hn hk
  | .freqCheckpoint t mean, hn => execFreqCheckpoint_kept t mean hn hk
  | .ptpMessageRx t port stamp msg, hn => execPtpMessageRx_kept t port stamp msg hn hk
  | .ptpAnnounceTimeout t, hn => execPtpAnnounceTimeout_kept t hn hk
  | .ptpPortReturn t, hn => execPtpPortReturn_kept t hn hk
  | .portInputFrame t p slots subs, hn => execPortInputFrame_kept t p slots subs hn hk
  | .aesRxLock t p, hn => execAesRxLock_kept t p hn hk
  | .aesRxUnlock t p, hn => execAesRxUnlock_kept t p hn hk
  | .aesNonaudioUnmute t p, hn => execAesNonaudioUnmute_kept t p hn hk
  | .portOutputFrame t p, hn => execPortOutputFrame_kept t p hn hk
  | .aesTxLeadEnd t q, hn => execAesTxLeadEnd_kept t q hn hk
  | .tdmSlaveUnrelated t p dir, hn => execTdmSlaveUnrelated_kept t p dir hn hk
  | .tdmSlaveResume t p dir, hn => execTdmSlaveResume_kept t p dir hn hk
  | .mediaFrameRx t p f, hn => execMediaFrameRx_kept t p f hn hk
  | .rtpPacketRx t, hn => execRtpPacketRx_kept t hn hk
  | .streamClaimExpiry t k, hn => execStreamClaimExpiry_kept t k hn hk
  | .mediaLinkDown t p, hn => execMediaLinkDown_kept t p hn hk
  | .mediaLinkUp t p, hn => execMediaLinkUp_kept t p hn hk
  | .gateEntryChange t p, hn => execGateEntryChange_kept t p hn hk
  | .mediaFrameTxStart t p, hn => execMediaFrameTxStart_kept t p hn hk
  | .streamTxLate t p, hn => execStreamTxLate_kept t p hn hk
  | .mgFrameRx t frame descs, hn => execMgFrameRx_kept t frame descs hn hk
  | .mgFrameSent t desc data, hn => execMgFrameSent_kept t desc data hn hk
  | .mgTrafficWindow t, hn => execMgTrafficWindow_kept t hn hk
  | .mgAutonegDone t speed link partner1000, hn => execMgAutonegDone_kept t speed link partner1000 hn hk
  | .mgLpiEnter t, hn => execMgLpiEnter_kept t hn hk
  | .selvedgeSegmentRx t seq ok, hn => execSelvedgeSegmentRx_kept t seq ok hn hk
  | .heartbeatFrameRx t hb, hn => execHeartbeatFrameRx_kept t hb hn hk
  | .stateFrameRx t seq frame, hn => execStateFrameRx_kept t seq frame hn hk
  | .stateFrameMissed t p, hn => execStateFrameMissed_kept t p hn hk
  | .selvedgeLaneDown t lane, hn => execSelvedgeLaneDown_kept t lane hn hk
  | .selvedgeLaneUp t lane, hn => execSelvedgeLaneUp_kept t lane hn hk
  | .hbInEdge t, hn => execHbInEdge_kept t hn hk
  | .heartbeatDue t, hn => execHeartbeatDue_kept t hn hk
  | .heartbeatMissing t path, hn => execHeartbeatMissing_kept t path hn hk
  | .twinListenEnd t peerStrap, hn => execTwinListenEnd_kept t peerStrap hn hk
  | .claimPeerChange t high, hn => execClaimPeerChange_kept t high hn hk
  | .claimOwnRise t, hn => execClaimOwnRise_kept t hn hk
  | .claimConflict t, hn => execClaimConflict_kept t hn hk
  | .shuttlePost t slot level mp flow arg, hn => execShuttlePost_kept t slot level mp flow arg hn hk
  | .shuttleThreadEnd t ex, hn => execShuttleThreadEnd_kept t ex hn hk
  | .shuttlePreemptPoint t ex, hn => execShuttlePreemptPoint_kept t ex hn hk
  | .blockReset t b cuts, hn => execBlockReset_kept t b cuts hn hk
  | .controlCoreGate t k, hn => execControlCoreGate_kept t k hn hk
  | .eventPost t code source args, hn => execEventPost_kept t code source args hn hk
  | .recordCloseTimer t, hn => execRecordCloseTimer_kept t hn hk
  | .recorderFifoDrain t, hn => execRecorderFifoDrain_kept t hn hk
  | .archiveBatch t, hn => execArchiveBatch_kept t hn hk
  | .flashOpComplete t res, hn => execFlashOpComplete_kept t res hn hk
  | .ledgerMountComplete t found, hn => execLedgerMountComplete_kept t found hn hk
  | .ledgerRebuildComplete t, hn => execLedgerRebuildComplete_kept t hn hk
  | .ledgerScrub t, hn => execLedgerScrub_kept t hn hk
  | .countersSave t, hn => execCountersSave_kept t hn hk
  | .nonceExpiry t, hn => execNonceExpiry_kept t hn hk
  | .authHoldEnd t, hn => execAuthHoldEnd_kept t hn hk
  | .cplIrqTimer t, hn => execCplIrqTimer_kept t hn hk
  | .hostWdogExpiry t, hn => execHostWdogExpiry_kept t hn hk
  | .syncInterval t, hn => execSyncInterval_kept t hn hk
  | .controlStall t, hn => execControlStall_kept t hn hk

/-- No meaning ends in a fault or a refusal. -/
theorem exec_answers (i : Instr) (s : State) : ∃ t, exec i s = .next t := by
  cases i <;> exact ⟨_, rfl⟩

/-- Settles O2: each command's meaning is a next state, which `exec_kept` speaks of. -/
theorem commandsAnswerAndLeaveQueue : Obligations.CommandsAnswerAndLeaveQueue := fun i s =>
  (exec_answers i s).imp fun _ hn => ⟨hn, fun hs => exec_kept i hn ⟨rfl, hs⟩⟩

theorem step_cons {s : State} {c : Instr} {rest : List Instr} (h : s.pending = c :: rest) : step s = exec c (s.withPending rest) := by
  rw [step, h]

theorem step_nil {s : State} (h : s.pending = []) : step s = .next s := by
  rw [step, h]

/-- Settles O1: `step` branches on the queue alone. -/
theorem stepRunsFrontCommand : Obligations.StepRunsFrontCommand :=
  ⟨fun _ _ _ h => step_cons h, fun _ h => step_nil h⟩

/-- Settles O3: with a command in front its own meaning keeps the rest of the queue and the invariant; on an empty queue nothing changes. -/
theorem stepKeepsSound : Obligations.StepKeepsSound := by
  intro s t hs hn
  cases hp : s.pending with
  | nil =>
    cases (step_nil hp).symm.trans hn
    exact ⟨hs, hp⟩
  | cons c rest =>
    obtain ⟨hqueue, hsound⟩ : Kept rest t := exec_kept c ((step_cons hp).symm.trans hn) ⟨rfl, hs⟩
    exact ⟨hsound, hqueue⟩

/-- Settles O4: after reset every bounded buffer is empty. -/
theorem resetIsSound : Obligations.ResetIsSound :=
  ⟨⟨rfl, ringsOk_nil, Nat.zero_le _, boxesOk_nil, Nat.zero_le _, rfl, fun _ h => absurd h List.not_mem_nil⟩, rfl⟩

end Sys2Proof.Machine
end

section
/-!
PROOFS. The statements of 14_host_interface about host memory, an interrupt message and a completion (R435, R440, R441, R446, R452, R453,
R463, R464).
-/
namespace Sys2Proof.Machine

/-! ### Host memory (00_scope; 14_host_interface R440, R441) -/

theorem masters_eq_true {s : State} : s.masters = true ↔ s.h.d3hot = false ∧ s.h.l2 = false := by
  simp [State.masters]

theorem masters_eq_false {s : State} : s.masters = false ↔ s.h.d3hot = true ∨ s.h.l2 = true := by
  cases hd : s.h.d3hot <;> cases hl : s.h.l2 <;> simp [State.masters, hd, hl]

theorem writeHost_on {a : Nat} {bytes : List Byte} {s : State} (h : s.masters = true) :
    writeHost a bytes s = { s with h := { s.h with mem := memWriteAll s.h.mem a bytes } } := by
  rw [writeHost, if_pos h]

theorem writeHost_off {a : Nat} {bytes : List Byte} {s : State} (h : s.masters = false) : writeHost a bytes s = s := by
  rw [writeHost, if_neg (by simp [h])]

/-- A read after a write of a run of bytes. -/
theorem memByte_memWriteAll (bytes : List Byte) (a j : Nat) {m : List Host.Cell} (h : Memory.wf m = true) :
    memByte (memWriteAll m a bytes) j = if a ≤ j ∧ j < a + bytes.length then lget 0 bytes (j - a) else memByte m j := by
  induction bytes generalizing m a with
  | nil => exact (if_neg (by simp only [List.length_nil]; omega)).symm
  | cons b r ih =>
    rw [memWriteAll, ih (a + 1) (wf_memWrite a b h), memByte_memWrite a b j h, List.length_cons]
    by_cases hin : a + 1 ≤ j ∧ j < a + 1 + r.length
    · obtain ⟨i, rfl⟩ := Nat.exists_eq_add_of_le hin.1
      rw [if_pos hin, if_pos (by omega), show a + 1 + i - a = i + 1 by omega, Nat.add_sub_cancel_left, lget]
    · by_cases ha : j = a
      · rw [if_neg hin, if_pos ha, if_pos (by omega), ha, Nat.sub_self, lget]
      · rw [if_neg hin, if_neg ha, if_neg (by omega)]

/-- Settles O5: a write that the function may master puts its bytes down one by one, and any other is left out. -/
theorem hostMemoryReadAfterWrite : Obligations.HostMemoryReadAfterWrite := by
  intro s a j bytes h
  refine ⟨fun hd hl => ?_, fun hoff => ?_, ?_⟩
  · rw [writeHost_on (masters_eq_true.2 ⟨hd, hl⟩)]
    exact memByte_memWriteAll bytes a j h
  · rw [writeHost_off (masters_eq_false.2 hoff)]
  · cases hm : s.masters with
    | true => rw [writeHost_on hm]; exact wf_memWriteAll bytes a h
    | false => rw [writeHost_off hm]; exact h

/-! ### An interrupt message (R435, R463) -/

/-- Settles O12: a vector that is masked or may master nothing stays pending, and any other writes its message. -/
theorem interruptMessage : Obligations.InterruptMessage := by
  intro v s
  refine ⟨fun h => if_pos (h.imp_right masters_eq_false.2), fun hmask hd hl => ?_⟩
  have on : s.masters = true := masters_eq_true.2 ⟨hd, hl⟩
  rw [signal, if_neg (by simp [hmask, on])]
  dsimp only
  rw [writeHost_on on]

/-! ### A completion (R446, R452, R453, R464) -/

theorem signal_heldCpl (v : Nat) (s : State) : (signal v s).h.heldCpl = s.h.heldCpl := by
  unfold signal
  split <;> rfl

theorem countCompletion_heldCpl (s : State) : (countCompletion s).h.heldCpl = s.h.heldCpl := by
  unfold countCompletion
  extract_lets n k u
  split
  · exact signal_heldCpl _ _
  · rfl

theorem writeCompletion_heldCpl (e : List Byte) (n : Bool) (s : State) : (writeCompletion e n s).h.heldCpl = s.h.heldCpl := by
  unfold writeCompletion
  dsimp only
  split
  · rfl
  · exact countCompletion_heldCpl _

/-- With nothing held before it and room in CPL0, a completion is written at once. -/
theorem deliver_now {s : State} (e : List Byte) (n : Bool) (hh : s.h.heldCpl = []) (hon : s.ringOn 10 = true)
    (hr : (s.ring 10).room = true) : deliver e n s = writeCompletion e n s := by
  have held : (writeCompletion e n s).h.heldCpl = [] := (writeCompletion_heldCpl e n s).trans hh
  rw [deliver, hh, List.nil_append, releaseHeld, if_pos (by simp [hon, hr]), releaseHeld, ← held]

/-- The completion of a command, in the bytes of R452, with the phase of its slot and the head of its ring. -/
def cplBytes (w : Waiter) (e : Ending) (phase : Bool) (head : Nat) : List Byte :=
  leBytes 2 w.tag ++ [BitVec.ofNat 8 (w.gen % 16 + (if w.ring = 1 then 16 else 0) + (if phase then 128 else 0))] ++
    [BitVec.ofNat 8 e.status] ++ leBytes 4 e.r0 ++ leBytes 4 e.r1 ++
    [BitVec.ofNat 8 w.opcode, BitVec.ofNat 8 (b2n e.late + 2 * b2n e.superseded + 4 * b2n e.abrupt)] ++ leBytes 2 (head % 4096)

/-- The third byte of a completion entry still without its phase: GEN and RING. -/
theorem byteAt_completionEntry (w : Waiter) (e : Ending) :
    byteAt (completionEntry w e) 2 = w.gen % 16 + (if w.ring = 1 then 16 else 0) := by
  have : w.gen % 16 + flag 4 (w.ring == 1) = w.gen % 16 + (if w.ring = 1 then 16 else 0) := by simp [flag]
  show (BitVec.ofNat 8 (w.gen % 16 + flag 4 (w.ring == 1))).toNat = _
  rw [this, BitVec.toNat_ofNat]
  split <;> omega

theorem flag_flags (e : Ending) : flag 0 e.late + flag 1 e.superseded + flag 2 e.abrupt =
    b2n e.late + 2 * b2n e.superseded + 4 * b2n e.abrupt := by
  cases e.late <;> cases e.superseded <;> cases e.abrupt <;> rfl

theorem writeCompletion_entry (w : Waiter) (e : Ending) (s : State) : writeCompletion (completionEntry w e) w.noirq s =
    (let u := pushEntry 10 16 (cplBytes w e (s.ring 10).phase (s.ring (if w.ring = 1 then 1 else 0)).head) s
     if w.noirq then u else countCompletion u) := by
  have ring : (w.gen % 16 + (if w.ring = 1 then 16 else 0) + flag 7 (s.ring 10).phase) / 16 % 2 = if w.ring = 1 then 1 else 0 := by
    cases (s.ring 10).phase <;> simp only [flag] <;> split <;> simp <;> omega
  have phase : flag 7 (s.ring 10).phase = if (s.ring 10).phase then 128 else 0 := rfl
  simp only [writeCompletion, byteAt_completionEntry, ring]
  rw [phase, cplBytes, ← flag_flags]
  rfl

/-- Everything that completing can change. -/
def OnlyCompletion (s t : State) : Prop :=
  ∃ rings mem heldCpl accepted unsig unsigSince msixPend msixSent, t = { s with h := { s.h with
    rings := rings, mem := mem, heldCpl := heldCpl, accepted := accepted, unsig := unsig, unsigSince := unsigSince,
    msixPend := msixPend, msixSent := msixSent } }

theorem OnlyCompletion.refl (s : State) : OnlyCompletion s s := ⟨_, _, _, _, _, _, _, _, rfl⟩

theorem OnlyCompletion.trans {s t u : State} (a : OnlyCompletion s t) (b : OnlyCompletion t u) : OnlyCompletion s u := by
  obtain ⟨_, _, _, _, _, _, _, _, rfl⟩ := a
  obtain ⟨_, _, _, _, _, _, _, _, rfl⟩ := b
  exact ⟨_, _, _, _, _, _, _, _, rfl⟩

theorem signal_onlyCompletion (v : Nat) (s : State) : OnlyCompletion s (signal v s) := by
  unfold signal
  split <;> exact ⟨_, _, _, _, _, _, _, _, rfl⟩

theorem countCompletion_onlyCompletion (s : State) : OnlyCompletion s (countCompletion s) := by
  unfold countCompletion
  extract_lets n k u
  have counted : OnlyCompletion s u := ⟨_, _, _, _, _, _, _, _, rfl⟩
  split
  · exact counted.trans (OnlyCompletion.trans ⟨_, _, _, _, _, _, _, _, rfl⟩ (signal_onlyCompletion _ _))
  · exact counted

theorem writeCompletion_onlyCompletion (e : List Byte) (n : Bool) (s : State) : OnlyCompletion s (writeCompletion e n s) := by
  unfold writeCompletion
  extract_lets r b2 cq bytes u
  have written : OnlyCompletion s u := ⟨_, _, _, _, _, _, _, _, rfl⟩
  split
  · exact written
  · exact written.trans (countCompletion_onlyCompletion _)

theorem releaseHeld_onlyCompletion (l : List (List Byte × Bool)) (s : State) : OnlyCompletion s (releaseHeld l s) := by
  induction l generalizing s with
  | nil => exact ⟨_, _, _, _, _, _, _, _, rfl⟩
  | cons a r ih =>
    rw [releaseHeld]
    split
    · exact (writeCompletion_onlyCompletion _ _ _).trans (ih _)
    · exact ⟨_, _, _, _, _, _, _, _, rfl⟩

theorem complete_onlyCompletion (w : Waiter) (e : Ending) (s : State) : OnlyCompletion s (complete w e s) := by
  unfold complete
  split
  · exact OnlyCompletion.trans ⟨_, _, _, _, _, _, _, _, rfl⟩ (releaseHeld_onlyCompletion _ _)
  · exact .refl s

/-- Settles O10: with room in CPL0 the entry is written at once, by `writeCompletion`; and no step of a completion changes more than
`OnlyCompletion` allows. -/
theorem completions : Obligations.Completions := by
  refine ⟨fun w e s hw hh hon hr => ?_, fun w e s => ?_⟩
  · have on : s.masters = true := (Bool.and_eq_true _ _ ▸ hon).2
    rw [complete, if_pos hw, deliver_now _ _ (by exact hh) (by exact hon) (by exact hr), writeCompletion_entry, pushEntry,
      writeHost_on (by exact on)]
    rfl
  · obtain ⟨_, _, _, _, _, _, _, _, he⟩ := complete_onlyCompletion w e s
    dsimp only
    rw [he]

end Sys2Proof.Machine
end

section
/-!
PROOFS. The statements of 14_host_interface about every host command: when it stays in its ring, when it is rejected, what Maintain does
with it, and which opcodes there are (R448–R456, R454's table); and those about SYS_NOP, SYS_INFO and CMD_ABORT (R456).
-/
namespace Sys2Proof.Machine

/-! ### A command that firmware takes (R448–R454) -/

/-- The command has left its ring and has its number; it is neither accepted nor rejected yet. -/
def State.drawn (s : State) (c : HostCmd) : State :=
  popRing c.ring { advance c.t s with h := { (advance c.t s).h with nextId := (advance c.t s).h.nextId + 1 } }

theorem accepted_drawn (s : State) (c : HostCmd) (info : CmdInfo) : accepted (s.waiterOf c info) (s.drawn c) = s.taken c info := rfl

theorem drawn_m (s : State) (c : HostCmd) : (s.drawn c).m = s.m := popRing_m _ _

theorem drawn_t (s : State) (c : HostCmd) : (s.drawn c).t = (advance c.t s).t := popRing_t _ _

section
variable {i : Instr} {c : HostCmd} {info : CmdInfo} {body : Body} {s : State}

/-- A command that is taken is judged; only in Maintain one that goes to the hold queue is not, unless it is rejected there at once. -/
theorem hostCommand_taken (h : s.takesNow c info = true) : hostCommand info i c body s =
    if s.m.maint then
      match info.inMaintain with
      | .serve => judge body c ((advance c.t s).headStamp c.ring) (s.waiterOf c info) (s.drawn c)
      | .refuse => judge (fun _ w s => complete w (.of stMode) s) c ((advance c.t s).headStamp c.ring) (s.waiterOf c info) (s.drawn c)
      | .hold =>
        if badHeader c then judge body c ((advance c.t s).headStamp c.ring) (s.waiterOf c info) (s.drawn c)
        else if s.late c then judge body c ((advance c.t s).headStamp c.ring) (s.waiterOf c info) (s.drawn c)
        else { s.drawn c with h := { (s.drawn c).h with
          holdQ := (s.drawn c).h.holdQ ++ [{ i := i, stamp := (advance c.t s).headStamp c.ring, w := s.waiterOf c info }] } }
    else judge body c ((advance c.t s).headStamp c.ring) (s.waiterOf c info) (s.drawn c) := by
  have late : s.late c = overdue c ((advance c.t s).headStamp c.ring) (s.drawn c).t.now := by rw [drawn_t]; rfl
  rw [hostCommand, ← drawn_m s c, late]
  refine (if_pos h).trans ?_
  cases info.inMaintain <;> rfl

theorem judge_badHeader (stamp : Nat) (hb : badHeader c = true) :
    judge body c stamp (s.waiterOf c info) (s.drawn c) = s.ended c info (.of stParam) id := by
  rw [judge]
  rw [if_pos hb]
  rfl

theorem judge_late (hb : badHeader c = false) (hl : s.late c = true) :
    judge body c ((advance c.t s).headStamp c.ring) (s.waiterOf c info) (s.drawn c) = s.ended c info (.of stTimeout) id := by
  have ht : (accepted (s.waiterOf c info) (s.drawn c)).t = (advance c.t s).t := drawn_t s c
  rw [judge]
  rw [if_neg (by simp [hb]), if_pos (by rw [ht]; exact hl)]
  rfl

theorem judge_inTime (hb : badHeader c = false) (hl : s.late c = false) :
    judge body c ((advance c.t s).headStamp c.ring) (s.waiterOf c info) (s.drawn c) = body c (s.waiterOf c info) (s.taken c info) := by
  have ht : (accepted (s.waiterOf c info) (s.drawn c)).t = (advance c.t s).t := drawn_t s c
  have inTime : overdue c ((advance c.t s).headStamp c.ring) (advance c.t s).t.now = false := hl
  rw [judge]
  rw [if_neg (by simp [hb]), if_neg (by rw [ht, inTime]; exact Bool.false_ne_true)]
  rfl

/-- A bad header ends a command whoever takes it (R454; log 22). -/
theorem hostCommand_badHeader (h : s.takesNow c info = true) (hb : badHeader c = true) :
    hostCommand info i c body s = s.ended c info (.of stParam) id := by
  rw [hostCommand_taken h]
  cases s.m.maint with
  | false => exact judge_badHeader _ hb
  | true =>
    rw [if_pos rfl]
    cases info.inMaintain with
    | serve => exact judge_badHeader _ hb
    | refuse => exact judge_badHeader _ hb
    | hold => exact (if_pos hb).trans (judge_badHeader _ hb)

/-- A passed deadline ends it (R451). -/
theorem hostCommand_late (h : s.takesNow c info = true) (hb : badHeader c = false) (hl : s.late c = true) :
    hostCommand info i c body s = s.ended c info (.of stTimeout) id := by
  rw [hostCommand_taken h]
  cases s.m.maint with
  | false => exact judge_late hb hl
  | true =>
    rw [if_pos rfl]
    cases info.inMaintain with
    | serve => exact judge_late hb hl
    | refuse => exact judge_late hb hl
    | hold => exact (if_neg (by simp [hb])).trans ((if_pos hl).trans (judge_late hb hl))

section
variable (h : s.takesNow c info = true) (hm : s.m.maint = true) (hb : badHeader c = false) (hl : s.late c = false)
include h hm hb hl

theorem hostCommand_refuses (hi : info.inMaintain = .refuse) : hostCommand info i c body s = s.ended c info (.of stMode) id := by
  rw [hostCommand_taken h, if_pos hm, hi]
  exact judge_inTime hb hl

theorem hostCommand_holds (hi : info.inMaintain = .hold) : hostCommand info i c body s = { s.drawn c with h := { (s.drawn c).h with
    holdQ := (s.drawn c).h.holdQ ++ [{ i := i, stamp := (advance c.t s).headStamp c.ring, w := s.waiterOf c info }] } } := by
  rw [hostCommand_taken h, if_pos hm, hi]
  exact (if_neg (by simp [hb])).trans (if_neg (by simp [hl]))

end
end

/-- Settles O6: the 93 rows share `hostCommand`, which leaves a command that cannot be taken in its ring. -/
theorem hostCommandsWaitInTheirRing : Obligations.HostCommandsWaitInTheirRing := by
  intro i c info s hi h
  obtain ⟨body, he⟩ := hostForm_exec hi s
  exact he.trans (congrArg Host.Outcome.next (hostCommand_waits i body h))

/-- Settles O7: the header and the deadline are judged before the command's own body, in Maintain and out of it. -/
theorem hostCommandsRejectedBeforeTheirEffect : Obligations.HostCommandsRejectedBeforeTheirEffect := by
  intro i c info s hi h
  obtain ⟨body, he⟩ := hostForm_exec hi s
  exact ⟨fun hb => he.trans (congrArg Host.Outcome.next (hostCommand_badHeader h hb)),
    fun hb hl => he.trans (congrArg Host.Outcome.next (hostCommand_late h hb hl))⟩

/-- Settles O8: in Maintain `info.inMaintain` alone decides what becomes of a sound command. -/
theorem maintainRefusesOrHolds : Obligations.MaintainRefusesOrHolds := by
  intro i c info s hi h hm hb hl
  obtain ⟨body, he⟩ := hostForm_exec hi s
  exact ⟨fun hr => he.trans (congrArg Host.Outcome.next (hostCommand_refuses h hm hb hl hr)),
    fun hh => he.trans (congrArg Host.Outcome.next (hostCommand_holds h hm hb hl hh))⟩

/-! ### The opcode table (R454) -/

/-- The rows of the table, each carried by its own constructor. -/
def hostRows : List (HostCmd → Instr) :=
  [.sysNop, .sysInfo, .modeSet, .modeQuery, .rateSet, .cmdAbort, .budgetQuery, .budgetSet, .budgetRestore, .objQuery, .objGlide,
   .objReset, .objFlush, .layoutLoad, .layoutSwap, .layoutQuery, .soundSpeedSet, .geomProbe, .loomCeilSet, .loomCeilQuery,
   .loomXpDump, .reedOutCfg, .reedBankLoad, .reedBankCopy, .reedOutLoad, .reedBankSwap, .reedBankQuery, .reedMeasRun,
   .reedMeasAbort, .routeLoad, .routeSwap, .routeQuery, .infiltSet, .routeAbort, .fchPdmSet, .fchRsSet, .fchBankLoad,
   .fchBankSwap, .fchBankQuery, .fchSyncReset, .fchStimSet, .batLoad, .batStart, .batStop, .batQuery, .batCkptRead, .aesCfg,
   .tdmCfg, .groupSet, .aesCsSet, .aesUserSet, .aesUserGet, .macCfg, .gateLoad, .gateSwap, .strmSet, .strmQuery, .mgCfg,
   .wakeSet, .mcastSet, .timeCfg, .timeQuery, .timeSet, .trigArm, .trigDisarm, .timeCorrSet, .twinCfg, .twinQuery, .twinRoleSwap,
   .claimQuery, .twinResync, .ldgQuery, .ldgSetSave, .ldgSetRecall, .ldgSetList, .ldgRecordWrite, .ldgRecordRead, .ldgErase,
   .ldgCounters, .evrRead, .evrClear, .evrArchive, .evrArchiveRead, .bobQuery, .traceSet, .xbrCfg, .pwrQuery, .railCfg,
   .thermSet, .avsSet, .fwWrite, .fwVerify, .fwActivate]

/-- A command with an empty descriptor. -/
def emptyCmd : HostCmd := { t := 0, ring := 0, flags := 0, tag := 0, tmo := 0, rsvd := 0, desc := [], data := [], tbl := [] }

set_option maxRecDepth 4000 in
/-- Each opcode of the table is the opcode of a row. -/
theorem knownOpcode_row : ∀ o < 256, knownOpcode o = true →
    ∃ f ∈ hostRows, (hostForm (f emptyCmd)).map (fun x => x.2.opcode) = some o := by
  decide

/-- And each row's opcode is in the table. -/
theorem knownOpcode_of_hostForm {i : Instr} {c : HostCmd} {info : CmdInfo} (h : hostForm i = some (c, info)) :
    knownOpcode info.opcode = true := by
  cases i <;> cases h <;> rfl

/-- Settles O9: the table is that of the 93 rows; COMMAND_RESERVED_OPCODE has no body but BAD_PARAM. -/
theorem opcodesAreTheTablesAndOthersBadParam : Obligations.OpcodesAreTheTablesAndOthersBadParam := by
  refine ⟨fun o ho => ⟨fun hk => ?_, ?_⟩, fun c op s h hl hbad => ?_⟩
  · obtain ⟨f, -, hf⟩ := knownOpcode_row o ho hk
    obtain ⟨⟨c, info⟩, hform, hop⟩ := Option.map_eq_some_iff.1 hf
    exact ⟨f emptyCmd, c, info, hform, hop⟩
  · rintro ⟨i, c, info, hform, rfl⟩
    exact knownOpcode_of_hostForm hform
  · have reserved : ¬ knownOpcode (op % 256) = true ∨ badHeader c = true := hbad.imp_left (by simp)
    refine congrArg Host.Outcome.next ((if_pos reserved).trans ?_)
    cases hb : badHeader c with
    | true => exact hostCommand_badHeader h hb
    | false =>
      refine hostCommand_accepts _ _ ?_
      simp [State.accepts, h, hb, hl]

/-! ### SYS_NOP, SYS_INFO and CMD_ABORT (R456) -/

section
variable {c : HostCmd} {s : State}

theorem exec_sysNop (h : s.accepts c sysNopInfo = true) : exec (.sysNop c) s = .next (s.ended c sysNopInfo
    (if parZero c 0 64 then .atPick (pickOf s.fs s.t.pickLen (max s.t.now c.t)) else .of stParam) id) := by
  refine (exec_accepted (body := sysNopBody) rfl h).trans (congrArg Host.Outcome.next ?_)
  have now : (s.taken c sysNopInfo).pickNow = pickOf s.fs s.t.pickLen (max s.t.now c.t) := by
    rw [State.pickNow, State.fs, taken_t]
    rfl
  rw [sysNopBody, now]
  cases parZero c 0 64 <;> rfl

theorem drawn_epoch (s : State) (c : HostCmd) : (s.drawn c).h.epoch = s.h.epoch := by
  rw [State.drawn, popRing]
  dsimp only
  split <;> rfl

/-- The report of R456 shows nothing that taking the command changes. -/
@[simp] theorem taken_infoReport (s : State) (c : HostCmd) (info : CmdInfo) : (s.taken c info).infoReport = s.infoReport := by
  have epoch : (s.taken c info).h.epoch = s.h.epoch := drawn_epoch s c
  rw [State.infoReport, State.runningImage, taken_m, taken_l, taken_t, epoch]
  rfl

theorem exec_sysInfo (h : s.accepts c sysInfoInfo = true) (ha : par c 0 8 % 8 = 0) : exec (.sysInfo c) s = .next
    (if parZero c 8 56 then s.ended c sysInfoInfo (.of stOK) (writeHost (par c 0 8) s.infoReport)
      else s.ended c sysInfoInfo (.of stParam) id) := by
  refine (exec_accepted (body := sysInfoBody) rfl h).trans (congrArg Host.Outcome.next ?_)
  rw [sysInfoBody, if_neg (by simp [aligned8, ha]), taken_infoReport]
  cases parZero c 8 56 <;> rfl

section
variable (h : s.accepts c cmdAbortInfo = true)
include h

theorem exec_cmdAbort_badParam (hbad : parZero c 3 61 = false ∨ 32 ≤ par c 2 1) :
    exec (.cmdAbort c) s = .next (s.ended c cmdAbortInfo (.of stParam) id) := by
  refine (exec_accepted (body := cmdAbortBody) rfl h).trans (congrArg Host.Outcome.next ?_)
  exact if_pos (hbad.imp_left (by simp))

theorem exec_cmdAbort (hz : parZero c 3 61 = true) (hr : par c 2 1 < 32) : exec (.cmdAbort c) s = .next
    (match (s.taken c cmdAbortInfo).h.holdQ.find? (fun x => abortNames c x.w) with
      | some x => s.ended c cmdAbortInfo (.of stOK) (fun u => complete x.w (.of stAborted) (accepted x.w
          { u with h := { u.h with holdQ := u.h.holdQ.filter (fun y => y.w.id != x.w.id) } }))
      | none => match (s.taken c cmdAbortInfo).h.loads.find? (fun x => abortNames c x.w) with
        | some x => s.ended c cmdAbortInfo (.of stOK) (fun u => complete x.w (.of stAborted) (accepted x.w (dropLoad u x)))
        | none => s.ended c cmdAbortInfo (.of stStale) id) := by
  refine (exec_accepted (body := cmdAbortBody) rfl h).trans (congrArg Host.Outcome.next ?_)
  rw [cmdAbortBody]
  exact if_neg (by simp [hz, Nat.not_le.2 hr])

end
end

/-- Settles O13: each command's checks lead to its one operation; CMD_ABORT looks for its target among the held commands, then among the
loads. -/
theorem sysCommands : Obligations.SysCommands := by
  refine ⟨fun c s h => exec_sysNop h, fun c s h ha => ⟨fun hz => ?_, fun hz => ?_⟩,
    fun c s h => ⟨fun hz hr => ⟨fun x hx => ?_, fun hnone => ⟨fun x hx => ?_, fun hnone' => ?_⟩⟩,
      fun hbad => exec_cmdAbort_badParam h hbad⟩,
    rfl, rfl, rfl⟩
  · rw [exec_sysInfo h ha, if_pos hz]
    rfl
  · rw [exec_sysInfo h ha, if_neg (by simp [hz])]
  · rw [exec_cmdAbort h hz hr, hx]
  · rw [exec_cmdAbort h hz hr, hnone, hx]
  · rw [exec_cmdAbort h hz hr, hnone, hnone']

end Sys2Proof.Machine
end

section
/-!
PROOFS. The statements of 14_host_interface about rings and doorbells (R435, R436, R443–R445, R448), the watchdog (R469), the host mailboxes
(R465–R468), and the rows of the link, BAR0, BAR2, D3hot and the completion timer (R436–R441, R464).
-/
namespace Sys2Proof.Machine

/-! ### HIF_RING_CFG (R443) -/

section
variable {q : Nat} {v : Word} {s : State}

theorem regWrite_ringCfg {m : Nat} (hq : q < 31) (hs : s.regServed m (0x2110 + 0x20 * q) = true) :
    regWrite m (0x2110 + 0x20 * q) v s = ringCfgWrite q v s := by
  have hmbx : ¬ (0x3000 ≤ 0x2110 + 0x20 * q ∧ 0x2110 + 0x20 * q < 0x3040) := by omega
  have hsel : isSelect (0x2110 + 0x20 * q) = false := by
    rw [Bool.eq_false_iff, Ne, isSelect_eq_true]
    simp only [List.mem_cons, List.not_mem_nil, or_false]
    omega
  have hinj : 0x2110 + 0x20 * q ≠ 0x1300C := by omega
  have hlatch : ¬ (0x6040 ≤ 0x2110 + 0x20 * q ∧ 0x2110 + 0x20 * q < 0x6080 ∧ (0x2110 + 0x20 * q) % 4 = 0) := by omega
  have hbob : ¬ (0x5000 ≤ 0x2110 + 0x20 * q ∧ 0x2110 + 0x20 * q < 0x5200 ∧ (0x2110 + 0x20 * q) % 0x20 = 0x18) := by omega
  have hring : 0x2100 ≤ 0x2110 + 0x20 * q ∧ 0x2110 + 0x20 * q < 0x24E0 ∧ (0x2110 + 0x20 * q) % 0x20 = 0x10 := by omega
  have hidx : (0x2110 + 0x20 * q - 0x2100) / 0x20 = q := by omega
  rw [regWrite, if_neg (by simp [hs]), if_neg hmbx, if_neg (by simp [hsel]), if_neg hinj, if_neg hlatch, if_neg hbob, if_pos hring, hidx]

variable (hq : q < 31)
include hq

theorem ringCfgWrite_disables (he : wbits v 13 13 = 0) : ringCfgWrite q v s =
    setRing q { s.ring q with en := false, depth := wbits v 12 0, nch := wbits v 18 14 } s := by
  rw [ringCfgWrite]
  exact (if_neg (Nat.not_le.2 hq)).trans (if_pos he)

section
variable (he : wbits v 13 13 = 1)
include he

theorem ringCfgWrite_enabled (hr : (s.ring q).en = true) : ringCfgWrite q v s = s := by
  rw [ringCfgWrite]
  exact (if_neg (Nat.not_le.2 hq)).trans ((if_neg (by simp [he])).trans (if_pos hr))

theorem ringCfgWrite_disabled (hr : (s.ring q).en = false) : ringCfgWrite q v s =
    if depthOk (wbits v 12 0) = true ∧ s.ringBase q % 4096 = 0 then enableRing q (wbits v 12 0) (wbits v 18 14) s
    else setRing q { s.ring q with depth := wbits v 12 0, nch := wbits v 18 14, cfgErr := true } s := by
  rw [ringCfgWrite]
  exact (if_neg (Nat.not_le.2 hq)).trans ((if_neg (by simp [he])).trans (if_neg (by simp [hr])))

end
end

/-! ### Doorbells (R435, R436, R445) -/

section
variable {q : Nat} {v : Word} {s : State}

/-- A doorbell of 32 bits at a ring's address reaches that ring. -/
theorem doorbellWrite_ring (hq : q < 31) (hs : s.hostReaches = true) : doorbellWrite (8 * q) 4 v s =
    if ¬ (s.ring q).en then doorbellBad q 15 8 s else if (s.ring q).depth ≤ v.toNat then doorbellBad q 7 0 s
    else ringDoorbell q v.toNat s := by
  have reaches : ¬ (¬ s.hostReaches = true ∨ 4 ≠ 4 ∨ 8 * q % 4 ≠ 0) := by
    simp only [hs, not_true, false_or]
    omega
  rw [doorbellWrite, if_neg reaches, if_pos (by omega), Nat.mul_div_cancel_left q (by decide)]

theorem doorbellWrite_width {off width : Nat} (hw : width ≠ 4) : doorbellWrite off width v s = s := if_pos (.inr (.inl hw))

theorem hostConsumes_eq_true : hostConsumes q = true ↔ q = 10 ∨ q = 11 ∨ q = 30 := by
  simp [hostConsumes, or_assoc]

end

/-- Settles O32: a served write of HIF_RING_CFG is `ringCfgWrite` of its ring, and a doorbell at a ring's address is a doorbell of that
ring; each branches on the ring's own state. -/
theorem ringsAndDoorbells : Obligations.RingsAndDoorbells := by
  refine ⟨fun t m q v s hq hs => ?_, fun t q v s hq hs => ?_,
    fun t off width v s hw => congrArg Host.Outcome.next (doorbellWrite_width (s := advance t s) hw)⟩
  · have row : exec (.hifRingCfgWrite t m q v) s = .next (ringCfgWrite q v (advance t s)) :=
      congrArg Host.Outcome.next ((if_pos hq).trans (regWrite_ringCfg (s := advance t s) hq hs))
    refine ⟨fun he => ?_, fun he hr => ?_, fun he hr => ⟨fun hd hb => ?_, fun hbad => ?_⟩⟩
    · exact row.trans (congrArg Host.Outcome.next (ringCfgWrite_disables (s := advance t s) hq he))
    · exact row.trans (congrArg Host.Outcome.next (ringCfgWrite_enabled (s := advance t s) hq he hr))
    · exact row.trans (congrArg Host.Outcome.next ((ringCfgWrite_disabled (s := advance t s) hq he hr).trans (if_pos ⟨hd, hb⟩)))
    · exact row.trans (congrArg Host.Outcome.next ((ringCfgWrite_disabled (s := advance t s) hq he hr).trans (if_neg hbad)))
  · have row : exec (.doorbellWrite t (8 * q) 4 v) s = .next _ := congrArg Host.Outcome.next (doorbellWrite_ring (s := advance t s) hq hs)
    refine ⟨fun hr => ?_, fun hr hd => ?_, fun hr hd => ⟨fun hc => ?_, fun h10 h11 h30 => ?_⟩⟩
    · exact row.trans (congrArg Host.Outcome.next (if_pos (ne_true_of_eq_false hr)))
    · exact row.trans (congrArg Host.Outcome.next ((if_neg (not_not.2 hr)).trans (if_pos hd)))
    · refine row.trans (congrArg Host.Outcome.next ((if_neg (not_not.2 hr)).trans ((if_neg (Nat.not_le.2 hd)).trans ?_)))
      exact if_pos (hostConsumes_eq_true.2 hc)
    · refine row.trans (congrArg Host.Outcome.next ((if_neg (not_not.2 hr)).trans ((if_neg (Nat.not_le.2 hd)).trans ?_)))
      exact if_neg (hostConsumes_eq_true.not.2 (by simp [h10, h11, h30]))

/-! ### Notices and the watchdog (R465, R467, R469) -/

section
variable {k : Nat} {msg : List Byte} {n : DWord} {r : List DWord} {s : State} (hk : k < 4) (hb : s.mbox k = n :: r)
include hk hb

theorem hostNotice_oldEpoch (he : bitsOf n.toNat 55 48 ≠ s.field 0x2004 7 0) : hostNotice k msg s =
    post 0x0905 k [] (setMbox k r s) := by
  rw [hostNotice, hb]
  exact (if_neg (Nat.not_le.2 hk)).trans (if_pos he)

/-- A notice of the host's epoch: its service decides what the receiver does. -/
theorem hostNotice_known (he : bitsOf n.toNat 55 48 = s.field 0x2004 7 0) : hostNotice k msg s =
    if getLE msg 0 2 = 1 ∧ 8 ≤ getLE msg 2 2 ∧ getLE msg 2 2 ≤ 4096 then
      setH (fun h => { h with wdogFrom := if s.field 0x2020 15 0 = 0 then none else some s.t.now, wdogExpired := false }) (setMbox k r s)
    else if getLE msg 0 2 = 2 ∧ 8 ≤ getLE msg 2 2 ∧ getLE msg 2 2 ≤ 4096 then
      sendNotice (if k < 2 then 4 else 6)
        (BitVec.ofNat 64 (noticePointer n + s.h.epoch * 2 ^ 48 + bitsOf n.toNat 59 56 * 2 ^ 56 + 2 ^ 60)) (setMbox k r s)
    else post 0x0905 k [] (setMbox k r s) := by
  rw [hostNotice, hb]
  exact (if_neg (Nat.not_le.2 hk)).trans (if_neg (not_not.2 he))

end

theorem wdogExpiry_expires {f : Nat} {s : State} (hf : s.h.wdogFrom = some f) (hp : s.field 0x2020 15 0 ≠ 0)
    (ht : f + s.field 0x2020 15 0 * msU < s.t.now) (he : s.h.wdogExpired = false) :
    wdogExpiry s = post 0x0909 0 [] (signal 0 (setH (fun h => { h with wdogExpired := true }) s)) := by
  rw [wdogExpiry, hf]
  exact if_pos ⟨hp, ht, by simp [he]⟩

/-- Settles O33: the expiry's guard is met, and a HOST_ALIVE notice is the service of number 1. -/
theorem hostWatchdog : Obligations.HostWatchdog :=
  ⟨fun t _ s hf hp ht he => congrArg Host.Outcome.next (wdogExpiry_expires (s := advance t s) hf hp ht he),
    fun t _ _ _ _ s hk hb he hsvc hlo hhi =>
      congrArg Host.Outcome.next ((hostNotice_known (s := advance t s) hk hb he).trans (if_pos ⟨hsvc, hlo, hhi⟩))⟩

/-! ### The mailboxes' two halves (R9, R466, R468) -/

section
variable {k : Nat} {s : State}

section
variable {v : Word} (hu : s.coreUp = true) (hk : k < 4)
include hu hk

theorem mbxDataWrite_low (m : Nat) : mbxDataWrite m k false v s =
    setH (fun h => { h with holds := nset h.holds (halfKey m (0x3000 + 8 * k)) v }) s := by
  rw [mbxDataWrite, if_neg (by simp [hu, hk])]
  rfl

theorem mbxDataWrite_high {m : Nat} {lo : Word} (hl : nfind s.h.holds (halfKey m (0x3000 + 8 * k)) = some lo) :
    mbxDataWrite m k true v s =
      (let u := setH (fun h => { h with holds := ndel h.holds (halfKey m (0x3000 + 8 * k)) }) s
       if (s.mbox k).length < 4 then setMbox k (s.mbox k ++ [v ++ lo]) u else mailboxReject k u) := by
  rw [mbxDataWrite, if_neg (by simp [hu, hk]), if_pos rfl, hl]
  rfl

end

variable (hlo : 4 ≤ k) (hhi : k < 8)
include hlo hhi

theorem mbxDataRead_empty (m : Nat) (hi : Bool) (hb : s.mbox k = []) : mbxDataRead m k hi s =
    answer m 0 (setH (fun h => { h with latches := ndel h.latches (halfKey m (0x3004 + 8 * k)) }) s) := by
  unfold mbxDataRead
  rw [if_neg (by omega), hb]

section
variable {n : DWord} {r : List DWord} (hb : s.mbox k = n :: r)
include hb

theorem mbxDataRead_low (m : Nat) : mbxDataRead m k false s = answer m (n.setWidth 32)
    (setH (fun h => { h with latches := nset h.latches (halfKey m (0x3004 + 8 * k)) ((n >>> 32).setWidth 32) }) s) := by
  unfold mbxDataRead
  rw [if_neg (by omega), hb]

theorem mbxDataRead_high {m : Nat} {v : Word} (hl : nfind s.h.latches (halfKey m (0x3004 + 8 * k)) = some v) :
    mbxDataRead m k true s = answer m v (admitWaiting k
      (setMbox k r (setH (fun h => { h with latches := ndel h.latches (halfKey m (0x3004 + 8 * k)) }) s))) := by
  unfold mbxDataRead
  rw [if_neg (by omega), hb]
  dsimp only
  rw [hl]

end
end

/-- Settles O34: each half of an access is one case of `mbxDataWrite` or `mbxDataRead`, and a notice that is not discarded unread is
judged by its service. -/
theorem hostMailboxRows : Obligations.HostMailboxRows := by
  refine ⟨fun t k v s hu hk => ⟨?_, fun lo hl => ?_⟩, fun t k hi s hlo hhi hb => ?_, fun t k n r s hlo hhi hb => ⟨?_, fun v hl => ?_⟩,
    fun t k msg n r s hk hb => ⟨fun he => ?_, fun he => ⟨fun hsvc hlo hhi => ?_, fun h1 h2 => ?_⟩⟩⟩
  · exact congrArg Host.Outcome.next (mbxDataWrite_low (s := advance t s) hu hk 0)
  · exact congrArg Host.Outcome.next (mbxDataWrite_high (s := advance t s) hu hk hl)
  · exact congrArg Host.Outcome.next (mbxDataRead_empty (s := advance t s) hlo hhi 0 hi hb)
  · exact congrArg Host.Outcome.next (mbxDataRead_low (s := advance t s) hlo hhi hb 0)
  · exact congrArg Host.Outcome.next (mbxDataRead_high (s := advance t s) hlo hhi hb hl)
  · exact congrArg Host.Outcome.next (hostNotice_oldEpoch (s := advance t s) hk hb he)
  · exact congrArg Host.Outcome.next ((hostNotice_known (s := advance t s) hk hb he).trans
      ((if_neg (by simp [hsvc])).trans (if_pos ⟨hsvc, hlo, hhi⟩)))
  · exact congrArg Host.Outcome.next ((hostNotice_known (s := advance t s) hk hb he).trans
      ((if_neg (by simp [h1])).trans (if_neg (by simp [h2]))))

/-! ### Bad accesses, BAR2, D3hot, resets and the link's return (R436–R441) -/

section
variable {s : State}

theorem hostReaches_iff : s.hostReaches = true ↔ s.coreUp = true ∧ s.h.l2 = false ∧ s.h.d3hot = false := by
  simp [State.hostReaches, and_assoc]

theorem badAccess_eq (off width : Nat) : badAccess off width s =
    if s.coreUp = true ∧ s.h.l2 = false ∧ (width ≠ 4 ∨ off % 4 ≠ 0) then
      signal 0 (bump 0x2008 31 24 (setH (fun h => { h with cpl := .unsupported }) s)) else s := by
  simp only [badAccess, Bool.not_eq_true]
  rfl

theorem bar2Write_eq (off : Nat) (bytes : List Byte) : bar2Write off bytes s =
    if s.coreUp = true ∧ s.h.l2 = false ∧ s.h.d3hot = false then
      (if s.inMaintain = true then (if off + bytes.length ≤ 2 ^ 24 then writeOnChip off bytes s else s) else bar2Discard s)
    else s := by
  simp only [bar2Write, hostReaches_iff, ite_not]
  rfl

/-- A reset of the host side while the core domain is up: it is counted, the host-facing state is cleared, and 0x0901 is posted. -/
def resetTold (code : Nat) (s : State) : State := post 0x0901 0 (a1 code) (hostClear (bump 0x200C 15 0 s))

/-- The link as each kind of reset leaves it (R438). -/
def linkAfter (kind : HostReset) (s : State) : State :=
  match kind with
  | .flr => s
  | .hotReset => setH (fun h => { h with linkUp := false }) s
  | .perst => setH (fun h => { h with linkUp := false }) s
  | .linkLoss => post 0x0902 0 [] (setH (fun h => { h with linkUp := false, linkLost := true }) s)

theorem hostSideReset_eq (kind : HostReset) : hostSideReset kind s =
    (let u := if kind = .perst then setH (fun h => { h with perst := true }) s else s
     if u.coreUp = true then linkAfter kind (resetTold (hostResetKind kind) u) else u) := by
  simp only [hostSideReset, ite_not]
  cases kind <;> rfl

theorem linkReturn_eq (width speed : Nat) : linkReturn width speed s =
    (let u : State := { s with h := { s.h with
      linkUp := true, width := width % 16, speed := speed % 8, l2 := false, pme := if s.h.l2 then s.h.pme + 1 else s.h.pme, linkLost := false } }
     let v : State := if s.h.l2 then { u with p := { u.p with wakeN := false } } else u
     if s.coreUp = true ∧ s.h.linkUp = false then (if s.h.linkLost then post 0x0903 0 [] v else v) else s) := by
  simp only [linkReturn, Bool.not_eq_true]
  refine if_congr Iff.rfl ?_ rfl
  cases hl : s.h.l2 <;> cases hlost : s.h.linkLost <;> simp [setH, hl, hlost]

theorem cplTimer_eq : cplTimer s =
    if s.field 0x2010 23 8 ≠ 0 ∧ s.h.unsig ≠ 0 ∧ s.h.unsigSince + s.field 0x2010 23 8 * usU ≤ s.t.now then
      signal 1 (setH (fun h => { h with unsig := 0 }) s) else s := rfl

end

/-- Settles O35: each row is its function in the state to which device time has run on. -/
theorem hostLinkRows : Obligations.HostLinkRows :=
  ⟨fun t off width s => congrArg Host.Outcome.next (badAccess_eq (s := advance t s) off width),
    fun t off bytes s => congrArg Host.Outcome.next (bar2Write_eq (s := advance t s) off bytes),
    fun _ _ => rfl, fun _ _ => rfl,
    fun t s => ⟨congrArg Host.Outcome.next (hostSideReset_eq (s := advance t s) .flr),
      congrArg Host.Outcome.next (hostSideReset_eq (s := advance t s) .hotReset),
      congrArg Host.Outcome.next (hostSideReset_eq (s := advance t s) .perst),
      congrArg Host.Outcome.next (hostSideReset_eq (s := advance t s) .linkLoss)⟩,
    fun t w sp s => congrArg Host.Outcome.next (linkReturn_eq (s := advance t s) w sp),
    fun t s => congrArg Host.Outcome.next (cplTimer_eq (s := advance t s))⟩

end Sys2Proof.Machine
end

section
/-!
PROOFS. The statements of 15_fabric about the locks (R482), the on-chip mailboxes (R485, R486, R490, R491), the Bobbin channels (R492–R499,
R508), and BOB_QUERY, TRACE_SET, XBR_CFG and BLOCK_RESET (R479–R481, R487, R488, R506, R509, R510).
-/
namespace Sys2Proof.Machine

/-! ### Locks (R482) -/

section
variable {m k : Nat} {s : State}

section
variable (hu : s.coreUp = true) (hm : 0 < m) (hk : k < 64)
include hu hm hk

theorem semServed : ¬ (¬ s.mailUp = true ∨ m = 0 ∨ 64 ≤ k) := by
  have up : s.mailUp = true := hu
  simp only [up, not_true, false_or]
  omega

theorem semRead_free (hf : nfind s.g.sems k = none) :
    semRead m k s = answer m 0 (setG (fun g => { g with sems := nset g.sems k m }) s) := by
  rw [semRead, if_neg (semServed hu hm hk), hf]

theorem semRead_held {o : Nat} (ho : nfind s.g.sems k = some o) : semRead m k s = answer m (BitVec.ofNat 32 (0x80000000 + o)) s := by
  rw [semRead, if_neg (semServed hu hm hk), ho]

theorem semWrite_served (v : Word) : semWrite m k v s =
    if nfind s.g.sems k = some m ∧ v.toNat = m then setG (fun g => { g with sems := ndel g.sems k }) s
    else post 0x080C k (a1 k ++ a1 m) (bump 0x6018 15 0 s) := by
  rw [semWrite, if_neg (semServed hu hm hk)]

end

theorem sem_refused (v : Word) (h : s.coreUp = false ∨ m = 0 ∨ 64 ≤ k) :
    semRead m k s = busError m 12 (4 * k) s ∧ semWrite m k v s = busError m 12 (4 * k) s := by
  have refused : ¬ s.mailUp = true ∨ m = 0 ∨ 64 ≤ k := h.imp_left ne_true_of_eq_false
  exact ⟨if_pos refused, if_pos refused⟩

/-- The window of the mailboxes and locks (R472). -/
theorem targetOf_mail {a : Nat} (hlo : 0x21000000 ≤ a) (hhi : a < 0x21002000) : targetOf a = some (12, a - 0x21000000) := by
  rw [targetOf, if_neg (by omega), if_neg (by omega), if_neg (by omega), if_pos ⟨hlo, hhi⟩]

/-- A burst of one word at a lock's address reads or writes the lock. -/
theorem serveBurst_lock {b : Burst} (hk : k < 64) (ha : b.addr = 0x21000000 + 4 * k) (hl : b.len = 4) : serveBurst b s =
    if b.write then semWrite b.master k (BitVec.ofNat 32 (getLE b.data 0 4)) s else semRead b.master k s := by
  have htarget : targetOf b.addr = some (12, 4 * k) := by
    rw [targetOf_mail (by omega) (by omega), ha, Nat.add_sub_cancel_left]
  have hend : targetOf (b.addr + b.len - 1) = some (12, 4 * k + 3) := by
    rw [targetOf_mail (by omega) (by omega), show b.addr + b.len - 1 - 0x21000000 = 4 * k + 3 by omega]
  have window : sameWindow b.addr b.len = true := by
    simp [sameWindow, memoryOf, htarget, hend]
  have up : s.targetUp 12 = true := rfl
  rw [serveBurst, htarget]
  dsimp only
  rw [if_neg (by simp [window, up]), if_neg (by simp), if_neg (by simp), if_pos rfl, if_pos ⟨by omega, hl, by omega⟩,
    Nat.mul_div_cancel_left k (by decide)]

end

/-- Settles O36: an access that is served turns on the lock's owner alone, and a burst to the lock's address is that access. -/
theorem semaphores : Obligations.Semaphores := by
  refine ⟨fun t m k s hu hm _ hk => ⟨fun hf => ?_, fun o ho => ?_, fun v ho hv => ?_, fun v hbad => ?_, fun b hb ha hl => ?_⟩,
    fun t m k v s h => ?_⟩
  · exact congrArg Host.Outcome.next (semRead_free (s := advance t s) hu hm hk hf)
  · exact congrArg Host.Outcome.next (semRead_held (s := advance t s) hu hm hk ho)
  · exact congrArg Host.Outcome.next ((semWrite_served (s := advance t s) hu hm hk v).trans (if_pos ⟨ho, hv⟩))
  · exact congrArg Host.Outcome.next ((semWrite_served (s := advance t s) hu hm hk v).trans (if_neg hbad))
  · rw [serveBurst_lock hk ha hl, hb]
    exact ⟨fun hr => if_neg (by simp [hr]), fun hw => if_pos hw⟩
  · obtain ⟨hread, hwrite⟩ := sem_refused (s := advance t s) v h
    exact ⟨congrArg Host.Outcome.next hread, congrArg Host.Outcome.next hwrite⟩

/-! ### On-chip mailboxes (R485, R486, R490, R491) -/

section
variable {m k : Nat} {v : DWord} {s : State} (hk : k < 32)
include hk

section
variable (hr : s.m.retention = false) (hu : s.coreUp = true)
include hr hu

theorem ocPost_room (hroom : (s.ocBox k).length < 4) : ocPost m k v s = wakeReceiver k (setOc k (s.ocBox k ++ [(m, v)]) s) := by
  have up : s.mailUp = true := hu
  rw [ocPost, if_neg (Nat.not_le.2 hk), if_neg (by simp [hr]), if_neg (by simp [up]), if_pos hroom]

theorem ocPost_full (hfull : 4 ≤ (s.ocBox k).length) : ocPost m k v s =
    post 0x0805 k (a1 k ++ a1 m) (bump 0x3110 15 0 (busError m 12 (0x1000 + 0x20 * k) s)) := by
  have up : s.mailUp = true := hu
  rw [ocPost, if_neg (Nat.not_le.2 hk), if_neg (by simp [hr]), if_neg (by simp [up]), if_neg (Nat.not_lt.2 hfull)]

end

theorem ocPost_latched (hr : s.m.retention = true) (hl : s.g.wakeLatch = none) :
    ocPost 3 k v s = setG (fun g => { g with wakeLatch := some (k, 3, v) }) s := by
  rw [ocPost, if_neg (Nat.not_le.2 hk), if_pos ⟨hr, rfl, by simp [hl]⟩]

theorem ocRead_served (hu : s.coreUp = true) : ocRead m k s =
    match s.ocBox k with
    | [] => answer (16 + m) 0 (answer m 0 s)
    | (_, n) :: r => setOc k r (answer (16 + m) ((n >>> 32).setWidth 32) (answer m (n.setWidth 32) s)) := by
  have up : s.mailUp = true := hu
  rw [ocRead]
  exact if_neg (by simp [up, hk])

end

theorem wakeReceiver_awake {k : Nat} {s : State} (h : ∀ r, mailReceiver k = some r → 4 ≤ r → nget false s.g.gated (r - 4) = false) :
    wakeReceiver k s = s := by
  rw [wakeReceiver]
  cases hr : mailReceiver k with
  | none => rfl
  | some r =>
    refine if_neg fun ⟨hlo, hgated⟩ => ?_
    rw [State.coreGated, h r hr hlo] at hgated
    exact Bool.false_ne_true hgated

theorem wakeReceiver_gated {k r : Nat} {s : State} (hr : mailReceiver k = some r) (hlo : 4 ≤ r)
    (hg : nget false s.g.gated (r - 4) = true) :
    wakeReceiver k s = post 0x080B k (a1 k ++ a1 r) (bump 0x3110 31 24 (ungate (r - 4) s)) := by
  rw [wakeReceiver, hr]
  exact if_pos ⟨hlo, hg⟩

theorem gateCore_idle {k : Nat} {s : State} (hk : k < 4) (hu : s.coreUp = true) (hidle : (s.exec? k).cur = none)
    (ht : nget 0 s.g.idleSince k + msU ≤ s.t.now) (hq : ∀ l p, (l, p) ∈ s.readyList → s.slotMp p.slot = true) :
    gateCore k s = setG (fun g => { g with gated := nset g.gated k true }) s := by
  refine if_pos ⟨hk, hu, by simp [hidle], ht, ?_⟩
  simp only [List.any_eq_true, Bool.not_eq_true', not_exists, not_and, Bool.not_eq_false]
  exact fun x hx => hq x.1 x.2 hx

/-- Settles O37: a post is served, latched or refused by the box and the domain it meets, and the gating's guard is met. -/
theorem onchipMailboxes : Obligations.OnchipMailboxes := by
  refine ⟨fun t m k v s hr hu hk => ⟨fun hroom hawake => ?_, fun r hroom hrec hlo hg => ?_, fun hfull => ?_⟩,
    fun t k v s hr hl hk => ?_, fun t m k s hu hk => ⟨fun hb => ?_, fun x n r hb => ?_⟩, fun t k s hk hu hidle ht hq => ?_⟩
  · exact congrArg Host.Outcome.next ((ocPost_room (s := advance t s) hk hr hu hroom).trans (wakeReceiver_awake hawake))
  · exact congrArg Host.Outcome.next ((ocPost_room (s := advance t s) hk hr hu hroom).trans (wakeReceiver_gated hrec hlo hg))
  · exact congrArg Host.Outcome.next (ocPost_full (s := advance t s) hk hr hu hfull)
  · exact congrArg Host.Outcome.next (ocPost_latched (s := advance t s) hk hr hl)
  · refine congrArg Host.Outcome.next ((ocRead_served (s := advance t s) hk hu).trans ?_)
    rw [show (advance t s).ocBox k = [] from hb]
  · refine congrArg Host.Outcome.next ((ocRead_served (s := advance t s) hk hu).trans ?_)
    rw [show (advance t s).ocBox k = (x, n) :: r from hb]
    rfl
  · exact congrArg Host.Outcome.next (gateCore_idle (s := advance t s) hk hu hidle ht hq)

/-! ### Bobbin channels (R492–R499, R508) -/

section
variable {c : Nat} {s : State}

@[simp] theorem bob_setBob (x : BobCh) : (setBob c x s).bob c = x := (nget_nset _ _ _ _ _).trans (if_pos rfl)

/-- The parked descriptor's chain word decides whether the channel goes on (R498). -/
theorem bobReread_setBob (x : BobCh) : bobReread c (setBob c x s) =
    (let w := getLE (memRead s.g.gm (32 * x.cur + 28) 4) 0 4
     if bitOf w 24 then setBob c x s else bobFetch c (w % 2 ^ 19) (setBob c x s)) := by
  rw [bobReread, bob_setBob]
  rfl

section
variable {m : Nat} {v : Word} (hc : c < 16)
include hc

/-- A write of a channel's doorbell register that is served rings the channel. -/
theorem regWrite_doorbell (hs : s.regServed m (0x5018 + 0x20 * c) = true) : regWrite m (0x5018 + 0x20 * c) v s = bobRing m c s := by
  have hsel : isSelect (0x5018 + 0x20 * c) = false := by
    rw [Bool.eq_false_iff, Ne, isSelect_eq_true]
    simp only [List.mem_cons, List.not_mem_nil, or_false]
    omega
  have hidx : (0x5018 + 0x20 * c - 0x5000) / 0x20 = c := by omega
  rw [regWrite, if_neg (by simp [hs]), if_neg (by omega), if_neg (by simp [hsel]), if_neg (by omega), if_neg (by omega),
    if_pos (by omega), hidx]

/-- The host's own doorbell has no effect (R508). -/
theorem regWrite_doorbell_host : regWrite 0 (0x5018 + 0x20 * c) v s = s := by
  cases hs : s.regServed 0 (0x5018 + 0x20 * c) with
  | false => exact regWrite_unserved hs
  | true => exact (regWrite_doorbell hc hs).trans (if_pos (.inl rfl))

theorem regServed_doorbell (hm : m ≠ 0) : s.regServed m (0x5018 + 0x20 * c) = s.coreUp := by
  have hon : alwaysOn (0x5018 + 0x20 * c) = false := by
    simp only [alwaysOn, Bool.or_eq_false_iff, Bool.and_eq_false_iff, decide_eq_false_iff_not]
    omega
  rw [State.regServed, if_neg hm, hon, Bool.or_false]

variable (hm : m ≠ 0) (hu : s.coreUp = true)
include hm hu

theorem bobRing_served : bobRing m c s =
    (let u := bump (0x5014 + 0x20 * c) 15 0 s
     let x : BobCh := { u.bob c with doorbells := (u.bob c).doorbells + 1 }
     if x.run then bump (0x5014 + 0x20 * c) 31 16 (setBob c { x with pend := true, early := x.early + 1 } u)
     else if x.parked ∧ x.en then bobReread c (setBob c x u)
     else if x.trig = 0 then bobStart c (setBob c x u) else setBob c x u) := by
  rw [bobRing, if_neg (by simp [hm, hu, hc])]

end

theorem bobComplete_idle {data : List Byte} {seen : List Nat} (h : 16 ≤ c ∨ (s.bob c).run = false ∨ s.coreUp = false) :
    bobComplete c data seen s = s := if_pos (by simpa using h)

/-- A descriptor's end: the channel's counts, then what a poisoned word and the chain word ask for, then the chain (R496–R498). -/
def bobEnd (c : Nat) (d : List Byte) (still bad : Bool) (s : State) : State :=
  let x := s.bob c
  let u := bump (0x5010 + 0x20 * c) 31 0 (setBob c { x with
    last := if bad then stPoison else stOK, done := satN 0xFFFFFFFF (x.done + 1),
    bytes := if still then x.bytes else satN (2 ^ 64 - 1) (x.bytes + dLen d * dRows d) } s)
  let y := if bad then post 0x0808 c (a4 c ++ a4 x.cur) (bump (0x500C + 0x20 * c) 31 16 u) else u
  bobFollow c (if bitOf (dChain d) 25 then bobNotify c y else y)

theorem bobComplete_running {data : List Byte} {seen : List Nat} (hc : c < 16) (hr : (s.bob c).run = true) (hu : s.coreUp = true) :
    bobComplete c data seen s =
      (let d := (s.bob c).desc
       let still := decide (dRows d = 1) && decide (dSrc d = dDst d)
       let r := if still then (false, s) else bobRows d data seen (dRows d) 0 (false, s)
       bobEnd c d still r.1 r.2) := by
  rw [bobComplete]
  exact if_neg (by simp [hc, hr, hu])

end

/-- Settles O38: a doorbell's write is refused, discarded or rings the channel, in which it meets one of three states; and a descriptor
that completes moves its rows unless they stay where they are. -/
theorem bobbinChannels : Obligations.BobbinChannels := by
  refine ⟨fun t m c v cfg s hc => ?_, fun t c data seen s => ⟨fun hc hr hu => ?_, fun h => ?_⟩⟩
  · intro u0
    have row : exec (.bobDbWrite t m c v cfg) s = .next (regWrite m (0x5018 + 0x20 * c) v u0) := congrArg Host.Outcome.next (if_pos hc)
    refine ⟨fun hm => ?_, fun hm hu => ?_, fun hm hu => ?_⟩
    · subst hm
      exact row.trans (congrArg Host.Outcome.next (regWrite_doorbell_host hc))
    · refine row.trans (congrArg Host.Outcome.next ((regWrite_unserved ((regServed_doorbell hc hm).trans hu)).trans ?_))
      exact if_neg hm
    · have ring := row.trans (congrArg Host.Outcome.next
        ((regWrite_doorbell hc ((regServed_doorbell hc hm).trans hu)).trans (bobRing_served hc hm hu)))
      refine ⟨fun hrun => ?_, fun hrun hparked hen => ?_, fun hrun hidle => ?_⟩
      · exact ring.trans (congrArg Host.Outcome.next (if_pos hrun))
      · exact ring.trans (congrArg Host.Outcome.next ((if_neg (ne_true_of_eq_false hrun)).trans
          ((if_pos ⟨hparked, hen⟩).trans (bobReread_setBob _))))
      · refine ring.trans (congrArg Host.Outcome.next ((if_neg (ne_true_of_eq_false hrun)).trans (if_neg fun ⟨hp, he⟩ => ?_)))
        exact hidle.elim (fun h => ne_true_of_eq_false h hp) (fun h => ne_true_of_eq_false h he)
  · refine congrArg Host.Outcome.next ((bobComplete_running (s := advance t s) hc hr hu).trans ?_)
    simp only [bobEnd, bobFollow, Bool.and_eq_true, decide_eq_true_eq]
    rfl
  · exact congrArg Host.Outcome.next (bobComplete_idle (s := advance t s) h)

/-! ### The fabric's commands and BLOCK_RESET (R479–R481, R487, R488, R506, R509, R510) -/

section
variable {c : HostCmd} {s : State} (hz : parZero c 48 16 = true)
include hz

theorem exec_bobQuery (h : s.accepts c bobQueryInfo = true) (ha : par c 0 8 % 8 = 0) : exec (.bobQuery c) s =
    .next (s.ended c bobQueryInfo (.of stOK)
      (writeHost (par c 0 8) ((List.range 16).foldr (fun k acc => (s.taken c bobQueryInfo).bobEntry k ++ acc) []))) := by
  refine (exec_accepted (body := bobQueryBody) rfl h).trans (congrArg Host.Outcome.next ?_)
  rw [bobQueryBody, if_neg (by simp [hz]), if_neg (by simp [aligned8, ha])]
  rfl

theorem exec_traceSet (h : s.accepts c traceSetInfo = true) (he : par c 8 1 < 2) (hk : par c 16 2 < 512) : exec (.traceSet c) s =
    .next (s.ended c traceSetInfo (.of stOK) (setG (fun g => { g with
      traceEn := bitOf (par c 8 1) 0, kinds := par c 16 2, levelMask := par c 20 4 }))) := by
  refine (exec_accepted (body := traceSetBody) rfl h).trans (congrArg Host.Outcome.next ?_)
  rw [traceSetBody, if_neg (by simp [hz, he, hk])]
  rfl

section
variable (h : s.accepts c xbrCfgInfo = true) (ha : par c 8 1 < 4)
include h ha

/-- XBR_CFG without the latch bitmap takes up the park masters that it brings, and completes. -/
theorem exec_xbrCfg_park (hs : bitOf (par c 8 1) 1 = false) : exec (.xbrCfg c) s = .next (complete (s.waiterOf c xbrCfgInfo) (.of stOK)
    (if bitOf (par c 8 1) 0 then takePark c (s.taken c xbrCfgInfo) else s.taken c xbrCfgInfo)) := by
  refine (exec_accepted (body := xbrCfgBody) rfl h).trans (congrArg Host.Outcome.next ?_)
  rw [xbrCfgBody, if_neg (by simp [hz, ha, hs]), if_neg (by simp [hs])]

theorem exec_xbrCfg_store (hs : bitOf (par c 8 1) 1 = true) (hl : (xbrLatches c).all (fun x => decide (x < 2 ^ 14)) = true)
    (hu : s.ledgerUp = true) : exec (.xbrCfg c) s = .next (storeLatches c (s.waiterOf c xbrCfgInfo)
    (if bitOf (par c 8 1) 0 then takePark c (s.taken c xbrCfgInfo) else s.taken c xbrCfgInfo)) := by
  have fits : ∀ x ∈ xbrLatches c, x < 16384 := by simpa using hl
  refine (exec_accepted (body := xbrCfgBody) rfl h).trans (congrArg Host.Outcome.next ?_)
  rw [xbrCfgBody, if_neg (by simpa [hz, ha] using fun _ => fits), if_pos hs, ledgerBody_up (by simpa using hu)]

end
end

theorem blockReset_up {b : Block} {cuts : List CutBurst} {s : State} (hu : s.coreUp = true) : blockReset b cuts s =
    (let own := fun (x : CutBurst) => (blockMasters b).contains x.burst.master
     let into := fun (x : CutBurst) => !own x && (match targetOf x.burst.addr with
       | some (t, o) => blockServes b t o
       | none => false)
     let u1 := (cuts.filter own).foldl (fun st x => cutBurst x st) s
     let u2 := (blockMasters b).foldl (fun st m => clearReceiver m st) ((blockMasters b).foldl (fun st m => releaseLocks m st) u1)
     (blockMasters b).foldl (fun st m => nextEpoch m st) (resetBlock b ((cuts.filter into).foldl (fun st x => targetCut x st) u2))) := by
  rw [blockReset]
  exact if_neg (by simp [hu])

theorem epochs_nextEpoch (m : Nat) (s : State) : nget 0 (nextEpoch m s).g.epochs m = (nget 0 s.g.epochs m + 1) % 256 :=
  (nget_nset _ _ _ _ _).trans (if_pos rfl)

/-- Settles O41: each command's checks lead to the one operation that carries it out, XBR_CFG's by way of the ledger where it stores the
latches; BLOCK_RESET is the chain of its parts. -/
theorem fabricCommands : Obligations.FabricCommands :=
  ⟨fun _ _ h hz ha => exec_bobQuery hz h ha, fun _ _ h hz he hk => exec_traceSet hz h he hk,
    fun _ _ h hz ha => ⟨fun hs => exec_xbrCfg_park hz h ha hs, fun hs hl hu => exec_xbrCfg_store hz h ha hs hl hu⟩,
    fun t _ _ s hu => congrArg Host.Outcome.next (blockReset_up (s := advance t s) hu), epochs_nextEpoch⟩

end Sys2Proof.Machine
end

section
/-!
PROOFS. The statements of 13_time about the time commands (R407, R432, R433), about edges, references, checkpoints and PTP (R409–R421,
R426), and about the time triggers (R424–R429, R433).
-/
namespace Sys2Proof.Machine

/-! ### The time commands (R407, R410, R415, R418, R432, R433) -/

/-- The settings that TIME_CFG brings. -/
def takeTimeCfg (c : HostCmd) (s : State) : State :=
  setT (fun x => { x with
    aes67 := bitOf (par c 27 1) 0, eth := bitOf (par c 27 1) 1, masterCap := bitOf (par c 27 1) 2, revert := bitOf (par c 27 1) 3,
    domain := par c 28 1, pri1 := par c 29 1, pri2 := par c 30 1, cfgPort := par c 31 1 % 4, backup := par c 31 1 / 4 % 4,
    backupEn := bitOf (par c 31 1) 4, prio := prioList c }) s

/-- TIME_CFG changes a setting on which PTP restarts (R433). -/
def restartsPtp (c : HostCmd) (s : State) : Bool :=
  decide (s.t.aes67 ≠ bitOf (par c 27 1) 0) || decide (s.t.eth ≠ bitOf (par c 27 1) 1) || decide (s.t.masterCap ≠ bitOf (par c 27 1) 2) ||
    decide (s.t.domain ≠ par c 28 1) || decide (s.t.cfgPort ≠ par c 31 1 % 4) || decide (s.t.backup ≠ par c 31 1 / 4 % 4) ||
    decide (s.t.backupEn ≠ bitOf (par c 31 1) 4)

theorem taken_restartsPtp (c : HostCmd) (s : State) (info : CmdInfo) : restartsPtp c (s.taken c info) = restartsPtp c s := by
  rw [restartsPtp, taken_t]; rfl

theorem restartsPtp_eq_true {c : HostCmd} {s : State} : restartsPtp c s = true ↔
    s.t.aes67 ≠ bitOf (par c 27 1) 0 ∨ s.t.eth ≠ bitOf (par c 27 1) 1 ∨ s.t.masterCap ≠ bitOf (par c 27 1) 2 ∨ s.t.domain ≠ par c 28 1 ∨
      s.t.cfgPort ≠ par c 31 1 % 4 ∨ s.t.backup ≠ par c 31 1 / 4 % 4 ∨ s.t.backupEn ≠ bitOf (par c 31 1) 4 := by
  simp only [restartsPtp, Bool.or_eq_true, decide_eq_true_eq, or_assoc]

section
variable {c : HostCmd} {w : Waiter} {s : State} (hprof : par c 27 1 < 16) (hdom : par c 28 1 ≤ 127) (hport : par c 31 1 < 32)
  (hprio : ∀ x ∈ prioList c, x ≤ 3) (hz : parZero c 40 24 = true)
include hprof hdom hport hprio hz

theorem timeCfgBody_inRange : timeCfgBody c w s = complete w (.of stOK) (reselect (if restartsPtp c s then
    restartPtp .master (setT (fun x => { x with ptpPort := x.cfgPort, portUpSince := none }) (takeTimeCfg c s)) else takeTimeCfg c s)) := by
  have inRange : ¬ (16 ≤ par c 27 1 ∨ 127 < par c 28 1 ∨ 32 ≤ par c 31 1 ∨ (prioList c).any (3 < ·) ∨ ¬ parZero c 40 24) := by
    simpa [hz, hprof, hdom, hport] using hprio
  exact if_neg inRange

end

theorem drawBytes_eq (n : Nat) (s : State) :
    (drawBytes n s).1.length = n ∧ (drawBytes n s).2 = { s with freeCtr := s.freeCtr + n } := by
  induction n generalizing s with
  | zero => exact ⟨rfl, rfl⟩
  | succ n ih =>
    obtain ⟨hlen, hst⟩ := ih (draw s).2
    refine ⟨congrArg Nat.succ hlen, hst.trans ?_⟩
    show { s with freeCtr := s.freeCtr + 1 + n } = _
    rw [Nat.add_assoc, Nat.add_comm 1 n]

/-- Settles O47: past its range checks each body is one update; TIME_CFG's restart of PTP turns on `restartsPtp`. -/
theorem timeCommands : Obligations.TimeCommands := by
  refine ⟨fun c s h hprof hdom hport hprio hz => ?_, fun c s h ha hz => ?_, fun c s h => ⟨fun hd => ?_, fun hd hz => ?_⟩,
    fun c s h hk hz => ?_⟩
  · have row : exec (.timeCfg c) s = _ := (exec_accepted (body := timeCfgBody) rfl h).trans
      (congrArg Host.Outcome.next (timeCfgBody_inRange hprof hdom hport hprio hz))
    rw [taken_restartsPtp] at row
    refine ⟨fun h1 h2 h3 h4 h5 h6 h7 => row.trans (congrArg (fun u => Host.Outcome.next (complete _ _ (reselect u))) (if_neg ?_)),
      fun hch => row.trans (congrArg (fun u => Host.Outcome.next (complete _ _ (reselect u))) (if_pos (restartsPtp_eq_true.2 hch)))⟩
    rw [restartsPtp_eq_true]
    simp only [h1, h2, h3, h4, h5, h6, h7, ne_eq, not_true, or_self, not_false_eq_true]
  · obtain ⟨hlen, hst⟩ := drawBytes_eq 64 (s.taken c timeQueryInfo)
    refine ⟨_, hlen, (exec_accepted (body := timeQueryBody) rfl h).trans (congrArg Host.Outcome.next ?_)⟩
    rw [timeQueryBody, if_neg (by simp [aligned8, ha]), if_neg (by simp [hz]), ← hst]
  · refine (exec_accepted (body := timeSetBody) rfl h).trans (congrArg Host.Outcome.next ?_)
    exact if_pos (by rw [taken_m]; exact hd)
  · refine (exec_accepted (body := timeSetBody) rfl h).trans (congrArg Host.Outcome.next ?_)
    exact (if_neg (by simp [hd])).trans (if_neg (by simp [hz]))
  · refine (exec_accepted (body := timeCorrSetBody) rfl h).trans (congrArg Host.Outcome.next ?_)
    exact if_neg (by simp [hz, hk])

/-! ### Edges, references, checkpoints and PTP (R407–R421, R426) -/

section
variable {s : State}

theorem edgeCapture_awaited {pin : Nat} {f : Bool} (hp : pin < 4) (hw : (nget Capture.none s.t.caps pin).wait = some f) :
    edgeCapture pin f s = setT (fun x => { x with caps := nset x.caps pin {
      ns := s.ns / 2 * 2, valid := true, missed := (nget Capture.none s.t.caps pin).valid, wait := none } }) s :=
  if_pos ⟨hw, hp⟩

section
variable (hs : s.t.sel = some 1) (hl : s.t.lock = true)
include hs hl

theorem ppsEdge_steps (hd : s.m.dpRun = false) (hf : (usU : Int) < (fromSecond s.t.now).natAbs) : ppsEdge s =
    post 0x0206 0 [] (setT (fun x => { x with offset := 0, far := false }) (stepTime (-(fromSecond s.t.now)) (seeEdge 1 s.t.now s))) :=
  (if_pos ⟨hs, hl⟩).trans (if_pos ⟨ne_true_of_eq_false hd, hf⟩)

theorem ppsEdge_measures (hn : s.m.dpRun = true ∨ ((fromSecond s.t.now).natAbs : Int) ≤ usU) : ppsEdge s =
    setT (fun x => { x with
      offset := fromSecond s.t.now / (nsU : Int), far := s.t.far && decide ((msU : Int) < (fromSecond s.t.now).natAbs) })
      (seeEdge 1 s.t.now s) := by
  refine (if_pos ⟨hs, hl⟩).trans (if_neg fun ⟨hd, hf⟩ => ?_)
  exact hn.elim hd (Int.not_le.2 hf)

end

section
variable {r : Nat} {off : Int}

/-- A reference that has qualified, before a reference is selected. -/
def qualifies (r : Nat) (s : State) : State :=
  post 0x0204 r (a1 r ++ a1 0) (setT (fun x => { x with valid := lset x.valid r true }) s)

variable (hr : r < 4) (hv : s.refValid r = false) (hq : s.qualified r = true)
include hr hv hq

theorem refBecomesValid_none (hb : (qualifies r s).bestRef = none) : refBecomesValid r off s = qualifies r s := by
  refine (if_pos ⟨hr, ne_true_of_eq_false hv, hq⟩).trans ?_
  dsimp only
  split
  · rfl
  · next b h => cases hb.symm.trans h

theorem refBecomesValid_best {b : Nat} (hb : (qualifies r s).bestRef = some b) : refBecomesValid r off s =
    if b = r ∧ (¬ (qualifies r s).t.lock ∨ (qualifies r s).t.revert) then relock r off (qualifies r s)
    else if ¬ (qualifies r s).t.lock then relockFree b (qualifies r s) else qualifies r s := by
  refine (if_pos ⟨hr, ne_true_of_eq_false hv, hq⟩).trans ?_
  dsimp only
  split
  · next h => cases hb.symm.trans h
  · next b' h => cases hb.symm.trans h; rfl

end

theorem checkpoint_locked {mean : Int} (hl : s.t.lock = true) (ha : s.t.lockAt + secU ≤ s.t.now / secU * secU)
    (hm : ∀ x, s.t.marks.getLast? = some x → x.1 < s.t.now / secU * secU) : checkpoint mean s =
      setFreq mean (setT (fun x => { x with marks := (x.marks ++ [(x.now, s.clampFreq mean)]).drop (x.marks.length + 1 - 16) }) s) := by
  refine if_pos ⟨hl, ha, ?_⟩
  split
  · next x hx => exact decide_eq_true (hm x hx)
  · rfl

theorem announceTimeout_passed {a : Nat} (hl : s.t.lastAnnounce = some a) (ha : a + 3 * s.announceInterval < s.t.now) :
    announceTimeout s = markInvalid 0 .announce (setT (fun x => { x with
      lastAnnounce := none, ptpState := if x.masterCap then 2 else 1, servoSince := none, parent := 0, dataset := [] }) s) := by
  simp only [announceTimeout, hl, if_pos ha]

theorem ptpReturn_due {v : Nat} (hu : s.t.portUpSince = some v) (hp : s.t.ptpPort ≠ s.t.cfgPort) (hv : v + 10 * secU ≤ s.t.now) :
    ptpReturn s = post 0x0208 0 [] (setT (fun x => { x with ptpPort := x.cfgPort }) s) := by
  rw [ptpReturn, hu]
  exact if_pos ⟨hp, hv⟩

section
variable {port stamp : Nat} {b : List Byte}

theorem ptpMessage_otherDomain (h : byteAt b 4 ≠ s.t.domain) : ptpMessage port stamp b s = s :=
  if_pos (.inr (.inr (.inr (.inr (.inr (.inl h))))))

theorem ptpMessage_announce (hc : s.coreUp = true) (hp : port = s.t.ptpPort) (hl : (s.mac port).link = true) (hn : 64 ≤ b.length)
    (hver : byteAt b 1 % 16 = 2) (hd : byteAt b 4 = s.t.domain) (hi : getBE b 20 8 ≠ Config.clockIdentity.toNat)
    (hk : byteAt b 0 % 16 = 11) : ptpMessage port stamp b s = ptpAnnounce b s := by
  have valid : ¬ (¬ s.coreUp ∨ port ≠ s.t.ptpPort ∨ ¬ (s.mac port).link ∨ b.length < 34 ∨ byteAt b 1 % 16 ≠ 2 ∨
      byteAt b 4 ≠ s.t.domain ∨ getBE b 20 8 = Config.clockIdentity.toNat) := by
    rintro (h | h | h | h | h | h | h)
    exacts [h hc, h hp, h hl, by omega, h hver, h hd, hi h]
  exact (if_neg valid).trans ((if_pos hk).trans (if_neg (Nat.not_lt.2 hn)))

end

theorem syncInterval_slave (hc : s.coreUp = true) (hl : (s.mac s.t.ptpPort).link = true) (hs : s.t.ptpState = 4 ∨ s.t.ptpState = 5) :
    syncInterval s = setT (fun x => { x with
      seqDelay := (s.t.seqDelay + 1) % 65536
      exch := { x.exch with
        t3 := some ((sendPtp 1 (ptpHeader 1 44 0 0 0 ((s.t.seqDelay + 1) % 65536) 0x7F s.t.domain ++ zeros 10) s).stampOut s.t.ptpPort s.t.now)
        t4 := none, delaySeq := (s.t.seqDelay + 1) % 65536 } })
      (sendPtp 1 (ptpHeader 1 44 0 0 0 ((s.t.seqDelay + 1) % 65536) 0x7F s.t.domain ++ zeros 10) s) := by
  have up : ¬ (¬ s.coreUp ∨ ¬ (s.mac s.t.ptpPort).link) := by simp [hc, hl]
  have slave : s.t.ptpState ≠ 2 := by omega
  exact (if_neg up).trans ((if_neg slave).trans (if_pos hs))

end

/-- Settles O48: each row is its model function on the state at the row's time. -/
theorem timeRows : Obligations.TimeRows := by
  refine ⟨fun t pin f s hp hw => congrArg Host.Outcome.next (edgeCapture_awaited (s := advance t s) hp hw), fun t s hs hl => ?_,
    fun t r why s hr => ?_, fun t r off s hr hv hq => ?_,
    fun t mean s hl ha hm => congrArg Host.Outcome.next (checkpoint_locked (s := advance t s) hl ha hm),
    fun t a s hl ha => congrArg Host.Outcome.next (announceTimeout_passed (s := advance t s) hl ha), fun t port stamp msg s => ?_,
    fun t v s hu hp hv => congrArg Host.Outcome.next (ptpReturn_due (s := advance t s) hu hp hv),
    fun t s hc hl hs => congrArg Host.Outcome.next (syncInterval_slave (s := advance t s) hc hl hs)⟩
  · exact ⟨fun hd hf => congrArg Host.Outcome.next (ppsEdge_steps (s := advance t s) hs hl hd hf),
      fun hn => congrArg Host.Outcome.next (ppsEdge_measures (s := advance t s) hs hl hn)⟩
  · exact ⟨fun h => congrArg Host.Outcome.next (if_pos ⟨hr, h⟩), fun h => congrArg Host.Outcome.next (if_neg (by simp [h]))⟩
  · have best (b : Nat) (hb : (qualifies r (advance t s)).bestRef = some b) :=
      refBecomesValid_best (s := advance t s) (off := off) hr hv hq hb
    refine ⟨fun hb => congrArg Host.Outcome.next (refBecomesValid_none (s := advance t s) hr hv hq hb), fun hb hl => ?_,
      fun b hb hl hn => ?_, fun b hb hl hn => ?_⟩ <;> refine congrArg Host.Outcome.next ((best _ hb).trans ?_)
    · exact if_pos ⟨rfl, hl.imp ne_true_of_eq_false id⟩
    · refine (if_neg fun ⟨hbr, hx⟩ => ?_).trans (if_neg (not_not.2 hl))
      exact hn.elim (· hbr) fun hrev => hx.elim (· hl) (ne_true_of_eq_false hrev)
    · exact (if_neg fun ⟨hbr, _⟩ => hn hbr).trans (if_pos (ne_true_of_eq_false hl))
  · exact ⟨fun h => congrArg Host.Outcome.next (ptpMessage_otherDomain (s := advance t s) h),
      fun hc hp hl hn hver hd hi hk =>
        congrArg Host.Outcome.next (ptpMessage_announce (s := advance t s) hc hp hl hn hver hd hi hk)⟩


/-! ### The time triggers (R424–R429, R433) -/

@[simp] theorem taken_trig (s : State) (c : HostCmd) (info : CmdInfo) (k : Nat) : (s.taken c info).trig k = s.trig k := by
  unfold State.trig; rw [taken_t]

@[simp] theorem taken_bob (s : State) (c : HostCmd) (info : CmdInfo) (k : Nat) : (s.taken c info).bob k = s.bob k := by
  unfold State.bob; rw [taken_g]

@[simp] theorem taken_trigUses (s : State) (c : HostCmd) (info : CmdInfo) (k : Nat) : (s.taken c info).trigUses k = s.trigUses k := by
  unfold State.trigUses; simp only [taken_grp, taken_r, taken_trig, taken_bob]

theorem taken_trigDue (s : State) (c : HostCmd) (info : CmdInfo) (k : Nat) : (s.taken c info).trigDue k = (advance c.t s).trigDue k := by
  rw [State.trigDue, taken_trig, taken_t]; rfl

section
variable {s : State} {k : Nat}

theorem trigDue_eq_true : s.trigDue k = true ↔ (s.trig k).armed = true ∧ (s.trig k).at_ * nsU ≤ s.t.now := by
  simp [State.trigDue]

theorem fireDue_due (h : s.trigDue k = true) : fireDue k s = fireTrigger k ((s.trig k).at_ * nsU) false s := if_pos h

/-- The due triggers that act before trigger `k` (R428). -/
def State.firesBefore (s : State) (k : Nat) : List Nat :=
  (List.range 64).filter (fun j => s.trigDue j &&
    (decide ((s.trig j).at_ < (s.trig k).at_) || (decide ((s.trig j).at_ = (s.trig k).at_) && decide (j < k))))

theorem mem_firesBefore {j : Nat} : j ∈ s.firesBefore k ↔
    j < 64 ∧ s.trigDue j = true ∧ ((s.trig j).at_ < (s.trig k).at_ ∨ (s.trig j).at_ = (s.trig k).at_ ∧ j < k) := by
  simp [State.firesBefore]

theorem triggerFire_due (hk : k < 64) (h : s.trigDue k = true) : triggerFire k s =
    fireDue k (((s.firesBefore k).foldl (fun l j => insertBy (fun i => (s.trig i).at_) j l) []).foldl (fun st j => fireDue j st) s) :=
  if_pos ⟨hk, h⟩

theorem triggerFire_first (hk : k < 64) (h : s.trigDue k = true) (hb : s.firesBefore k = []) : triggerFire k s = fireDue k s := by
  rw [triggerFire_due hk h, hb]; rfl

theorem triggerFire_second {j : Nat} (hk : k < 64) (h : s.trigDue k = true) (hb : s.firesBefore k = [j]) :
    triggerFire k s = fireDue k (fireDue j s) := by
  rw [triggerFire_due hk h, hb]; rfl

theorem firesBefore_eq_singleton {j : Nat} (hj : j ∈ s.firesBefore k) (hone : ∀ i ∈ s.firesBefore k, i = j) :
    s.firesBefore k = [j] := by
  by_contra hne
  rcases ((List.nodup_range.filter _).ne_singleton_iff j).1 hne with hnil | ⟨i, hi, hij⟩
  · exact List.ne_nil_of_mem hj hnil
  · exact hij (hone i hi)

end

section
variable {c : HostCmd} {s : State} (h : s.accepts c trigArmInfo = true) (hk : par c 24 1 < 64) (ha : par c 25 1 ≤ 8)
  (hg : trigArgOk (par c 25 1) (par c 26 1) = true) (hp : par c 16 8 = 0 ∨ 1000 ≤ par c 16 8 ∧ par c 16 8 ≤ 2 ^ 40)
  (hz : parZero c 40 24 = true)

/-- A trigger armed by TRIG_ARM. -/
def armTrig (c : HostCmd) (s : State) : State :=
  setTrig (par c 24 1) { s.trig (par c 24 1) with
    armed := true, fired := false, at_ := par c 8 8, action := par c 25 1, arg := par c 26 1, period := par c 16 8 } s

include h hk ha hg hp hz

theorem exec_trigArm : exec (.trigArm c) s = .next (
    if (s.trigUses (par c 24 1)).any (fun u => u != par c 25 1) then s.ended c trigArmInfo (.of stBusy) id
    else
      let v := fireDue (par c 24 1) (s.taken c trigArmInfo)
      complete (s.waiterOf c trigArmInfo) (.of stOK)
        (if par c 8 8 * nsU < v.t.now then fireTrigger (par c 24 1) v.t.now true (armTrig c v) else armTrig c v)) := by
  have inRange : ¬ (64 ≤ par c 24 1 ∨ 8 < par c 25 1 ∨ ¬ trigArgOk (par c 25 1) (par c 26 1) ∨
      ¬ (par c 16 8 = 0 ∨ 1000 ≤ par c 16 8 ∧ par c 16 8 ≤ 2 ^ 40) ∨ ¬ parZero c 40 24) := by
    rintro (hx | hx | hx | hx | hx)
    exacts [by omega, by omega, hx hg, hx hp, hx hz]
  refine (exec_accepted (body := trigArmBody) rfl h).trans (congrArg Host.Outcome.next ((if_neg inRange).trans ?_))
  rw [taken_trigUses]
  rfl

end

section
variable {c : HostCmd} {s : State} (h : s.accepts c trigDisarmInfo = true) (hk : par c 24 1 < 64) (hz : parZero c 40 24 = true)
include h hk hz

theorem exec_trigDisarm_due (hd : (advance c.t s).trigDue (par c 24 1) = true) : exec (.trigDisarm c) s = .next (
    let v := fireTrigger (par c 24 1) ((s.trig (par c 24 1)).at_ * nsU) false (s.taken c trigDisarmInfo)
    complete (s.waiterOf c trigDisarmInfo) (.of stOK 1)
      (setTrig (par c 24 1) { v.trig (par c 24 1) with armed := false, fired := false } v)) := by
  have inRange : ¬ (64 ≤ par c 24 1 ∨ ¬ parZero c 40 24) := by simp [hk, hz]
  rw [← taken_trigDue s c trigDisarmInfo] at hd
  refine (exec_accepted (body := trigDisarmBody) rfl h).trans (congrArg Host.Outcome.next ((if_neg inRange).trans ((if_pos hd).trans ?_)))
  rw [fireDue_due hd, taken_trig]

theorem exec_trigDisarm_notDue (hd : (advance c.t s).trigDue (par c 24 1) = false) : exec (.trigDisarm c) s = .next (
    complete (s.waiterOf c trigDisarmInfo) (.of stOK (b2n (!(s.trig (par c 24 1)).armed && (s.trig (par c 24 1)).fired)))
      (setTrig (par c 24 1) { s.trig (par c 24 1) with armed := false, fired := false } (s.taken c trigDisarmInfo))) := by
  have inRange : ¬ (64 ≤ par c 24 1 ∨ ¬ parZero c 40 24) := by simp [hk, hz]
  rw [← taken_trigDue s c trigDisarmInfo] at hd
  refine (exec_accepted (body := trigDisarmBody) rfl h).trans
    (congrArg Host.Outcome.next ((if_neg inRange).trans ((if_neg (ne_true_of_eq_false hd)).trans ?_)))
  rw [taken_trig]

end

theorem trigAction_gpio {k t : Nat} {x : Trig} {s : State} (h : x.action = 7) : trigAction k t x s = setT (fun y => { y with
    gpioDrive := y.gpioDrive ||| 2 ^ (x.arg % 16)
    gpioLevel := if bitOf x.arg 7 then y.gpioLevel ||| 2 ^ (x.arg % 16)
      else if bitOf y.gpioLevel (x.arg % 16) then y.gpioLevel - 2 ^ (x.arg % 16) else y.gpioLevel }) s := by
  unfold trigAction
  simp [h]

theorem b2n_eq_ite (a b : Bool) : b2n (!a && b) = if a = false ∧ b = true then 1 else 0 := by
  cases a <;> cases b <;> rfl

/-- Settles O49: the triggers that act before a due one are `firesBefore`: none for the first of the due triggers, one for the second. -/
theorem triggerCommands : Obligations.TriggerCommands := by
  refine ⟨fun c s h hk ha hg hp hz => ?_, fun c s h hk hz => ⟨fun harm hat => ?_, fun hn => ?_⟩, fun t k s hk harm hat hfirst => ?_,
    fun t k j s hk hj hjk hdk hdj hothers hbefore => ?_⟩
  · have row := exec_trigArm h hk ha hg hp hz
    exact ⟨fun hb => row.trans (congrArg Host.Outcome.next (if_pos hb)),
      fun hb => row.trans (congrArg Host.Outcome.next (if_neg (ne_true_of_eq_false hb)))⟩
  · exact exec_trigDisarm_due h hk hz (trigDue_eq_true.2 ⟨harm, hat⟩)
  · have notDue : (advance c.t s).trigDue (par c 24 1) = false := by
      rw [Bool.eq_false_iff, Ne, trigDue_eq_true]
      rintro ⟨harm, hat⟩
      exact hn.elim (ne_false_of_eq_true harm) (Nat.not_lt.2 hat)
    refine (exec_trigDisarm_notDue h hk hz notDue).trans ?_
    rw [b2n_eq_ite]
  · have hd : (advance t s).trigDue k = true := trigDue_eq_true.2 ⟨harm, hat⟩
    have none_before : (advance t s).firesBefore k = [] := by
      refine List.eq_nil_iff_forall_not_mem.2 fun j hj => ?_
      obtain ⟨hj64, hdj, hlt⟩ := mem_firesBefore.1 hj
      have := hfirst j hj64 hdj
      simp only [State.trig, advance_t] at hlt this
      omega
    have row : exec (.triggerFire t k) s = .next (fireTrigger k ((s.trig k).at_ * nsU) false (advance t s)) :=
      congrArg Host.Outcome.next ((triggerFire_first hk hd none_before).trans (fireDue_due hd))
    exact ⟨row, fun h7 => row.trans (congrArg Host.Outcome.next (trigAction_gpio h7))⟩
  · have one_before : (advance t s).firesBefore k = [j] := by
      refine firesBefore_eq_singleton (mem_firesBefore.2 ⟨hj, hdj, hbefore⟩) fun i hi => ?_
      obtain ⟨hi64, hdi, hlt⟩ := mem_firesBefore.1 hi
      by_contra hij
      have hik : i ≠ k := by
        rintro rfl
        omega
      have := hothers i hi64 hdi hik hij
      simp only [State.trig, advance_t] at hlt this
      omega
    exact congrArg Host.Outcome.next (triggerFire_second hk hdk one_before)

end Sys2Proof.Machine
end

section
/-!
PROOFS. The statements of 16_twin: the twin commands (R512, R532, R535, R540, R543, R545), the heartbeats of the two paths (R517,
R528–R533, R539), and the Selvedge link with the claim pins (R515–R526, R537, R541).
-/
namespace Sys2Proof.Machine

/-! ### The twin commands (R512, R535, R540, R543, R545) -/

@[simp] theorem taken_isLead (s : State) (c : HostCmd) (info : CmdInfo) : (s.taken c info).isLead = s.isLead := by
  unfold State.isLead; rw [taken_w, taken_dataMode]

@[simp] theorem taken_peerUp (s : State) (c : HostCmd) (info : CmdInfo) : (s.taken c info).peerUp = s.peerUp := by
  unfold State.peerUp; rw [taken_w]

@[simp] theorem taken_strm (s : State) (c : HostCmd) (info : CmdInfo) (k : Nat) : (s.taken c info).strm k = s.strm k := by
  unfold State.strm; rw [taken_n]

@[simp] theorem taken_sstat (s : State) (c : HostCmd) (info : CmdInfo) (k : Nat) : (s.taken c info).sstat k = s.sstat k := by
  unfold State.sstat; rw [taken_n]

@[simp] theorem taken_claimEntry (s : State) (c : HostCmd) (info : CmdInfo) (g : Nat) : (s.taken c info).claimEntry g = s.claimEntry g := by
  have eligibles : (s.taken c info).eligibles g = s.eligibles g := by
    unfold State.eligibles
    simp only [taken_strm, taken_sstat]
  unfold State.claimEntry State.cgrp
  simp only [taken_w, taken_sstat, eligibles]

section
variable {c : HostCmd} {s : State}

theorem exec_twinCfg (h : s.accepts c twinCfgInfo = true) (hz : twinRsv c = true) (hf : par c 8 1 < 8) (hr : par c 9 1 ≠ 0)
    (hp : par c 10 1 ≠ 0) (hrp : par c 9 1 ≠ par c 10 1) : exec (.twinCfg c) s = .next (
      let v := takeTwinCfg (par c 8 1) (par c 9 1) (par c 10 1) (par c 24 8) (s.taken c twinCfgInfo)
      if v.w.en ∧ ¬ s.w.en ∧ ¬ v.inBudget v.nextPick then s.ended c twinCfgInfo (.of stBudget) id
      else complete (s.waiterOf c twinCfgInfo) (.of stOK) v) := by
  have inRange : ¬ (¬ twinRsv c ∨ 8 ≤ par c 8 1 ∨ par c 9 1 = 0 ∨ par c 10 1 = 0 ∨ par c 9 1 = par c 10 1) := by
    simp [hz, hf, hr, hp, hrp]
  refine (exec_accepted (body := twinCfgBody) rfl h).trans (congrArg Host.Outcome.next ((if_neg inRange).trans ?_))
  rw [taken_w]
  rfl

section
variable (hz : twinRsv c = true) (ha : par c 0 8 % 8 = 0)
include hz ha

theorem exec_twinQuery (h : s.accepts c twinQueryInfo = true) : exec (.twinQuery c) s = .next (s.ended c twinQueryInfo (.of stOK)
    (writeHost (par c 0 8) (s.taken c twinQueryInfo).twinReport)) := by
  refine (exec_accepted (body := twinQueryBody) rfl h).trans (congrArg Host.Outcome.next ?_)
  exact (if_neg (not_not.2 hz)).trans (if_neg (by simp [aligned8, ha]))

theorem exec_claimQuery (h : s.accepts c claimQueryInfo = true) : exec (.claimQuery c) s = .next (s.ended c claimQueryInfo (.of stOK)
    (writeHost (par c 0 8) ((List.range 64).foldr (fun g acc => s.claimEntry g ++ acc) []))) := by
  refine (exec_accepted (body := claimQueryBody) rfl h).trans (congrArg Host.Outcome.next ?_)
  refine (if_neg (not_not.2 hz)).trans ((if_neg (by simp [aligned8, ha])).trans ?_)
  simp only [taken_claimEntry]
  rfl

end

section
variable (h : s.accepts c twinRoleSwapInfo = true)
include h

theorem exec_twinRoleSwap_refused (hl : s.isLead = false ∨ s.m.dpRun = false) :
    exec (.twinRoleSwap c) s = .next (s.ended c twinRoleSwapInfo (.of stMode) id) := by
  refine (exec_accepted (body := twinRoleSwapBody) rfl h).trans (congrArg Host.Outcome.next (if_pos ?_))
  rw [taken_isLead, taken_m]
  exact hl.imp ne_true_of_eq_false ne_true_of_eq_false

theorem exec_twinRoleSwap_lead (hl : s.isLead = true) (hd : s.m.dpRun = true) : exec (.twinRoleSwap c) s = .next (
    let u := s.taken c twinRoleSwapInfo
    if ¬ twinRsv c ∨ par c 16 8 < u.pickNow + 4 ∨ (u.named (par c 16 8)).isNone then s.ended c twinRoleSwapInfo (.of stParam) id
    else if ¬ s.w.en ∨ ¬ s.w.peerReady ∨ ¬ s.peerUp ∨ s.w.swap.isSome then s.ended c twinRoleSwapInfo (.of stBusy) id
    else { u with w := { u.w with swap := some (par c 16 8, some (s.waiterOf c twinRoleSwapInfo)) } }) := by
  refine (exec_accepted (body := twinRoleSwapBody) rfl h).trans (congrArg Host.Outcome.next ((if_neg ?_).trans ?_))
  · simp [hl, hd]
  · rw [taken_w, taken_peerUp]
    rfl

end

section
variable (h : s.accepts c twinResyncInfo = true)
include h

theorem exec_twinResync_refused (hr : s.w.role ≠ 2) : exec (.twinResync c) s = .next (s.ended c twinResyncInfo (.of stMode) id) := by
  refine (exec_accepted (body := twinResyncBody) rfl h).trans (congrArg Host.Outcome.next (if_pos ?_))
  rw [taken_w]
  exact hr

/-- The running instances, each to be re-synchronised. -/
def State.allInstances (s : State) : List Nat :=
  (List.range 32).foldr (fun l acc => (if (s.lcore l).runs then (List.range (s.instCount l)).map (fun i => 16 * l + i) else []) ++ acc) []

theorem exec_twinResync_shadow (hr : s.w.role = 2) (hz : twinRsv c = true) : exec (.twinResync c) s = .next
    (s.ended c twinResyncInfo (.of stOK) (fun u => { u with w := { u.w with driftTotal := 0, resync := s.allInstances } })) := by
  refine (exec_accepted (body := twinResyncBody) rfl h).trans (congrArg Host.Outcome.next ((if_neg ?_).trans ((if_neg (not_not.2 hz)).trans ?_)))
  · rw [taken_w]
    exact not_not.2 hr
  · simp only [taken_lcore, taken_instCount]
    rfl

end
end

/-- Settles O50: past its checks each command is one update; TWIN_CFG's admission and TWIN_ROLE_SWAP's refusals follow their branches. -/
theorem twinCommands : Obligations.TwinCommands := by
  refine ⟨fun c s h hz hf hr hp hrp => ?_, fun c s hz ha => ⟨exec_twinQuery hz ha, exec_claimQuery hz ha⟩, fun c s h => ?_, fun c s h => ?_⟩
  · have row := exec_twinCfg h hz hf hr hp hrp
    refine ⟨fun hadm => row.trans (congrArg Host.Outcome.next (if_neg ?_)),
      fun hen hwas hadm => row.trans (congrArg Host.Outcome.next (if_pos ?_))⟩
    · rintro ⟨hen, hwas, hnot⟩
      rcases hadm with hx | hx | hx
      exacts [ne_true_of_eq_false hx hen, hwas hx, hnot hx]
    · exact ⟨hen, ne_true_of_eq_false hwas, ne_true_of_eq_false hadm⟩
  · refine ⟨exec_twinRoleSwap_refused h, fun hl hd => ?_⟩
    have row := exec_twinRoleSwap_lead h hl hd
    refine ⟨fun hbad => row.trans (congrArg Host.Outcome.next (if_pos ?_)), fun q hz hq hn => ?_⟩
    · exact hbad.imp ne_true_of_eq_false (Or.imp id (Option.isNone_iff_eq_none.2))
    · have named : ¬ (¬ twinRsv c ∨ par c 16 8 < (s.taken c twinRoleSwapInfo).pickNow + 4 ∨
          ((s.taken c twinRoleSwapInfo).named (par c 16 8)).isNone) := by
        simp [hz, hn, Nat.not_lt.2 hq]
      refine ⟨fun hb => row.trans (congrArg Host.Outcome.next ((if_neg named).trans (if_pos ?_))),
        fun he hr hu hs => row.trans (congrArg Host.Outcome.next ((if_neg named).trans (if_neg ?_)))⟩
      · exact hb.imp ne_true_of_eq_false (Or.imp ne_true_of_eq_false (Or.imp ne_true_of_eq_false id))
      · simp [he, hr, hu, hs]
  · exact ⟨exec_twinResync_refused h, exec_twinResync_shadow h⟩

/-! ### Heartbeats (R517, R528–R533, R539) -/

section
variable {s : State}

theorem hbInEdge_on (he : s.w.en = true) : hbInEdge s =
    (let u : State := { s with w := { s.w with pinDue := dueOf s.t.now, pinMiss := 0, pinHb := true, lostAt := none } }
    if s.w.pinHb then u else post 0x0A04 1 [] u) :=
  if_pos he

/-- A claim no higher than what is known changes nothing (R532, R533). -/
theorem seeClaim_known {k : Nat} (he : k / 256 ≤ s.w.epoch) (hr : s.w.role ≠ 1 ∨ k ≤ s.w.claim) : seeClaim k s = s := by
  have known : knowEpoch (k / 256) s = s := if_neg (Nat.not_lt.2 he)
  rw [seeClaim, known]
  exact if_neg fun ⟨_, hlead, hlt⟩ => hr.elim (· hlead) (Nat.not_le.2 hlt)

/-- A frame from the partner that runs at the same rate, names no handover and claims nothing new, on a path that is up. -/
theorem heartbeatRx_steady {hb : Heartbeat} (he : s.w.en = true) (hrate : hb.rate96 = s.t.rate96) (hlen : hb.pickLen = s.t.pickLen)
    (hl : s.w.linkHb = true) (hh : hb.handover = none) (hk : hb.claim / 256 ≤ s.w.epoch) (hr : s.w.role ≠ 1 ∨ hb.claim ≤ s.w.claim) :
    heartbeatRx hb s = { s with w := { s.w with
      linkDue := dueOf s.t.now, linkMiss := 0, linkHb := true, lostAt := none, incompat := false, peerClaim := hb.claim,
      peerListens := hb.listens, peerReady := hb.ready,
      resetAsk := if hb.reset && decide (s.w.claim < hb.claim) then s.w.resetAsk + 1 else 0,
      asked := ((s.w.asked.filter (fun k => !hb.asks.contains k)) ++ hb.asks.take 8) } } := by
  have heard : pathHeard 0 s = { s with w := { s.w with linkDue := dueOf s.t.now, linkMiss := 0, linkHb := true, lostAt := none } } := if_pos hl
  rw [heartbeatRx, if_neg (not_not.2 he), heard]
  simp only [hrate, hlen, hh, ne_eq, not_true, decide_false, Bool.or_self, Bool.false_and, Bool.false_eq_true, if_false]
  exact seeClaim_known hk hr

section
variable (ht : s.t.now % (50 * usU) = 0)
include ht

theorem heartbeatDue_complete (hp : s.picksComplete (s.t.now - 50 * usU) = true) : heartbeatDue s = { s with w := { s.w with
    beating := true, hbOut := !s.w.hbOut, beatAt := s.t.now, hbSent := if s.w.en = true then some s.heartbeat else s.w.hbSent } } :=
  (if_neg (not_not.2 ht)).trans (if_pos hp)

theorem heartbeatDue_late (hp : s.picksComplete (s.t.now - 50 * usU) = false) :
    heartbeatDue s = { s with w := { s.w with beating := false, own := false } } :=
  (if_neg (not_not.2 ht)).trans (if_neg (ne_true_of_eq_false hp))

end

/-- A missing heartbeat of the link path, counted. -/
def missLink (s : State) : State :=
  bump 0x1000C 15 0 { s with w := { s.w with linkDue := (s.t.now - 5 * usU) / (50 * usU), linkMiss := s.w.linkMiss + 1 } }

/-- The link path is down, told by event 0x0A03. -/
def linkLost (s : State) : State := post 0x0A03 0 [] { missLink s with w := { (missLink s).w with linkHb := false } }

theorem heartbeatMissing_link (he : s.w.en = true) (ht : 5 * usU ≤ s.t.now) (hk : s.w.linkDue < (s.t.now - 5 * usU) / (50 * usU)) :
    heartbeatMissing 0 s = if 3 ≤ s.w.linkMiss + 1 ∧ s.w.linkHb then
      (if (linkLost s).w.linkHb ∨ (linkLost s).w.pinHb then linkLost s
        else partnerFailed { linkLost s with w := { (linkLost s).w with lostAt := some (linkLost s).t.now } })
      else missLink s := by
  refine if_neg ?_
  rintro (h | h | h)
  exacts [h he, Nat.not_lt.2 ht h, Nat.not_lt.2 h hk]

end

/-- Settles O51: each row is its model function on the state at the row's time; of a missing link heartbeat the count decides first, and then
the other path. -/
theorem heartbeatRows : Obligations.HeartbeatRows := by
  refine ⟨fun t s he => congrArg Host.Outcome.next (hbInEdge_on (s := advance t s) he), fun t hb s hc => ?_, fun hb s => heartbeatRx_steady,
    fun t s ht => ⟨fun hp => congrArg Host.Outcome.next (heartbeatDue_complete (s := advance t s) ht hp),
      fun hp => congrArg Host.Outcome.next (heartbeatDue_late (s := advance t s) ht hp)⟩, fun t s he ht => ?_⟩
  · exact congrArg Host.Outcome.next (if_neg (not_not.2 hc))
  · intro k hk u
    have row : exec (.heartbeatMissing t 0) s = _ := congrArg Host.Outcome.next (heartbeatMissing_link (s := advance t s) he ht hk)
    refine ⟨fun hn => row.trans (congrArg Host.Outcome.next (if_neg ?_)), fun hn hl => ?_⟩
    · rintro ⟨h3, hl⟩
      exact hn.elim (fun h2 => Nat.not_le.2 h2 (Nat.le_of_succ_le_succ h3)) fun hx => ne_true_of_eq_false hx hl
    · have third : 3 ≤ (advance t s).w.linkMiss + 1 ∧ (advance t s).w.linkHb = true := ⟨Nat.succ_le_succ hn, hl⟩
      refine ⟨fun hp => row.trans (congrArg Host.Outcome.next ((if_pos third).trans (if_pos (.inr hp)))),
        fun hlb hp => row.trans (congrArg Host.Outcome.next ((if_pos third).trans (if_neg ?_)))⟩
      exact not_or.2 ⟨ne_true_of_eq_false hlb, ne_true_of_eq_false hp⟩

/-! ### The Selvedge link and the claim pins (R515–R526, R537, R541) -/

section
variable {s : State}

theorem segmentRx_bad {seq : Nat} (he : s.w.en = true) (hb : s.w.broken.contains seq = false) : segmentRx seq false s =
    bump 0x10010 31 16 { s with w := { s.w with broken := (seq :: s.w.broken).take 16 } } := by
  refine (if_pos ⟨he, Bool.false_ne_true⟩).trans (congrArg (fun l => bump 0x10010 31 16 { s with w := { s.w with broken := l } }) ?_)
  exact if_neg (ne_true_of_eq_false hb)

section
variable {seq : Nat} {f : StateFrame}

theorem stateFrameRx_broken (hb : s.w.broken.contains seq = true) :
    stateFrameRx seq f s = { s with w := { s.w with broken := s.w.broken.filter (fun k => k != seq) } } :=
  if_pos (.inr hb)

variable (he : s.w.en = true) (hb : s.w.broken.contains seq = false)
include he hb

theorem stateFrameRx_late
    (ht : (seeClaim f.claim { s with w := { s.w with peerClaim := f.claim } }).pickAt (f.pick + 2) <
      (seeClaim f.claim { s with w := { s.w with peerClaim := f.claim } }).t.now) :
    stateFrameRx seq f s = seeClaim f.claim { s with w := { s.w with peerClaim := f.claim } } :=
  (if_neg (not_or.2 ⟨not_not.2 he, ne_true_of_eq_false hb⟩)).trans (if_pos (.inr ht))

/-- A frame in time at a shadow that has nothing of its pick to compare it with is adopted. -/
theorem stateFrameRx_adopts {u : State} (hu : seeClaim f.claim { s with w := { s.w with peerClaim := f.claim } } = u) (hr : u.w.role = 2)
    (ht : u.t.now ≤ u.pickAt (f.pick + 2)) (hv : nfind u.w.versions f.pick = none) (hc : nfind u.w.batCrc f.pick = none)
    (ho : nfind u.w.outCrc f.pick = none) : stateFrameRx seq f s =
      (let v := putField 0x10028 15 0 (satN 0xFFFF ((u.t.now - u.pickAt (f.pick + 1)) / (100 * nsU))) u
      { v with w := { v.w with
        framePick := f.pick, frames := min 16 (v.w.frames + 1), adopt := nset v.w.adopt (f.pick + 2) f.objects,
        ckpts := (f.ckpts.filter (fun x => v.w.resync.contains x.1)).foldl (fun m x => nset m x.1 (f.pick, x.2)) v.w.ckpts } }) := by
  have inTime : ¬ (u.w.role ≠ 2 ∨ u.pickAt (f.pick + 2) < u.t.now) := not_or.2 ⟨not_not.2 hr, Nat.not_lt.2 ht⟩
  have seen : seeClaim f.claim (setW (fun w => { w with peerClaim := f.claim }) s) = u := hu
  rw [stateFrameRx, if_neg (not_or.2 ⟨not_not.2 he, ne_true_of_eq_false hb⟩)]
  simp only [seen, if_neg inTime]
  simp only [setW, putField_w, hv, hc, ho]

end

theorem stateFrameMissed_shadow {p : Nat} (he : s.w.en = true) (hr : s.w.role = 2) (hp : p + 2 = s.pickNow)
    (ha : nfind s.w.adopt (p + 2) = none) : stateFrameMissed p s =
      post 0x0A0B 0 [] (bump 0x10010 15 0 { s with w := { s.w with frames := 0, quiet := 0 } }) :=
  if_pos ⟨he, hr, hp, Option.isNone_iff_eq_none.2 ha⟩

theorem laneChange_changes {lane : Nat} {up : Bool} (hl : lane < 2) (hn : lget false s.w.lanes lane ≠ up) : laneChange lane up s =
    post (if up then 0x0A0D else 0x0A02) lane (leBytes 1 lane) { s with w := { s.w with lanes := lset s.w.lanes lane up } } :=
  if_pos ⟨hl, hn⟩

theorem endListening_alone {strap : Bool} (hr : s.w.role = 3) (ht : s.w.listenFrom + 2 * msU ≤ s.t.now) (hp : s.peerUp = false) :
    endListening strap s = post 0x0A01 0 (leBytes 1 1) (raiseOwn (takeLead s)) :=
  (if_pos ⟨hr, ht⟩).trans (if_pos (if_neg (ne_true_of_eq_false hp)))

theorem claimPeerChange_changes {high : Bool} (hn : s.w.peerPin ≠ high) :
    claimPeerChange high s = { s with w := { s.w with peerPin := high, peerPinAt := s.t.now, bothAt := s.t.now } } :=
  if_neg hn

theorem raiseOwn_allowed (hl : s.isLead = true) (hb : s.w.beating = true) (hp : s.w.peerPin = false)
    (ht : s.w.peerPinAt + 2 * usU ≤ s.t.now) : raiseOwn s = { s with w := { s.w with own := true, bothAt := s.t.now } } :=
  if_pos ⟨hl, hb, ne_true_of_eq_false hp, ht⟩

theorem claimConflict_held (ho : s.w.own = true) (hp : s.w.peerPin = true) (ht : s.w.bothAt + usU ≤ s.t.now) : claimConflict s =
    if s.w.rank < s.w.peerRank then
      (if s.w.en then demote s.w.epoch s.m.pick s else { s with w := { s.w with own := false } })
    else s := by
  exact if_congr (by simp [ho, hp, ht]) rfl rfl

end

/-- Settles O52: each row is its model function on the state at the row's time, in the branch that its premises name. -/
theorem selvedgeRows : Obligations.SelvedgeRows := by
  refine ⟨fun t seq s he hb => congrArg Host.Outcome.next (segmentRx_bad (s := advance t s) he hb),
    fun t seq s => congrArg Host.Outcome.next (if_neg fun hx => hx.2 rfl),
    fun t seq f s _ hb => congrArg Host.Outcome.next (stateFrameRx_broken (s := advance t s) hb),
    fun t seq f s he hb ht => congrArg Host.Outcome.next (stateFrameRx_late (s := advance t s) he hb ht),
    fun t seq f s he hb hr ht hv hc ho => congrArg Host.Outcome.next (stateFrameRx_adopts (s := advance t s) he hb rfl hr ht hv hc ho),
    fun t p s he hr hp ha => congrArg Host.Outcome.next (stateFrameMissed_shadow (s := advance t s) he hr hp ha),
    fun t lane s hl => ⟨fun hup => ?_, fun hdown => ?_⟩,
    fun t strap s hr ht hp => congrArg Host.Outcome.next (endListening_alone (s := advance t s) hr ht hp),
    fun t high s hn => congrArg Host.Outcome.next (claimPeerChange_changes (s := advance t s) hn),
    fun t s hl hb hp ht => congrArg Host.Outcome.next (raiseOwn_allowed (s := advance t s) hl hb hp ht), fun t s ho hp ht => ?_⟩
  · exact congrArg Host.Outcome.next (laneChange_changes (s := advance t s) hl (ne_false_of_eq_true hup))
  · exact congrArg Host.Outcome.next (laneChange_changes (s := advance t s) hl (ne_true_of_eq_false hdown))
  · have row : exec (.claimConflict t) s = _ := congrArg Host.Outcome.next (claimConflict_held (s := advance t s) ho hp ht)
    exact ⟨fun hr he => row.trans (congrArg Host.Outcome.next ((if_pos hr).trans (if_pos he))),
      fun hr he => row.trans (congrArg Host.Outcome.next ((if_pos hr).trans (if_neg (ne_true_of_eq_false he)))),
      fun hr => row.trans (congrArg Host.Outcome.next (if_neg (Nat.not_lt.2 hr)))⟩

end Sys2Proof.Machine
end

section
/-!
PROOFS. The statements of 18_power_modes about MODE_SET and the ends of transitions (R602–R606, R616, R617), about supply and sleep (R591,
R592, R594, R607, R608), and about heat and current (R588, R590, R593, R595, R616, R617).
-/
namespace Sys2Proof.Machine

/-! ### MODE_SET (R604–R606, R617) -/

@[simp] theorem taken_changing (s : State) (c : HostCmd) (info : CmdInfo) : (s.taken c info).changing = s.changing := by
  unfold State.changing; rw [taken_m]

@[simp] theorem taken_sameMode (s : State) (c : HostCmd) (info : CmdInfo) (m : Mode) : (s.taken c info).sameMode m = s.sameMode m := by
  unfold State.sameMode; rw [taken_m, taken_w]

/-- The request that a MODE_SET makes. -/
def modeSetReq (c : HostCmd) (s : State) (m : Mode) : ModeReq :=
  { target := m, pick := par c 16 8, resume := par c 13 1, who := some (s.waiterOf c modeSetInfo) }

section
variable {c : HostCmd} {s : State} {m : Mode} (h : s.accepts c modeSetInfo = true) (hm : Mode.ofCode (par c 12 1) = some m)
  (hp : (s.taken c modeSetInfo).planned.named (par c 16 8) ≠ none) (hr : par c 13 1 ≤ 5) (hz : parZero c 32 32 = true)
include h hm hp hr hz

theorem exec_modeSet_waits_behind (hc : s.changing = true) : exec (.modeSet c) s = .next (
    let v := setM (fun x => { x with held := some (modeSetReq c s m) }) (s.taken c modeSetInfo)
    match s.m.held with
    | some o => completeOpt o.who { Ending.of stOK with superseded := true } v
    | none => v) := by
  obtain ⟨p, hp⟩ := Option.ne_none_iff_exists'.1 hp
  refine (exec_accepted (body := modeSetBody) rfl h).trans (congrArg Host.Outcome.next ?_)
  rw [modeSetBody, hm, hp]
  refine (if_neg (by simp [hr, hz])).trans ((if_pos (by simpa using hc)).trans ?_)
  rw [taken_m]
  rfl

theorem exec_modeSet_begins (hc : s.changing = false) :
    exec (.modeSet c) s = .next (modeBegin (modeSetReq c s m) (s.taken c modeSetInfo)) := by
  obtain ⟨p, hp⟩ := Option.ne_none_iff_exists'.1 hp
  refine (exec_accepted (body := modeSetBody) rfl h).trans (congrArg Host.Outcome.next ?_)
  rw [modeSetBody, hm, hp]
  exact (if_neg (by simp [hr, hz])).trans (if_neg (by simp [hc]))

end

section
variable {r : ModeReq} {s : State}

/-- The twin setting rules the mode out (R605). -/
theorem modeBegin_ruledOut (h : (r.target = .shadow ∧ s.w.en = false) ∨ (r.target = .measure ∧ s.w.en = true)) :
    modeBegin r s = completeOpt r.who (.of stMode) s :=
  if_pos (h.imp (And.imp id ne_true_of_eq_false) id)

variable (hs : r.target = .shadow → s.w.en = true) (hm : r.target = .measure → s.w.en = false)
include hs hm

theorem not_ruledOut : ¬ ((r.target = .shadow ∧ ¬ s.w.en = true) ∨ (r.target = .measure ∧ s.w.en = true)) :=
  not_or.2 ⟨fun ⟨h, he⟩ => he (hs h), fun ⟨h, he⟩ => ne_true_of_eq_false (hm h) he⟩

theorem modeBegin_startUp (hst : s.m.start = true) (hrec : s.m.recovery = false) (ht : r.target ≠ .dormant) :
    modeBegin r s = { s with m := { s.m with
      trans := some r, transPick := none, startPick := some (max r.pick s.planned.nextPick) } } := by
  refine (if_neg (not_ruledOut hs hm)).trans ((if_pos hst).trans ?_)
  exact (if_neg (by simp [hrec])).trans (if_neg ht)

variable (hst : s.m.start = false) (hd : s.inDormant = false)
include hst hd

theorem modeBegin_same (h : s.sameMode r.target = true) : modeBegin r s = completeOpt r.who (.of stOK) s :=
  (if_neg (not_ruledOut hs hm)).trans
    ((if_neg (ne_true_of_eq_false hst)).trans ((if_neg (ne_true_of_eq_false hd)).trans (if_pos h)))

/-- Out of Maintain, a change to another mode is judged by its kind (R605). -/
theorem modeBegin_other {q : Nat} {late : Bool} (h : s.sameMode r.target = false) (hmt : s.m.mode ≠ .maintain)
    (hq : s.slotAt r.pick = some (q, late)) : modeBegin r s =
      if r.target = .dormant then inTransition r (some q) (pushSched q late none (.mode r) s)
      else if r.target = .maintain then inTransition r (some q) s
      else if ¬ dataTransition s.m.mode r.target then completeOpt r.who (.of stMode) s
      else if s.m.mode = .pass ∧ ¬ (pushSched q late none (.mode r) s).inBudget q then completeOpt r.who (.of stBudget) s
      else inTransition r (some q) (pushSched q late none (.mode r) s) := by
  rw [modeBegin, if_neg (not_ruledOut hs hm), if_neg (ne_true_of_eq_false hst), if_neg (ne_true_of_eq_false hd),
    if_neg (ne_true_of_eq_false h), if_neg fun hx => hmt hx.1, hq]
  dsimp only
  rw [if_neg hmt]

end

/-- Settles O14: an accepted MODE_SET waits behind a transition, or is `modeBegin`, which branches on its target and the present mode. -/
theorem modeSetTransitions : Obligations.ModeSetTransitions := by
  intro c s m q late h hm hp hr hz u r
  have waits := fun hc => exec_modeSet_waits_behind h hm hp hr hz hc
  have begins := fun hc => exec_modeSet_begins h hm hp hr hz hc
  have taken_en : u.w.en = s.w.en := by rw [taken_w]
  have taken_start : u.m.start = s.m.start := by rw [taken_m]
  refine ⟨fun hc hh => ?_, fun o hc hh => ?_, fun hc hout => ?_, fun hc hs hme => ⟨fun hst hrec ht => ?_, fun hst hd => ?_⟩⟩
  · rw [waits hc, hh]
    rfl
  · rw [waits hc, hh]
    rfl
  · refine (begins hc).trans (congrArg Host.Outcome.next (modeBegin_ruledOut ?_))
    rw [← taken_en] at hout
    exact hout
  · rw [← taken_en] at hs hme
    refine (begins hc).trans (congrArg Host.Outcome.next (modeBegin_startUp hs hme (taken_start.trans hst) ?_ ht))
    rw [taken_m]
    exact hrec
  · rw [← taken_en] at hs hme
    have hst' : u.m.start = false := taken_start.trans hst
    have hd' : u.inDormant = false := (taken_inDormant s c modeSetInfo).trans hd
    refine ⟨fun hsame => ?_, fun hother hmt hq => ?_⟩
    · exact (begins hc).trans
        (congrArg Host.Outcome.next (modeBegin_same hs hme hst' hd' ((taken_sameMode s c modeSetInfo m).trans hsame)))
    · have row := (begins hc).trans (congrArg Host.Outcome.next
        (modeBegin_other hs hme hst' hd' ((taken_sameMode s c modeSetInfo m).trans hother) (by rw [taken_m]; exact hmt) hq))
      refine ⟨fun ht => row.trans (congrArg Host.Outcome.next (if_pos ht)),
        fun ht => row.trans (congrArg Host.Outcome.next ((if_neg fun hx => Mode.noConfusion (ht.symm.trans hx)).trans (if_pos ht))),
        fun hnd hnm => ?_⟩
      have row := row.trans (congrArg Host.Outcome.next ((if_neg hnd).trans (if_neg hnm)))
      rw [taken_m] at row
      refine ⟨fun hk => row.trans (congrArg Host.Outcome.next (if_pos (ne_true_of_eq_false hk))),
        fun hk hb => row.trans (congrArg Host.Outcome.next ((if_neg (not_not.2 hk)).trans (if_neg ?_)))⟩
      exact fun ⟨hpass, hnot⟩ => hnot (hb hpass)

/-! ### MODE_QUERY, RATE_SET and the ends of transitions (R602, R605, R606, R616, R617) -/

section
variable {q : Nat} {r : ModeReq} {s : State} (ht : s.m.trans = some r)
include ht

theorem endTransition_ends : endTransition q s = completeOpt r.who (Ending.atPick q (decide (r.pick ≠ 0 ∧ r.pick < q)))
    { s with m := { s.m with trans := none, transPick := none } } := by
  rw [endTransition, ht]
  rfl

variable (hq : s.m.transPick = some q) (hd : s.m.dpRun = true) (hb : q ≤ s.m.pick)
include hq hd hb

theorem modeTransitionEnd_ends (hm : r.target ≠ .maintain) (hn : r.target ≠ .dormant) :
    modeTransitionEnd s = proceed (endTransition q s) := by
  rw [modeTransitionEnd, ht, hq]
  exact if_pos ⟨hd, hb, hm, hn⟩

theorem controlPlaneStop_stops (hm : r.target = .maintain) (hl : s.h.loads = [])
    (ha : s.h.accepted.all (fun w => s.outlasts.contains w.id) = true) :
    controlPlaneStop s = proceed (endTransition s.m.pick (intoMaintain s)) := by
  rw [controlPlaneStop, ht, hq]
  exact if_pos ⟨hm, hd, hb, hl, ha⟩

end

theorem dataPlaneStart_auto {haq : List HaqRead} {s : State} (hd : s.m.dpRun = false) (hc : s.coreUp = true)
    (ha : s.autoDue (takeRate s).pickNow = true) : dataPlaneStart .auto haq s =
      startPlane { target := s.resumeMode none, pick := 0, resume := 0, who := none } (takeRate s).pickNow haq s :=
  (if_neg (not_or.2 ⟨ne_true_of_eq_false hd, not_not.2 hc⟩)).trans (if_pos ha)

/-- Settles O15: the two commands past their checks, and each row in the branch that its premises name. -/
theorem modeQueryAndRateSet : Obligations.ModeQueryAndRateSet := by
  refine ⟨fun c s h hz => ?_, fun c s h hz hrate hlen => ?_, fun t q r s ht hq hd hb hm hn => ?_,
    fun t q r s ht hq hd hb hm hl ha =>
      congrArg Host.Outcome.next (controlPlaneStop_stops (s := advance t s) ht hq hd hb hm hl ha),
    fun t haq s hd hc ha => congrArg Host.Outcome.next (dataPlaneStart_auto (s := advance t s) hd hc ha)⟩
  · exact (exec_accepted (body := modeQueryBody) rfl h).trans (congrArg Host.Outcome.next (if_neg (not_not.2 hz)))
  · have inRange : ¬ (1 < par c 14 1 ∨ (par c 15 1 ≠ 8 ∧ par c 15 1 ≠ 16 ∧ par c 15 1 ≠ 32) ∨ ¬ parZero c 32 32 = true) := by
      simp only [List.mem_cons, List.not_mem_nil, or_false] at hlen
      simp only [hz, not_true, or_false]
      omega
    exact (exec_accepted (body := rateSetBody) rfl h).trans (congrArg Host.Outcome.next (if_neg inRange))
  · refine congrArg Host.Outcome.next ((modeTransitionEnd_ends (s := advance t s) ht hq hd hb hm hn).trans (congrArg proceed ?_))
    exact endTransition_ends (s := advance t s) ht

/-! ### Supply, flush, sleep and waking (R575, R576, R591, R592, R594, R607, R608) -/

section
variable {s : State}

theorem pfailFall_posts (hp : s.p.pfail = false) : pfailFall s =
    (let u := post 0x0103 0 [] (bump 0x1038 31 24 { s with p := { s.p with pfail := true } })
    if ¬ u.ledgerUp ∨ u.l.flush then u
    else
      let v : State := { u with l := { u.l with jobs := u.l.jobs.filter (fun j => !j.uncommitted), flush := true, flushAt := u.t.now } }
      setCnt (fun c => { c with flushes := satN 0xFFFFFFFF (c.flushes + 1) })
        ((u.l.jobs.filter (fun j => j.uncommitted)).foldl (fun st j => completeOpt j.after.waiter (.of stAborted) st) v)) :=
  if_neg (ne_true_of_eq_false hp)

theorem dormantEntry_sleeps {q : Nat} {r : ModeReq} (ht : s.m.trans = some r) (hq : s.m.transPick = some q) (hd : r.target = .dormant)
    (hstart : s.m.start = true → s.pickAt q ≤ s.t.now) (hout : s.m.start = false → s.m.leadOut = true ∧ s.outputsEnded = true) :
    dormantEntry s = (let u := sleep (endTransition q s)
      post 0x010F 0 [] (toL2 (dropHeld stMode
        { u with m := { u.m with resumeOv := if r.resume = 0 then none else Mode.ofCode r.resume } }))) := by
  have due : if s.m.start then s.pickAt q ≤ s.t.now else s.m.leadOut = true ∧ s.outputsEnded = true := by
    cases hs : s.m.start with
    | true => exact hstart hs
    | false => exact hout hs
  rw [dormantEntry, ht, hq]
  exact if_neg fun h => h.elim (· hd) (· due)

theorem wakeEvent_due {cause : Nat} (hc : cause ≠ 5) (hd : s.inDormant = true) (hr : s.m.retention = true) (hth : s.m.thermal = false)
    (hs : s.p.seq = .idle) (hw : s.wakeDue cause = true) : wakeEvent cause s =
      (let u := if cause = 4 then { s with h := { s.h with perst := false } } else s
      wakeUp cause (some (u.resumeMode s.m.resumeOv)) u) := by
  by_cases h4 : cause = 4
  · subst h4
    exact if_pos ⟨hd, hr, ne_true_of_eq_false hth, hs, hw⟩
  · simp only [wakeEvent, if_neg h4, if_neg hc, if_pos (⟨hd, hr, ne_true_of_eq_false hth, hs, hw⟩ :
      s.inDormant = true ∧ s.m.retention = true ∧ ¬ s.m.thermal = true ∧ s.p.seq = .idle ∧ s.wakeDue cause = true)]

theorem wakeUp_railsUp {cause : Nat} {dest : Mode} (hf : s.p.fall = none) : wakeUp cause (some dest) s = { s with
    m := { s.m with wake := cause, trans := some { target := dest, pick := 0, resume := 0, who := none }, transPick := none }
    p := { s.p with fall := none, en := s.p.en % 2 ^ 1 + 2 ^ 1, vset := 800, seq := .rising 1 s.t.now, wakeN := true } } := by
  simp only [wakeUp, raiseRail, setM, setP, hf, Option.map_some]

/-- The thermal hold ends: the fault pin follows the rails alone, and the cool second is no longer counted. -/
def endHold (s : State) : State := { s with p := { s.p with faultN := s.p.fault, coolSince := none } }

theorem holdEnd_idle {c : Nat} (hc : s.p.coolSince = some c) (hth : s.m.thermal = true) (ht : c + 10 * secU ≤ s.t.now)
    (hs : s.p.seq = .idle) (hr : s.p.inReset = false) : holdEnd s =
      if ¬ s.m.coreOn then startSequence { endHold s with m := { s.m with thermal := false, tripStart := false } }
      else if s.m.tripStart then wakeUp 5 none (endHold s)
      else if s.m.tripMode = .dormant then { endHold s with m := { s.m with thermal := false } }
      else wakeUp 5 (some s.m.tripMode) (endHold s) := by
  rw [holdEnd, hc]
  dsimp only
  rw [if_pos ⟨hth, ht, .inl hs, ne_true_of_eq_false hr⟩]
  exact if_neg (by simp [setP, hs])

end

/-- Settles O54: each row is its model function on the state at the row's time, in the branch that its premises name. -/
theorem supplyAndSleep : Obligations.SupplyAndSleep := by
  refine ⟨fun t s => ⟨fun h => ?_, fun h => ?_, fun h => ?_, fun h => ?_, fun h => ?_⟩, fun t s hp => ?_, fun t s hf => ?_,
    fun t q r s ht hq hd hstart hout =>
      congrArg Host.Outcome.next (dormantEntry_sleeps (s := advance t s) ht hq hd hstart hout),
    fun t cause s hc hd hr hth hs hw => congrArg Host.Outcome.next (wakeEvent_due (s := advance t s) hc hd hr hth hs hw), fun t s => rfl,
    fun cause dest s hf => wakeUp_railsUp hf, fun t c s hc hth ht hs hr => ?_⟩
  · exact congrArg Host.Outcome.next (if_pos h)
  · exact congrArg Host.Outcome.next (if_pos h)
  · exact congrArg Host.Outcome.next (if_neg (ne_true_of_eq_false h))
  · exact congrArg Host.Outcome.next (if_neg (ne_true_of_eq_false h))
  · exact congrArg Host.Outcome.next (if_pos h)
  · have row : exec (.pfailFall t) s = _ := congrArg Host.Outcome.next (pfailFall_posts (s := advance t s) hp)
    refine ⟨fun hn => row.trans (congrArg Host.Outcome.next (if_pos (hn.imp ne_true_of_eq_false id))),
      fun hu hn => row.trans (congrArg Host.Outcome.next (if_neg ?_))⟩
    exact not_or.2 ⟨not_not.2 hu, ne_true_of_eq_false hn⟩
  · exact congrArg Host.Outcome.next (if_neg (not_not.2 hf))
  · have row : exec (.thermalHoldEnd t) s = _ := congrArg Host.Outcome.next (holdEnd_idle (s := advance t s) hc hth ht hs hr)
    refine ⟨fun hon => row.trans (congrArg Host.Outcome.next (if_pos (ne_true_of_eq_false hon))), fun hon hst hmode => ?_⟩
    refine row.trans (congrArg Host.Outcome.next ((if_neg (not_not.2 hon)).trans ?_))
    exact (if_neg (ne_true_of_eq_false hst)).trans (if_neg hmode)

/-! ### Heat and current (R588, R590, R593, R595, R616, R617) -/

section
variable {s : State}

section
variable {temps : List Int}

/-- The eight sensors of a sample, each in its 12 bits. -/
def sensorTemps (temps : List Int) : List Int := (List.range 8).map (fun i => clampI (-2048) 2047 (lget 0 temps i))

variable (hr : s.p.inReset = false) (h95 : (hottest (sensorTemps temps)).2 < quarters 95) (hms : s.l.ms + 1 < 1000)
include hr h95 hms

/-- A sample below 95 °C within a second: the readings are taken up, and only THOT is left to judge. -/
theorem tempSample_cool : tempSample temps s =
    (let u : State := { s with
      p := { s.p with temps := sensorTemps temps, hotSince := none, hotSteps := 0, coolSince := some (s.p.coolSince.getD s.t.now) }
      l := { s.l with ms := s.l.ms + 1 } }
    if quarters s.p.thot ≤ (hottest (sensorTemps temps)).2 then (if s.p.hot then u else post 0x0107 0 [] (setP (fun p => { p with hot := true }) u))
    else if (hottest (sensorTemps temps)).2 ≤ quarters s.p.thot - 20 then { u with p := { u.p with hot := false } }
    else u) := by
  have h105 : (hottest (sensorTemps temps)).2 < quarters 105 := Int.lt_trans h95 (by decide)
  have h115 : ¬ quarters 115 ≤ (hottest (sensorTemps temps)).2 := Int.not_le.2 (Int.lt_trans h95 (by decide))
  refine (if_neg (ne_true_of_eq_false hr)).trans ((if_neg fun hx => h115 hx.1).trans ?_)
  unfold sensorTemps at *
  simp only [setP, setL, if_pos h105, if_pos h95, if_pos hms]

end

theorem shedFor_rendering {code : Nat} (hd : s.m.dpRun = true) (hl : s.m.leadOut = false) : shedFor code s =
    (let u := callShed (s.m.pick + 2) id s
    post code 0 [] (if s.shedAhead < u.shedAhead then { u with p := { u.p with shedTaken := true } } else u)) := by
  have called : (if s.m.dpRun = true ∧ ¬ s.m.leadOut = true then callShed (s.m.pick + 2) id s else s) = callShed (s.m.pick + 2) id s :=
    if_pos ⟨hd, ne_true_of_eq_false hl⟩
  rw [shedFor, called]
  rfl

theorem thermalShed_due {h : Nat} (hs : s.p.hotSince = some h) (ht : h + (s.p.hotSteps + 1) * secU ≤ s.t.now) :
    thermalShed s = shedFor 0x0108 { s with p := { s.p with hotSteps := s.p.hotSteps + 1 } } := by
  rw [thermalShed, hs]
  exact if_pos ht

theorem overcurrentShed_due {h : Nat} (hs : s.p.overSince = some h) (ht : h + s.p.overSteps * secU ≤ s.t.now) :
    overcurrentShed s = shedFor 0x010B { s with p := { s.p with overSteps := s.p.overSteps + 1 } } := by
  rw [overcurrentShed, hs]
  exact if_pos ht

theorem regulatorFail_third {k : Nat} (hf : (lget (Regulator.default 0) s.p.regs k).fails = 3) : regulatorFail k s =
    post 0x0106 0 [] { s with p := { s.p with regs := lset s.p.regs k { lget (Regulator.default 0) s.p.regs k with
      fails := 4, vout := if k = 0 then s.p.vset else (lget (Regulator.default 0) s.p.regs k).vout } } } :=
  if_neg (not_not.2 hf)

end

section
variable {c : HostCmd} {s : State} (hz : parZero c 32 32 = true)
include hz

theorem exec_pwrQuery (h : s.accepts c pwrQueryInfo = true) (hn : 128 ≤ par c 8 4) (ha : par c 0 8 % 8 = 0) : exec (.pwrQuery c) s =
    .next (s.ended c pwrQueryInfo (.of stOK) (writeHost (par c 0 8) (s.taken c pwrQueryInfo).powerReport)) := by
  refine (exec_accepted (body := pwrQueryBody) rfl h).trans (congrArg Host.Outcome.next ?_)
  exact (if_neg (by simp [hz, hn])).trans (if_neg (by simp [aligned8, ha]))

theorem exec_railCfg (h : s.accepts c railCfgInfo = true) (ha : par c 0 8 % 8 = 0) (hok : railTableOk (fit 64 c.data) = true) :
    exec (.railCfg c) s = .next (s.ended c railCfgInfo (.of stOK) (fun u => { u with p := { u.p with
      imax := byteAt (fit 64 c.data) 36
      nextRails := some ((List.range 8).map (fun k => { delay := getLE (fit 64 c.data) (4 * k) 2, timeout := byteAt (fit 64 c.data) (4 * k + 2),
                                                        offDelay := byteAt (fit 64 c.data) (4 * k + 3) : RailRow }),
        (List.range 4).map (fun k => byteAt (fit 64 c.data) (32 + k))) } })) := by
  refine (exec_accepted (body := railCfgBody) rfl h).trans (congrArg Host.Outcome.next ?_)
  exact (if_neg (not_not.2 hz)).trans ((if_neg (by simp [aligned8, ha])).trans (if_neg (not_not.2 hok)))

theorem exec_thermSet (h : s.accepts c thermSetInfo = true) (hlow : 85 ≤ par c 28 1) (hhigh : par c 28 1 ≤ 105) : exec (.thermSet c) s =
    .next (s.ended c thermSetInfo (.of stOK) (fun u => { u with p := { u.p with thot := par c 28 1 } })) :=
  (exec_accepted (body := thermSetBody) rfl h).trans (congrArg Host.Outcome.next (if_neg (by simp [hz, hlow, hhigh])))

section
variable (h : s.accepts c avsSetInfo = true)
include h

theorem exec_avsSet_loop (ha : par c 29 1 = 0) : exec (.avsSet c) s = .next (s.ended c avsSetInfo (.of stOK) (fun u => { u with
    p := { u.p with avs := .loop }
    b := { u.b with winMin := 0xFFFF, winCount := 0 } })) := by
  refine (exec_accepted (body := avsSetBody) rfl h).trans (congrArg Host.Outcome.next ?_)
  rw [avsSetBody, ha]
  exact if_neg (by simp [hz])

theorem exec_avsSet_fixed (ha : par c 29 1 = 1) (hlow : 650 ≤ par c 30 2) (hhigh : par c 30 2 ≤ 800) (h5 : par c 30 2 % 5 = 0) :
    exec (.avsSet c) s = .next (s.ended c avsSetInfo (.of stOK) (fun u => { u with
      p := { u.p with avs := .fixed (par c 30 2), vset := if u.p.holdSince.isNone then par c 30 2 else u.p.vset }
      b := { u.b with winMin := 0xFFFF, winCount := 0 } })) := by
  refine (exec_accepted (body := avsSetBody) rfl h).trans (congrArg Host.Outcome.next ?_)
  rw [avsSetBody, ha, if_neg (by simp [hz, hlow, hhigh, h5])]
  simp only [true_and]
  rfl

end
end

@[simp] theorem raiseTo_p (off hi lo v : Nat) (s : State) : (raiseTo off hi lo v s).p = s.p := by
  unfold raiseTo
  split <;> rfl

/-- Settles O55: each row is its model function on the state at the row's time, and each command its body past the checks. -/
theorem heatAndCurrent : Obligations.HeatAndCurrent := by
  refine ⟨fun t temps s hr => ?_, fun t h s hs ht => congrArg Host.Outcome.next (thermalShed_due (s := advance t s) hs ht),
    fun t h s hs ht => congrArg Host.Outcome.next (overcurrentShed_due (s := advance t s) hs ht), fun code s => shedFor_rendering,
    fun t reads s hr => ⟨fun hf => ?_, fun hok hi => ?_⟩,
    fun t k s hf => congrArg Host.Outcome.next (regulatorFail_third (s := advance t s) hf),
    fun c s hz => ⟨exec_pwrQuery hz, exec_railCfg hz, exec_thermSet hz, fun h => ⟨exec_avsSet_loop hz h, exec_avsSet_fixed hz h⟩⟩⟩
  · intro ts m u h95 hlow hhigh hms
    have row : exec (.tempSample t temps) s = _ := congrArg Host.Outcome.next (tempSample_cool (s := advance t s) hr h95 hms)
    refine ⟨fun hlo hhi => row.trans (congrArg Host.Outcome.next ((if_neg (Int.not_le.2 hhi)).trans (if_neg (Int.not_le.2 hlo)))),
      fun hlo => row.trans (congrArg Host.Outcome.next ((if_neg (Int.not_le.2 ?_)).trans (if_pos hlo)))⟩
    exact Int.lt_of_le_of_lt hlo (Int.sub_lt_self (quarters s.p.thot) (b := 20) (by omega))
  · exact congrArg Host.Outcome.next ((if_neg (ne_true_of_eq_false hr)).trans (if_pos (ne_true_of_eq_false hf)))
  · refine congrArg Host.Outcome.next ((if_neg (ne_true_of_eq_false hr)).trans ((if_neg (not_not.2 hok)).trans (if_pos ?_)))
    rw [raiseTo_p]
    exact hi

end Sys2Proof.Machine
end

section
/-!
PROOFS. The statements of 17_ledger_recorder about the ledger commands (R549, R550, R554, R556, R557, R563–R565, R577, R578, R582, R583).
-/
namespace Sys2Proof.Machine

/-! ### What every ledger command does without a mounted ledger (R550, R556) -/

section
variable {i : Instr} {work : Body} {c : HostCmd} {info : CmdInfo} {s : State}
  (e : exec i s = .next (hostCommand info i c (ledgerBody i work) s)) (h : s.accepts c info = true)
include e h

theorem exec_ledger_unmounted :
    (s.ledgerMounting = true → exec i s = .next { s.taken c info with
      l := { (s.taken c info).l with waiting := (s.taken c info).l.waiting ++ [(i, s.waiterOf c info)] } }) ∧
    (s.ledgerMounting = false → s.ledgerUp = false → exec i s = .next (s.ended c info (.of stResource) id)) :=
  ⟨fun hm => (exec_accepted e h).trans (congrArg Host.Outcome.next (ledgerBody_mounting (by simpa using hm))),
    fun hm hu => (exec_accepted e h).trans (congrArg Host.Outcome.next (ledgerBody_failed (by simpa using hm) (by simpa using hu)))⟩

theorem exec_ledger_up (hu : s.ledgerUp = true) : exec i s = .next (work c (s.waiterOf c info) (s.taken c info)) :=
  (exec_accepted e h).trans (congrArg Host.Outcome.next (ledgerBody_up (by simpa using hu)))

end

/-! ### The reports (R582, R583) -/

section
variable {c : HostCmd} {s : State} (hu : s.ledgerUp = true) (ha : par c 0 8 % 8 = 0) (hz : parZero c 28 4 = true)

theorem aligned8_iff {n : Nat} : aligned8 n = true ↔ n % 8 = 0 := by simp [aligned8]

section
include ha hz

theorem ldgWriteCheck_ok {need : Nat} (hn : need ≤ par c 8 4) : ldgWriteCheck c need = none :=
  (if_neg (not_not.2 (aligned8_iff.2 ha))).trans (if_neg (by simp [hz, hn]))

end

include hu ha hz

theorem exec_ldgQuery (h : s.accepts c ldgQueryInfo = true) (hn : 64 ≤ par c 8 4) : exec (.ldgQuery c) s = .next
    (s.ended c ldgQueryInfo (.of stOK) (writeHost (par c 0 8) (s.taken c ldgQueryInfo).ledgerReport)) := by
  refine (exec_ledger_up (work := ldgQueryWork) rfl h hu).trans (congrArg Host.Outcome.next ?_)
  rw [ldgQueryWork, ldgWriteCheck_ok ha hz hn]
  rfl

theorem exec_ldgSetList (h : s.accepts c ldgSetListInfo = true) (hn : 3072 ≤ par c 8 4) : exec (.ldgSetList c) s = .next
    (s.ended c ldgSetListInfo (.of stOK)
      (writeHost (par c 0 8) ((List.range 64).foldr (fun i acc => (s.taken c ldgSetListInfo).setEntry i ++ acc) []))) := by
  refine (exec_ledger_up (work := ldgSetListWork) rfl h hu).trans (congrArg Host.Outcome.next ?_)
  rw [ldgSetListWork, ldgWriteCheck_ok ha hz hn]
  rfl

theorem exec_ldgCounters (h : s.accepts c ldgCountersInfo = true) (hn : 4352 ≤ par c 8 4) : exec (.ldgCounters c) s = .next
    (s.ended c ldgCountersInfo (.of stOK) (writeHost (par c 0 8) s.l.cnt.bytes)) := by
  refine (exec_ledger_up (work := ldgCountersWork) rfl h hu).trans (congrArg Host.Outcome.next ?_)
  rw [ldgCountersWork, ldgWriteCheck_ok ha hz hn, taken_l]
  rfl

/-! ### Records (R549, R554, R557) -/

section
variable (h : s.accepts c ldgRecordWriteInfo = true) (hn : par c 8 4 ≤ 65484)
include h hn

theorem exec_ldgRecordWrite : exec (.ldgRecordWrite c) s = .next (
    if 64 ≤ (s.taken c ldgRecordWriteInfo).writesWaiting then s.ended c ldgRecordWriteInfo (.of stBusy) id
    else (appendRecord 1 2 (par c 12 2) (fit (par c 8 4) c.data) (.complete (s.waiterOf c ldgRecordWriteInfo) 0 0)
      (s.taken c ldgRecordWriteInfo)).getD (s.ended c ldgRecordWriteInfo (.of stLedgerFull) (post 0x0B07 1 []))) := by
  refine (exec_ledger_up (work := ldgRecordWriteWork) rfl h hu).trans (congrArg Host.Outcome.next ?_)
  refine (if_neg (not_not.2 (aligned8_iff.2 ha))).trans ((if_neg (by simp [hz, hn])).trans (if_congr Iff.rfl rfl ?_))
  cases appendRecord 1 2 (par c 12 2) (fit (par c 8 4) c.data) (.complete (s.waiterOf c ldgRecordWriteInfo) 0 0)
    (s.taken c ldgRecordWriteInfo) <;> rfl

end

section
variable (h : s.accepts c ldgRecordReadInfo = true)
include h

theorem exec_ldgRecordRead_none (hr : ((s.taken c ldgRecordReadInfo).region 1).current 2 (par c 12 2) = none) :
    exec (.ldgRecordRead c) s = .next (s.ended c ldgRecordReadInfo (.of
      (if ((s.taken c ldgRecordReadInfo).region 1).records.any (fun r => r.typ == 2 && r.key == par c 12 2) then stPoison else stParam)) id) := by
  refine (exec_ledger_up (work := ldgRecordReadWork) rfl h hu).trans (congrArg Host.Outcome.next ?_)
  rw [ldgRecordReadWork, if_neg (not_not.2 (aligned8_iff.2 ha)), if_neg (not_not.2 hz), hr]
  dsimp only
  split <;> rfl

theorem exec_ldgRecordRead_some {r : FlashRec} (hr : ((s.taken c ldgRecordReadInfo).region 1).current 2 (par c 12 2) = some r) :
    exec (.ldgRecordRead c) s = .next (
      if par c 8 4 < r.payload.length then s.ended c ldgRecordReadInfo (.of stParam r.payload.length) id
      else s.ended c ldgRecordReadInfo (.of stOK r.payload.length (lo32 r.seq)) (fun v => writeHost (par c 0 8) r.payload (mirrorRead 1 r v))) := by
  refine (exec_ledger_up (work := ldgRecordReadWork) rfl h hu).trans (congrArg Host.Outcome.next ?_)
  rw [ldgRecordReadWork, if_neg (not_not.2 (aligned8_iff.2 ha)), if_neg (not_not.2 hz), hr]
  rfl

end
end

theorem appendRecord_none {k typ key : Nat} {p : List Byte} {a : AfterJob} {s : State} (h : s.room k (recSize p.length) = none) :
    appendRecord k typ key p a s = none := by
  rw [appendRecord, h]

theorem appendRecord_some {k typ key : Nat} {p : List Byte} {a : AfterJob} {s v : State} (h : s.room k (recSize p.length) = some v) :
    appendRecord k typ key p a s = some (
      let r : FlashRec := { typ := typ, key := key, seq := v.l.seq, payload := p, okA := true, okB := true, differ := false }
      let j : LJob := { ops := [.program k r, .commit k r], after := a, write := true }
      { v with l := { v.l with seq := v.l.seq + 1, jobs := v.l.jobs ++ [j] } }) := by
  rw [appendRecord, h]
  rfl

/-! ### Tokens (R577, R578) -/

section
variable {op region : Nat} {token : List Byte} {s : State}

theorem presentToken_hold (h : (newNonce s).tokenHold = true) : presentToken op region token s = (false, bump 0x11028 7 0 (newNonce s)) :=
  if_pos h

section
variable (h : (newNonce s).tokenHold = false)
include h

theorem presentToken_right (ht : token = expectedToken op region s.l.nonce) : presentToken op region token s = (true, newNonce s) :=
  (if_neg (ne_true_of_eq_false h)).trans (if_pos ht)

theorem presentToken_wrong (ht : token ≠ expectedToken op region s.l.nonce) : presentToken op region token s =
    (false, (let v := bump 0x11028 7 0 (newNonce s)
      post 0x0D01 0 [] { v with l := { v.l with authHold := some v.t.now } })) :=
  (if_neg (ne_true_of_eq_false h)).trans (if_neg ht)

end
end

section
variable {c : HostCmd} {s : State} (hu : s.ledgerUp = true) (hz : parZero c 28 4 = true)
include hu hz

section
variable (h : s.accepts c ldgEraseInfo = true) (hlow : 1 ≤ par c 14 1) (hhigh : par c 14 1 ≤ 4)
include h hlow hhigh

theorem exec_ldgErase : exec (.ldgErase c) s = .next (
    let res := presentToken 0x02 (par c 14 1) (parBytes c 32 32) (s.taken c ldgEraseInfo)
    if res.1 then startJob { ops := eraseOps (par c 14 1) (res.2.region (par c 14 1)),
                             after := .erased (par c 14 1) (s.waiterOf c ldgEraseInfo), write := false } res.2
    else complete (s.waiterOf c ldgEraseInfo) (.of stAuth) res.2) := by
  have inRange : ¬ (par c 14 1 = 0 ∨ 4 < par c 14 1 ∨ ¬ parZero c 28 4 = true) := by
    simp only [hz, not_true, or_false]
    omega
  exact (exec_ledger_up (work := ldgEraseWork) rfl h hu).trans (congrArg Host.Outcome.next (if_neg inRange))

section
variable {v : State}

theorem exec_ldgErase_refused (ht : presentToken 0x02 (par c 14 1) (parBytes c 32 32) (s.taken c ldgEraseInfo) = (false, v)) :
    exec (.ldgErase c) s = .next (complete (s.waiterOf c ldgEraseInfo) (.of stAuth) v) := by
  rw [exec_ldgErase hu hz h hlow hhigh]
  simp only [ht, Bool.false_eq_true, if_false]

theorem exec_ldgErase_right (ht : presentToken 0x02 (par c 14 1) (parBytes c 32 32) (s.taken c ldgEraseInfo) = (true, v)) :
    exec (.ldgErase c) s = .next (startJob { ops := eraseOps (par c 14 1) (v.region (par c 14 1)),
                                             after := .erased (par c 14 1) (s.waiterOf c ldgEraseInfo), write := false } v) := by
  rw [exec_ldgErase hu hz h hlow hhigh]
  simp only [ht, if_true]

end
end

/-! ### Named sets (R563–R565) -/

variable (hn : par c 12 2 < 64) (hm : par c 15 1 < 16) (hz' : parZero c 48 16 = true)
include hn hm hz'

theorem exec_ldgSetSave (h : s.accepts c ldgSetSaveInfo = true) : exec (.ldgSetSave c) s =
    .next (saveSet (par c 12 2) (par c 15 1) (parBytes c 32 16) (s.waiterOf c ldgSetSaveInfo) (s.taken c ldgSetSaveInfo)) :=
  (exec_ledger_up (work := ldgSetSaveWork) rfl h hu).trans (congrArg Host.Outcome.next (if_neg (by simp [hn, hm, hz, hz'])))

/-- A set lacks an item that the mask selects, or is deleted. -/
def lacksItem (mask : Nat) (cl : FlashRec) : Prop :=
  closeMask cl.payload = 0 ∨ (List.range 4).any (fun i => bitOf mask i && !bitOf (closeMask cl.payload) i) = true

section
variable (hd : s.inDormant = false) (h : s.accepts c ldgSetRecallInfo = true)
include hd h

theorem exec_ldgSetRecall_absent (hs : ((s.taken c ldgSetRecallInfo).region 2).setClose (par c 12 2) = none) :
    exec (.ldgSetRecall c) s = .next (s.ended c ldgSetRecallInfo (.of stParam) id) := by
  refine (exec_ledger_up (work := ldgSetRecallWork) rfl h hu).trans (congrArg Host.Outcome.next ?_)
  rw [ldgSetRecallWork, taken_inDormant, hd, if_neg (by simp [hn, hm, hz, hz']), hs]
  rfl

section
variable {cl : FlashRec} (hs : ((s.taken c ldgSetRecallInfo).region 2).setClose (par c 12 2) = some cl)
include hs

theorem exec_ldgSetRecall_lacks (hl : lacksItem (par c 15 1) cl) :
    exec (.ldgSetRecall c) s = .next (s.ended c ldgSetRecallInfo (.of stParam) id) := by
  refine (exec_ledger_up (work := ldgSetRecallWork) rfl h hu).trans (congrArg Host.Outcome.next ?_)
  rw [ldgSetRecallWork, taken_inDormant, hd, if_neg (by simp [hn, hm, hz, hz']), hs]
  exact if_pos hl

theorem exec_ldgSetRecall_loads (hl : ¬ lacksItem (par c 15 1) cl) : exec (.ldgSetRecall c) s = .next (
    let u := s.taken c ldgSetRecallInfo
    let res := loadItems cl ((u.region 2).stream cl) ((List.range 4).filter (fun i => bitOf (par c 15 1) i)) 0 (readSet (par c 12 2) u)
    complete (s.waiterOf c ldgSetRecallInfo) res.1 res.2) := by
  refine (exec_ledger_up (work := ldgSetRecallWork) rfl h hu).trans (congrArg Host.Outcome.next ?_)
  rw [ldgSetRecallWork, taken_inDormant, hd, if_neg (by simp [hn, hm, hz, hz']), hs]
  exact if_neg hl

end
end
end

/-- Settles O56: without a mounted ledger by its common entry, and with it each command's work by its branches: room for a record, the
token, the set's size, and the set found. -/
theorem ledgerCommands : Obligations.LedgerCommands := by
  refine ⟨?_, fun c s hu ha hz => ⟨exec_ldgQuery hu ha hz, exec_ldgSetList hu ha hz, exec_ldgCounters hu ha hz⟩,
    fun c s hu ha hz h hn => ?_, fun c s hu ha hz h => ⟨fun r hr => ?_, fun hr => exec_ldgRecordRead_none hu ha hz h hr⟩,
    fun c s k hu hz h hk hlow hhigh => ?_, fun c s hu h hn hm hz hz' => ?_, fun c s hu h hd hn hm hz hz' => ⟨fun hl => ?_, fun cl hs hl => ?_⟩⟩
  · simp only [List.forall_mem_cons]
    refine ⟨?_, ?_, ?_, ?_, ?_, ?_, ?_, ?_, ?_, ?_, ?_, fun x hx => nomatch hx⟩ <;>
      exact fun c s h => exec_ledger_unmounted rfl h
  · intro u data
    have row := exec_ldgRecordWrite hu ha hz h hn
    refine ⟨fun hb => row.trans (congrArg Host.Outcome.next (if_pos hb)), fun hb hr => ?_, fun v hb hr => ?_⟩ <;>
      refine row.trans (congrArg Host.Outcome.next ((if_neg (Nat.not_le.2 hb)).trans ?_))
    · rw [appendRecord_none hr]
      rfl
    · rw [appendRecord_some hr]
      rfl
  · have row := exec_ldgRecordRead_some hu ha hz h hr
    exact ⟨fun hlt => row.trans (congrArg Host.Outcome.next (if_pos hlt)),
      fun hle => row.trans (congrArg Host.Outcome.next (if_neg (Nat.not_lt.2 hle)))⟩
  · subst hk
    intro u right
    have nonce : (s.taken c ldgEraseInfo).l.nonce = s.l.nonce := by rw [taken_l]
    exact ⟨fun hold ht => exec_ldgErase_right hu hz h hlow hhigh (presentToken_right hold (by rw [nonce]; exact ht)),
      fun hold ht => exec_ldgErase_refused hu hz h hlow hhigh (presentToken_wrong hold (by rw [nonce]; exact ht)),
      fun hold => exec_ldgErase_refused hu hz h hlow hhigh (presentToken_hold hold)⟩
  · have row := exec_ldgSetSave hu hz hn hm hz' h
    refine ⟨fun hf => row.trans (congrArg Host.Outcome.next (if_pos (ne_true_of_eq_false hf))),
      fun hf => row.trans (congrArg Host.Outcome.next (if_neg (not_not.2 hf)))⟩
  · rcases hl with hs | ⟨cl, hs, hl⟩
    · exact exec_ldgSetRecall_absent hu hz hn hm hz' hd h hs
    · exact exec_ldgSetRecall_lacks hu hz hn hm hz' hd h hs hl
  · exact exec_ldgSetRecall_loads hu hz hn hm hz' hd h hs hl

end Sys2Proof.Machine
end

section
/-!
PROOFS. The statements about the recorder's commands and the firmware commands (17_ledger_recorder R574, R577–R579, R582, R583;
18_power_modes R610–R613).
-/
namespace Sys2Proof.Machine

/-! ### Reading records (R582, R583) -/

section
variable {c : HostCmd} {s : State} (h1 : 1 ≤ par c 24 4) (h2 : par c 24 4 ≤ 4096) (ha : par c 0 8 % 8 = 0) (hz : parZero c 28 4 = true)
  (hn : 32 * par c 24 4 ≤ par c 8 4)
include h1 h2 ha hz hn

theorem evrCheck_ok : evrCheck c = none := by
  refine (if_neg (not_not.2 (aligned8_iff.2 ha))).trans (if_neg ?_)
  simp only [hz, not_true, false_or]
  omega

theorem exec_evrRead (h : s.accepts c evrReadInfo = true) : exec (.evrRead c) s = .next (
    let res := recordRun (fun q => ((s.taken c evrReadInfo).record? q).map (fun r => r.bytes false)) (par c 16 8) (par c 24 4)
    s.ended c evrReadInfo (.of stOK res.2) (writeHost (par c 0 8) res.1)) := by
  refine (exec_accepted (body := evrReadBody) rfl h).trans (congrArg Host.Outcome.next ?_)
  rw [evrReadBody, evrCheck_ok h1 h2 ha hz hn]
  rfl

theorem exec_evrArchiveRead (h : s.accepts c evrArchiveReadInfo = true) (hu : s.ledgerUp = true) : exec (.evrArchiveRead c) s = .next (
    let res := recordRun (s.taken c evrArchiveReadInfo).archivedRecord (par c 16 8) (par c 24 4)
    s.ended c evrArchiveReadInfo (.of stOK res.2) (writeHost (par c 0 8) res.1)) := by
  refine (exec_ledger_up (work := evrArchiveReadWork) rfl h hu).trans (congrArg Host.Outcome.next ?_)
  rw [evrArchiveReadWork, evrCheck_ok h1 h2 ha hz hn]
  rfl

end

/-! ### Archiving (R574) -/

theorem chunks16_nil (n : Nat) : chunks16 n [] = [] := by
  cases n with
  | zero => rfl
  | succ n => exact if_pos rfl

theorem chunks16_one {n : Nat} {l : List (Nat × EvRec)} (hl : l ≠ []) (h : l.length ≤ 16) : chunks16 (n + 1) l = [l] := by
  rw [chunks16, if_neg hl, List.take_of_length_le h, List.drop_eq_nil_of_le h, chunks16_nil]

theorem queueBatch_some {l : List (Nat × EvRec)} {k : Nat} {r : EvRec} {w : Option Waiter} {s v : State} (hl : l.getLast? = some (k, r))
    (h : appendRecord 3 6 0 (batchPayload l 0) (.archived (k + 1) w) s = some v) : queueBatch l w s = v := by
  rw [queueBatch, hl]
  dsimp only
  rw [h]

section
variable {c : HostCmd} {s : State} (hu : s.ledgerUp = true) (hz : parZero c 28 4 = true)
include hu hz

theorem exec_evrArchive (h : s.accepts c evrArchiveInfo = true) : exec (.evrArchive c) s = .next (
    queueAll (chunks16 256 (s.taken c evrArchiveInfo).toArchive) (complete (s.waiterOf c evrArchiveInfo) (.of stOK))
      (some (s.waiterOf c evrArchiveInfo)) (s.taken c evrArchiveInfo)) :=
  (exec_ledger_up (work := evrArchiveWork) rfl h hu).trans (congrArg Host.Outcome.next (if_neg (not_not.2 hz)))

/-! ### EVR_CLEAR (R577–R579) -/

section
variable (h : s.accepts c evrClearInfo = true)
include h

theorem exec_evrClear : exec (.evrClear c) s = .next (
    let res := presentToken 0x01 0 (parBytes c 32 32) (s.taken c evrClearInfo)
    if res.1 then
      let x := closeRecord res.2
      startJob { ops := [], after := .cleared (s.waiterOf c evrClearInfo) (s.taken c evrClearInfo).l.nonce, write := false }
        (queueAll (chunks16 256 x.toArchive) id none x)
    else complete (s.waiterOf c evrClearInfo) (.of stAuth) res.2) :=
  (exec_ledger_up (work := evrClearWork) rfl h hu).trans (congrArg Host.Outcome.next (if_neg (not_not.2 hz)))

theorem exec_evrClear_refused {v : State} (ht : presentToken 0x01 0 (parBytes c 32 32) (s.taken c evrClearInfo) = (false, v)) :
    exec (.evrClear c) s = .next (complete (s.waiterOf c evrClearInfo) (.of stAuth) v) := by
  rw [exec_evrClear hu hz h]
  simp only [ht, Bool.false_eq_true, if_false]

theorem exec_evrClear_right {v : State} (ht : presentToken 0x01 0 (parBytes c 32 32) (s.taken c evrClearInfo) = (true, v)) :
    exec (.evrClear c) s = .next (startJob { ops := [], after := .cleared (s.waiterOf c evrClearInfo) s.l.nonce, write := false }
      (queueAll (chunks16 256 (closeRecord v).toArchive) id none (closeRecord v))) := by
  rw [exec_evrClear hu hz h]
  simp only [ht, if_true, taken_l]

end
end

theorem clearRecorder_archived {w : Waiter} {n : Nat} {s : State} (h : (closeRecord s).toArchive = []) : clearRecorder w n s =
    (let y : State := { closeRecord s with ev := { (closeRecord s).ev with ram := [] } }
    complete w (.of stOK) (writeRecord (newRecord 0x0C02 0 (a8 n) y) y)) :=
  if_neg (not_not.2 h)

theorem clearRecorder_queues {w : Waiter} {n : Nat} {s : State} (h : (closeRecord s).toArchive ≠ []) : clearRecorder w n s =
    (let z := queueAll (chunks16 256 (closeRecord s).toArchive) id none (closeRecord s)
    if z.l.jobs.length = (closeRecord s).l.jobs.length then complete w (.of stLedgerFull) z
    else addJob { ops := [], after := .cleared w n, write := false } z) :=
  if_pos h

theorem startJob_cleared {w : Waiter} {n : Nat} {s : State} (h : s.l.jobs = []) :
    startJob { ops := [], after := .cleared w n, write := false } s = clearRecorder w n s :=
  startJob_now h fun _ _ => nofun

/-! ### Firmware (R610–R613) -/

@[simp] theorem taken_inMaintain (s : State) (c : HostCmd) (info : CmdInfo) : (s.taken c info).inMaintain = s.inMaintain := by
  unfold State.inMaintain; simp only [taken_m]

section
variable {i : Instr} {work : Body} {c : HostCmd} {info : CmdInfo} {s : State}
  (e : exec i s = .next (hostCommand info i c (fun c w s => refusing (!s.inMaintain) w s (ledgerBody i work c w s)) s))
  (h : s.accepts c info = true)
include e h

theorem exec_firmware_outside (hm : s.inMaintain = false) : exec i s = .next (s.ended c info (.of stMode) id) :=
  (exec_accepted e h).trans (congrArg Host.Outcome.next (if_pos (by simp [hm])))

theorem exec_firmware_maintain (hm : s.inMaintain = true) (hu : s.ledgerUp = true) :
    exec i s = .next (work c (s.waiterOf c info) (s.taken c info)) :=
  (exec_accepted e h).trans
    (congrArg Host.Outcome.next ((if_neg (by simp [hm])).trans (ledgerBody_up (by simpa using hu))))

end

section
variable {c : HostCmd} {s : State} (hm : s.inMaintain = true) (hu : s.ledgerUp = true) (hz : parZero c 32 32 = true)
include hm hu hz

section
variable (h : s.accepts c fwWriteInfo = true) (h256 : 256 ≤ par c 8 4) (hmax : par c 8 4 ≤ 1048576) (hpage : par c 8 4 % 256 = 0)
  (ha : par c 0 8 % 8 = 0) (hend : par c 24 4 + par c 8 4 ≤ 16777216)
include h h256 hmax hpage ha hend

/-- FW_WRITE of whole pages within the slot: its offset decides. -/
theorem exec_fwWrite : exec (.fwWrite c) s = .next (
    let u := s.taken c fwWriteInfo
    let data := fit (par c 8 4) c.data
    if (if par c 24 4 = 0 then slotBytes - 4096 < getLE data 12 4 else ¬ s.p.fwOpen ∨ par c 24 4 ≠ s.p.fwNext) then
      s.ended c fwWriteInfo (.of stParam) id
    else startJob { ops := (if par c 24 4 = 0 then slotErase u.p.fwSlot ((getLE data 12 4 + 4096 + 65535) / 65536) else []) ++
                      slotPages u.p.fwSlot (par c 24 4) data,
                    after := .complete (s.waiterOf c fwWriteInfo) 0 0, write := true }
      { u with p := { u.p with fwOpen := true, fwNext := par c 24 4 + par c 8 4, fwVerified := false } }) := by
  refine (exec_firmware_maintain (work := fwWriteWork) rfl h hm hu).trans (congrArg Host.Outcome.next ?_)
  have pages : ¬ (par c 8 4 < 256 ∨ 1048576 < par c 8 4 ∨ par c 8 4 % 256 ≠ 0 ∨ ¬ parZero c 32 32 = true) := by
    simp only [hz, not_true, or_false]
    omega
  refine (if_neg pages).trans ((if_neg (not_not.2 (aligned8_iff.2 ha))).trans (if_congr ?_ rfl rfl))
  rw [taken_p]
  exact or_iff_right (Nat.not_lt.2 hend)

/-- At offset 0 a sequence begins: the sectors that the image needs are erased, and then its pages written. -/
theorem exec_fwWrite_first (h0 : par c 24 4 = 0) (hbody : getLE (fit (par c 8 4) c.data) 12 4 ≤ slotBytes - 4096) :
    exec (.fwWrite c) s = .next (startJob
      { ops := slotErase (s.taken c fwWriteInfo).p.fwSlot ((getLE (fit (par c 8 4) c.data) 12 4 + 4096 + 65535) / 65536) ++
          slotPages (s.taken c fwWriteInfo).p.fwSlot (par c 24 4) (fit (par c 8 4) c.data),
        after := .complete (s.waiterOf c fwWriteInfo) 0 0, write := true }
      { s.taken c fwWriteInfo with
        p := { (s.taken c fwWriteInfo).p with fwOpen := true, fwNext := par c 24 4 + par c 8 4, fwVerified := false } }) := by
  refine (exec_fwWrite hm hu hz h h256 hmax hpage ha hend).trans ?_
  simp only [if_pos h0, if_neg (Nat.not_lt.2 hbody)]

/-- At the next offset of an open sequence its pages follow. -/
theorem exec_fwWrite_next (h0 : par c 24 4 ≠ 0) (hopen : s.p.fwOpen = true) (hnext : par c 24 4 = s.p.fwNext) :
    exec (.fwWrite c) s = .next (startJob
      { ops := slotPages (s.taken c fwWriteInfo).p.fwSlot (par c 24 4) (fit (par c 8 4) c.data),
        after := .complete (s.waiterOf c fwWriteInfo) 0 0, write := true }
      { s.taken c fwWriteInfo with
        p := { (s.taken c fwWriteInfo).p with fwOpen := true, fwNext := par c 24 4 + par c 8 4, fwVerified := false } }) := by
  refine (exec_fwWrite hm hu hz h h256 hmax hpage ha hend).trans ?_
  have inOrder : ¬ (¬ s.p.fwOpen = true ∨ par c 24 4 ≠ s.p.fwNext) := not_or.2 ⟨not_not.2 hopen, not_not.2 hnext⟩
  simp only [if_neg h0, if_neg inOrder, List.nil_append]

theorem exec_fwWrite_outOfOrder (h0 : par c 24 4 ≠ 0) (hn : s.p.fwOpen = false ∨ par c 24 4 ≠ s.p.fwNext) :
    exec (.fwWrite c) s = .next (s.ended c fwWriteInfo (.of stParam) id) := by
  refine (exec_fwWrite hm hu hz h h256 hmax hpage ha hend).trans (congrArg Host.Outcome.next (if_pos ?_))
  rw [if_neg h0]
  exact hn.imp ne_true_of_eq_false id

end

/-! ### FW_VERIFY (R612) -/

theorem exec_fwVerify (h : s.accepts c fwVerifyInfo = true) : exec (.fwVerify c) s = .next
    (startJob { ops := [], after := .verify (s.waiterOf c fwVerifyInfo), write := false } (s.taken c fwVerifyInfo)) :=
  (exec_firmware_maintain (work := fwVerifyWork) rfl h hm hu).trans (congrArg Host.Outcome.next (if_neg (not_not.2 hz)))

end

section
variable {w : Waiter} {s : State} (h : s.l.jobs = [])
include h

theorem startJob_verify : startJob { ops := [], after := .verify w, write := false } s = finishJob (.verify w) s :=
  startJob_now (a := .verify w) h fun _ _ => nofun

theorem startJob_verify_valid (hf : s.imageFault (s.slotImage s.p.fwSlot) = none) :
    startJob { ops := [], after := .verify w, write := false } s =
      complete w (.of stOK (getLE (s.slotImage s.p.fwSlot) 4 4) (getLE (s.slotImage s.p.fwSlot) 8 4))
        { s with p := { s.p with fwVerified := true } } := by
  rw [startJob_verify h]
  simp only [finishJob, hf]

theorem startJob_verify_refused {r : Nat} (hf : s.imageFault (s.slotImage s.p.fwSlot) = some r) :
    startJob { ops := [], after := .verify w, write := false } s = complete w (.of stAuth r) s := by
  rw [startJob_verify h]
  simp only [finishJob, hf]

end

theorem taken_slotFault (s : State) (c : HostCmd) (info : CmdInfo) (img : List Byte) :
    (s.taken c info).imageFault img = s.imageFault img := by
  unfold State.imageFault State.minSecVer; rw [taken_l]

theorem taken_slotImage (s : State) (c : HostCmd) (info : CmdInfo) (k : Nat) : (s.taken c info).slotImage k = s.slotImage k := by
  unfold State.slotImage; rw [taken_l]

/-! ### FW_ACTIVATE (R612, R613) -/

@[simp] theorem taken_activateMode (s : State) (c : HostCmd) (info : CmdInfo) (k : Nat) :
    (s.taken c info).activateMode k = s.activateMode k := by
  unfold State.activateMode; rw [taken_m]

/-- The boot record of FW_ACTIVATE. -/
def activateRecord (w : Waiter) (r : ModeReq) (s : State) : Option State :=
  appendRecord 0 1 0 ({ s.boot with trial := s.p.fwSlot, attempted := 0 } : BootRecord).bytes (.activate w r) s

section
variable {c : HostCmd} {s : State} {m : Mode} {q : Nat} (hm : s.inMaintain = true) (hu : s.ledgerUp = true) (hz : parZero c 32 32 = true)
  (h : s.accepts c fwActivateInfo = true) (ht : s.activateMode (par c 12 1) = some m)
  (hq : (s.taken c fwActivateInfo).planned.named (par c 16 8) = some q)
include hm hu hz h ht hq

theorem exec_fwActivate : exec (.fwActivate c) s = .next (
    let u := s.taken c fwActivateInfo
    let r : ModeReq := { target := m, pick := q, resume := 0, who := none }
    if ¬ s.p.fwVerified then s.ended c fwActivateInfo (.of stParam) id
    else if (m = .shadow ∧ ¬ s.w.en) ∨ (m = .measure ∧ s.w.en) then s.ended c fwActivateInfo (.of stMode) id
    else if u.changing then s.ended c fwActivateInfo (.of stBusy) id
    else if ¬ s.m.start ∧ m ≠ .maintain ∧ ¬ (pushSched q false none (.mode r) u).inBudget q then s.ended c fwActivateInfo (.of stBudget) id
    else (activateRecord (s.waiterOf c fwActivateInfo) r u).getD (s.ended c fwActivateInfo (.of stLedgerFull) (post 0x0B07 0 []))) := by
  refine (exec_firmware_maintain (work := fwActivateWork) rfl h hm hu).trans (congrArg Host.Outcome.next ?_)
  rw [fwActivateWork, taken_activateMode, ht, hq, taken_p, taken_w, taken_m]
  refine if_congr (by simp [hz]) rfl (if_congr Iff.rfl rfl (if_congr Iff.rfl rfl (if_congr Iff.rfl rfl ?_)))
  rw [activateRecord, taken_p]
  cases appendRecord 0 1 0 ({ (s.taken c fwActivateInfo).boot with trial := s.p.fwSlot, attempted := 0 } : BootRecord).bytes
    (.activate (s.waiterOf c fwActivateInfo) { target := m, pick := q, resume := 0, who := none }) (s.taken c fwActivateInfo) <;> rfl

end

/-- Settles O57: the recorder's commands past their checks, EVR_CLEAR by its token and by what is left to archive, and the firmware
commands by Maintain and their own branches. -/
theorem recorderAndFirmwareCommands : Obligations.RecorderAndFirmwareCommands := by
  refine ⟨fun c s n hn h1 h2 ha hz hb => ?_, fun c s h hu hz => ?_, fun c s h hu hz => ?_,
    fun c s hm => ⟨fun h => exec_firmware_outside rfl h hm, fun h => exec_firmware_outside rfl h hm, fun h => exec_firmware_outside rfl h hm⟩,
    fun c s len off hm hu h hlen hoff h256 hmax hpage hz ha hend => ?_, fun c s hm hu h hz => ?_, fun c s m q hm hu h hz ht hq => ?_⟩
  · subst hn
    exact ⟨exec_evrRead h1 h2 ha hz hb, exec_evrArchiveRead h1 h2 ha hz hb⟩
  · have row := exec_evrArchive hu hz h
    refine ⟨row, fun hnil => row.trans ?_, fun k r v hlen hlast hroom => row.trans ?_⟩
    · rw [hnil, chunks16_nil]
      rfl
    · have ne : (s.taken c evrArchiveInfo).toArchive ≠ [] := fun hnil => by simp [hnil] at hlast
      rw [chunks16_one ne hlen]
      exact congrArg Host.Outcome.next (queueBatch_some hlast hroom)
  · intro u w right
    have nonce : (s.taken c evrClearInfo).l.nonce = s.l.nonce := by rw [taken_l]
    refine ⟨fun hold ht => ?_, fun hold ht => ?_, fun hold => exec_evrClear_refused hu hz h (presentToken_hold hold)⟩
    · have row := exec_evrClear_right hu hz h (presentToken_right hold (by rw [nonce]; exact ht))
      refine ⟨row, fun hjobs hnil => row.trans (congrArg Host.Outcome.next ?_), fun hjobs hne => row.trans (congrArg Host.Outcome.next ?_)⟩
      · exact (startJob_cleared hjobs).trans (clearRecorder_archived hnil)
      · exact (startJob_cleared hjobs).trans (clearRecorder_queues hne)
    · exact exec_evrClear_refused hu hz h (presentToken_wrong hold (by rw [nonce]; exact ht))
  · subst hlen hoff
    exact ⟨exec_fwWrite_first hm hu hz h h256 hmax hpage ha hend, exec_fwWrite_next hm hu hz h h256 hmax hpage ha hend,
      exec_fwWrite_outOfOrder hm hu hz h h256 hmax hpage ha hend⟩
  · have row := exec_fwVerify hm hu hz h
    have jobs (hj : s.l.jobs = []) : (s.taken c fwVerifyInfo).l.jobs = [] := by rw [taken_l]; exact hj
    have fault (r : Option Nat) (hf : s.imageFault (s.slotImage s.p.fwSlot) = r) : (s.taken c fwVerifyInfo).imageFault
        ((s.taken c fwVerifyInfo).slotImage (s.taken c fwVerifyInfo).p.fwSlot) = r := by
      rw [taken_slotFault, taken_slotImage, taken_p]
      exact hf
    refine ⟨row, fun hj hf => row.trans ?_,
      fun r hj hf => row.trans (congrArg Host.Outcome.next (startJob_verify_refused (jobs hj) (fault _ hf)))⟩
    rw [startJob_verify_valid (jobs hj) (fault _ hf), taken_slotImage, taken_p]
  · have row := exec_fwActivate hm hu hz h ht hq
    have ruledOut : ((m = .shadow ∧ ¬ s.w.en = true) ∨ (m = .measure ∧ s.w.en = true)) ↔
        ¬ ((m = .shadow → s.w.en = true) ∧ (m = .measure → s.w.en = false)) := by
      rw [not_and_or, Classical.not_imp, Classical.not_imp, Bool.not_eq_false]
    refine ⟨fun hv => row.trans (congrArg Host.Outcome.next (if_pos (ne_true_of_eq_false hv))), fun hv htw => ?_, fun hv htw hc => ?_,
      fun hv htw hc => ?_⟩ <;>
      have row := row.trans (congrArg Host.Outcome.next (if_neg (not_not.2 hv)))
    · exact row.trans (congrArg Host.Outcome.next (if_pos (ruledOut.2 htw)))
    · exact row.trans (congrArg Host.Outcome.next ((if_neg fun hx => ruledOut.1 hx htw).trans (if_pos hc)))
    · have row := row.trans (congrArg Host.Outcome.next ((if_neg fun hx => ruledOut.1 hx htw).trans (if_neg (ne_true_of_eq_false hc))))
      refine ⟨fun hs hmt hb => row.trans (congrArg Host.Outcome.next (if_pos ⟨ne_true_of_eq_false hs, hmt, ne_true_of_eq_false hb⟩)),
        fun hadm => ?_⟩
      have admitted : ¬ (¬ s.m.start = true ∧ m ≠ .maintain ∧
          ¬ (pushSched q false none (.mode { target := m, pick := q, resume := 0, who := none }) (s.taken c fwActivateInfo)).inBudget q = true) := by
        rintro ⟨hs, hmt, hb⟩
        rcases hadm with hx | hx | hx
        exacts [hs hx, hmt hx, hb hx]
      have row := row.trans (congrArg Host.Outcome.next (if_neg admitted))
      rw [activateRecord, taken_p] at row
      refine ⟨fun v hroom => row.trans ?_, fun hroom => row.trans ?_⟩
      · rw [hroom]
        rfl
      · rw [hroom]
        rfl

end Sys2Proof.Machine
end

section
/-!
PROOFS. The statements of 17_ledger_recorder about flash operations, the mount, the rebuild, the scrub and the ledger's timers (R548–R550,
R554–R558, R562, R564, R566, R578).
-/
namespace Sys2Proof.Machine

/-! ### Flash operations (R548, R550, R554, R558, R564) -/

section
variable {s : State}

/-- Neither channel has had an error in a row. -/
def calmChannels (s : State) : State := { s with l := { s.l with fa := { s.l.fa with errs := 0 }, fb := { s.l.fb with errs := 0 } } }

theorem channelErrors_none : channelErrors false false s = calmChannels s := by
  have same (c : Channel) : (if 3 ≤ ({ c with errs := 0 } : Channel).errs ∧ (s.channels.1 && s.channels.2) = true
      then { { c with errs := 0 } with state := 3 } else { c with errs := 0 }) = { c with errs := 0 } :=
    if_neg fun h => Nat.not_succ_le_zero _ h.1
  simp only [channelErrors, Bool.false_and, Bool.false_eq_true, if_false, same, ne_eq, not_true, decide_false]
  rfl

/-- The third error in a row on channel A, while B succeeds, fails channel A. -/
theorem channelErrors_failsA (ha : (s.l.fa.state == 1) = true) (hb : (s.l.fb.state == 1) = true) (he : s.l.fa.errs = 2) :
    channelErrors true false s = post 0x0B02 0 [] { s with l := { s.l with
      fa := { s.l.fa with errs := 3, state := 3 }, fb := { s.l.fb with errs := 0 } } } := by
  have state1 : s.l.fa.state = 1 := by simpa using ha
  have both : (s.channels.1 && s.channels.2) = true := by simp [State.channels, ha, hb]
  simp [channelErrors, both, he, state1, b2n, setL]

section
variable {res : FlashResult} {j : LJob} {rest : List LJob} {op : FlashOp} {ops : List FlashOp}
  (hu : s.ledgerUp = true) (hj : s.l.jobs = j :: rest) (ho : j.ops = op :: ops)
include hu hj ho

theorem flashOp_error (he : ((s.l.fa.state == 1) && !res.okA) = true ∨ ((s.l.fb.state == 1) && !res.okB) = true) : flashOp res s =
    setHead { j with retried := false } rest (retireSector (s.opSector op).1 (s.opSector op).2
      (let u := channelErrors ((s.l.fa.state == 1) && !res.okA) ((s.l.fb.state == 1) && !res.okB) s
      if op.erases then bump 0x11010 15 8 u else bump 0x11010 7 0 u)) := by
  rw [flashOp, if_neg (not_not.2 hu), hj]
  dsimp only
  rw [ho]
  exact if_pos (Bool.or_eq_true_iff.2 he)

section
variable (hA : res.okA = true) (hB : res.okB = true)
include hA hB

theorem flashOp_taken (hv : res.verified = true ∨ op.erases = true) : flashOp res s =
    (let j' : LJob := { j with ops := ops, retried := false }
    let v := applyOp op (setHead j' rest (calmChannels s))
    if j'.overtaken v then settleAll (completeOpt j.after.waiter (.of stBusy) (setL (fun l => { l with jobs := rest }) v)) else settleAll v) := by
  have equal : (!res.verified && !op.erases) = false := by rcases hv with h | h <;> simp [h]
  rw [flashOp, if_neg (not_not.2 hu), hj]
  dsimp only
  rw [ho]
  simp only [hA, hB, equal, Bool.not_true, Bool.and_false, channelErrors_none, Bool.or_self, Bool.false_and, Bool.false_eq_true, if_false]

theorem flashOp_unequal {k id : Nat} (hv : res.verified = false) (he : op.erases = false) (hr : j.retried = false)
    (hs : s.opSector op = (k, some id)) (hk : k < 5) : flashOp res s = setHead { j with retried := true } rest (relocate k id (calmChannels s)) := by
  rw [flashOp, if_neg (not_not.2 hu), hj]
  dsimp only
  rw [ho]
  simp only [hA, hB, hv, he, hr, hs, if_pos hk, Bool.not_true, Bool.not_false, Bool.and_false, Bool.and_self, channelErrors_none, Bool.or_self,
    Bool.false_eq_true, if_false, if_true]

end
end

/-! ### The mount, the rebuild and the ledger's timers (R550, R555, R556, R562, R566, R578) -/

theorem rebuildDone_whole (h : s.l.rebuild = true) : rebuildDone s = post 0x0B03 0 [] { s with l := { s.l with
    rebuild := false
    regions := s.l.regions.map (fun r => { r with used := r.used.map (fun sec => { sec with
      recs := sec.recs.map (fun x => { x with okA := x.valid, okB := x.valid, differ := false }) }) }) } } :=
  if_neg (not_not.2 h)

theorem countersSave_up (h : s.ledgerUp = true) :
    countersSave s = (appendRecord 4 7 0 s.l.cnt.bytes .nothing s).getD (post 0x0B07 4 [] s) :=
  if_pos h

section
variable {r : Nat}

theorem nonceExpiry_read (h : s.l.nonceRead = some r) : nonceExpiry s = if r + 60 * secU ≤ s.t.now then newNonce s else s := by
  simp only [nonceExpiry, h]

theorem authHoldEnd_held (h : s.l.authHold = some r) :
    authHoldEnd s = if r + secU ≤ s.t.now then { s with l := { s.l with authHold := none } } else s := by
  simp only [authHoldEnd, h, setL]

end

theorem ledgerScrub_due (h : s.ledgerUp = true) (hd : ∀ d, s.l.lastScrub = some d → d + 30 * 86400 * secU ≤ s.t.now) :
    ledgerScrub s =
      (let res := (List.range 5).foldl (fun acc k => ((scrubRegion k acc.1).1, acc.2 + (scrubRegion k acc.1).2)) (s, 0)
      post 0x0B05 0 (leBytes 2 (satN 0xFFFF res.2))
        (bumpBy res.2 0x1101C 31 16 { res.1 with l := { res.1.l with lastScrub := some res.1.t.now } })) := by
  rw [← scrubPeriod] at hd
  cases hl : s.l.lastScrub with
  | none =>
    simp only [ledgerScrub, hl, h, Bool.and_self, if_true]
    generalize List.range 5 = regions
    rfl
  | some d =>
    simp only [ledgerScrub, hl, h, hd d hl, decide_true, Bool.and_self, if_true]
    generalize List.range 5 = regions
    rfl

section
variable {f : MountFound}

/-- The mount as it ends: a channel that does not answer is told, and the mount no longer runs. -/
def mountEnds (s : State) : State :=
  let u := if s.l.fa.state == 1 then s else post 0x0B02 0 [] s
  let v := if s.l.fb.state == 1 then u else post 0x0B02 0 [] u
  { v with l := { v.l with mounting := false } }

/-- The copies on the channels that hold any; without one the ledger is erased. -/
def mountCopies (a b : Bool) (s : State) : State :=
  if a || b then { s with l := { s.l with regions := s.l.regions.map (fun r => r.onChannels a b) } } else blankLedger s

/-- Erases that were cut are made again, with what the mount found. -/
def mountErases (f : MountFound) (rebuild : Bool) (s : State) : State :=
  reErase { s with l := { s.l with rebuild := rebuild, mTorn := f.torn, mMarginal := f.marginal, mReloc := 0 } }

/-- The ledger is mounted: SEQ goes on from the highest found, and the epoch from the one kept (R532). -/
def mountResumes (s : State) : State :=
  let old := match (s.region 1).current 3 0 with
    | some r => getLE r.payload 0 4
    | none => 0
  { s with l := { s.l with seq := max s.l.seq s.l.topSeq, mounted := true }, w := { s.w with epoch := max s.w.epoch old } }

/-- Event 0x0B01 with what the mount found. -/
def mountTells (f : MountFound) (s : State) : State :=
  post 0x0B01 0 (leBytes 2 (satN 0xFFFF f.torn) ++ leBytes 2 (satN 0xFFFF s.l.mReerased) ++ leBytes 2 (satN 0xFFFF f.marginal)) s

/-- Event 0x0B21 after a flush that was cut (R576). -/
def tellCutFlush (s : State) : State :=
  if s.l.flushCut = true then post 0x0B21 0 [] { s with l := { s.l with flushCut := false } } else s

section
variable (hm : s.l.mounting = true)
include hm

theorem mountDone_failed (ha : (s.l.fa.state == 1) = false) (hb : (s.l.fb.state == 1) = false) :
    mountDone f s = runWaiting (mountEnds s) :=
  (if_neg (not_not.2 hm)).trans (if_pos (by simp [ha, hb]))

/-- The mount in its steps, with the channels that answer and hold something. -/
theorem mountDone_mounts (hab : (s.l.fa.state == 1) = true ∨ (s.l.fb.state == 1) = true) : mountDone f s =
    (let a := (s.l.fa.state == 1) && !f.blankA
    let b := (s.l.fb.state == 1) && !f.blankB
    let u := mountErases f ((s.l.fa.state == 1) && (s.l.fb.state == 1) && (a != b)) (mountCopies a b (mountEnds s))
    runWaiting (tellCutFlush (mountTells f (restoreCounters (relocateBad (mountResumes u)))))) := by
  unfold mountDone
  rw [if_neg (not_not.2 hm)]
  extract_lets a b s0 s1 s2 ga gb s3 s4 epoch s5 s6 s7 s8
  have ends : s2 = mountEnds s := rfl
  have copies : s3 = mountCopies ga gb s2 := rfl
  have erases : s4 = mountErases f (a && b && (ga != gb)) s3 := rfl
  have resumes : s5 = mountResumes s4 := rfl
  have counters : s6 = restoreCounters (relocateBad s5) := rfl
  have tells : s7 = mountTells f s6 := rfl
  have flush : s8 = tellCutFlush s7 := rfl
  rw [if_neg (not_not.2 (Bool.or_eq_true_iff.2 hab)), flush, tells, counters, resumes, erases, copies, ends]

end
end
end

/-- Settles O58: an operation by what the flash answered for it, the mount by the channels it finds, and each timer by its instant. -/
theorem ledgerRows : Obligations.LedgerRows := by
  refine ⟨fun t res s j rest op ops hu hj ho => ?_, fun t f s hm => ?_,
    fun t s h => congrArg Host.Outcome.next (rebuildDone_whole (s := advance t s) h), fun t s h => ?_, fun t r s => ⟨fun h => ?_, fun h => ?_⟩,
    fun t s h hd => congrArg Host.Outcome.next (ledgerScrub_due (s := advance t s) h hd), fun k s => rfl⟩
  · refine ⟨fun hA hB hv hea heb => ?_, fun he => ?_, fun ha hb hA hB hea heb => ?_, fun k id hA hB hv he hr hea heb hs hk => ?_⟩
    · have row : exec (.flashOpComplete t res) s = _ := congrArg Host.Outcome.next (flashOp_taken (s := advance t s) hu hj ho hA hB hv)
      exact ⟨fun hov => row.trans (congrArg Host.Outcome.next (if_neg (ne_true_of_eq_false hov))),
        fun hov => row.trans (congrArg Host.Outcome.next (if_pos hov))⟩
    · exact congrArg Host.Outcome.next (flashOp_error (s := advance t s) hu hj ho he)
    · rw [ha, hb, hA, hB]
      exact channelErrors_failsA (s := advance t s) ha hb hea
    · exact congrArg Host.Outcome.next (flashOp_unequal (s := advance t s) hu hj ho hA hB hv he hr hs hk)
  · intro a b u0 u1 u2
    refine ⟨fun ha hb => congrArg Host.Outcome.next (mountDone_failed (s := advance t s) hm ha hb), fun hab => ?_⟩
    intro ga gb u3 u4 old u5 u6 u7
    have row : exec (.ledgerMountComplete t f) s = _ := congrArg Host.Outcome.next (mountDone_mounts (s := advance t s) hm hab)
    have ends : mountEnds (advance t s) = u2 := rfl
    have copies : mountCopies ga gb u2 = u3 := rfl
    have erases : mountErases f (a && b && (ga != gb)) u3 = u4 := rfl
    have resumes : mountResumes u4 = u5 := rfl
    have counters : restoreCounters (relocateBad u5) = u6 := rfl
    have tells : mountTells f u6 = u7 := rfl
    refine row.trans ?_
    show Host.Outcome.next (runWaiting (tellCutFlush (mountTells f (restoreCounters (relocateBad (mountResumes
      (mountErases f (a && b && (ga != gb)) (mountCopies ga gb (mountEnds (advance t s)))))))))) = _
    rw [ends, copies, erases, resumes, counters, tells]
    rfl
  · have row : exec (.countersSave t) s = _ := congrArg Host.Outcome.next (countersSave_up (s := advance t s) h)
    refine ⟨fun v hv => row.trans ?_, fun hv => row.trans ?_⟩
    · rw [appendRecord_some (p := (advance t s).l.cnt.bytes) hv]
      rfl
    · rw [appendRecord_none (p := (advance t s).l.cnt.bytes) hv]
      rfl
  · exact congrArg Host.Outcome.next (nonceExpiry_read (s := advance t s) h)
  · exact congrArg Host.Outcome.next (authHoldEnd_held (s := advance t s) h)

end Sys2Proof.Machine
end
